-- ==== Sys2Proof/Word.lean ====
section
/-! DEFINITION. The machine's plain words: bytes, instruction words, registers, and the one-bit and
five-bit fields of which an instruction word is made (R152 to R154). -/

namespace Sys2Proof

/-- One byte of memory. -/
abbrev Byte := BitVec 8

/-- One instruction word (R153): 32 bits, little-endian in memory. -/
abbrev Word := BitVec 32

/-- A scalar register, a CSR, a virtual address in a register (R152, R27). -/
abbrev Reg64 := BitVec 64

/-- One bit of an instruction word. -/
abbrev Bit := BitVec 1

/-- A register field of five bits (R152). -/
abbrev Fld5 := BitVec 5

end Sys2Proof
end

