-- ==== Sys2Proof/Syntax.lean ====
section
/-! DEFINITION. The instructions as syntax: the fields of every format (R152 to R161, Table 8.2) and one
constructor for every row of the opcode table. Which field values a word may carry is WellFormed's matter;
what they mean is the machine's. -/

namespace Sys2Proof

/-- REG format with a guard (R154): two register sources with their trap bits. -/
structure RegG where
  d : Fld5
  a : Fld5
  b : Fld5
  ta : Bit
  tb : Bit
  g : BitVec 3
  deriving DecidableEq, Repr

/-- REG format with a guard and one register source (B and TB are zero). -/
structure UnG where
  d : Fld5
  a : Fld5
  ta : Bit
  g : BitVec 3
  deriving DecidableEq, Repr

/-- I and M formats: an 11-bit immediate (R154). -/
structure ImmG where
  d : Fld5
  a : Fld5
  imm : BitVec 11
  ta : Bit
  g : BitVec 3
  deriving DecidableEq, Repr

/-- Immediate shifts of major 8 (R184): a six-bit amount. -/
structure ShG where
  d : Fld5
  a : Fld5
  sh : BitVec 6
  ta : Bit
  g : BitVec 3
  deriving DecidableEq, Repr

/-- U format: lui and adpc (R185). -/
structure UF where
  d : Fld5
  imm : BitVec 20
  deriving DecidableEq, Repr

/-- L format with its literal word (R165). -/
structure LitF where
  d : Fld5
  g : BitVec 3
  lit : Word
  deriving DecidableEq, Repr

/-- BR format: branches and vloop (R187, R197). -/
structure BrF where
  a : Fld5
  b : Fld5
  off : BitVec 12
  deriving DecidableEq, Repr

/-- J format (R188). -/
structure JmpF where
  off : BitVec 22
  g : BitVec 3
  deriving DecidableEq, Repr

/-- BR format of loop: B and COND are zero (R190). -/
structure LoopF where
  a : Fld5
  off : BitVec 12
  deriving DecidableEq, Repr

/-- VSET format: destination, source (register or queue) and VTYPE10 (R195, R154). -/
structure VSetF where
  d : Fld5
  a : Fld5
  sew : BitVec 2
  grp : BitVec 2
  fz : Bit
  fh : Bit
  deriving DecidableEq, Repr

/-- Vector REG and VM formats with two sources and a mask (R242, R221). -/
structure VReg where
  c : Bit
  d : Fld5
  a : Fld5
  b : Fld5
  ta : Bit
  tb : Bit
  m : BitVec 3
  deriving DecidableEq, Repr

/-- Vector REG and VM formats with one source and a mask: B and TB are zero. -/
structure VUn where
  c : Bit
  d : Fld5
  a : Fld5
  ta : Bit
  m : BitVec 3
  deriving DecidableEq, Repr

/-- vmov from a stream: B = 0b100NN, A = 0 (R19). -/
structure VStr where
  c : Bit
  d : Fld5
  n : BitVec 2
  m : BitVec 3
  deriving DecidableEq, Repr

/-- VMASK with two predicate sources (R250). -/
structure PReg where
  c : Bit
  d : Fld5
  a : Fld5
  b : Fld5
  m : BitVec 3
  deriving DecidableEq, Repr

/-- VMASK with one predicate source (R250). -/
structure PUn where
  c : Bit
  d : Fld5
  a : Fld5
  m : BitVec 3
  deriving DecidableEq, Repr

/-- pset, viota and vord: a destination and a mask (R250, R259). -/
structure VZero where
  c : Bit
  d : Fld5
  m : BitVec 3
  deriving DecidableEq, Repr

/-- vcvtff, vquant and vdequant: B carries a code (R257, R258). -/
structure VCode where
  c : Bit
  d : Fld5
  a : Fld5
  b : Fld5
  ta : Bit
  m : BitVec 3
  deriving DecidableEq, Repr

/-- vldb and vstb: j is bit 5 of the tile number (R226). -/
structure VBench where
  c : Bit
  d : Fld5
  a : Fld5
  b : Fld5
  j : Bit
  tb : Bit
  m : BitVec 3
  deriving DecidableEq, Repr

/-- vsc: p is the result predicate (R229). -/
structure VscF where
  c : Bit
  d : Fld5
  a : Fld5
  b : Fld5
  p : Fld5
  ta : Bit
  tb : Bit
  m : BitVec 3
  deriving DecidableEq, Repr

/-- VIMM format (R244). -/
structure VImm where
  c : Bit
  d : Fld5
  a : Fld5
  imm : BitVec 8
  m : BitVec 3
  deriving DecidableEq, Repr

/-- VIMM shifts: bits 7:6 of the immediate are zero (R244). -/
structure VShImm where
  c : Bit
  d : Fld5
  a : Fld5
  sh : BitVec 6
  m : BitVec 3
  deriving DecidableEq, Repr

/-- An instruction whose only field is its guard. -/
structure GF where
  g : BitVec 3
  deriving DecidableEq, Repr

/-- xfence: the earlier and the later class (R121). -/
structure ClsG where
  a : Fld5
  b : Fld5
  g : BitVec 3
  deriving DecidableEq, Repr

/-- phend: a scope code (R101). -/
structure ScopeG where
  a : Fld5
  g : BitVec 3
  deriving DecidableEq, Repr

/-- A destination and one field of another kind (a scope, a stream, a handle, a tile). -/
structure DAG where
  d : Fld5
  a : Fld5
  g : BitVec 3
  deriving DecidableEq, Repr

/-- Two register sources and no destination (waitge, waitne, seatp, seatx). -/
structure ABG where
  a : Fld5
  b : Fld5
  ta : Bit
  tb : Bit
  g : BitVec 3
  deriving DecidableEq, Repr

/-- lace: f is the table tile (R264). -/
structure LaceF where
  d : Fld5
  a : Fld5
  b : Fld5
  f : Fld5
  ta : Bit
  tb : Bit
  g : BitVec 3
  deriving DecidableEq, Repr

/-- One field D (a stream, a handle, a scalar destination) and a guard. -/
structure DG where
  d : Fld5
  g : BitVec 3
  deriving DecidableEq, Repr

/-- sadv: a stream and a register (R270). -/
structure SadvF where
  d : Fld5
  b : Fld5
  tb : Bit
  g : BitVec 3
  deriving DecidableEq, Repr

/-- cpy.in and cpy.inp: k is the follow-on bit, j bit 5 of the tile number (R271). -/
structure CpyInF where
  d : Fld5
  a : Fld5
  b : Fld5
  k : Bit
  j : Bit
  ta : Bit
  tb : Bit
  g : BitVec 3
  deriving DecidableEq, Repr

/-- cpy.out and cpy.peer: A is the tile, j its bit 5 (R271). -/
structure CpyOutF where
  d : Fld5
  a : Fld5
  b : Fld5
  j : Bit
  tb : Bit
  g : BitVec 3
  deriving DecidableEq, Repr

/-- tdef (R280). -/
structure TdefF where
  d : Fld5
  a : Fld5
  j : Bit
  ta : Bit
  g : BitVec 3
  deriving DecidableEq, Repr

/-- tfree, twait and tready: D is the tile (R279). -/
structure TileF where
  d : Fld5
  j : Bit
  g : BitVec 3
  deriving DecidableEq, Repr

/-- tstat: A is the tile (R279). -/
structure TstatF where
  d : Fld5
  a : Fld5
  j : Bit
  g : BitVec 3
  deriving DecidableEq, Repr

/-- mma: x and y are bit 5 of the two tile numbers (R281). -/
structure MmaF where
  d : Fld5
  a : Fld5
  b : Fld5
  x : Bit
  y : Bit
  deriving DecidableEq, Repr

/-- mmav: k is the block of 128 cells (R281). -/
structure MmavF where
  d : Fld5
  a : Fld5
  b : Fld5
  k : BitVec 3
  x : Bit
  y : Bit
  deriving DecidableEq, Repr

/-- xchg: x is bit 5 of tile D, y of tile A (R285). -/
structure XchgF where
  d : Fld5
  a : Fld5
  b : Fld5
  y : Bit
  x : Bit
  tb : Bit
  g : BitVec 3
  deriving DecidableEq, Repr

/-- Three fields and a guard, no trap bit (CSR instructions, sq.mom, sq.resn). -/
structure DABG where
  d : Fld5
  a : Fld5
  b : Fld5
  g : BitVec 3
  deriving DecidableEq, Repr

/-- A query with a register source in B (sq.qh, sq.cms, sq.vacc). -/
structure DABtG where
  d : Fld5
  a : Fld5
  b : Fld5
  tb : Bit
  g : BitVec 3
  deriving DecidableEq, Repr

/-- qtab and qseed (R319): no destination, no mask. -/
structure ABF where
  a : Fld5
  b : Fld5
  ta : Bit
  tb : Bit
  deriving DecidableEq, Repr

/-- seatw, seatr and seatf (R329). -/
structure SeatA where
  a : Fld5
  ta : Bit
  g : BitVec 3
  deriving DecidableEq, Repr

/-- rep (R166): n1 is n − 1, the three bits say which fields are staggered. -/
structure RepF where
  n1 : Fld5
  cnt : Fld5
  stag : Fld5
  md : Bit
  ma : Bit
  mb : Bit
  deriving DecidableEq, Repr

/-- trap and brk: a code in B (R175). -/
structure CodeG where
  b : Fld5
  g : BitVec 3
  deriving DecidableEq, Repr

/-! ## Steps of the device that no instruction word names

The opcode table lists them with the instructions. Their fields are what the step's environment
decides: which hand, command or unit it concerns, and the data that arrive from outside. -/

/-- A control record of the control queue (R401): its SEQ, whether a reserved byte of it is nonzero, and whether the action of a RESOLVE or
the function of a DEBUG that it names is none of the table's. -/
structure Ctl where
  seq : Reg64
  resv : Bool
  unknown : Bool
  deriving DecidableEq, Repr

/-- One instance of one task (R91), by the number of the task's dispatch. -/
structure InstEv where
  task : Nat
  scope : Nat
  unit : Nat
  deriving DecidableEq, Repr

/-- A copy command: its hand, its sequence number, for cpy.peer the status the remote device answers
(0x00 when it took the data), and for landings how many more positions of the sweep are performed. A copy that arrives from another
device has 2^32 and its place among those that arrive in place of a hand. -/
structure CmdEv where
  hand : Nat
  n : Reg64
  remote : Byte
  count : Nat
  deriving DecidableEq, Repr

/-- A shape record's sweep as it crosses to a remote device (R262, R277). -/
structure SweepF where
  base : Reg64
  d0 : Nat
  d1 : Nat
  d2 : Nat
  s0 : Int
  s1 : Int
  s2 : Int
  esize : Nat
  deriving DecidableEq, Repr

/-- A copy that arrives from another device (R277): the sender, the issuing hand's task as this device numbers it
(0 when it runs no hand here), and what R60 and R124 need of the command: the member and phase epoch of its hand, its place
among the member's writes, and the writes that precede it, by the clock of the task. -/
structure PeerF where
  src : Nat
  task : Nat
  member : Nat
  epoch : Nat
  seq : Nat
  prec : List (Nat × Nat)
  asid : BitVec 16
  kind : Byte
  tile : Nat
  core : Nat
  roff : Reg64
  cwa : Reg64
  n : Reg64
  sweep : SweepF
  bytes : List Byte
  deriving DecidableEq, Repr

/-- A matrix job of a hand: how many residue mismatches the array met, and the group at which a third
mismatch stopped the job, when one did (R283). -/
structure JobEv where
  hand : Nat
  misses : Nat
  stop : Option Nat
  deriving DecidableEq, Repr

/-- One entry of a list that a hand keeps (an outstanding producer, an unacknowledged store). -/
structure EntryEv where
  hand : Nat
  idx : Nat
  deriving DecidableEq, Repr

/-- A hand's running time as its watchdog finds it (R352, R353). -/
structure DogEv where
  hand : Nat
  cycles : Reg64
  deriving DecidableEq, Repr

/-- A window's end: the field and the current it drew (R349). -/
structure WinEv where
  field : Nat
  draw : BitVec 32
  deriving DecidableEq, Repr

/-- A failed bank (R64): 0 bench, 1 summary store, 2 vector registers, 3 strip store buffers of core
unit; 4 a field cache slice, unit = field × 16 + slice. -/
structure BankEv where
  kind : Nat
  unit : Nat
  bank : Nat
  deriving DecidableEq, Repr

/-- Two numbers of the step's own: a core and a cluster, a field and its outcome, two fields. -/
structure PairEv where
  a : Nat
  b : Nat
  deriving DecidableEq, Repr

/-- A firmware image (R402): header, public key, signature, security version, body. -/
structure Image where
  header : List Byte
  key : List Byte
  signature : List Byte
  version : Nat
  body : List Byte
  deriving DecidableEq, Repr

/-- What the boot flash holds at a reset: the first-stage image and those of the later stages, each verified by the one before it
(R402); and whether Dudel recording or replay starts at this reset (R393, R394). -/
structure BootEv where
  images : List Image
  record : Bool
  replay : Bool
  deriving DecidableEq, Repr

/-- A step of a field's bring-up: the field, and whether it passed (R411). -/
structure FieldEv where
  field : Nat
  ok : Bool
  stk : BitVec 2
  deriving DecidableEq, Repr

/-- A queue's register block as the host writes it before EN = 1 (R399). -/
structure QueueEv where
  q : Nat
  rbase : Reg64
  sbase : Reg64
  log2n : Byte
  asid : BitVec 16
  mode : Byte
  vmaj : Byte
  vmin : Byte
  resv : Bool
  deriving DecidableEq, Repr

/-- A TAIL write (R399). -/
structure TailEv where
  q : Nat
  tail : Reg64
  deriving DecidableEq, Repr

/-- A write of one byte to the register space above HBM4E (R396). -/
structure RegWriteEv where
  addr : Nat
  val : Byte
  deriving DecidableEq, Repr

/-- ASID-LOAD, ATTEST's address, and other one-argument commands (R401). -/
structure CtlArg where
  c : Ctl
  v : Reg64
  deriving DecidableEq, Repr

/-- INVALIDATE (R39). -/
structure InvF where
  c : Ctl
  asid : BitVec 16
  whole : Bool
  base : Reg64
  limit : Reg64
  deriving DecidableEq, Repr

/-- CTX-REGION and DUDEL-REGION (R364, R393). -/
structure RegionF where
  c : Ctl
  asid : BitVec 16
  base : Reg64
  size : Reg64
  deriving DecidableEq, Repr

/-- OBJ-OWNER (R324). -/
structure OwnerF where
  c : Ctl
  first : Nat
  last : Nat
  asid : BitVec 16
  deriving DecidableEq, Repr

/-- Two-argument commands: SET-FLIM, SET-TIMEOUT, TILE-RESET (R351, R367, R70). -/
structure Ctl2 where
  c : Ctl
  a : Nat
  b : Nat
  deriving DecidableEq, Repr

/-- A strip breakpoint (R390): the hand, its index 0 to 3, the address, and the STRIP when one is named. -/
structure BreakF where
  c : Ctl
  hand : Nat
  idx : Nat
  addr : Reg64
  strip : Option Reg64
  deriving DecidableEq, Repr

/-- A watchpoint (R390): a byte range, and whether reads and writes match. -/
structure WatchF where
  c : Ctl
  hand : Nat
  idx : Nat
  base : Reg64
  size : Nat
  onRead : Bool
  onWrite : Bool
  deriving DecidableEq, Repr

/-- GANG-SET (R406). -/
structure GangF where
  c : Ctl
  queue : Nat
  devices : List Nat
  deriving DecidableEq, Repr

/-- REDUCE (R407). -/
structure ReduceF where
  c : Ctl
  group : Nat
  member : Nat
  src : Reg64
  dst : Reg64
  cw : Reg64
  deriving DecidableEq, Repr

/-- MCAST (R408). -/
structure McastF where
  c : Ctl
  group : Nat
  src : Reg64
  size : Nat
  dstOff : Reg64
  cw : Reg64
  deriving DecidableEq, Repr

/-- ATTEST (R403). -/
structure AttestF where
  c : Ctl
  nonce : BitVec 256
  addr : Reg64
  deriving DecidableEq, Repr

/-- What a debugger writes (R366): a scalar register, the bytes of a vector register from an offset on,
or a read-write CSR. -/
inductive DbgTarget where
  | scalar (r : Fld5) (v : Reg64)
  | vector (r : Fld5) (off : Nat) (bytes : List Byte)
  | csr (n : BitVec 10) (v : Reg64)
  deriving DecidableEq, Repr

/-- A debugger's write to a stopped hand (R366). -/
structure DbgWrite where
  hand : Nat
  target : DbgTarget
  deriving DecidableEq, Repr

/-- An endpoint's request on a root port (R397): none for a read of `len` bytes. -/
structure InboundF where
  port : Nat
  addr : Nat
  len : Nat
  data : Option (List Byte)
  deriving DecidableEq, Repr

/-- What a port's partner offers in training (R404). -/
structure TrainF where
  port : Nat
  major : Byte
  minor : Byte
  number : Nat
  deriving DecidableEq, Repr

/-- A message of a gang launch: the node sequence number of the gang node here, and the GANGIX it comes from or names (R367). -/
structure GangEv where
  node : Nat
  ix : Nat
  deriving DecidableEq, Repr

/-- The switch's answer to a reduction or a multicast (R368, R407, R408): the records that the other members contribute, and for
a multicast the address that the group's mapping on this device gives its destination offset from (none: this device is no member
that took it). -/
structure SwitchEv where
  id : Nat
  seq : Reg64
  member : Nat
  count : Nat
  others : List (List Byte)
  base : Option Nat
  deriving DecidableEq, Repr

/-- What arrives at a port (R393): the data of a write, a copy from another device, the answer to a copy of this device's, the switch's
answer, its word that a reduction failed, and a gang's acceptance or abort. -/
inductive Arriving where
  | data (l : List Byte)
  | copy (f : PeerF)
  | answer (e : CmdEv)
  | switch (e : SwitchEv)
  | timeout (e : SwitchEv)
  | accept (e : GangEv)
  | abort (e : GangEv)
  deriving DecidableEq, Repr

/-- A logged arrival or entropy value that replay delivers (R394), and what arrives, which the log does not hold. -/
structure ReplayEv where
  kind : Byte
  source : BitVec 16
  stamp : Reg64
  payload : List Byte
  what : Arriving
  deriving DecidableEq, Repr

/-- A system core's access (R128): by virtual address in an ASID, or by physical address (where its thread's ASID does not stand
for both, R395); none to load, or to fetch an instruction; the register of the core that a load fills, whether it is a
floating-point one and whether the load extends a sign (RV64GC), and what an endpoint answers to a load from a root-port window (R396). -/
structure SysAccF where
  core : Nat
  asid : Option (BitVec 16)
  addr : Reg64
  len : Nat
  data : Option (List Byte)
  fetch : Bool
  reg : Fld5
  float : Bool
  signed : Bool
  answer : List Byte
  deriving DecidableEq, Repr

/-- One constructor per row of spec/opcode_table.json: the instruction words of Table 8.5 and R165, then the
steps of the device that have no word. -/
inductive Instr where
  /-- Scalar add of x[A] and x[B] modulo 2^64 into x[D] (R181). -/
  | add (f : RegG)
  /-- Scalar subtract x[A] minus x[B] into x[D] (R181). -/
  | sub (f : RegG)
  /-- Bitwise AND of two scalar registers (R181). -/
  | and (f : RegG)
  /-- Bitwise OR of two scalar registers (R181). -/
  | or (f : RegG)
  /-- Bitwise XOR of two scalar registers (R181). -/
  | xor (f : RegG)
  /-- x[A] AND NOT x[B] into x[D] (R181). -/
  | andn (f : RegG)
  /-- Shift left logical by x[B][5:0] (R181). -/
  | sll (f : RegG)
  /-- Shift right logical by x[B][5:0] (R181). -/
  | srl (f : RegG)
  /-- Shift right arithmetic by x[B][5:0] (R181). -/
  | sra (f : RegG)
  /-- Rotate left by x[B][5:0] (R181). -/
  | rotl (f : RegG)
  /-- Rotate right by x[B][5:0] (R181). -/
  | rotr (f : RegG)
  /-- Low 64 bits of the product (R181). -/
  | mul (f : RegG)
  /-- High 64 bits of the signed 128-bit product (R181). -/
  | mulh (f : RegG)
  /-- High 64 bits of the unsigned 128-bit product (R181). -/
  | mulhn (f : RegG)
  /-- Signed division toward zero, never trapping (R182). -/
  | div (f : RegG)
  /-- Unsigned division, never trapping (R182). -/
  | divn (f : RegG)
  /-- Signed remainder with the sign of a (R182). -/
  | rem (f : RegG)
  /-- Unsigned remainder (R182). -/
  | remn (f : RegG)
  /-- 1 when x[A] < x[B] signed, else 0 (R181). -/
  | slt (f : RegG)
  /-- 1 when x[A] < x[B] unsigned, else 0 (R181). -/
  | sltn (f : RegG)
  /-- Signed minimum (R181). -/
  | min (f : RegG)
  /-- Signed maximum (R181). -/
  | max (f : RegG)
  /-- Unsigned minimum (R181). -/
  | minn (f : RegG)
  /-- Unsigned maximum (R181). -/
  | maxn (f : RegG)
  /-- Leading zeros of x[A] (R181). -/
  | clz (f : UnG)
  /-- Trailing zeros of x[A] (R181). -/
  | ctz (f : UnG)
  /-- Set bits of x[A] (R181). -/
  | popc (f : UnG)
  /-- 32-bit add sign-extended to 64 bits (R181). -/
  | addw (f : RegG)
  /-- 32-bit subtract sign-extended to 64 bits (R181). -/
  | subw (f : RegG)
  /-- Sign-extend byte of x[A] (R181). -/
  | sextb (f : UnG)
  /-- Sign-extend halfword of x[A] (R181). -/
  | sexth (f : UnG)
  /-- Sign-extend word of x[A] (R181). -/
  | sextw (f : UnG)
  /-- x[A] plus sign-extended IMM11 (R183). -/
  | addi (f : ImmG)
  /-- x[A] AND sign-extended IMM11 (R183). -/
  | andi (f : ImmG)
  /-- x[A] OR sign-extended IMM11 (R183). -/
  | ori (f : ImmG)
  /-- x[A] XOR sign-extended IMM11 (R183). -/
  | xori (f : ImmG)
  /-- 1 when x[A] < imm signed (R183). -/
  | slti (f : ImmG)
  /-- 1 when x[A] < sign-extended imm as N64 (R183). -/
  | sltni (f : ImmG)
  /-- Shift left logical by an immediate amount (R184). -/
  | slli (f : ShG)
  /-- Shift right logical by an immediate amount (R184). -/
  | srli (f : ShG)
  /-- Shift right arithmetic by an immediate amount (R184). -/
  | srai (f : ShG)
  /-- Load sign-extended IMM20 shifted left by 12 (R185). -/
  | lui (f : UF)
  /-- Add sign-extended IMM20 × 4096 to the instruction address (R185). -/
  | adpc (f : UF)
  /-- Write the sign-extended trailing literal to x[D] (R186). -/
  | lit (f : LitF)
  /-- Write the trailing literal to the upper half of x[D] (R186). -/
  | lith (f : LitF)
  /-- Load signed byte (R219). -/
  | ldb (f : ImmG)
  /-- Load signed halfword (R219). -/
  | ldh (f : ImmG)
  /-- Load signed word (R219). -/
  | ldw (f : ImmG)
  /-- Load doubleword (R219). -/
  | ldd (f : ImmG)
  /-- Load unsigned byte (R219). -/
  | ldbn (f : ImmG)
  /-- Load unsigned halfword (R219). -/
  | ldhn (f : ImmG)
  /-- Load unsigned word (R219). -/
  | ldwn (f : ImmG)
  /-- Store byte of x[D] (R219). -/
  | stb (f : ImmG)
  /-- Store halfword of x[D] (R219). -/
  | sth (f : ImmG)
  /-- Store word of x[D] (R219). -/
  | stw (f : ImmG)
  /-- Store doubleword x[D] (R219). -/
  | std (f : ImmG)
  /-- Branch when x[A] = x[B] (R187). -/
  | beq (f : BrF)
  /-- Branch when x[A] ≠ x[B] (R187). -/
  | bne (f : BrF)
  /-- Branch when x[A] < x[B] signed (R187). -/
  | blt (f : BrF)
  /-- Branch when x[A] ≥ x[B] signed (R187). -/
  | bge (f : BrF)
  /-- Branch when x[A] < x[B] unsigned (R187). -/
  | bltn (f : BrF)
  /-- Branch when x[A] ≥ x[B] unsigned (R187). -/
  | bgen (f : BrF)
  /-- PC-relative jump by OFF22 words (R188). -/
  | jmp (f : JmpF)
  /-- Write return address to x31 and jump (R188). -/
  | jal (f : JmpF)
  /-- Jump to x[A] + imm, writing the return address to x[D] (R188). -/
  | jalr (f : ImmG)
  /-- Push a counted loop on the loop stack or skip the body when the count is zero (R190). -/
  | loop (f : LoopF)
  /-- Subtract the grant from the remainder and loop back or fall through into a continuation strip (R197). -/
  | vloop (f : BrF)
  /-- Compute the grant from a scalar remainder and open a new strip (R195). -/
  | vsetl (f : VSetF)
  /-- Pop the remainder from a length queue, compute the grant and open a new strip (R195). -/
  | vsetlq (f : VSetF)
  /-- Element-wise integer add (R243). -/
  | vadd (f : VReg)
  /-- Element-wise integer subtract (R243). -/
  | vsub (f : VReg)
  /-- Element-wise AND (R243). -/
  | vand (f : VReg)
  /-- Element-wise OR (R243). -/
  | vor (f : VReg)
  /-- Element-wise XOR (R243). -/
  | vxor (f : VReg)
  /-- Element-wise shift left (R243). -/
  | vsll (f : VReg)
  /-- Element-wise shift right logical (R243). -/
  | vsrl (f : VReg)
  /-- Element-wise shift right arithmetic (R243). -/
  | vsra (f : VReg)
  /-- Low SEW bits of the element product (R243). -/
  | vmul (f : VReg)
  /-- High SEW bits of the signed element product (R243). -/
  | vmulh (f : VReg)
  /-- High SEW bits of the unsigned element product (R243). -/
  | vmulhn (f : VReg)
  /-- Element-wise signed minimum (R243). -/
  | vmin (f : VReg)
  /-- Element-wise signed maximum (R243). -/
  | vmax (f : VReg)
  /-- Element-wise unsigned minimum (R243). -/
  | vminn (f : VReg)
  /-- Element-wise unsigned maximum (R243). -/
  | vmaxn (f : VReg)
  /-- Signed saturating add, setting SAT on clamp (R243). -/
  | vsadd (f : VReg)
  /-- Unsigned saturating add (R243). -/
  | vsaddn (f : VReg)
  /-- Signed saturating subtract (R243). -/
  | vssub (f : VReg)
  /-- Unsigned saturating subtract (R243). -/
  | vssubn (f : VReg)
  /-- Wrapping increment: 0 when a ≥ b, else a + 1 (R243). -/
  | vincw (f : VReg)
  /-- Bounded add of a to d while the sum stays within b (R243). -/
  | vaddb (f : VReg)
  /-- Element-wise absolute value (R243). -/
  | vabs (f : VUn)
  /-- Element-wise leading zeros (R243). -/
  | vclz (f : VUn)
  /-- Element-wise population count (R243). -/
  | vpopc (f : VUn)
  /-- Select a or b per element by the predicate, writing every element below VL (R243). -/
  | vsel (f : VReg)
  /-- Copy vector vA to vD (R243). -/
  | vmov (f : VUn)
  /-- Pop VL elements of a stream through its chain into vD (R267). -/
  | vmovStream (f : VStr)
  /-- Float add rounded once in the captured mode (R245). -/
  | vfadd (f : VReg)
  /-- Float subtract (R245). -/
  | vfsub (f : VReg)
  /-- Float multiply (R245). -/
  | vfmul (f : VReg)
  /-- Float divide, correctly rounded (R245). -/
  | vfdiv (f : VReg)
  /-- Float square root, correctly rounded (R201). -/
  | vfsqrt (f : VUn)
  /-- Float reciprocal square root, correctly rounded (R201). -/
  | vfrsqrt (f : VUn)
  /-- Float 2^a, correctly rounded (R201). -/
  | vfexp2 (f : VUn)
  /-- Float log2 a, correctly rounded (R201). -/
  | vflog2 (f : VUn)
  /-- Float minimum, NaN-avoiding, −0 below +0 (R246). -/
  | vfmin (f : VReg)
  /-- Float maximum, NaN-avoiding (R246). -/
  | vfmax (f : VReg)
  /-- Float absolute value (R245). -/
  | vfabs (f : VUn)
  /-- Float negate (R245). -/
  | vfneg (f : VUn)
  /-- Magnitude of a with the sign bit of b (R245). -/
  | vfsgn (f : VReg)
  /-- One-hot class of each float element (R247). -/
  | vfclass (f : VUn)
  /-- Fused a × b + d (R245). -/
  | vfma (f : VReg)
  /-- Fused a × b − d (R245). -/
  | vfms (f : VReg)
  /-- Fused d − a × b (R245). -/
  | vfnma (f : VReg)
  /-- Widening signed multiply-accumulate (R248). -/
  | vwmac (f : VReg)
  /-- Widening unsigned multiply-accumulate (R248). -/
  | vwmacn (f : VReg)
  /-- Widening signed × unsigned multiply-accumulate (R248). -/
  | vwmacsn (f : VReg)
  /-- Widening signed multiply (R248). -/
  | vwmul (f : VReg)
  /-- Widening unsigned multiply (R248). -/
  | vwmuln (f : VReg)
  /-- Widening signed add (R248). -/
  | vwadd (f : VReg)
  /-- Widening unsigned add (R248). -/
  | vwaddn (f : VReg)
  /-- Integer equal compare into a predicate (R249). -/
  | vceq (f : VReg)
  /-- Integer not-equal compare (R249). -/
  | vcne (f : VReg)
  /-- Signed less-than compare (R249). -/
  | vclt (f : VReg)
  /-- Signed less-or-equal compare (R249). -/
  | vcle (f : VReg)
  /-- Unsigned less-than compare (R249). -/
  | vcltn (f : VReg)
  /-- Unsigned less-or-equal compare (R249). -/
  | vclen (f : VReg)
  /-- Float equal compare (R249). -/
  | vfceq (f : VReg)
  /-- Float less-than compare (R249). -/
  | vfclt (f : VReg)
  /-- Float less-or-equal compare (R249). -/
  | vfcle (f : VReg)
  /-- Float unordered compare (R249). -/
  | vfcun (f : VReg)
  /-- Predicate AND (R250). -/
  | pand (f : PReg)
  /-- Predicate OR (R250). -/
  | por (f : PReg)
  /-- Predicate XOR (R250). -/
  | pxor (f : PReg)
  /-- Predicate A AND NOT B (R250). -/
  | pandn (f : PReg)
  /-- Predicate NOT (R250). -/
  | pnot (f : PUn)
  /-- Set active predicate positions (R250). -/
  | pset (f : VZero)
  /-- Count active set positions into x[D] (R250). -/
  | ppopc (f : PUn)
  /-- Lowest active set position, or −1 (R250). -/
  | pfirst (f : PUn)
  /-- Move the low 64 active predicate bits to x[D] (R250). -/
  | pmvx (f : PUn)
  /-- Push the ppopc count onto a length queue, waiting while full (R250). -/
  | vpopq (f : PUn)
  /-- Gather elements of vA by index vector (R251). -/
  | vperm (f : VReg)
  /-- Slide elements up by x[B] (R251). -/
  | vslup (f : VReg)
  /-- Slide elements down by x[B] (R251). -/
  | vsldn (f : VReg)
  /-- Broadcast element x[B] of vA (R251). -/
  | vbcast (f : VReg)
  /-- Transpose rows of length x[B] (R252). -/
  | vrshp (f : VReg)
  /-- Compress active elements to the front (R251). -/
  | vcomp (f : VUn)
  /-- Expand consecutive elements to active positions (R251). -/
  | vexpd (f : VUn)
  /-- Stable ascending key sort with payloads (R253). -/
  | vsortk (f : VReg)
  /-- Integer sum reduction into x[D] (R254). -/
  | vredadd (f : VUn)
  /-- Signed minimum reduction (R254). -/
  | vredmin (f : VUn)
  /-- Signed maximum reduction (R254). -/
  | vredmax (f : VUn)
  /-- Unsigned minimum reduction (R254). -/
  | vredminn (f : VUn)
  /-- Unsigned maximum reduction (R254). -/
  | vredmaxn (f : VUn)
  /-- Float sum by the fixed reduction tree (R204). -/
  | vfredadd (f : VUn)
  /-- Float minimum reduction (R255). -/
  | vfredmin (f : VUn)
  /-- Float maximum reduction (R255). -/
  | vfredmax (f : VUn)
  /-- Bitwise AND reduction (R254). -/
  | vredand (f : VUn)
  /-- Bitwise OR reduction (R254). -/
  | vredor (f : VUn)
  /-- Float to signed integer, clamping (R256). -/
  | vcvtfi (f : VUn)
  /-- Float to unsigned integer, clamping (R256). -/
  | vcvtfn (f : VUn)
  /-- Signed integer to float (R256). -/
  | vcvtif (f : VUn)
  /-- Unsigned integer to float (R256). -/
  | vcvtnf (f : VUn)
  /-- Narrow F32 to 16-bit float or widen 16-bit float to F32 (R257). -/
  | vcvtff (f : VCode)
  /-- Encode F32 elements as BXw blocks (R258). -/
  | vquant (f : VCode)
  /-- Decode BXw blocks to F32 elements (R258). -/
  | vdequant (f : VCode)
  /-- Broadcast x[A] to active elements (R259). -/
  | vsplat (f : VUn)
  /-- Insert x[A] at element x[B] (R259). -/
  | vins (f : VReg)
  /-- Extract element x[B] of vA to x[D] (R259). -/
  | vext (f : VReg)
  /-- Write the count of predicate bits below each position (R259). -/
  | viota (f : VZero)
  /-- Write each element's ordinal (R259). -/
  | vord (f : VZero)
  /-- Unit-stride vector load (R221). -/
  | vld (f : VUn)
  /-- Strided vector load (R221). -/
  | vlds (f : VReg)
  /-- Indexed vector gather (R221). -/
  | vldx (f : VReg)
  /-- Sweep load by a shape record (R224). -/
  | vldw (f : VReg)
  /-- Ticketed sequentially consistent unit-stride load (R225). -/
  | vldsq (f : VUn)
  /-- Linked gather reading live values and tagging lines (R228). -/
  | vgl (f : VReg)
  /-- Load elements from a bench tile (R226). -/
  | vldb (f : VBench)
  /-- Unit-stride vector store (R221). -/
  | vst (f : VUn)
  /-- Strided vector store (R221). -/
  | vsts (f : VReg)
  /-- Indexed vector scatter (R221). -/
  | vstx (f : VReg)
  /-- Sweep store by a shape record (R224). -/
  | vstw (f : VReg)
  /-- Ticketed sequentially consistent unit-stride store (R225). -/
  | vstsq (f : VUn)
  /-- Store elements into a bench tile (R226). -/
  | vstb (f : VBench)
  /-- Conditional linked scatter writing lines whose links are intact and a result predicate (R229). -/
  | vsc (f : VscF)
  /-- Order earlier scalar accesses before later vector accesses (R232). -/
  | fenceSv (f : GF)
  /-- Order earlier vector accesses before later scalar accesses (R232). -/
  | fenceVs (f : GF)
  /-- Order earlier vector accesses before later vector accesses (R232). -/
  | fenceVv (f : GF)
  /-- Order accesses of an earlier class before a later class (R121). -/
  | xfence (f : ClsG)
  /-- Drain, wait for acknowledgements and commands, arrive at the phase end of the scope instance and wait for it (R100). -/
  | phend (f : ScopeG)
  /-- When every member has arrived or retired, held stores are performed, bytes settled and members depart with refreshed snapshots
  (R94). -/
  | phaseEndComplete (e : InstEv)
  /-- Read the hand's own phase number of its instance at a scope (R103). -/
  | phase (f : DAG)
  /-- Wait until the live 64-bit value at x[A] is at least x[B] (R233). -/
  | waitge (f : ABG)
  /-- Wait until the live 64-bit value at x[A] differs from x[B] (R233). -/
  | waitne (f : ABG)
  /-- Advance the link serial, breaking the hand's links (R230). -/
  | unlink (f : GF)
  /-- Bind a stream to a shape record, chain word and optional table tile (R264). -/
  | lace (f : LaceF)
  /-- Unbind a stream (R270). -/
  | sunbind (f : DG)
  /-- Read a stream's position (R270). -/
  | spos (f : DAG)
  /-- Advance a stream's position and discard read-ahead (R270). -/
  | sadv (f : SadvF)
  /-- Change a stream's LUT table tile (R270). -/
  | stabl (f : DAG)
  /-- Issue a copy from a memory sweep into a row-layout tile (R271). -/
  | cpyIn (f : CpyInF)
  /-- Issue a copy from a memory sweep into a plane-layout tile (R271). -/
  | cpyInp (f : CpyInF)
  /-- Issue a copy from a tile to a memory sweep (R271). -/
  | cpyOut (f : CpyOutF)
  /-- Issue a copy from a local tile to remote memory or a remote tile (R277). -/
  | cpyPeer (f : CpyOutF)
  /-- Issue a copy from a memory sweep to contiguous memory (R271). -/
  | cpyMem (f : RegG)
  /-- A copy command ends: completion record written, tile states moved, CPYDONE advanced (R272). -/
  | copyCompletion (e : CmdEv)
  /-- The remote device checks a KIND 1 peer copy at its first flit and lands or refuses its bytes (R277). -/
  | peerDelivery (e : PeerF)
  /-- Write an EMPTY tile's entry (R280). -/
  | tdef (f : TdefF)
  /-- Return a READY tile to EMPTY after engine reads (R279). -/
  | tfree (f : TileF)
  /-- Wait while a tile is FILLING or DRAINING (R279). -/
  | twait (f : TileF)
  /-- Read a tile entry word (R279). -/
  | tstat (f : TstatF)
  /-- Make an EMPTY tile READY after the hand's vstb stores land (R279). -/
  | tready (f : TileF)
  /-- Queue a matrix job adding block products of two plane tiles into a TILEACC slot (R281). -/
  | mma (f : MmaF)
  /-- Queue a matrix-vector job into one block of a VACC slot (R281). -/
  | mmav (f : MmavF)
  /-- A queued or follow-on matrix job starts once its copy ended well and both tiles are READY (R278). -/
  | matrixJobStart (e : JobEv)
  /-- A matrix job finishes its groups and its contributions reach the slot (R281). -/
  | matrixJobComplete (e : JobEv)
  /-- Issue an all-to-all exchange member command (R285). -/
  | xchg (f : XchgF)
  /-- A block of an exchange round lands in a destination tile, advancing rounds and READY state (R286). -/
  | exchangeBlockLanding (e : Nat)
  /-- Declare and allocate a typed summary slot (R305). -/
  | sdecl (f : RegG)
  /-- Return a slot to the new state (R305). -/
  | sclr (f : DG)
  /-- Free a slot and its handle (R305). -/
  | sfree (f : DG)
  /-- Serialise a slot to memory (R306). -/
  | ssave (f : UnG)
  /-- Allocate a slot from a serialised record (R306). -/
  | sload (f : UnG)
  /-- Merge one slot into another of equal descriptor (R307). -/
  | smrg (f : DAG)
  /-- Merge a serialised record from memory into a slot (R306). -/
  | smrgm (f : UnG)
  /-- Read a slot's descriptor (R305). -/
  | stype (f : DAG)
  /-- Add active elements to a MOMENTS slot (R296). -/
  | supdMom (f : VUn)
  /-- Offer active elements to a RESERVOIR slot (R297). -/
  | supdRes (f : VUn)
  /-- Offer keyed elements to a TOPK slot (R298). -/
  | supdTopk (f : VReg)
  /-- Add weighted elements to a QHIST slot (R299). -/
  | supdQh (f : VReg)
  /-- Add weighted keys to a CMS slot (R300). -/
  | supdCms (f : VReg)
  /-- Add exact contributions of elements to accumulator cells (R301). -/
  | supdVacc (f : VReg)
  /-- Add exact products of element pairs to accumulator cells (R301). -/
  | supdVaccm (f : VReg)
  /-- Query a MOMENTS slot by code (R296). -/
  | sqMom (f : DABG)
  /-- Write a reservoir's kept values to v[D] (R309). -/
  | sqRes (f : DAG)
  /-- Query a reservoir's stored, offered or NaN count (R309). -/
  | sqResn (f : DABG)
  /-- Write a TOPK slot's keys and indices, best first (R309). -/
  | sqTopk (f : DAG)
  /-- Quantile query of a QHIST slot (R299). -/
  | sqQh (f : DABtG)
  /-- Frequency estimates for keys from a CMS slot (R300). -/
  | sqCms (f : DABtG)
  /-- Read accumulator cells rounded to F32 (R309). -/
  | sqVacc (f : DABtG)
  /-- Write a TILEACC's rounded cells into a tile (R310). -/
  | sqTile (f : DAG)
  /-- Read a slot's flags and NaN count (R309). -/
  | sqFlags (f : DAG)
  /-- Draw integer Dealer points for ordinals or indices (R320). -/
  | qdeal (f : VReg)
  /-- Draw Dealer points as F32 in [0, 1) (R320). -/
  | qdealf (f : VReg)
  /-- Bind a Dealer dimension to a 256-byte image (R321). -/
  | qtab (f : ABF)
  /-- Replace the shift of a bound Dealer dimension (R322). -/
  | qseed (f : ABF)
  /-- Enqueue a new seat on an object (R330). -/
  | seatq (f : UnG)
  /-- Wait until a held seat is OWNER and receive hand-off stores (R331). -/
  | seatw (f : SeatA)
  /-- Release a held OWNER seat (R332). -/
  | seatr (f : SeatA)
  /-- Fold a held seat, releasing it when OWNER (R332). -/
  | seatf (f : SeatA)
  /-- Pass a held seat to another hand's inbox (R333). -/
  | seatp (f : ABG)
  /-- Collect the oldest inbox seat, waiting while empty (R333). -/
  | seatin (f : DG)
  /-- Exchange queue positions of a held waiting seat and a later seat (R334). -/
  | seatx (f : ABG)
  /-- Read a seat's state and position (R335). -/
  | seatst (f : UnG)
  /-- Replay the next n words count times with staggered fields (R166). -/
  | rep (f : RepF)
  /-- Raise SOFTWARE-TRAP with a code (R175). -/
  | trap (f : CodeG)
  /-- Read a CSR into x[D] (R174). -/
  | csrr (f : DABG)
  /-- Write x[D] to a CSR (R174). -/
  | csrw (f : DABG)
  /-- Exchange x[D] and a CSR (R174). -/
  | csrx (f : DABG)
  /-- Wait for earlier work and held stores, then retire the hand (R177). -/
  | halt (f : GF)
  /-- Zero the hand's deficit, land a held pre-emption and clear vector state (R178). -/
  | yield (f : GF)
  /-- Raise BREAKPOINT with a code (R175). -/
  | brk (f : CodeG)
  /-- Return from handler mode, resuming a repeat frame where needed (R176). -/
  | rett (f : GF)
  /-- Pop the top loop-stack entry (R192). -/
  | lbrk (f : GF)
  /-- Submit a graph of node records and mark x[D] empty (R180). -/
  | spawn (f : RegG)
  /-- The pool fills the spawner's x[D] once it has checked the graph (R180). -/
  | spawnResult (e : Nat)
  /-- Do nothing (R179). -/
  | nop
  /-- Add sign-extended IMM8 to elements (R244). -/
  | vaddi (f : VImm)
  /-- AND elements with IMM8 (R244). -/
  | vandi (f : VImm)
  /-- OR elements with IMM8 (R244). -/
  | vori (f : VImm)
  /-- XOR elements with IMM8 (R244). -/
  | vxori (f : VImm)
  /-- Shift elements left by an immediate (R244). -/
  | vslli (f : VShImm)
  /-- Shift elements right logical by an immediate (R244). -/
  | vsrli (f : VShImm)
  /-- Shift elements right arithmetic by an immediate (R244). -/
  | vsrai (f : VShImm)
  /-- Signed minimum with an immediate (R244). -/
  | vmini (f : VImm)
  /-- Signed maximum with an immediate (R244). -/
  | vmaxi (f : VImm)
  /-- Compare elements equal to an immediate into a predicate (R244). -/
  | vceqi (f : VImm)
  /-- Data of an outstanding load or producer lands and fills its destination (R217). -/
  | loadLanding (e : EntryEv)
  /-- A node blocked for 2^20 cycles by lower priority requests pre-emption of a victim node (R345). -/
  | preemptionRequest (e : PairEv)
  /-- A pre-emption lands at a point, commits or rewinds, waits for commands and writes the context save area (R364). -/
  | preemptionLanding (e : Nat)
  /-- The pool restores a saved hand on a chosen core and slot (R365). -/
  | handResume (e : Nat)
  /-- CYC reaching a nonzero WDOG limit stops the hand and posts WATCHDOG (R353). -/
  | watchdog (e : DogEv)
  /-- The pool reads a submission record, checks the graph and writes a status record (R338). -/
  | submissionRecord (e : Nat)
  /-- A checked graph waiting at the head of its queue is admitted whole once room exists (R340). -/
  | graphAdmit
  /-- A ready node with placement, slots and tiles is dispatched and its hands created (R134). -/
  | nodeDispatch
  /-- A declared tile fill through the copy engine ends, making the tile READY (R133). -/
  | declaredFill (e : PairEv)
  /-- When all hands retired the task is published, DONE written and successors' PREDS decremented (R140). -/
  | nodeComplete (e : Nat)
  /-- A class 1 node's thread returns or exits, completing the node (R395). -/
  | systemThreadExit (e : Nat)
  /-- When both sides of a paired task halted, signatures are compared and the task committed (R387). -/
  | pairCommit (e : Nat)
  /-- At the end of each 1,024-cycle window the field adjusts ACTIVE or throttles (R349). -/
  | powerWindow (e : WinEv)
  /-- A bank reaching 8 corrected symbols or failing test is marked failed (R64). -/
  | bankFail (e : BankEv)
  /-- The patrol scrubber reads and corrects every bench stripe each 2^30 cycles (R64). -/
  | patrolScrub (e : Nat)
  /-- A lost or error-prone HBM stack is taken offline (R56). -/
  | stackOffline (e : Nat)
  /-- A cluster's mismatch count reaching 4 marks it for retirement, or retires the core (R381). -/
  | clusterMismatchLimit (e : PairEv)
  /-- A core reaching 8 residue mismatches or a second failed bank retires (R382). -/
  | coreRetire (e : Nat)
  /-- Reset runs the boot ROM, which verifies and measures the firmware image (R402). -/
  | reset (e : BootEv)
  /-- A field finishes its power ramp during bring-up (R411). -/
  | powerRamp (e : FieldEv)
  /-- A field's clock locks during bring-up (R411). -/
  | clockLock (e : FieldEv)
  /-- A field calibrates its crossing and lets the next field ramp (R411). -/
  | crossingCalibration (e : FieldEv)
  /-- A field finishes HBM training and goes online (R411). -/
  | hbmTraining (e : FieldEv)
  /-- A crossing leaving its phase limit takes the later field offline (R410). -/
  | crossingLost (e : PairEv)
  /-- A field lost in service posts FIELD-LOST and its hands take UNCORRECTABLE (R412). -/
  | fieldLost (e : Nat)
  /-- A write of EN = 1 enables a queue after checking its setup and versions (R399). -/
  | queueEnable (e : QueueEv)
  /-- A TAIL write announces new request records or consumes fault records (R399). -/
  | tail (e : TailEv)
  /-- Write to a device register with no behaviour of its own (R399). -/
  | registerWrite (e : RegWriteEv)
  /-- Load an ASID descriptor, or reject it leaving the old one (R30). -/
  | asidLoad (e : CtlArg)
  /-- Drop cached translations of an ASID range (R39). -/
  | invalidate (e : InvF)
  /-- Assign the context region of an ASID (R364). -/
  | ctxRegion (e : RegionF)
  /-- Set the owning ASID of a range of seat objects (R324). -/
  | objOwner (e : OwnerF)
  /-- Set a field's current limit (R351). -/
  | setFlim (e : Ctl2)
  /-- Resolve a fault record by resuming the hand (R361). -/
  | resume (e : CtlArg)
  /-- Resolve a fault record by in-hand delivery (R361). -/
  | forward (e : CtlArg)
  /-- Resolve a fault record by cancelling the task (R361). -/
  | cancel (e : CtlArg)
  /-- Set gang launch and reduction time-outs (R367). -/
  | setTimeout (e : Ctl2)
  /-- Cancel every node of a graph (R354). -/
  | cancelGraph (e : CtlArg)
  /-- Set a strip breakpoint of a hand (R390). -/
  | stripBreakpoint (e : BreakF)
  /-- Set a watchpoint of a hand (R390). -/
  | watchpoint (e : WatchF)
  /-- Stop a task's hands, the system cores and time-outs, and buffer external traffic (R392). -/
  | machineHalt (e : CtlArg)
  /-- Perform buffered writes and restart after a machine halt (R392). -/
  | machineResume (e : CtlArg)
  /-- Assign the Dudel recording region for the next reset (R393). -/
  | dudelRegion (e : RegionF)
  /-- Set a queue's gang size and device list for its next submission (R406). -/
  | gangSet (e : GangF)
  /-- Set this device's pod number and let ports train (R404). -/
  | deviceNumber (e : CtlArg)
  /-- Hand a summary reduction to the switch (R407). -/
  | reduce (e : ReduceF)
  /-- Hand a multicast to the switch (R408). -/
  | mcast (e : McastF)
  /-- Write a signed attestation record (R403). -/
  | attest (e : AttestF)
  /-- Return named tiles of a core to EMPTY with GEN advanced (R70). -/
  | tileReset (e : Ctl2)
  /-- A breakpoint, watchpoint match or brk stops the hand at its point (R390). -/
  | debuggerStop (e : Nat)
  /-- The debugger writes a stopped hand's register, overtaking outstanding producers (R366). -/
  | debuggerWrite (e : DbgWrite)
  /-- The debugger restarts a stopped hand (R391). -/
  | debuggerRestart (e : Nat)
  /-- An endpoint request on a root port is served through an inbound window (R397). -/
  | inboundRequest (e : InboundF)
  /-- A Vuxon port trains, exchanging versions and pod numbers (R404). -/
  | linkTraining (e : TrainF)
  /-- A flit failing three replays takes the port down (R404). -/
  | linkDown (e : Nat)
  /-- A gang member's acceptance message arrives (R367). -/
  | gangAcceptance (e : GangEv)
  /-- The launch time-out passes without all acceptances, aborting the gang (R367). -/
  | gangLaunchTimeout (e : GangEv)
  /-- An abort message makes the device abort the gang node's hands (R367). -/
  | gangAbort (e : GangEv)
  /-- The switch writes the reduction result and completion words (R407). -/
  | reductionComplete (e : SwitchEv)
  /-- A reduction failing or timing out writes the abort value to completion words (R368). -/
  | reductionTimeout (e : SwitchEv)
  /-- The switch's aggregated multicast acknowledgement writes the completion word (R408). -/
  | mcastAck (e : SwitchEv)
  /-- In replay, an arrival or entropy value is delivered at its stamped count (R394). -/
  | replayDelivery (e : ReplayEv)
  /-- The acknowledgement of a performed scalar store, vector element group or scatter element returns, decrementing the lane scatter
  counter and releasing phend, fences and tready that wait for it (R100). -/
  | storeAcknowledged (e : EntryEv)
  /-- Bytes of a copy, declared fill or peer copy land in a tile, advancing its fill count and landed prefix and making it READY when the
  fill count reaches the tile's size (R68). -/
  | copyBytesLanded (e : CmdEv)
  /-- The system cores clear a core excluded after a strip migration, so that it again takes resumed and newly placed hands (R363). -/
  | failingCoreClear (e : Nat)
  /-- A system core, including a class 1 node's thread, loads or stores device memory through device translation, with a store published
  as it performs, breaking links and waking live waits (R128). -/
  | systemCoreAccess (e : SysAccF)
  deriving DecidableEq, Repr

end Sys2Proof
end

