-- ==== Sys2Proof/WellFormed.lean ====
section
/-! DEFINITION. Which field values an instruction's word may carry, beyond the widths of its fields
(Table 8.6, R152, R157, R171). Each breach has the fate the spec gives it: ILLEGAL-OPCODE or
RESERVED-FIELD (R164). -/

namespace Sys2Proof

/-- The fate of a field out of its range. -/
inductive FieldErr where
  | illegal
  | reserved
  deriving DecidableEq, Repr

/-- The CSR number that A and B name (R169). -/
def csrNumber (a b : Fld5) : BitVec 10 := (a ++ b).cast (by decide)

/-- The CSRs of Table 8.9. -/
def csrKnown (n : BitVec 10) : Bool :=
  let k := n.toNat
  k ≤ 0x006 || (0x010 ≤ k && k ≤ 0x016) || (0x020 ≤ k && k ≤ 0x024) || (0x030 ≤ k && k ≤ 0x037) ||
    k == 0x040 || k == 0x050 || k == 0x058 || k == 0x059 || (0x060 ≤ k && k ≤ 0x065) ||
    (0x068 ≤ k && k ≤ 0x06D) || k == 0x070 || k == 0x071

/-- The read-write CSRs of Table 8.9. -/
def csrWritable (n : BitVec 10) : Bool :=
  let k := n.toNat
  k == 0x002 || k == 0x003 || k == 0x005 || (0x010 ≤ k && k ≤ 0x016) || k == 0x024 ||
    (0x030 ≤ k && k ≤ 0x037) || k == 0x050 || k == 0x070 || k == 0x071

/-- ILLEGAL-OPCODE when the condition holds. -/
def ill (p : Prop) [Decidable p] : Option FieldErr := if p then some .illegal else none

/-- RESERVED-FIELD when the condition holds. -/
def res (p : Prop) [Decidable p] : Option FieldErr := if p then some .reserved else none

/-- The fate of a field out of range (Table 8.6): predicate destinations p0 (illegal); stream and queue
numbers above 3; a loop that ends at or before its own word (R190); FH without SEW 16 (R154); directions and
block widths (R257, R258); a trap bit over an absent source (R157); access classes and scopes (R122, R101);
key groups of sq.topk (Table 15.6); frame lengths (R166); CSR numbers (R171). -/
def fieldErr : Instr → Option FieldErr
  | .vceq f => ill (f.d = 0)
  | .vcne f => ill (f.d = 0)
  | .vclt f => ill (f.d = 0)
  | .vcle f => ill (f.d = 0)
  | .vcltn f => ill (f.d = 0)
  | .vclen f => ill (f.d = 0)
  | .vfceq f => ill (f.d = 0)
  | .vfclt f => ill (f.d = 0)
  | .vfcle f => ill (f.d = 0)
  | .vfcun f => ill (f.d = 0)
  | .pand f => ill (f.d = 0)
  | .por f => ill (f.d = 0)
  | .pxor f => ill (f.d = 0)
  | .pandn f => ill (f.d = 0)
  | .pnot f => ill (f.d = 0)
  | .pset f => ill (f.d = 0)
  | .vceqi f => ill (f.d = 0)
  | .vsc f => ill (f.p = 0)
  | .loop f => res (f.off.toInt ≤ 0)
  | .vsetl f => res (f.fh = 1 ∧ f.sew ≠ 1)
  | .vsetlq f => res ((f.fh = 1 ∧ f.sew ≠ 1) ∨ 3 < f.a.toNat)
  | .vpopq f => res (3 < f.d.toNat)
  | .lace f => res (3 < f.d.toNat)
  | .sunbind f => res (3 < f.d.toNat)
  | .spos f => res (3 < f.a.toNat)
  | .sadv f => res (3 < f.d.toNat)
  | .stabl f => res (3 < f.d.toNat)
  | .vcvtff f => res (1 < f.b.toNat)
  | .vquant f => res (f.b.toNat < 2 ∨ 8 < f.b.toNat)
  | .vdequant f => res (f.b.toNat < 2 ∨ 8 < f.b.toNat)
  | .vsortk f => res (f.b = 0 ∧ f.tb = 1)
  | .xfence f => res (6 < f.a.toNat ∨ 6 < f.b.toNat)
  | .phend f => res (f.a.toNat = 0 ∨ 5 < f.a.toNat)
  | .phase f => res (f.a.toNat = 0 ∨ 5 < f.a.toNat)
  | .supdTopk f => res (f.b = 0 ∧ f.tb = 1)
  | .supdQh f => res (f.b = 0 ∧ f.tb = 1)
  | .supdCms f => res (f.b = 0 ∧ f.tb = 1)
  | .supdVacc f => res (f.b = 0 ∧ f.tb = 1)
  | .supdVaccm f => res (f.b = 0 ∧ f.tb = 1)
  | .qdeal f => res (f.b = 0 ∧ f.tb = 1)
  | .qdealf f => res (f.b = 0 ∧ f.tb = 1)
  | .sqTopk f => res (30 < f.d.toNat)
  | .rep f => res (15 < f.n1.toNat)
  | .csrr f => res (csrKnown (csrNumber f.a f.b) = false)
  | .csrw f => res (csrWritable (csrNumber f.a f.b) = false)
  | .csrx f => res (csrWritable (csrNumber f.a f.b) = false)
  | _ => none

/-- An instruction whose word is accepted by the checks of R164 that the word alone decides. -/
def WellFormed (i : Instr) : Prop := fieldErr i = none

/-- The same as a Bool. -/
def wellFormed (i : Instr) : Bool := (fieldErr i).isNone

end Sys2Proof
end

