-- ==== Sys2Proof/Decode.lean ====
section
/-! DEFINITION. The decoder and the encoder (R152 to R168). A word is first split into the nine base fields
of the REG format; every other format is a regrouping of the same bits (Table 8.2). Decoding is total: a word
that is no instruction is refused by the name of its fate (R164). -/

namespace Sys2Proof

/-- The nine base fields of a word (R153, R154). -/
structure Raw where
  c : Bit
  maj : BitVec 6
  d : Fld5
  a : Fld5
  b : Fld5
  fn : Fld5
  ta : Bit
  tb : Bit
  g : BitVec 3
  deriving DecidableEq, Repr

/-- Why a word is no instruction (R164, in the order of its checks); `truncated`: fewer bytes than a word. -/
inductive DecErr where
  | zero
  | illegal
  | reserved
  | truncated
  deriving DecidableEq, Repr

/-- The fields of a word. -/
def splitWord (w : Word) : Raw :=
  ⟨w.extractLsb' 31 1, w.extractLsb' 25 6, w.extractLsb' 20 5, w.extractLsb' 15 5, w.extractLsb' 10 5,
    w.extractLsb' 5 5, w.extractLsb' 4 1, w.extractLsb' 3 1, w.extractLsb' 0 3⟩

/-- The word with these fields. -/
def joinWord (r : Raw) : Word :=
  (r.c ++ r.maj ++ r.d ++ r.a ++ r.b ++ r.fn ++ r.ta ++ r.tb ++ r.g).cast (by decide)

/-- IMM11, bits 14:4. -/
def Raw.imm11 (r : Raw) : BitVec 11 := (r.b ++ r.fn ++ r.ta).cast (by decide)
/-- OFF12, bits 14:3. -/
def Raw.off12 (r : Raw) : BitVec 12 := (r.b ++ r.fn ++ r.ta ++ r.tb).cast (by decide)
/-- OFF22, bits 24:3. -/
def Raw.off22 (r : Raw) : BitVec 22 := (r.d ++ r.a ++ r.b ++ r.fn ++ r.ta ++ r.tb).cast (by decide)
/-- IMM20, bits 19:0. -/
def Raw.imm20 (r : Raw) : BitVec 20 := (r.a ++ r.b ++ r.fn ++ r.ta ++ r.tb ++ r.g).cast (by decide)
/-- IMM8 of VIMM, bits 14:7. -/
def Raw.imm8 (r : Raw) : BitVec 8 := (r.b ++ r.fn.extractLsb' 2 3).cast (by decide)
/-- The sub field of VIMM, bits 6:3. -/
def Raw.sub4 (r : Raw) : BitVec 4 := (r.fn.extractLsb' 0 2 ++ r.ta ++ r.tb).cast (by decide)
/-- The sub field of VSET, bits 4:0. -/
def Raw.sub5 (r : Raw) : BitVec 5 := (r.ta ++ r.tb ++ r.g).cast (by decide)
/-- The amount of an immediate shift, IMM11 bits 5:0 (R184). -/
def Raw.sh6 (r : Raw) : BitVec 6 := (r.fn ++ r.ta).cast (by decide)
/-- The amount of a vector immediate shift, IMM8 bits 5:0 (R244). -/
def Raw.vsh6 (r : Raw) : BitVec 6 := (r.b.extractLsb' 0 3 ++ r.fn.extractLsb' 2 3).cast (by decide)

/-- The instruction, when its reserved fields are zero (R7, R164). -/
def need (p : Prop) [Decidable p] (i : Instr) : Except DecErr Instr := if p then .ok i else .error .reserved

/-- The majors whose words may join a convoy (Table 8.4). -/
def convoyMajor (m : BitVec 6) : Bool :=
  (30 ≤ m.toNat && m.toNat ≤ 41) || m.toNat == 50 || m.toNat == 52 || m.toNat == 56

/-- Major 1 by FN or MODE (Table 8.5, R181). -/
def decSalu (r : Raw) : Except DecErr Instr :=
  match r.fn.toNat with
  | 0 => .ok (.add ⟨r.d, r.a, r.b, r.ta, r.tb, r.g⟩)
  | 1 => .ok (.sub ⟨r.d, r.a, r.b, r.ta, r.tb, r.g⟩)
  | 2 => .ok (.and ⟨r.d, r.a, r.b, r.ta, r.tb, r.g⟩)
  | 3 => .ok (.or ⟨r.d, r.a, r.b, r.ta, r.tb, r.g⟩)
  | 4 => .ok (.xor ⟨r.d, r.a, r.b, r.ta, r.tb, r.g⟩)
  | 5 => .ok (.andn ⟨r.d, r.a, r.b, r.ta, r.tb, r.g⟩)
  | 6 => .ok (.sll ⟨r.d, r.a, r.b, r.ta, r.tb, r.g⟩)
  | 7 => .ok (.srl ⟨r.d, r.a, r.b, r.ta, r.tb, r.g⟩)
  | 8 => .ok (.sra ⟨r.d, r.a, r.b, r.ta, r.tb, r.g⟩)
  | 9 => .ok (.rotl ⟨r.d, r.a, r.b, r.ta, r.tb, r.g⟩)
  | 10 => .ok (.rotr ⟨r.d, r.a, r.b, r.ta, r.tb, r.g⟩)
  | 11 => .ok (.mul ⟨r.d, r.a, r.b, r.ta, r.tb, r.g⟩)
  | 12 => .ok (.mulh ⟨r.d, r.a, r.b, r.ta, r.tb, r.g⟩)
  | 13 => .ok (.mulhn ⟨r.d, r.a, r.b, r.ta, r.tb, r.g⟩)
  | 14 => .ok (.div ⟨r.d, r.a, r.b, r.ta, r.tb, r.g⟩)
  | 15 => .ok (.divn ⟨r.d, r.a, r.b, r.ta, r.tb, r.g⟩)
  | 16 => .ok (.rem ⟨r.d, r.a, r.b, r.ta, r.tb, r.g⟩)
  | 17 => .ok (.remn ⟨r.d, r.a, r.b, r.ta, r.tb, r.g⟩)
  | 18 => .ok (.slt ⟨r.d, r.a, r.b, r.ta, r.tb, r.g⟩)
  | 19 => .ok (.sltn ⟨r.d, r.a, r.b, r.ta, r.tb, r.g⟩)
  | 20 => .ok (.min ⟨r.d, r.a, r.b, r.ta, r.tb, r.g⟩)
  | 21 => .ok (.max ⟨r.d, r.a, r.b, r.ta, r.tb, r.g⟩)
  | 22 => .ok (.minn ⟨r.d, r.a, r.b, r.ta, r.tb, r.g⟩)
  | 23 => .ok (.maxn ⟨r.d, r.a, r.b, r.ta, r.tb, r.g⟩)
  | 24 => need (r.b = 0 ∧ r.tb = 0) (.clz ⟨r.d, r.a, r.ta, r.g⟩)
  | 25 => need (r.b = 0 ∧ r.tb = 0) (.ctz ⟨r.d, r.a, r.ta, r.g⟩)
  | 26 => need (r.b = 0 ∧ r.tb = 0) (.popc ⟨r.d, r.a, r.ta, r.g⟩)
  | 27 => .ok (.addw ⟨r.d, r.a, r.b, r.ta, r.tb, r.g⟩)
  | 28 => .ok (.subw ⟨r.d, r.a, r.b, r.ta, r.tb, r.g⟩)
  | 29 => need (r.b = 0 ∧ r.tb = 0) (.sextb ⟨r.d, r.a, r.ta, r.g⟩)
  | 30 => need (r.b = 0 ∧ r.tb = 0) (.sexth ⟨r.d, r.a, r.ta, r.g⟩)
  | 31 => need (r.b = 0 ∧ r.tb = 0) (.sextw ⟨r.d, r.a, r.ta, r.g⟩)
  | _ => .error .illegal

/-- Major 30 by FN or MODE (Table 8.5, R243, R19). -/
def decVInt (r : Raw) : Except DecErr Instr :=
  match r.fn.toNat with
  | 0 => .ok (.vadd ⟨r.c, r.d, r.a, r.b, r.ta, r.tb, r.g⟩)
  | 1 => .ok (.vsub ⟨r.c, r.d, r.a, r.b, r.ta, r.tb, r.g⟩)
  | 2 => .ok (.vand ⟨r.c, r.d, r.a, r.b, r.ta, r.tb, r.g⟩)
  | 3 => .ok (.vor ⟨r.c, r.d, r.a, r.b, r.ta, r.tb, r.g⟩)
  | 4 => .ok (.vxor ⟨r.c, r.d, r.a, r.b, r.ta, r.tb, r.g⟩)
  | 5 => .ok (.vsll ⟨r.c, r.d, r.a, r.b, r.ta, r.tb, r.g⟩)
  | 6 => .ok (.vsrl ⟨r.c, r.d, r.a, r.b, r.ta, r.tb, r.g⟩)
  | 7 => .ok (.vsra ⟨r.c, r.d, r.a, r.b, r.ta, r.tb, r.g⟩)
  | 8 => .ok (.vmul ⟨r.c, r.d, r.a, r.b, r.ta, r.tb, r.g⟩)
  | 9 => .ok (.vmulh ⟨r.c, r.d, r.a, r.b, r.ta, r.tb, r.g⟩)
  | 10 => .ok (.vmulhn ⟨r.c, r.d, r.a, r.b, r.ta, r.tb, r.g⟩)
  | 11 => .ok (.vmin ⟨r.c, r.d, r.a, r.b, r.ta, r.tb, r.g⟩)
  | 12 => .ok (.vmax ⟨r.c, r.d, r.a, r.b, r.ta, r.tb, r.g⟩)
  | 13 => .ok (.vminn ⟨r.c, r.d, r.a, r.b, r.ta, r.tb, r.g⟩)
  | 14 => .ok (.vmaxn ⟨r.c, r.d, r.a, r.b, r.ta, r.tb, r.g⟩)
  | 15 => .ok (.vsadd ⟨r.c, r.d, r.a, r.b, r.ta, r.tb, r.g⟩)
  | 16 => .ok (.vsaddn ⟨r.c, r.d, r.a, r.b, r.ta, r.tb, r.g⟩)
  | 17 => .ok (.vssub ⟨r.c, r.d, r.a, r.b, r.ta, r.tb, r.g⟩)
  | 18 => .ok (.vssubn ⟨r.c, r.d, r.a, r.b, r.ta, r.tb, r.g⟩)
  | 19 => .ok (.vincw ⟨r.c, r.d, r.a, r.b, r.ta, r.tb, r.g⟩)
  | 20 => .ok (.vaddb ⟨r.c, r.d, r.a, r.b, r.ta, r.tb, r.g⟩)
  | 21 => need (r.b = 0 ∧ r.tb = 0) (.vabs ⟨r.c, r.d, r.a, r.ta, r.g⟩)
  | 22 => need (r.b = 0 ∧ r.tb = 0) (.vclz ⟨r.c, r.d, r.a, r.ta, r.g⟩)
  | 23 => need (r.b = 0 ∧ r.tb = 0) (.vpopc ⟨r.c, r.d, r.a, r.ta, r.g⟩)
  | 24 => .ok (.vsel ⟨r.c, r.d, r.a, r.b, r.ta, r.tb, r.g⟩)
  | 25 =>
    if r.b = 0 then need (r.tb = 0) (.vmov ⟨r.c, r.d, r.a, r.ta, r.g⟩)
    else need (r.b.extractLsb' 2 3 = 4 ∧ r.a = 0 ∧ r.ta = 0 ∧ r.tb = 0)
      (.vmovStream ⟨r.c, r.d, r.b.extractLsb' 0 2, r.g⟩)
  | _ => .error .illegal

/-- Major 31 by FN or MODE (Table 8.5, R245). -/
def decVFlt (r : Raw) : Except DecErr Instr :=
  match r.fn.toNat with
  | 0 => .ok (.vfadd ⟨r.c, r.d, r.a, r.b, r.ta, r.tb, r.g⟩)
  | 1 => .ok (.vfsub ⟨r.c, r.d, r.a, r.b, r.ta, r.tb, r.g⟩)
  | 2 => .ok (.vfmul ⟨r.c, r.d, r.a, r.b, r.ta, r.tb, r.g⟩)
  | 3 => .ok (.vfdiv ⟨r.c, r.d, r.a, r.b, r.ta, r.tb, r.g⟩)
  | 4 => need (r.b = 0 ∧ r.tb = 0) (.vfsqrt ⟨r.c, r.d, r.a, r.ta, r.g⟩)
  | 5 => need (r.b = 0 ∧ r.tb = 0) (.vfrsqrt ⟨r.c, r.d, r.a, r.ta, r.g⟩)
  | 6 => need (r.b = 0 ∧ r.tb = 0) (.vfexp2 ⟨r.c, r.d, r.a, r.ta, r.g⟩)
  | 7 => need (r.b = 0 ∧ r.tb = 0) (.vflog2 ⟨r.c, r.d, r.a, r.ta, r.g⟩)
  | 8 => .ok (.vfmin ⟨r.c, r.d, r.a, r.b, r.ta, r.tb, r.g⟩)
  | 9 => .ok (.vfmax ⟨r.c, r.d, r.a, r.b, r.ta, r.tb, r.g⟩)
  | 10 => need (r.b = 0 ∧ r.tb = 0) (.vfabs ⟨r.c, r.d, r.a, r.ta, r.g⟩)
  | 11 => need (r.b = 0 ∧ r.tb = 0) (.vfneg ⟨r.c, r.d, r.a, r.ta, r.g⟩)
  | 12 => .ok (.vfsgn ⟨r.c, r.d, r.a, r.b, r.ta, r.tb, r.g⟩)
  | 13 => need (r.b = 0 ∧ r.tb = 0) (.vfclass ⟨r.c, r.d, r.a, r.ta, r.g⟩)
  | 14 => .ok (.vfma ⟨r.c, r.d, r.a, r.b, r.ta, r.tb, r.g⟩)
  | 15 => .ok (.vfms ⟨r.c, r.d, r.a, r.b, r.ta, r.tb, r.g⟩)
  | 16 => .ok (.vfnma ⟨r.c, r.d, r.a, r.b, r.ta, r.tb, r.g⟩)
  | _ => .error .illegal

/-- Major 32 by FN or MODE (Table 8.5, R248). -/
def decVWide (r : Raw) : Except DecErr Instr :=
  match r.fn.toNat with
  | 0 => .ok (.vwmac ⟨r.c, r.d, r.a, r.b, r.ta, r.tb, r.g⟩)
  | 1 => .ok (.vwmacn ⟨r.c, r.d, r.a, r.b, r.ta, r.tb, r.g⟩)
  | 2 => .ok (.vwmacsn ⟨r.c, r.d, r.a, r.b, r.ta, r.tb, r.g⟩)
  | 3 => .ok (.vwmul ⟨r.c, r.d, r.a, r.b, r.ta, r.tb, r.g⟩)
  | 4 => .ok (.vwmuln ⟨r.c, r.d, r.a, r.b, r.ta, r.tb, r.g⟩)
  | 5 => .ok (.vwadd ⟨r.c, r.d, r.a, r.b, r.ta, r.tb, r.g⟩)
  | 6 => .ok (.vwaddn ⟨r.c, r.d, r.a, r.b, r.ta, r.tb, r.g⟩)
  | _ => .error .illegal

/-- Major 33 by FN or MODE (Table 8.5, R249). -/
def decVCmp (r : Raw) : Except DecErr Instr :=
  match r.fn.toNat with
  | 0 => .ok (.vceq ⟨r.c, r.d, r.a, r.b, r.ta, r.tb, r.g⟩)
  | 1 => .ok (.vcne ⟨r.c, r.d, r.a, r.b, r.ta, r.tb, r.g⟩)
  | 2 => .ok (.vclt ⟨r.c, r.d, r.a, r.b, r.ta, r.tb, r.g⟩)
  | 3 => .ok (.vcle ⟨r.c, r.d, r.a, r.b, r.ta, r.tb, r.g⟩)
  | 4 => .ok (.vcltn ⟨r.c, r.d, r.a, r.b, r.ta, r.tb, r.g⟩)
  | 5 => .ok (.vclen ⟨r.c, r.d, r.a, r.b, r.ta, r.tb, r.g⟩)
  | 6 => .ok (.vfceq ⟨r.c, r.d, r.a, r.b, r.ta, r.tb, r.g⟩)
  | 7 => .ok (.vfclt ⟨r.c, r.d, r.a, r.b, r.ta, r.tb, r.g⟩)
  | 8 => .ok (.vfcle ⟨r.c, r.d, r.a, r.b, r.ta, r.tb, r.g⟩)
  | 9 => .ok (.vfcun ⟨r.c, r.d, r.a, r.b, r.ta, r.tb, r.g⟩)
  | _ => .error .illegal

/-- Major 34 by FN or MODE (Table 8.5, R250). The predicate destination p0 is found before any reserved field (R164, Table 8.6). -/
def decVMask (r : Raw) : Except DecErr Instr :=
  if r.fn.toNat ≤ 5 ∧ r.d = 0 then .error .illegal
  else match r.fn.toNat with
  | 0 => need (r.ta = 0 ∧ r.tb = 0) (.pand ⟨r.c, r.d, r.a, r.b, r.g⟩)
  | 1 => need (r.ta = 0 ∧ r.tb = 0) (.por ⟨r.c, r.d, r.a, r.b, r.g⟩)
  | 2 => need (r.ta = 0 ∧ r.tb = 0) (.pxor ⟨r.c, r.d, r.a, r.b, r.g⟩)
  | 3 => need (r.ta = 0 ∧ r.tb = 0) (.pandn ⟨r.c, r.d, r.a, r.b, r.g⟩)
  | 4 => need (r.b = 0 ∧ r.ta = 0 ∧ r.tb = 0) (.pnot ⟨r.c, r.d, r.a, r.g⟩)
  | 5 => need (r.a = 0 ∧ r.b = 0 ∧ r.ta = 0 ∧ r.tb = 0) (.pset ⟨r.c, r.d, r.g⟩)
  | 6 => need (r.b = 0 ∧ r.ta = 0 ∧ r.tb = 0) (.ppopc ⟨r.c, r.d, r.a, r.g⟩)
  | 7 => need (r.b = 0 ∧ r.ta = 0 ∧ r.tb = 0) (.pfirst ⟨r.c, r.d, r.a, r.g⟩)
  | 8 => need (r.b = 0 ∧ r.ta = 0 ∧ r.tb = 0) (.pmvx ⟨r.c, r.d, r.a, r.g⟩)
  | 9 => need (r.b = 0 ∧ r.ta = 0 ∧ r.tb = 0) (.vpopq ⟨r.c, r.d, r.a, r.g⟩)
  | _ => .error .illegal

/-- Major 35 by FN or MODE (Table 8.5, R251). -/
def decVPerm (r : Raw) : Except DecErr Instr :=
  match r.fn.toNat with
  | 0 => .ok (.vperm ⟨r.c, r.d, r.a, r.b, r.ta, r.tb, r.g⟩)
  | 1 => .ok (.vslup ⟨r.c, r.d, r.a, r.b, r.ta, r.tb, r.g⟩)
  | 2 => .ok (.vsldn ⟨r.c, r.d, r.a, r.b, r.ta, r.tb, r.g⟩)
  | 3 => .ok (.vbcast ⟨r.c, r.d, r.a, r.b, r.ta, r.tb, r.g⟩)
  | 4 => .ok (.vrshp ⟨r.c, r.d, r.a, r.b, r.ta, r.tb, r.g⟩)
  | 5 => need (r.b = 0 ∧ r.tb = 0) (.vcomp ⟨r.c, r.d, r.a, r.ta, r.g⟩)
  | 6 => need (r.b = 0 ∧ r.tb = 0) (.vexpd ⟨r.c, r.d, r.a, r.ta, r.g⟩)
  | 7 => .ok (.vsortk ⟨r.c, r.d, r.a, r.b, r.ta, r.tb, r.g⟩)
  | _ => .error .illegal

/-- Major 36 by FN or MODE (Table 8.5, R254). -/
def decVRed (r : Raw) : Except DecErr Instr :=
  match r.fn.toNat with
  | 0 => need (r.b = 0 ∧ r.tb = 0) (.vredadd ⟨r.c, r.d, r.a, r.ta, r.g⟩)
  | 1 => need (r.b = 0 ∧ r.tb = 0) (.vredmin ⟨r.c, r.d, r.a, r.ta, r.g⟩)
  | 2 => need (r.b = 0 ∧ r.tb = 0) (.vredmax ⟨r.c, r.d, r.a, r.ta, r.g⟩)
  | 3 => need (r.b = 0 ∧ r.tb = 0) (.vredminn ⟨r.c, r.d, r.a, r.ta, r.g⟩)
  | 4 => need (r.b = 0 ∧ r.tb = 0) (.vredmaxn ⟨r.c, r.d, r.a, r.ta, r.g⟩)
  | 5 => need (r.b = 0 ∧ r.tb = 0) (.vfredadd ⟨r.c, r.d, r.a, r.ta, r.g⟩)
  | 6 => need (r.b = 0 ∧ r.tb = 0) (.vfredmin ⟨r.c, r.d, r.a, r.ta, r.g⟩)
  | 7 => need (r.b = 0 ∧ r.tb = 0) (.vfredmax ⟨r.c, r.d, r.a, r.ta, r.g⟩)
  | 8 => need (r.b = 0 ∧ r.tb = 0) (.vredand ⟨r.c, r.d, r.a, r.ta, r.g⟩)
  | 9 => need (r.b = 0 ∧ r.tb = 0) (.vredor ⟨r.c, r.d, r.a, r.ta, r.g⟩)
  | _ => .error .illegal

/-- Major 37 by FN or MODE (Table 8.5, R256 to R258). -/
def decVCvt (r : Raw) : Except DecErr Instr :=
  match r.fn.toNat with
  | 0 => need (r.b = 0 ∧ r.tb = 0) (.vcvtfi ⟨r.c, r.d, r.a, r.ta, r.g⟩)
  | 1 => need (r.b = 0 ∧ r.tb = 0) (.vcvtfn ⟨r.c, r.d, r.a, r.ta, r.g⟩)
  | 2 => need (r.b = 0 ∧ r.tb = 0) (.vcvtif ⟨r.c, r.d, r.a, r.ta, r.g⟩)
  | 3 => need (r.b = 0 ∧ r.tb = 0) (.vcvtnf ⟨r.c, r.d, r.a, r.ta, r.g⟩)
  | 4 => need (r.tb = 0) (.vcvtff ⟨r.c, r.d, r.a, r.b, r.ta, r.g⟩)
  | 5 => need (r.tb = 0) (.vquant ⟨r.c, r.d, r.a, r.b, r.ta, r.g⟩)
  | 6 => need (r.tb = 0) (.vdequant ⟨r.c, r.d, r.a, r.b, r.ta, r.g⟩)
  | _ => .error .illegal

/-- Major 38 by FN or MODE (Table 8.5, R259). -/
def decVMovx (r : Raw) : Except DecErr Instr :=
  match r.fn.toNat with
  | 0 => need (r.b = 0 ∧ r.tb = 0) (.vsplat ⟨r.c, r.d, r.a, r.ta, r.g⟩)
  | 1 => .ok (.vins ⟨r.c, r.d, r.a, r.b, r.ta, r.tb, r.g⟩)
  | 2 => .ok (.vext ⟨r.c, r.d, r.a, r.b, r.ta, r.tb, r.g⟩)
  | 3 => need (r.a = 0 ∧ r.b = 0 ∧ r.ta = 0 ∧ r.tb = 0) (.viota ⟨r.c, r.d, r.g⟩)
  | 4 => need (r.a = 0 ∧ r.b = 0 ∧ r.ta = 0 ∧ r.tb = 0) (.vord ⟨r.c, r.d, r.g⟩)
  | _ => .error .illegal

/-- Major 39 by FN or MODE (Table 8.5, R221). -/
def decVLd (r : Raw) : Except DecErr Instr :=
  match r.fn.toNat with
  | 0 => need (r.b = 0 ∧ r.tb = 0) (.vld ⟨r.c, r.d, r.a, r.ta, r.g⟩)
  | 1 => .ok (.vlds ⟨r.c, r.d, r.a, r.b, r.ta, r.tb, r.g⟩)
  | 2 => .ok (.vldx ⟨r.c, r.d, r.a, r.b, r.ta, r.tb, r.g⟩)
  | 3 => .ok (.vldw ⟨r.c, r.d, r.a, r.b, r.ta, r.tb, r.g⟩)
  | 4 => need (r.b = 0 ∧ r.tb = 0) (.vldsq ⟨r.c, r.d, r.a, r.ta, r.g⟩)
  | 5 => .ok (.vgl ⟨r.c, r.d, r.a, r.b, r.ta, r.tb, r.g⟩)
  | 6 => .ok (.vldb ⟨r.c, r.d, r.a, r.b, r.ta, r.tb, r.g⟩)
  | _ => .error .illegal

/-- Major 40 by FN or MODE (Table 8.5, R221). -/
def decVSt (r : Raw) : Except DecErr Instr :=
  match r.fn.toNat with
  | 0 => need (r.b = 0 ∧ r.tb = 0) (.vst ⟨r.c, r.d, r.a, r.ta, r.g⟩)
  | 1 => .ok (.vsts ⟨r.c, r.d, r.a, r.b, r.ta, r.tb, r.g⟩)
  | 2 => .ok (.vstx ⟨r.c, r.d, r.a, r.b, r.ta, r.tb, r.g⟩)
  | 3 => .ok (.vstw ⟨r.c, r.d, r.a, r.b, r.ta, r.tb, r.g⟩)
  | 4 => need (r.b = 0 ∧ r.tb = 0) (.vstsq ⟨r.c, r.d, r.a, r.ta, r.g⟩)
  | 6 => .ok (.vstb ⟨r.c, r.d, r.a, r.b, r.ta, r.tb, r.g⟩)
  | _ => .error .illegal

/-- Major 42 by FN or MODE (Table 8.5, R231). -/
def decMsync (r : Raw) : Except DecErr Instr :=
  match r.fn.toNat with
  | 0 => need (r.d = 0 ∧ r.a = 0 ∧ r.b = 0 ∧ r.ta = 0 ∧ r.tb = 0) (.fenceSv ⟨r.g⟩)
  | 1 => need (r.d = 0 ∧ r.a = 0 ∧ r.b = 0 ∧ r.ta = 0 ∧ r.tb = 0) (.fenceVs ⟨r.g⟩)
  | 2 => need (r.d = 0 ∧ r.a = 0 ∧ r.b = 0 ∧ r.ta = 0 ∧ r.tb = 0) (.fenceVv ⟨r.g⟩)
  | 3 => need (r.d = 0 ∧ r.ta = 0 ∧ r.tb = 0) (.xfence ⟨r.a, r.b, r.g⟩)
  | 4 => need (r.d = 0 ∧ r.b = 0 ∧ r.ta = 0 ∧ r.tb = 0) (.phend ⟨r.a, r.g⟩)
  | 5 => need (r.b = 0 ∧ r.ta = 0 ∧ r.tb = 0) (.phase ⟨r.d, r.a, r.g⟩)
  | 6 => need (r.d = 0) (.waitge ⟨r.a, r.b, r.ta, r.tb, r.g⟩)
  | 7 => need (r.d = 0) (.waitne ⟨r.a, r.b, r.ta, r.tb, r.g⟩)
  | 8 => need (r.d = 0 ∧ r.a = 0 ∧ r.b = 0 ∧ r.ta = 0 ∧ r.tb = 0) (.unlink ⟨r.g⟩)
  | _ => .error .illegal

/-- Major 44 by FN or MODE (Table 8.5, R270). -/
def decStrm (r : Raw) : Except DecErr Instr :=
  match r.fn.toNat with
  | 0 => need (r.a = 0 ∧ r.b = 0 ∧ r.ta = 0 ∧ r.tb = 0) (.sunbind ⟨r.d, r.g⟩)
  | 1 => need (r.b = 0 ∧ r.ta = 0 ∧ r.tb = 0) (.spos ⟨r.d, r.a, r.g⟩)
  | 2 => need (r.a = 0 ∧ r.ta = 0) (.sadv ⟨r.d, r.b, r.tb, r.g⟩)
  | 3 => need (r.b = 0 ∧ r.ta = 0 ∧ r.tb = 0) (.stabl ⟨r.d, r.a, r.g⟩)
  | _ => .error .illegal

/-- Major 49 by FN or MODE (Table 8.5, R304). -/
def decSmgt (r : Raw) : Except DecErr Instr :=
  match r.fn.toNat with
  | 0 => .ok (.sdecl ⟨r.d, r.a, r.b, r.ta, r.tb, r.g⟩)
  | 1 => need (r.a = 0 ∧ r.b = 0 ∧ r.ta = 0 ∧ r.tb = 0) (.sclr ⟨r.d, r.g⟩)
  | 2 => need (r.a = 0 ∧ r.b = 0 ∧ r.ta = 0 ∧ r.tb = 0) (.sfree ⟨r.d, r.g⟩)
  | 3 => need (r.b = 0 ∧ r.tb = 0) (.ssave ⟨r.d, r.a, r.ta, r.g⟩)
  | 4 => need (r.b = 0 ∧ r.tb = 0) (.sload ⟨r.d, r.a, r.ta, r.g⟩)
  | 5 => need (r.b = 0 ∧ r.ta = 0 ∧ r.tb = 0) (.smrg ⟨r.d, r.a, r.g⟩)
  | 6 => need (r.b = 0 ∧ r.tb = 0) (.smrgm ⟨r.d, r.a, r.ta, r.g⟩)
  | 7 => need (r.b = 0 ∧ r.ta = 0 ∧ r.tb = 0) (.stype ⟨r.d, r.a, r.g⟩)
  | _ => .error .illegal

/-- Major 50 by FN or MODE (Table 8.5, R308). -/
def decSupd (r : Raw) : Except DecErr Instr :=
  match r.fn.toNat with
  | 0 => need (r.b = 0 ∧ r.tb = 0) (.supdMom ⟨r.c, r.d, r.a, r.ta, r.g⟩)
  | 1 => need (r.b = 0 ∧ r.tb = 0) (.supdRes ⟨r.c, r.d, r.a, r.ta, r.g⟩)
  | 2 => .ok (.supdTopk ⟨r.c, r.d, r.a, r.b, r.ta, r.tb, r.g⟩)
  | 3 => .ok (.supdQh ⟨r.c, r.d, r.a, r.b, r.ta, r.tb, r.g⟩)
  | 4 => .ok (.supdCms ⟨r.c, r.d, r.a, r.b, r.ta, r.tb, r.g⟩)
  | 5 => .ok (.supdVacc ⟨r.c, r.d, r.a, r.b, r.ta, r.tb, r.g⟩)
  | 6 => .ok (.supdVaccm ⟨r.c, r.d, r.a, r.b, r.ta, r.tb, r.g⟩)
  | _ => .error .illegal

/-- Major 51 by FN or MODE (Table 8.5, R309). -/
def decSqry (r : Raw) : Except DecErr Instr :=
  match r.fn.toNat with
  | 0 => need (r.ta = 0 ∧ r.tb = 0) (.sqMom ⟨r.d, r.a, r.b, r.g⟩)
  | 1 => need (r.b = 0 ∧ r.ta = 0 ∧ r.tb = 0) (.sqRes ⟨r.d, r.a, r.g⟩)
  | 2 => need (r.ta = 0 ∧ r.tb = 0) (.sqResn ⟨r.d, r.a, r.b, r.g⟩)
  | 3 => need (r.b = 0 ∧ r.ta = 0 ∧ r.tb = 0) (.sqTopk ⟨r.d, r.a, r.g⟩)
  | 4 => need (r.ta = 0) (.sqQh ⟨r.d, r.a, r.b, r.tb, r.g⟩)
  | 5 => need (r.ta = 0) (.sqCms ⟨r.d, r.a, r.b, r.tb, r.g⟩)
  | 6 => need (r.ta = 0) (.sqVacc ⟨r.d, r.a, r.b, r.tb, r.g⟩)
  | 7 => need (r.b = 0 ∧ r.ta = 0 ∧ r.tb = 0) (.sqTile ⟨r.d, r.a, r.g⟩)
  | 8 => need (r.b = 0 ∧ r.ta = 0 ∧ r.tb = 0) (.sqFlags ⟨r.d, r.a, r.g⟩)
  | _ => .error .illegal

/-- Major 52 by FN or MODE (Table 8.5, R319). -/
noncomputable def decDeal (r : Raw) : Except DecErr Instr :=
  match r.fn.toNat with
  | 0 => .ok (.qdeal ⟨r.c, r.d, r.a, r.b, r.ta, r.tb, r.g⟩)
  | 1 => .ok (.qdealf ⟨r.c, r.d, r.a, r.b, r.ta, r.tb, r.g⟩)
  | 2 => need (r.d = 0 ∧ r.g = 0) (.qtab ⟨r.a, r.b, r.ta, r.tb⟩)
  | 3 => need (r.d = 0 ∧ r.g = 0) (.qseed ⟨r.a, r.b, r.ta, r.tb⟩)
  | _ => .error .illegal

/-- Major 53 by FN or MODE (Table 8.5, R329). -/
noncomputable def decSeat (r : Raw) : Except DecErr Instr :=
  match r.fn.toNat with
  | 0 => need (r.b = 0 ∧ r.tb = 0) (.seatq ⟨r.d, r.a, r.ta, r.g⟩)
  | 1 => need (r.d = 0 ∧ r.b = 0 ∧ r.tb = 0) (.seatw ⟨r.a, r.ta, r.g⟩)
  | 2 => need (r.d = 0 ∧ r.b = 0 ∧ r.tb = 0) (.seatr ⟨r.a, r.ta, r.g⟩)
  | 3 => need (r.d = 0 ∧ r.b = 0 ∧ r.tb = 0) (.seatf ⟨r.a, r.ta, r.g⟩)
  | 4 => need (r.d = 0) (.seatp ⟨r.a, r.b, r.ta, r.tb, r.g⟩)
  | 5 => need (r.a = 0 ∧ r.b = 0 ∧ r.ta = 0 ∧ r.tb = 0) (.seatin ⟨r.d, r.g⟩)
  | 6 => need (r.d = 0) (.seatx ⟨r.a, r.b, r.ta, r.tb, r.g⟩)
  | 7 => need (r.b = 0 ∧ r.tb = 0) (.seatst ⟨r.d, r.a, r.ta, r.g⟩)
  | _ => .error .illegal

/-- Major 55 by FN or MODE (Table 8.5, R173). -/
noncomputable def decSys (r : Raw) : Except DecErr Instr :=
  match r.fn.toNat with
  | 0 => need (r.d = 0 ∧ r.a = 0 ∧ r.ta = 0 ∧ r.tb = 0) (.trap ⟨r.b, r.g⟩)
  | 1 => need (r.ta = 0 ∧ r.tb = 0) (.csrr ⟨r.d, r.a, r.b, r.g⟩)
  | 2 => need (r.ta = 0 ∧ r.tb = 0) (.csrw ⟨r.d, r.a, r.b, r.g⟩)
  | 3 => need (r.ta = 0 ∧ r.tb = 0) (.csrx ⟨r.d, r.a, r.b, r.g⟩)
  | 4 => need (r.d = 0 ∧ r.a = 0 ∧ r.b = 0 ∧ r.ta = 0 ∧ r.tb = 0) (.halt ⟨r.g⟩)
  | 5 => need (r.d = 0 ∧ r.a = 0 ∧ r.b = 0 ∧ r.ta = 0 ∧ r.tb = 0) (.yield ⟨r.g⟩)
  | 6 => need (r.d = 0 ∧ r.a = 0 ∧ r.ta = 0 ∧ r.tb = 0) (.brk ⟨r.b, r.g⟩)
  | 7 => need (r.d = 0 ∧ r.a = 0 ∧ r.b = 0 ∧ r.ta = 0 ∧ r.tb = 0) (.rett ⟨r.g⟩)
  | 8 => need (r.d = 0 ∧ r.a = 0 ∧ r.b = 0 ∧ r.ta = 0 ∧ r.tb = 0) (.lbrk ⟨r.g⟩)
  | 9 => .ok (.spawn ⟨r.d, r.a, r.b, r.ta, r.tb, r.g⟩)
  | 10 => need (r.d = 0 ∧ r.a = 0 ∧ r.b = 0 ∧ r.ta = 0 ∧ r.tb = 0 ∧ r.g = 0) (.nop)
  | _ => .error .illegal

/-- Major 8 by IMM11 bits 10:9 (R184). -/
def decShift (r : Raw) : Except DecErr Instr :=
  match (r.b.extractLsb' 3 2).toNat with
  | 0 => need (r.b.extractLsb' 0 3 = 0) (.slli ⟨r.d, r.a, r.sh6, r.tb, r.g⟩)
  | 1 => need (r.b.extractLsb' 0 3 = 0) (.srli ⟨r.d, r.a, r.sh6, r.tb, r.g⟩)
  | 2 => need (r.b.extractLsb' 0 3 = 0) (.srai ⟨r.d, r.a, r.sh6, r.tb, r.g⟩)
  | _ => .error .illegal

/-- Major 11 by its sub-op in A; the literal is the word that follows (R165). -/
def decLit (r : Raw) (lit : Word) : Except DecErr Instr :=
  match r.a.toNat with
  | 0 => need (r.b = 0 ∧ r.fn = 0 ∧ r.ta = 0 ∧ r.tb = 0) (.lit ⟨r.d, r.g, lit⟩)
  | 1 => need (r.b = 0 ∧ r.fn = 0 ∧ r.ta = 0 ∧ r.tb = 0) (.lith ⟨r.d, r.g, lit⟩)
  | _ => .error .illegal

/-- Major 23 by COND (R187). -/
def decBranch (r : Raw) : Except DecErr Instr :=
  match r.g.toNat with
  | 0 => .ok (.beq ⟨r.d, r.a, r.off12⟩)
  | 1 => .ok (.bne ⟨r.d, r.a, r.off12⟩)
  | 2 => .ok (.blt ⟨r.d, r.a, r.off12⟩)
  | 3 => .ok (.bge ⟨r.d, r.a, r.off12⟩)
  | 4 => .ok (.bltn ⟨r.d, r.a, r.off12⟩)
  | 5 => .ok (.bgen ⟨r.d, r.a, r.off12⟩)
  | _ => .error .illegal

/-- Major 29 by its sub field (R195). -/
def decVset (r : Raw) : Except DecErr Instr :=
  match r.sub5.toNat with
  | 0 => need (r.fn.extractLsb' 0 4 = 0)
      (.vsetl ⟨r.d, r.a, r.b.extractLsb' 3 2, r.b.extractLsb' 1 2, r.b.extractLsb' 0 1, r.fn.extractLsb' 4 1⟩)
  | 1 => need (r.fn.extractLsb' 0 4 = 0)
      (.vsetlq ⟨r.d, r.a, r.b.extractLsb' 3 2, r.b.extractLsb' 1 2, r.b.extractLsb' 0 1, r.fn.extractLsb' 4 1⟩)
  | _ => .error .illegal

/-- Major 45 by FN bits 2:0; bit 4 is the follow-on, bit 3 bit 5 of the tile number (R271, Table 8.6). -/
def decCpy (r : Raw) : Except DecErr Instr :=
  match (r.fn.extractLsb' 0 3).toNat with
  | 0 => .ok (.cpyIn ⟨r.d, r.a, r.b, r.fn.extractLsb' 4 1, r.fn.extractLsb' 3 1, r.ta, r.tb, r.g⟩)
  | 1 => .ok (.cpyInp ⟨r.d, r.a, r.b, r.fn.extractLsb' 4 1, r.fn.extractLsb' 3 1, r.ta, r.tb, r.g⟩)
  | 2 => if r.fn.extractLsb' 4 1 = 0 then need (r.ta = 0) (.cpyOut ⟨r.d, r.a, r.b, r.fn.extractLsb' 3 1, r.tb, r.g⟩)
      else .error .illegal
  | 3 => if r.fn.extractLsb' 4 1 = 0 then need (r.ta = 0) (.cpyPeer ⟨r.d, r.a, r.b, r.fn.extractLsb' 3 1, r.tb, r.g⟩)
      else .error .illegal
  | 4 => if r.fn.extractLsb' 4 1 = 0 then need (r.fn.extractLsb' 3 1 = 0) (.cpyMem ⟨r.d, r.a, r.b, r.ta, r.tb, r.g⟩)
      else .error .illegal
  | _ => .error .illegal

/-- Major 46 by FN bits 2:0; FN bit 4 must be zero (R279, Table 8.6). -/
def decTile (r : Raw) : Except DecErr Instr :=
  if r.fn.extractLsb' 4 1 = 1 then .error .illegal else
  match (r.fn.extractLsb' 0 3).toNat with
  | 0 => need (r.b = 0 ∧ r.tb = 0) (.tdef ⟨r.d, r.a, r.fn.extractLsb' 3 1, r.ta, r.g⟩)
  | 1 => need (r.a = 0 ∧ r.b = 0 ∧ r.ta = 0 ∧ r.tb = 0) (.tfree ⟨r.d, r.fn.extractLsb' 3 1, r.g⟩)
  | 2 => need (r.a = 0 ∧ r.b = 0 ∧ r.ta = 0 ∧ r.tb = 0) (.twait ⟨r.d, r.fn.extractLsb' 3 1, r.g⟩)
  | 3 => need (r.b = 0 ∧ r.ta = 0 ∧ r.tb = 0) (.tstat ⟨r.d, r.a, r.fn.extractLsb' 3 1, r.g⟩)
  | 4 => need (r.a = 0 ∧ r.b = 0 ∧ r.ta = 0 ∧ r.tb = 0) (.tready ⟨r.d, r.fn.extractLsb' 3 1, r.g⟩)
  | _ => .error .illegal

/-- Major 47 by its two-bit FN (R281). -/
def decMma (r : Raw) : Except DecErr Instr :=
  match (r.fn.extractLsb' 3 2).toNat with
  | 0 => need (r.fn.extractLsb' 0 3 = 0 ∧ r.g = 0) (.mma ⟨r.d, r.a, r.b, r.ta, r.tb⟩)
  | 1 => need (r.g = 0) (.mmav ⟨r.d, r.a, r.b, r.fn.extractLsb' 0 3, r.ta, r.tb⟩)
  | _ => .error .illegal

/-- Major 56 by its sub field (R244). -/
noncomputable def decVimm (r : Raw) : Except DecErr Instr :=
  match r.sub4.toNat with
  | 0 => .ok (.vaddi ⟨r.c, r.d, r.a, r.imm8, r.g⟩)
  | 1 => .ok (.vandi ⟨r.c, r.d, r.a, r.imm8, r.g⟩)
  | 2 => .ok (.vori ⟨r.c, r.d, r.a, r.imm8, r.g⟩)
  | 3 => .ok (.vxori ⟨r.c, r.d, r.a, r.imm8, r.g⟩)
  | 4 => need (r.b.extractLsb' 3 2 = 0) (.vslli ⟨r.c, r.d, r.a, r.vsh6, r.g⟩)
  | 5 => need (r.b.extractLsb' 3 2 = 0) (.vsrli ⟨r.c, r.d, r.a, r.vsh6, r.g⟩)
  | 6 => need (r.b.extractLsb' 3 2 = 0) (.vsrai ⟨r.c, r.d, r.a, r.vsh6, r.g⟩)
  | 7 => .ok (.vmini ⟨r.c, r.d, r.a, r.imm8, r.g⟩)
  | 8 => .ok (.vmaxi ⟨r.c, r.d, r.a, r.imm8, r.g⟩)
  | 9 => .ok (.vceqi ⟨r.c, r.d, r.a, r.imm8, r.g⟩)
  | _ => .error .illegal

/-- The instruction of the fields by major (Table 8.4), its field ranges not yet checked. Bits of an xchg's FN that must be zero (R160,
R285) raise RESERVED-FIELD where they are not: which of the two faults is the model's choice (log 107). -/
noncomputable def decMajor (r : Raw) (lit : Word) : Except DecErr Instr :=
  match r.maj.toNat with
  | 1 => decSalu r
  | 2 => .ok (.addi ⟨r.d, r.a, r.imm11, r.tb, r.g⟩)
  | 3 => .ok (.andi ⟨r.d, r.a, r.imm11, r.tb, r.g⟩)
  | 4 => .ok (.ori ⟨r.d, r.a, r.imm11, r.tb, r.g⟩)
  | 5 => .ok (.xori ⟨r.d, r.a, r.imm11, r.tb, r.g⟩)
  | 6 => .ok (.slti ⟨r.d, r.a, r.imm11, r.tb, r.g⟩)
  | 7 => .ok (.sltni ⟨r.d, r.a, r.imm11, r.tb, r.g⟩)
  | 8 => decShift r
  | 9 => .ok (.lui ⟨r.d, r.imm20⟩)
  | 10 => .ok (.adpc ⟨r.d, r.imm20⟩)
  | 11 => decLit r lit
  | 12 => .ok (.ldb ⟨r.d, r.a, r.imm11, r.tb, r.g⟩)
  | 13 => .ok (.ldh ⟨r.d, r.a, r.imm11, r.tb, r.g⟩)
  | 14 => .ok (.ldw ⟨r.d, r.a, r.imm11, r.tb, r.g⟩)
  | 15 => .ok (.ldd ⟨r.d, r.a, r.imm11, r.tb, r.g⟩)
  | 16 => .ok (.ldbn ⟨r.d, r.a, r.imm11, r.tb, r.g⟩)
  | 17 => .ok (.ldhn ⟨r.d, r.a, r.imm11, r.tb, r.g⟩)
  | 18 => .ok (.ldwn ⟨r.d, r.a, r.imm11, r.tb, r.g⟩)
  | 19 => .ok (.stb ⟨r.d, r.a, r.imm11, r.tb, r.g⟩)
  | 20 => .ok (.sth ⟨r.d, r.a, r.imm11, r.tb, r.g⟩)
  | 21 => .ok (.stw ⟨r.d, r.a, r.imm11, r.tb, r.g⟩)
  | 22 => .ok (.std ⟨r.d, r.a, r.imm11, r.tb, r.g⟩)
  | 23 => decBranch r
  | 24 => .ok (.jmp ⟨r.off22, r.g⟩)
  | 25 => .ok (.jal ⟨r.off22, r.g⟩)
  | 26 => .ok (.jalr ⟨r.d, r.a, r.imm11, r.tb, r.g⟩)
  | 27 => need (r.a = 0 ∧ r.g = 0) (.loop ⟨r.d, r.off12⟩)
  | 28 => need (r.g = 0) (.vloop ⟨r.d, r.a, r.off12⟩)
  | 29 => decVset r
  | 30 => decVInt r
  | 31 => decVFlt r
  | 32 => decVWide r
  | 33 => decVCmp r
  | 34 => decVMask r
  | 35 => decVPerm r
  | 36 => decVRed r
  | 37 => decVCvt r
  | 38 => decVMovx r
  | 39 => decVLd r
  | 40 => decVSt r
  | 41 => .ok (.vsc ⟨r.c, r.d, r.a, r.b, r.fn, r.ta, r.tb, r.g⟩)
  | 42 => decMsync r
  | 43 => .ok (.lace ⟨r.d, r.a, r.b, r.fn, r.ta, r.tb, r.g⟩)
  | 44 => decStrm r
  | 45 => decCpy r
  | 46 => decTile r
  | 47 => decMma r
  | 48 => need (r.fn.extractLsb' 2 3 = 0 ∧ r.ta = 0)
      (.xchg ⟨r.d, r.a, r.b, r.fn.extractLsb' 1 1, r.fn.extractLsb' 0 1, r.tb, r.g⟩)
  | 49 => decSmgt r
  | 50 => decSupd r
  | 51 => decSqry r
  | 52 => decDeal r
  | 53 => decSeat r
  | 54 => need (r.b = 0 ∧ r.g.extractLsb' 0 2 = 0) (.rep ⟨r.d, r.a, r.fn, r.ta, r.tb, r.g.extractLsb' 2 1⟩)
  | 55 => decSys r
  | 56 => decVimm r
  | _ => .error .illegal

/-- The instruction of the fields: the checks of R164 that the word alone decides. -/
noncomputable def decRaw (r : Raw) (lit : Word) : Except DecErr Instr :=
  match decMajor r lit with
  | .error e => .error (if r.c = 1 ∧ convoyMajor r.maj = false then .illegal else e)
  | .ok i =>
    if r.c = 1 ∧ convoyMajor r.maj = false then .error .illegal
    else match fieldErr i with
      | some .illegal => .error .illegal
      | some .reserved => .error .reserved
      | none => .ok i

/-- A word of four bytes, the lowest first (R6). -/
def wordOfBytes (b0 b1 b2 b3 : Byte) : Word := (b3 ++ b2 ++ b1 ++ b0).cast (by decide)

/-- The four bytes of a word, the lowest first. -/
def bytesOfWord (w : Word) : List Byte :=
  [w.extractLsb' 0 8, w.extractLsb' 8 8, w.extractLsb' 16 8, w.extractLsb' 24 8]

/-- Does this word take a literal (R165)? -/
def takesLiteral (w : Word) : Bool := w.extractLsb' 25 6 == 11 && w.extractLsb' 31 1 == 0 && w.extractLsb' 15 5 ≤ 1

/-- The instruction of a word and, for lit and lith, of the word that follows it. -/
noncomputable def decodeWords (w lit : Word) : Except DecErr Instr :=
  if w = 0 then .error .zero else decRaw (splitWord w) lit

/-- Decoding: the instruction at the head of a list of bytes, and the bytes after it. -/
noncomputable def decode : List Byte → Except DecErr (Instr × List Byte)
  | b0 :: b1 :: b2 :: b3 :: rest =>
    let w := wordOfBytes b0 b1 b2 b3
    if takesLiteral w then
      match rest with
      | l0 :: l1 :: l2 :: l3 :: rest' => (decodeWords w (wordOfBytes l0 l1 l2 l3)).map (·, rest')
      | _ => .error .truncated
    else (decodeWords w 0).map (·, rest)
  | _ => .error .truncated

/-- The base fields of an instruction, from the encodings of Tables 8.2 to 8.5. A step that has no word
has the fields of the all-zero word. -/
def encRaw : Instr → Raw
  | .add f => ⟨0, 1, f.d, f.a, f.b, 0, f.ta, f.tb, f.g⟩
  | .sub f => ⟨0, 1, f.d, f.a, f.b, 1, f.ta, f.tb, f.g⟩
  | .and f => ⟨0, 1, f.d, f.a, f.b, 2, f.ta, f.tb, f.g⟩
  | .or f => ⟨0, 1, f.d, f.a, f.b, 3, f.ta, f.tb, f.g⟩
  | .xor f => ⟨0, 1, f.d, f.a, f.b, 4, f.ta, f.tb, f.g⟩
  | .andn f => ⟨0, 1, f.d, f.a, f.b, 5, f.ta, f.tb, f.g⟩
  | .sll f => ⟨0, 1, f.d, f.a, f.b, 6, f.ta, f.tb, f.g⟩
  | .srl f => ⟨0, 1, f.d, f.a, f.b, 7, f.ta, f.tb, f.g⟩
  | .sra f => ⟨0, 1, f.d, f.a, f.b, 8, f.ta, f.tb, f.g⟩
  | .rotl f => ⟨0, 1, f.d, f.a, f.b, 9, f.ta, f.tb, f.g⟩
  | .rotr f => ⟨0, 1, f.d, f.a, f.b, 10, f.ta, f.tb, f.g⟩
  | .mul f => ⟨0, 1, f.d, f.a, f.b, 11, f.ta, f.tb, f.g⟩
  | .mulh f => ⟨0, 1, f.d, f.a, f.b, 12, f.ta, f.tb, f.g⟩
  | .mulhn f => ⟨0, 1, f.d, f.a, f.b, 13, f.ta, f.tb, f.g⟩
  | .div f => ⟨0, 1, f.d, f.a, f.b, 14, f.ta, f.tb, f.g⟩
  | .divn f => ⟨0, 1, f.d, f.a, f.b, 15, f.ta, f.tb, f.g⟩
  | .rem f => ⟨0, 1, f.d, f.a, f.b, 16, f.ta, f.tb, f.g⟩
  | .remn f => ⟨0, 1, f.d, f.a, f.b, 17, f.ta, f.tb, f.g⟩
  | .slt f => ⟨0, 1, f.d, f.a, f.b, 18, f.ta, f.tb, f.g⟩
  | .sltn f => ⟨0, 1, f.d, f.a, f.b, 19, f.ta, f.tb, f.g⟩
  | .min f => ⟨0, 1, f.d, f.a, f.b, 20, f.ta, f.tb, f.g⟩
  | .max f => ⟨0, 1, f.d, f.a, f.b, 21, f.ta, f.tb, f.g⟩
  | .minn f => ⟨0, 1, f.d, f.a, f.b, 22, f.ta, f.tb, f.g⟩
  | .maxn f => ⟨0, 1, f.d, f.a, f.b, 23, f.ta, f.tb, f.g⟩
  | .clz f => ⟨0, 1, f.d, f.a, 0, 24, f.ta, 0, f.g⟩
  | .ctz f => ⟨0, 1, f.d, f.a, 0, 25, f.ta, 0, f.g⟩
  | .popc f => ⟨0, 1, f.d, f.a, 0, 26, f.ta, 0, f.g⟩
  | .addw f => ⟨0, 1, f.d, f.a, f.b, 27, f.ta, f.tb, f.g⟩
  | .subw f => ⟨0, 1, f.d, f.a, f.b, 28, f.ta, f.tb, f.g⟩
  | .sextb f => ⟨0, 1, f.d, f.a, 0, 29, f.ta, 0, f.g⟩
  | .sexth f => ⟨0, 1, f.d, f.a, 0, 30, f.ta, 0, f.g⟩
  | .sextw f => ⟨0, 1, f.d, f.a, 0, 31, f.ta, 0, f.g⟩
  | .addi f => ⟨0, 2, f.d, f.a, f.imm.extractLsb' 6 5, f.imm.extractLsb' 1 5, f.imm.extractLsb' 0 1, f.ta, f.g⟩
  | .andi f => ⟨0, 3, f.d, f.a, f.imm.extractLsb' 6 5, f.imm.extractLsb' 1 5, f.imm.extractLsb' 0 1, f.ta, f.g⟩
  | .ori f => ⟨0, 4, f.d, f.a, f.imm.extractLsb' 6 5, f.imm.extractLsb' 1 5, f.imm.extractLsb' 0 1, f.ta, f.g⟩
  | .xori f => ⟨0, 5, f.d, f.a, f.imm.extractLsb' 6 5, f.imm.extractLsb' 1 5, f.imm.extractLsb' 0 1, f.ta, f.g⟩
  | .slti f => ⟨0, 6, f.d, f.a, f.imm.extractLsb' 6 5, f.imm.extractLsb' 1 5, f.imm.extractLsb' 0 1, f.ta, f.g⟩
  | .sltni f => ⟨0, 7, f.d, f.a, f.imm.extractLsb' 6 5, f.imm.extractLsb' 1 5, f.imm.extractLsb' 0 1, f.ta, f.g⟩
  | .slli f => ⟨0, 8, f.d, f.a, 0, f.sh.extractLsb' 1 5, f.sh.extractLsb' 0 1, f.ta, f.g⟩
  | .srli f => ⟨0, 8, f.d, f.a, 8, f.sh.extractLsb' 1 5, f.sh.extractLsb' 0 1, f.ta, f.g⟩
  | .srai f => ⟨0, 8, f.d, f.a, 16, f.sh.extractLsb' 1 5, f.sh.extractLsb' 0 1, f.ta, f.g⟩
  | .lui f => ⟨0, 9, f.d, f.imm.extractLsb' 15 5, f.imm.extractLsb' 10 5, f.imm.extractLsb' 5 5, f.imm.extractLsb' 4 1, f.imm.extractLsb' 3 1, f.imm.extractLsb' 0 3⟩
  | .adpc f => ⟨0, 10, f.d, f.imm.extractLsb' 15 5, f.imm.extractLsb' 10 5, f.imm.extractLsb' 5 5, f.imm.extractLsb' 4 1, f.imm.extractLsb' 3 1, f.imm.extractLsb' 0 3⟩
  | .lit f => ⟨0, 11, f.d, 0, 0, 0, 0, 0, f.g⟩
  | .lith f => ⟨0, 11, f.d, 1, 0, 0, 0, 0, f.g⟩
  | .ldb f => ⟨0, 12, f.d, f.a, f.imm.extractLsb' 6 5, f.imm.extractLsb' 1 5, f.imm.extractLsb' 0 1, f.ta, f.g⟩
  | .ldh f => ⟨0, 13, f.d, f.a, f.imm.extractLsb' 6 5, f.imm.extractLsb' 1 5, f.imm.extractLsb' 0 1, f.ta, f.g⟩
  | .ldw f => ⟨0, 14, f.d, f.a, f.imm.extractLsb' 6 5, f.imm.extractLsb' 1 5, f.imm.extractLsb' 0 1, f.ta, f.g⟩
  | .ldd f => ⟨0, 15, f.d, f.a, f.imm.extractLsb' 6 5, f.imm.extractLsb' 1 5, f.imm.extractLsb' 0 1, f.ta, f.g⟩
  | .ldbn f => ⟨0, 16, f.d, f.a, f.imm.extractLsb' 6 5, f.imm.extractLsb' 1 5, f.imm.extractLsb' 0 1, f.ta, f.g⟩
  | .ldhn f => ⟨0, 17, f.d, f.a, f.imm.extractLsb' 6 5, f.imm.extractLsb' 1 5, f.imm.extractLsb' 0 1, f.ta, f.g⟩
  | .ldwn f => ⟨0, 18, f.d, f.a, f.imm.extractLsb' 6 5, f.imm.extractLsb' 1 5, f.imm.extractLsb' 0 1, f.ta, f.g⟩
  | .stb f => ⟨0, 19, f.d, f.a, f.imm.extractLsb' 6 5, f.imm.extractLsb' 1 5, f.imm.extractLsb' 0 1, f.ta, f.g⟩
  | .sth f => ⟨0, 20, f.d, f.a, f.imm.extractLsb' 6 5, f.imm.extractLsb' 1 5, f.imm.extractLsb' 0 1, f.ta, f.g⟩
  | .stw f => ⟨0, 21, f.d, f.a, f.imm.extractLsb' 6 5, f.imm.extractLsb' 1 5, f.imm.extractLsb' 0 1, f.ta, f.g⟩
  | .std f => ⟨0, 22, f.d, f.a, f.imm.extractLsb' 6 5, f.imm.extractLsb' 1 5, f.imm.extractLsb' 0 1, f.ta, f.g⟩
  | .beq f => ⟨0, 23, f.a, f.b, f.off.extractLsb' 7 5, f.off.extractLsb' 2 5, f.off.extractLsb' 1 1, f.off.extractLsb' 0 1, 0⟩
  | .bne f => ⟨0, 23, f.a, f.b, f.off.extractLsb' 7 5, f.off.extractLsb' 2 5, f.off.extractLsb' 1 1, f.off.extractLsb' 0 1, 1⟩
  | .blt f => ⟨0, 23, f.a, f.b, f.off.extractLsb' 7 5, f.off.extractLsb' 2 5, f.off.extractLsb' 1 1, f.off.extractLsb' 0 1, 2⟩
  | .bge f => ⟨0, 23, f.a, f.b, f.off.extractLsb' 7 5, f.off.extractLsb' 2 5, f.off.extractLsb' 1 1, f.off.extractLsb' 0 1, 3⟩
  | .bltn f => ⟨0, 23, f.a, f.b, f.off.extractLsb' 7 5, f.off.extractLsb' 2 5, f.off.extractLsb' 1 1, f.off.extractLsb' 0 1, 4⟩
  | .bgen f => ⟨0, 23, f.a, f.b, f.off.extractLsb' 7 5, f.off.extractLsb' 2 5, f.off.extractLsb' 1 1, f.off.extractLsb' 0 1, 5⟩
  | .jmp f => ⟨0, 24, f.off.extractLsb' 17 5, f.off.extractLsb' 12 5, f.off.extractLsb' 7 5, f.off.extractLsb' 2 5, f.off.extractLsb' 1 1, f.off.extractLsb' 0 1, f.g⟩
  | .jal f => ⟨0, 25, f.off.extractLsb' 17 5, f.off.extractLsb' 12 5, f.off.extractLsb' 7 5, f.off.extractLsb' 2 5, f.off.extractLsb' 1 1, f.off.extractLsb' 0 1, f.g⟩
  | .jalr f => ⟨0, 26, f.d, f.a, f.imm.extractLsb' 6 5, f.imm.extractLsb' 1 5, f.imm.extractLsb' 0 1, f.ta, f.g⟩
  | .loop f => ⟨0, 27, f.a, 0, f.off.extractLsb' 7 5, f.off.extractLsb' 2 5, f.off.extractLsb' 1 1, f.off.extractLsb' 0 1, 0⟩
  | .vloop f => ⟨0, 28, f.a, f.b, f.off.extractLsb' 7 5, f.off.extractLsb' 2 5, f.off.extractLsb' 1 1, f.off.extractLsb' 0 1, 0⟩
  | .vsetl f => ⟨0, 29, f.d, f.a, f.sew ++ f.grp ++ f.fz, f.fh ++ 0#4, 0, 0, 0⟩
  | .vsetlq f => ⟨0, 29, f.d, f.a, f.sew ++ f.grp ++ f.fz, f.fh ++ 0#4, 0, 0, 1⟩
  | .vadd f => ⟨f.c, 30, f.d, f.a, f.b, 0, f.ta, f.tb, f.m⟩
  | .vsub f => ⟨f.c, 30, f.d, f.a, f.b, 1, f.ta, f.tb, f.m⟩
  | .vand f => ⟨f.c, 30, f.d, f.a, f.b, 2, f.ta, f.tb, f.m⟩
  | .vor f => ⟨f.c, 30, f.d, f.a, f.b, 3, f.ta, f.tb, f.m⟩
  | .vxor f => ⟨f.c, 30, f.d, f.a, f.b, 4, f.ta, f.tb, f.m⟩
  | .vsll f => ⟨f.c, 30, f.d, f.a, f.b, 5, f.ta, f.tb, f.m⟩
  | .vsrl f => ⟨f.c, 30, f.d, f.a, f.b, 6, f.ta, f.tb, f.m⟩
  | .vsra f => ⟨f.c, 30, f.d, f.a, f.b, 7, f.ta, f.tb, f.m⟩
  | .vmul f => ⟨f.c, 30, f.d, f.a, f.b, 8, f.ta, f.tb, f.m⟩
  | .vmulh f => ⟨f.c, 30, f.d, f.a, f.b, 9, f.ta, f.tb, f.m⟩
  | .vmulhn f => ⟨f.c, 30, f.d, f.a, f.b, 10, f.ta, f.tb, f.m⟩
  | .vmin f => ⟨f.c, 30, f.d, f.a, f.b, 11, f.ta, f.tb, f.m⟩
  | .vmax f => ⟨f.c, 30, f.d, f.a, f.b, 12, f.ta, f.tb, f.m⟩
  | .vminn f => ⟨f.c, 30, f.d, f.a, f.b, 13, f.ta, f.tb, f.m⟩
  | .vmaxn f => ⟨f.c, 30, f.d, f.a, f.b, 14, f.ta, f.tb, f.m⟩
  | .vsadd f => ⟨f.c, 30, f.d, f.a, f.b, 15, f.ta, f.tb, f.m⟩
  | .vsaddn f => ⟨f.c, 30, f.d, f.a, f.b, 16, f.ta, f.tb, f.m⟩
  | .vssub f => ⟨f.c, 30, f.d, f.a, f.b, 17, f.ta, f.tb, f.m⟩
  | .vssubn f => ⟨f.c, 30, f.d, f.a, f.b, 18, f.ta, f.tb, f.m⟩
  | .vincw f => ⟨f.c, 30, f.d, f.a, f.b, 19, f.ta, f.tb, f.m⟩
  | .vaddb f => ⟨f.c, 30, f.d, f.a, f.b, 20, f.ta, f.tb, f.m⟩
  | .vabs f => ⟨f.c, 30, f.d, f.a, 0, 21, f.ta, 0, f.m⟩
  | .vclz f => ⟨f.c, 30, f.d, f.a, 0, 22, f.ta, 0, f.m⟩
  | .vpopc f => ⟨f.c, 30, f.d, f.a, 0, 23, f.ta, 0, f.m⟩
  | .vsel f => ⟨f.c, 30, f.d, f.a, f.b, 24, f.ta, f.tb, f.m⟩
  | .vmov f => ⟨f.c, 30, f.d, f.a, 0, 25, f.ta, 0, f.m⟩
  | .vmovStream f => ⟨f.c, 30, f.d, 0, 4#3 ++ f.n, 25, 0, 0, f.m⟩
  | .vfadd f => ⟨f.c, 31, f.d, f.a, f.b, 0, f.ta, f.tb, f.m⟩
  | .vfsub f => ⟨f.c, 31, f.d, f.a, f.b, 1, f.ta, f.tb, f.m⟩
  | .vfmul f => ⟨f.c, 31, f.d, f.a, f.b, 2, f.ta, f.tb, f.m⟩
  | .vfdiv f => ⟨f.c, 31, f.d, f.a, f.b, 3, f.ta, f.tb, f.m⟩
  | .vfsqrt f => ⟨f.c, 31, f.d, f.a, 0, 4, f.ta, 0, f.m⟩
  | .vfrsqrt f => ⟨f.c, 31, f.d, f.a, 0, 5, f.ta, 0, f.m⟩
  | .vfexp2 f => ⟨f.c, 31, f.d, f.a, 0, 6, f.ta, 0, f.m⟩
  | .vflog2 f => ⟨f.c, 31, f.d, f.a, 0, 7, f.ta, 0, f.m⟩
  | .vfmin f => ⟨f.c, 31, f.d, f.a, f.b, 8, f.ta, f.tb, f.m⟩
  | .vfmax f => ⟨f.c, 31, f.d, f.a, f.b, 9, f.ta, f.tb, f.m⟩
  | .vfabs f => ⟨f.c, 31, f.d, f.a, 0, 10, f.ta, 0, f.m⟩
  | .vfneg f => ⟨f.c, 31, f.d, f.a, 0, 11, f.ta, 0, f.m⟩
  | .vfsgn f => ⟨f.c, 31, f.d, f.a, f.b, 12, f.ta, f.tb, f.m⟩
  | .vfclass f => ⟨f.c, 31, f.d, f.a, 0, 13, f.ta, 0, f.m⟩
  | .vfma f => ⟨f.c, 31, f.d, f.a, f.b, 14, f.ta, f.tb, f.m⟩
  | .vfms f => ⟨f.c, 31, f.d, f.a, f.b, 15, f.ta, f.tb, f.m⟩
  | .vfnma f => ⟨f.c, 31, f.d, f.a, f.b, 16, f.ta, f.tb, f.m⟩
  | .vwmac f => ⟨f.c, 32, f.d, f.a, f.b, 0, f.ta, f.tb, f.m⟩
  | .vwmacn f => ⟨f.c, 32, f.d, f.a, f.b, 1, f.ta, f.tb, f.m⟩
  | .vwmacsn f => ⟨f.c, 32, f.d, f.a, f.b, 2, f.ta, f.tb, f.m⟩
  | .vwmul f => ⟨f.c, 32, f.d, f.a, f.b, 3, f.ta, f.tb, f.m⟩
  | .vwmuln f => ⟨f.c, 32, f.d, f.a, f.b, 4, f.ta, f.tb, f.m⟩
  | .vwadd f => ⟨f.c, 32, f.d, f.a, f.b, 5, f.ta, f.tb, f.m⟩
  | .vwaddn f => ⟨f.c, 32, f.d, f.a, f.b, 6, f.ta, f.tb, f.m⟩
  | .vceq f => ⟨f.c, 33, f.d, f.a, f.b, 0, f.ta, f.tb, f.m⟩
  | .vcne f => ⟨f.c, 33, f.d, f.a, f.b, 1, f.ta, f.tb, f.m⟩
  | .vclt f => ⟨f.c, 33, f.d, f.a, f.b, 2, f.ta, f.tb, f.m⟩
  | .vcle f => ⟨f.c, 33, f.d, f.a, f.b, 3, f.ta, f.tb, f.m⟩
  | .vcltn f => ⟨f.c, 33, f.d, f.a, f.b, 4, f.ta, f.tb, f.m⟩
  | .vclen f => ⟨f.c, 33, f.d, f.a, f.b, 5, f.ta, f.tb, f.m⟩
  | .vfceq f => ⟨f.c, 33, f.d, f.a, f.b, 6, f.ta, f.tb, f.m⟩
  | .vfclt f => ⟨f.c, 33, f.d, f.a, f.b, 7, f.ta, f.tb, f.m⟩
  | .vfcle f => ⟨f.c, 33, f.d, f.a, f.b, 8, f.ta, f.tb, f.m⟩
  | .vfcun f => ⟨f.c, 33, f.d, f.a, f.b, 9, f.ta, f.tb, f.m⟩
  | .pand f => ⟨f.c, 34, f.d, f.a, f.b, 0, 0, 0, f.m⟩
  | .por f => ⟨f.c, 34, f.d, f.a, f.b, 1, 0, 0, f.m⟩
  | .pxor f => ⟨f.c, 34, f.d, f.a, f.b, 2, 0, 0, f.m⟩
  | .pandn f => ⟨f.c, 34, f.d, f.a, f.b, 3, 0, 0, f.m⟩
  | .pnot f => ⟨f.c, 34, f.d, f.a, 0, 4, 0, 0, f.m⟩
  | .pset f => ⟨f.c, 34, f.d, 0, 0, 5, 0, 0, f.m⟩
  | .ppopc f => ⟨f.c, 34, f.d, f.a, 0, 6, 0, 0, f.m⟩
  | .pfirst f => ⟨f.c, 34, f.d, f.a, 0, 7, 0, 0, f.m⟩
  | .pmvx f => ⟨f.c, 34, f.d, f.a, 0, 8, 0, 0, f.m⟩
  | .vpopq f => ⟨f.c, 34, f.d, f.a, 0, 9, 0, 0, f.m⟩
  | .vperm f => ⟨f.c, 35, f.d, f.a, f.b, 0, f.ta, f.tb, f.m⟩
  | .vslup f => ⟨f.c, 35, f.d, f.a, f.b, 1, f.ta, f.tb, f.m⟩
  | .vsldn f => ⟨f.c, 35, f.d, f.a, f.b, 2, f.ta, f.tb, f.m⟩
  | .vbcast f => ⟨f.c, 35, f.d, f.a, f.b, 3, f.ta, f.tb, f.m⟩
  | .vrshp f => ⟨f.c, 35, f.d, f.a, f.b, 4, f.ta, f.tb, f.m⟩
  | .vcomp f => ⟨f.c, 35, f.d, f.a, 0, 5, f.ta, 0, f.m⟩
  | .vexpd f => ⟨f.c, 35, f.d, f.a, 0, 6, f.ta, 0, f.m⟩
  | .vsortk f => ⟨f.c, 35, f.d, f.a, f.b, 7, f.ta, f.tb, f.m⟩
  | .vredadd f => ⟨f.c, 36, f.d, f.a, 0, 0, f.ta, 0, f.m⟩
  | .vredmin f => ⟨f.c, 36, f.d, f.a, 0, 1, f.ta, 0, f.m⟩
  | .vredmax f => ⟨f.c, 36, f.d, f.a, 0, 2, f.ta, 0, f.m⟩
  | .vredminn f => ⟨f.c, 36, f.d, f.a, 0, 3, f.ta, 0, f.m⟩
  | .vredmaxn f => ⟨f.c, 36, f.d, f.a, 0, 4, f.ta, 0, f.m⟩
  | .vfredadd f => ⟨f.c, 36, f.d, f.a, 0, 5, f.ta, 0, f.m⟩
  | .vfredmin f => ⟨f.c, 36, f.d, f.a, 0, 6, f.ta, 0, f.m⟩
  | .vfredmax f => ⟨f.c, 36, f.d, f.a, 0, 7, f.ta, 0, f.m⟩
  | .vredand f => ⟨f.c, 36, f.d, f.a, 0, 8, f.ta, 0, f.m⟩
  | .vredor f => ⟨f.c, 36, f.d, f.a, 0, 9, f.ta, 0, f.m⟩
  | .vcvtfi f => ⟨f.c, 37, f.d, f.a, 0, 0, f.ta, 0, f.m⟩
  | .vcvtfn f => ⟨f.c, 37, f.d, f.a, 0, 1, f.ta, 0, f.m⟩
  | .vcvtif f => ⟨f.c, 37, f.d, f.a, 0, 2, f.ta, 0, f.m⟩
  | .vcvtnf f => ⟨f.c, 37, f.d, f.a, 0, 3, f.ta, 0, f.m⟩
  | .vcvtff f => ⟨f.c, 37, f.d, f.a, f.b, 4, f.ta, 0, f.m⟩
  | .vquant f => ⟨f.c, 37, f.d, f.a, f.b, 5, f.ta, 0, f.m⟩
  | .vdequant f => ⟨f.c, 37, f.d, f.a, f.b, 6, f.ta, 0, f.m⟩
  | .vsplat f => ⟨f.c, 38, f.d, f.a, 0, 0, f.ta, 0, f.m⟩
  | .vins f => ⟨f.c, 38, f.d, f.a, f.b, 1, f.ta, f.tb, f.m⟩
  | .vext f => ⟨f.c, 38, f.d, f.a, f.b, 2, f.ta, f.tb, f.m⟩
  | .viota f => ⟨f.c, 38, f.d, 0, 0, 3, 0, 0, f.m⟩
  | .vord f => ⟨f.c, 38, f.d, 0, 0, 4, 0, 0, f.m⟩
  | .vld f => ⟨f.c, 39, f.d, f.a, 0, 0, f.ta, 0, f.m⟩
  | .vlds f => ⟨f.c, 39, f.d, f.a, f.b, 1, f.ta, f.tb, f.m⟩
  | .vldx f => ⟨f.c, 39, f.d, f.a, f.b, 2, f.ta, f.tb, f.m⟩
  | .vldw f => ⟨f.c, 39, f.d, f.a, f.b, 3, f.ta, f.tb, f.m⟩
  | .vldsq f => ⟨f.c, 39, f.d, f.a, 0, 4, f.ta, 0, f.m⟩
  | .vgl f => ⟨f.c, 39, f.d, f.a, f.b, 5, f.ta, f.tb, f.m⟩
  | .vldb f => ⟨f.c, 39, f.d, f.a, f.b, 6, f.j, f.tb, f.m⟩
  | .vst f => ⟨f.c, 40, f.d, f.a, 0, 0, f.ta, 0, f.m⟩
  | .vsts f => ⟨f.c, 40, f.d, f.a, f.b, 1, f.ta, f.tb, f.m⟩
  | .vstx f => ⟨f.c, 40, f.d, f.a, f.b, 2, f.ta, f.tb, f.m⟩
  | .vstw f => ⟨f.c, 40, f.d, f.a, f.b, 3, f.ta, f.tb, f.m⟩
  | .vstsq f => ⟨f.c, 40, f.d, f.a, 0, 4, f.ta, 0, f.m⟩
  | .vstb f => ⟨f.c, 40, f.d, f.a, f.b, 6, f.j, f.tb, f.m⟩
  | .vsc f => ⟨f.c, 41, f.d, f.a, f.b, f.p, f.ta, f.tb, f.m⟩
  | .fenceSv f => ⟨0, 42, 0, 0, 0, 0, 0, 0, f.g⟩
  | .fenceVs f => ⟨0, 42, 0, 0, 0, 1, 0, 0, f.g⟩
  | .fenceVv f => ⟨0, 42, 0, 0, 0, 2, 0, 0, f.g⟩
  | .xfence f => ⟨0, 42, 0, f.a, f.b, 3, 0, 0, f.g⟩
  | .phend f => ⟨0, 42, 0, f.a, 0, 4, 0, 0, f.g⟩
  | .phase f => ⟨0, 42, f.d, f.a, 0, 5, 0, 0, f.g⟩
  | .waitge f => ⟨0, 42, 0, f.a, f.b, 6, f.ta, f.tb, f.g⟩
  | .waitne f => ⟨0, 42, 0, f.a, f.b, 7, f.ta, f.tb, f.g⟩
  | .unlink f => ⟨0, 42, 0, 0, 0, 8, 0, 0, f.g⟩
  | .lace f => ⟨0, 43, f.d, f.a, f.b, f.f, f.ta, f.tb, f.g⟩
  | .sunbind f => ⟨0, 44, f.d, 0, 0, 0, 0, 0, f.g⟩
  | .spos f => ⟨0, 44, f.d, f.a, 0, 1, 0, 0, f.g⟩
  | .sadv f => ⟨0, 44, f.d, 0, f.b, 2, 0, f.tb, f.g⟩
  | .stabl f => ⟨0, 44, f.d, f.a, 0, 3, 0, 0, f.g⟩
  | .cpyIn f => ⟨0, 45, f.d, f.a, f.b, f.k ++ f.j ++ 0#3, f.ta, f.tb, f.g⟩
  | .cpyInp f => ⟨0, 45, f.d, f.a, f.b, f.k ++ f.j ++ 1#3, f.ta, f.tb, f.g⟩
  | .cpyOut f => ⟨0, 45, f.d, f.a, f.b, 0#1 ++ f.j ++ 2#3, 0, f.tb, f.g⟩
  | .cpyPeer f => ⟨0, 45, f.d, f.a, f.b, 0#1 ++ f.j ++ 3#3, 0, f.tb, f.g⟩
  | .cpyMem f => ⟨0, 45, f.d, f.a, f.b, 4, f.ta, f.tb, f.g⟩
  | .tdef f => ⟨0, 46, f.d, f.a, 0, 0#1 ++ f.j ++ 0#3, f.ta, 0, f.g⟩
  | .tfree f => ⟨0, 46, f.d, 0, 0, 0#1 ++ f.j ++ 1#3, 0, 0, f.g⟩
  | .twait f => ⟨0, 46, f.d, 0, 0, 0#1 ++ f.j ++ 2#3, 0, 0, f.g⟩
  | .tstat f => ⟨0, 46, f.d, f.a, 0, 0#1 ++ f.j ++ 3#3, 0, 0, f.g⟩
  | .tready f => ⟨0, 46, f.d, 0, 0, 0#1 ++ f.j ++ 4#3, 0, 0, f.g⟩
  | .mma f => ⟨0, 47, f.d, f.a, f.b, 0, f.x, f.y, 0⟩
  | .mmav f => ⟨0, 47, f.d, f.a, f.b, 1#2 ++ f.k, f.x, f.y, 0⟩
  | .xchg f => ⟨0, 48, f.d, f.a, f.b, 0#3 ++ f.y ++ f.x, 0, f.tb, f.g⟩
  | .sdecl f => ⟨0, 49, f.d, f.a, f.b, 0, f.ta, f.tb, f.g⟩
  | .sclr f => ⟨0, 49, f.d, 0, 0, 1, 0, 0, f.g⟩
  | .sfree f => ⟨0, 49, f.d, 0, 0, 2, 0, 0, f.g⟩
  | .ssave f => ⟨0, 49, f.d, f.a, 0, 3, f.ta, 0, f.g⟩
  | .sload f => ⟨0, 49, f.d, f.a, 0, 4, f.ta, 0, f.g⟩
  | .smrg f => ⟨0, 49, f.d, f.a, 0, 5, 0, 0, f.g⟩
  | .smrgm f => ⟨0, 49, f.d, f.a, 0, 6, f.ta, 0, f.g⟩
  | .stype f => ⟨0, 49, f.d, f.a, 0, 7, 0, 0, f.g⟩
  | .supdMom f => ⟨f.c, 50, f.d, f.a, 0, 0, f.ta, 0, f.m⟩
  | .supdRes f => ⟨f.c, 50, f.d, f.a, 0, 1, f.ta, 0, f.m⟩
  | .supdTopk f => ⟨f.c, 50, f.d, f.a, f.b, 2, f.ta, f.tb, f.m⟩
  | .supdQh f => ⟨f.c, 50, f.d, f.a, f.b, 3, f.ta, f.tb, f.m⟩
  | .supdCms f => ⟨f.c, 50, f.d, f.a, f.b, 4, f.ta, f.tb, f.m⟩
  | .supdVacc f => ⟨f.c, 50, f.d, f.a, f.b, 5, f.ta, f.tb, f.m⟩
  | .supdVaccm f => ⟨f.c, 50, f.d, f.a, f.b, 6, f.ta, f.tb, f.m⟩
  | .sqMom f => ⟨0, 51, f.d, f.a, f.b, 0, 0, 0, f.g⟩
  | .sqRes f => ⟨0, 51, f.d, f.a, 0, 1, 0, 0, f.g⟩
  | .sqResn f => ⟨0, 51, f.d, f.a, f.b, 2, 0, 0, f.g⟩
  | .sqTopk f => ⟨0, 51, f.d, f.a, 0, 3, 0, 0, f.g⟩
  | .sqQh f => ⟨0, 51, f.d, f.a, f.b, 4, 0, f.tb, f.g⟩
  | .sqCms f => ⟨0, 51, f.d, f.a, f.b, 5, 0, f.tb, f.g⟩
  | .sqVacc f => ⟨0, 51, f.d, f.a, f.b, 6, 0, f.tb, f.g⟩
  | .sqTile f => ⟨0, 51, f.d, f.a, 0, 7, 0, 0, f.g⟩
  | .sqFlags f => ⟨0, 51, f.d, f.a, 0, 8, 0, 0, f.g⟩
  | .qdeal f => ⟨f.c, 52, f.d, f.a, f.b, 0, f.ta, f.tb, f.m⟩
  | .qdealf f => ⟨f.c, 52, f.d, f.a, f.b, 1, f.ta, f.tb, f.m⟩
  | .qtab f => ⟨0, 52, 0, f.a, f.b, 2, f.ta, f.tb, 0⟩
  | .qseed f => ⟨0, 52, 0, f.a, f.b, 3, f.ta, f.tb, 0⟩
  | .seatq f => ⟨0, 53, f.d, f.a, 0, 0, f.ta, 0, f.g⟩
  | .seatw f => ⟨0, 53, 0, f.a, 0, 1, f.ta, 0, f.g⟩
  | .seatr f => ⟨0, 53, 0, f.a, 0, 2, f.ta, 0, f.g⟩
  | .seatf f => ⟨0, 53, 0, f.a, 0, 3, f.ta, 0, f.g⟩
  | .seatp f => ⟨0, 53, 0, f.a, f.b, 4, f.ta, f.tb, f.g⟩
  | .seatin f => ⟨0, 53, f.d, 0, 0, 5, 0, 0, f.g⟩
  | .seatx f => ⟨0, 53, 0, f.a, f.b, 6, f.ta, f.tb, f.g⟩
  | .seatst f => ⟨0, 53, f.d, f.a, 0, 7, f.ta, 0, f.g⟩
  | .rep f => ⟨0, 54, f.n1, f.cnt, 0, f.stag, f.md, f.ma, f.mb ++ 0#2⟩
  | .trap f => ⟨0, 55, 0, 0, f.b, 0, 0, 0, f.g⟩
  | .csrr f => ⟨0, 55, f.d, f.a, f.b, 1, 0, 0, f.g⟩
  | .csrw f => ⟨0, 55, f.d, f.a, f.b, 2, 0, 0, f.g⟩
  | .csrx f => ⟨0, 55, f.d, f.a, f.b, 3, 0, 0, f.g⟩
  | .halt f => ⟨0, 55, 0, 0, 0, 4, 0, 0, f.g⟩
  | .yield f => ⟨0, 55, 0, 0, 0, 5, 0, 0, f.g⟩
  | .brk f => ⟨0, 55, 0, 0, f.b, 6, 0, 0, f.g⟩
  | .rett f => ⟨0, 55, 0, 0, 0, 7, 0, 0, f.g⟩
  | .lbrk f => ⟨0, 55, 0, 0, 0, 8, 0, 0, f.g⟩
  | .spawn f => ⟨0, 55, f.d, f.a, f.b, 9, f.ta, f.tb, f.g⟩
  | .nop => ⟨0, 55, 0, 0, 0, 10, 0, 0, 0⟩
  | .vaddi f => ⟨f.c, 56, f.d, f.a, f.imm.extractLsb' 3 5, f.imm.extractLsb' 0 3 ++ 0#2, 0, 0, f.m⟩
  | .vandi f => ⟨f.c, 56, f.d, f.a, f.imm.extractLsb' 3 5, f.imm.extractLsb' 0 3 ++ 0#2, 0, 1, f.m⟩
  | .vori f => ⟨f.c, 56, f.d, f.a, f.imm.extractLsb' 3 5, f.imm.extractLsb' 0 3 ++ 0#2, 1, 0, f.m⟩
  | .vxori f => ⟨f.c, 56, f.d, f.a, f.imm.extractLsb' 3 5, f.imm.extractLsb' 0 3 ++ 0#2, 1, 1, f.m⟩
  | .vslli f => ⟨f.c, 56, f.d, f.a, 0#2 ++ f.sh.extractLsb' 3 3, f.sh.extractLsb' 0 3 ++ 1#2, 0, 0, f.m⟩
  | .vsrli f => ⟨f.c, 56, f.d, f.a, 0#2 ++ f.sh.extractLsb' 3 3, f.sh.extractLsb' 0 3 ++ 1#2, 0, 1, f.m⟩
  | .vsrai f => ⟨f.c, 56, f.d, f.a, 0#2 ++ f.sh.extractLsb' 3 3, f.sh.extractLsb' 0 3 ++ 1#2, 1, 0, f.m⟩
  | .vmini f => ⟨f.c, 56, f.d, f.a, f.imm.extractLsb' 3 5, f.imm.extractLsb' 0 3 ++ 1#2, 1, 1, f.m⟩
  | .vmaxi f => ⟨f.c, 56, f.d, f.a, f.imm.extractLsb' 3 5, f.imm.extractLsb' 0 3 ++ 2#2, 0, 0, f.m⟩
  | .vceqi f => ⟨f.c, 56, f.d, f.a, f.imm.extractLsb' 3 5, f.imm.extractLsb' 0 3 ++ 2#2, 0, 1, f.m⟩
  | .phaseEndComplete _ => ⟨0, 0, 0, 0, 0, 0, 0, 0, 0⟩
  | .copyCompletion _ => ⟨0, 0, 0, 0, 0, 0, 0, 0, 0⟩
  | .peerDelivery _ => ⟨0, 0, 0, 0, 0, 0, 0, 0, 0⟩
  | .matrixJobStart _ => ⟨0, 0, 0, 0, 0, 0, 0, 0, 0⟩
  | .matrixJobComplete _ => ⟨0, 0, 0, 0, 0, 0, 0, 0, 0⟩
  | .exchangeBlockLanding _ => ⟨0, 0, 0, 0, 0, 0, 0, 0, 0⟩
  | .spawnResult _ => ⟨0, 0, 0, 0, 0, 0, 0, 0, 0⟩
  | .loadLanding _ => ⟨0, 0, 0, 0, 0, 0, 0, 0, 0⟩
  | .preemptionRequest _ => ⟨0, 0, 0, 0, 0, 0, 0, 0, 0⟩
  | .preemptionLanding _ => ⟨0, 0, 0, 0, 0, 0, 0, 0, 0⟩
  | .handResume _ => ⟨0, 0, 0, 0, 0, 0, 0, 0, 0⟩
  | .watchdog _ => ⟨0, 0, 0, 0, 0, 0, 0, 0, 0⟩
  | .submissionRecord _ => ⟨0, 0, 0, 0, 0, 0, 0, 0, 0⟩
  | .graphAdmit => ⟨0, 0, 0, 0, 0, 0, 0, 0, 0⟩
  | .nodeDispatch => ⟨0, 0, 0, 0, 0, 0, 0, 0, 0⟩
  | .declaredFill _ => ⟨0, 0, 0, 0, 0, 0, 0, 0, 0⟩
  | .nodeComplete _ => ⟨0, 0, 0, 0, 0, 0, 0, 0, 0⟩
  | .systemThreadExit _ => ⟨0, 0, 0, 0, 0, 0, 0, 0, 0⟩
  | .pairCommit _ => ⟨0, 0, 0, 0, 0, 0, 0, 0, 0⟩
  | .powerWindow _ => ⟨0, 0, 0, 0, 0, 0, 0, 0, 0⟩
  | .bankFail _ => ⟨0, 0, 0, 0, 0, 0, 0, 0, 0⟩
  | .patrolScrub _ => ⟨0, 0, 0, 0, 0, 0, 0, 0, 0⟩
  | .stackOffline _ => ⟨0, 0, 0, 0, 0, 0, 0, 0, 0⟩
  | .clusterMismatchLimit _ => ⟨0, 0, 0, 0, 0, 0, 0, 0, 0⟩
  | .coreRetire _ => ⟨0, 0, 0, 0, 0, 0, 0, 0, 0⟩
  | .reset _ => ⟨0, 0, 0, 0, 0, 0, 0, 0, 0⟩
  | .powerRamp _ => ⟨0, 0, 0, 0, 0, 0, 0, 0, 0⟩
  | .clockLock _ => ⟨0, 0, 0, 0, 0, 0, 0, 0, 0⟩
  | .crossingCalibration _ => ⟨0, 0, 0, 0, 0, 0, 0, 0, 0⟩
  | .hbmTraining _ => ⟨0, 0, 0, 0, 0, 0, 0, 0, 0⟩
  | .crossingLost _ => ⟨0, 0, 0, 0, 0, 0, 0, 0, 0⟩
  | .fieldLost _ => ⟨0, 0, 0, 0, 0, 0, 0, 0, 0⟩
  | .queueEnable _ => ⟨0, 0, 0, 0, 0, 0, 0, 0, 0⟩
  | .tail _ => ⟨0, 0, 0, 0, 0, 0, 0, 0, 0⟩
  | .registerWrite _ => ⟨0, 0, 0, 0, 0, 0, 0, 0, 0⟩
  | .asidLoad _ => ⟨0, 0, 0, 0, 0, 0, 0, 0, 0⟩
  | .invalidate _ => ⟨0, 0, 0, 0, 0, 0, 0, 0, 0⟩
  | .ctxRegion _ => ⟨0, 0, 0, 0, 0, 0, 0, 0, 0⟩
  | .objOwner _ => ⟨0, 0, 0, 0, 0, 0, 0, 0, 0⟩
  | .setFlim _ => ⟨0, 0, 0, 0, 0, 0, 0, 0, 0⟩
  | .resume _ => ⟨0, 0, 0, 0, 0, 0, 0, 0, 0⟩
  | .forward _ => ⟨0, 0, 0, 0, 0, 0, 0, 0, 0⟩
  | .cancel _ => ⟨0, 0, 0, 0, 0, 0, 0, 0, 0⟩
  | .setTimeout _ => ⟨0, 0, 0, 0, 0, 0, 0, 0, 0⟩
  | .cancelGraph _ => ⟨0, 0, 0, 0, 0, 0, 0, 0, 0⟩
  | .stripBreakpoint _ => ⟨0, 0, 0, 0, 0, 0, 0, 0, 0⟩
  | .watchpoint _ => ⟨0, 0, 0, 0, 0, 0, 0, 0, 0⟩
  | .machineHalt _ => ⟨0, 0, 0, 0, 0, 0, 0, 0, 0⟩
  | .machineResume _ => ⟨0, 0, 0, 0, 0, 0, 0, 0, 0⟩
  | .dudelRegion _ => ⟨0, 0, 0, 0, 0, 0, 0, 0, 0⟩
  | .gangSet _ => ⟨0, 0, 0, 0, 0, 0, 0, 0, 0⟩
  | .deviceNumber _ => ⟨0, 0, 0, 0, 0, 0, 0, 0, 0⟩
  | .reduce _ => ⟨0, 0, 0, 0, 0, 0, 0, 0, 0⟩
  | .mcast _ => ⟨0, 0, 0, 0, 0, 0, 0, 0, 0⟩
  | .attest _ => ⟨0, 0, 0, 0, 0, 0, 0, 0, 0⟩
  | .tileReset _ => ⟨0, 0, 0, 0, 0, 0, 0, 0, 0⟩
  | .debuggerStop _ => ⟨0, 0, 0, 0, 0, 0, 0, 0, 0⟩
  | .debuggerWrite _ => ⟨0, 0, 0, 0, 0, 0, 0, 0, 0⟩
  | .debuggerRestart _ => ⟨0, 0, 0, 0, 0, 0, 0, 0, 0⟩
  | .inboundRequest _ => ⟨0, 0, 0, 0, 0, 0, 0, 0, 0⟩
  | .linkTraining _ => ⟨0, 0, 0, 0, 0, 0, 0, 0, 0⟩
  | .linkDown _ => ⟨0, 0, 0, 0, 0, 0, 0, 0, 0⟩
  | .gangAcceptance _ => ⟨0, 0, 0, 0, 0, 0, 0, 0, 0⟩
  | .gangLaunchTimeout _ => ⟨0, 0, 0, 0, 0, 0, 0, 0, 0⟩
  | .gangAbort _ => ⟨0, 0, 0, 0, 0, 0, 0, 0, 0⟩
  | .reductionComplete _ => ⟨0, 0, 0, 0, 0, 0, 0, 0, 0⟩
  | .reductionTimeout _ => ⟨0, 0, 0, 0, 0, 0, 0, 0, 0⟩
  | .mcastAck _ => ⟨0, 0, 0, 0, 0, 0, 0, 0, 0⟩
  | .replayDelivery _ => ⟨0, 0, 0, 0, 0, 0, 0, 0, 0⟩
  | .storeAcknowledged _ => ⟨0, 0, 0, 0, 0, 0, 0, 0, 0⟩
  | .copyBytesLanded _ => ⟨0, 0, 0, 0, 0, 0, 0, 0, 0⟩
  | .failingCoreClear _ => ⟨0, 0, 0, 0, 0, 0, 0, 0, 0⟩
  | .systemCoreAccess _ => ⟨0, 0, 0, 0, 0, 0, 0, 0, 0⟩

/-- Is this a step of the device that no word names? -/
def isEvent : Instr → Bool
  | .phaseEndComplete _ => true
  | .copyCompletion _ => true
  | .peerDelivery _ => true
  | .matrixJobStart _ => true
  | .matrixJobComplete _ => true
  | .exchangeBlockLanding _ => true
  | .spawnResult _ => true
  | .loadLanding _ => true
  | .preemptionRequest _ => true
  | .preemptionLanding _ => true
  | .handResume _ => true
  | .watchdog _ => true
  | .submissionRecord _ => true
  | .graphAdmit => true
  | .nodeDispatch => true
  | .declaredFill _ => true
  | .nodeComplete _ => true
  | .systemThreadExit _ => true
  | .pairCommit _ => true
  | .powerWindow _ => true
  | .bankFail _ => true
  | .patrolScrub _ => true
  | .stackOffline _ => true
  | .clusterMismatchLimit _ => true
  | .coreRetire _ => true
  | .reset _ => true
  | .powerRamp _ => true
  | .clockLock _ => true
  | .crossingCalibration _ => true
  | .hbmTraining _ => true
  | .crossingLost _ => true
  | .fieldLost _ => true
  | .queueEnable _ => true
  | .tail _ => true
  | .registerWrite _ => true
  | .asidLoad _ => true
  | .invalidate _ => true
  | .ctxRegion _ => true
  | .objOwner _ => true
  | .setFlim _ => true
  | .resume _ => true
  | .forward _ => true
  | .cancel _ => true
  | .setTimeout _ => true
  | .cancelGraph _ => true
  | .stripBreakpoint _ => true
  | .watchpoint _ => true
  | .machineHalt _ => true
  | .machineResume _ => true
  | .dudelRegion _ => true
  | .gangSet _ => true
  | .deviceNumber _ => true
  | .reduce _ => true
  | .mcast _ => true
  | .attest _ => true
  | .tileReset _ => true
  | .debuggerStop _ => true
  | .debuggerWrite _ => true
  | .debuggerRestart _ => true
  | .inboundRequest _ => true
  | .linkTraining _ => true
  | .linkDown _ => true
  | .gangAcceptance _ => true
  | .gangLaunchTimeout _ => true
  | .gangAbort _ => true
  | .reductionComplete _ => true
  | .reductionTimeout _ => true
  | .mcastAck _ => true
  | .replayDelivery _ => true
  | .storeAcknowledged _ => true
  | .copyBytesLanded _ => true
  | .failingCoreClear _ => true
  | .systemCoreAccess _ => true
  | _ => false

/-- The word of an instruction. -/
def encodeWord (i : Instr) : Word := joinWord (encRaw i)

/-- The literal that follows an instruction's word, when one does (R165). -/
def literalOf : Instr → Option Word
  | .lit f => some f.lit
  | .lith f => some f.lit
  | _ => none

/-- The bytes of an instruction as they stand in memory: none for a step that has no word. -/
def encode (i : Instr) : List Byte :=
  if isEvent i then [] else
  bytesOfWord (encodeWord i) ++ (match literalOf i with | some l => bytesOfWord l | none => [])

/-- The length of an instruction in bytes (R165). -/
def lengthOf (i : Instr) : Nat := match literalOf i with | some _ => 8 | none => 4

/-- What the decoder reads from an instruction whose bits are `w`, numbered as the opcode table numbers
them: the first word is bits 31:0, a literal bits 63:32. Bits at and above `nbits` are zero. -/
noncomputable def decodeTableWord (nbits w : Nat) : Option Instr :=
  let v := w % 2 ^ nbits
  match decode (bytesOfWord (BitVec.ofNat 32 v) ++ bytesOfWord (BitVec.ofNat 32 (v / 2 ^ 32))) with
  | .ok (i, _) => some i
  | .error _ => none

end Sys2Proof
end

