-- ==== Sys2Proof/Config.lean ====
section
/-! DEFINITION. What an implementation fixes and the spec leaves open: the sizes the spec states, and the free
values. A free value is an opaque constant, so that no proof can see what it is. -/

namespace Sys2Proof.Config

/-- Where the spec allows two or more outcomes (an unfenced read, R77, R79; a stale translation, R39; an
instruction that names the timing), the outcome is this choice, applied to a counter of the state (log 2). -/
opaque freeChoice : Nat → Nat

/-- The open choices of the loads of one strip (R82): a rewound strip that executes again makes them as it did before. The first
number names the execution of the strip, the second counts its element reads, the third names a choice of that read (log 2). -/
opaque freeRead : Nat → Nat → Nat → Nat

/-- Cycles that pass on a hand between two points at which the program sees its CYC (R352): the spec leaves
durations to the part (log 3). -/
opaque freeCycles : Nat → BitVec 64

/-- Does an ML-DSA-44 public key verify a signature over a digest (R402)? The scheme is published elsewhere (log 4). -/
opaque mldsaVerify : List Byte → BitVec 256 → List Byte → Bool
/-- The ML-DSA-44 public key of the key pair that a seed gives (R403, log 4). -/
opaque mldsaPublic : BitVec 256 → List Byte
/-- The ML-DSA-44 signature over a digest by the key pair that a seed gives (R403, log 4). -/
opaque mldsaSign : BitVec 256 → BitVec 256 → List Byte

/-- The device serial (R403), which each device holds of its own (log 4). -/
opaque deviceSerial : BitVec 64
/-- The fused minimum security version (R402, R403). -/
opaque fusedVersion : BitVec 32
/-- The digest of the accepted public key, in fuses (R402, log 4). -/
opaque fusedKeyDigest : BitVec 256
/-- The unique secret in fuses (R403, log 4). -/
opaque fusedSecret : List Byte
/-- The seed of the key that certifies the identity key: it derives from the fused secret alone (R403, log 4). -/
opaque certifierSeed : List Byte → BitVec 256

/-- Where the runtime's exit stub stands, and the top of the stack that it allocates for a node (R395): the runtime's to fix (log 88). -/
opaque exitStub : BitVec 64
/-- The address of the runtime's exit, which a thread may call (R395, log 88). -/
opaque runtimeExit : BitVec 64
/-- The top of the stack of the thread that a node sequence number names (R395, log 88). -/
opaque stackTop : Nat → BitVec 64

/-- Hands per core, cores per quad, quads per field, fields (R2). -/
def handsPerCore : Nat := 4
/-- Cores in service on a device (R2). -/
def coreCount : Nat := 144
/-- Cores per field (R3). -/
def coresPerField : Nat := 24
/-- Fields (R2). -/
def fieldCount : Nat := 6

/-- First byte address of HBM4E stack k is k times this (R55). -/
def stackBytes : Nat := 0x14_0000_0000
/-- Usable bytes of a stack: all but its top 1 GiB, the heel area (R55). -/
def stackUsable : Nat := 0x14_0000_0000 - 0x4000_0000
/-- Heel images that the 1 GiB of one stack holds; a field with both stacks holds 13,421,772 (R60, R56). -/
def heelImagesPerStack : Nat := 6710886

/-- The key of bench byte `o` of core `c` in the memory of the model: benches lie above every physical
address of Table 23.1, 8 MiB apart. -/
def benchKey (c o : Nat) : Nat := 0x1000_0000_0000 + c * 0x80_0000 + o

/-- First VA of the bench window (R29). -/
def benchWindow : Nat := 0x01FF_FFFF_FF80_0000
/-- Window offsets at and above this one hold the copy engine's command chain (R63). -/
def chainOffset : Nat := 0x77_0000
/-- Window offsets at and above this one are the bench hole (Table 2.1). -/
def benchHole : Nat := 0x78_0000
/-- Entries of a core's command chain (R271). -/
def chainEntries : Nat := 960
/-- Granules of a hand's summary budget (R292). -/
def summaryBudget : Nat := 2048
/-- Bytes of undo images that a strip may hold (R72). -/
def undoBytes : Nat := 524288
/-- Granules of a hand's strip store buffer (R73). -/
def ssbGranules : Nat := 1024
/-- Node entries of the ready pool (R340). -/
def poolEntries : Nat := 16384
/-- Seats that a field stores (R324). -/
def seatStorage : Nat := 65536
/-- Pinned lines of a hand (R59). -/
def pinLimit : Nat := 1024
/-- Bytes that the root-port responder holds during a machine halt (R392). -/
def haltBuffer : Nat := 67108864

end Sys2Proof.Config
end

