-- ==== Sys2Proof/Machine/State.lean ====
section
/-! DEFINITION. The state of the device as plain data: everything the spec gives the machine a name for, and
State.reset. The current hand stands in `State.hand`, the others in `State.others`. A map with a default is a
list of (key, value) pairs with rising keys and no entry equal to the default. -/

namespace Sys2Proof.Machine

/-- A sparse map from numbers: keys strictly rising, no entry equal to the map's default. -/
abbrev SMap (α : Type) := List (Nat × α)

/-- Memory: physical HBM4E addresses and bench keys (Config.benchKey); an unlisted byte reads as zero (log 1). -/
abbrev Mem := List Host.Cell

/-- A vector clock: for each member ordinal, how many of its writes are covered. -/
abbrev Clock := SMap Nat

/-! ## Traps and waits -/

/-- The causes of Table 18.1 that a trap or a fault record carries; the last two before SUMMARY-TYPE name failed fills. -/
inductive Cause where
  | zeroWord | illegalOpcode | reservedField | convoyConflict | emptyRead | groupAlign | groupOverlap
  | repeatFrame | softwareTrap | breakpoint | misaligned
  | translation | permission | compressedAccess | formatAlign | formatPath | blockCheck | fetchFault
  | streamUnbound | tileState | expandLength | checksum | summaryType | summaryCapacity | summaryParam | dealerRange | dealerTable
  | seatState | seatNotHeld | seatCapacity
  | uncorrectable | watchdog | gangAbort | stripRetryExhausted
  | stackOffline | quadRetired | pairMismatch | linkDown | linkVersion | crossingLost | fieldLost
  | dudelDiverge | cacheSliceRetired
  deriving DecidableEq, Repr

/-- What a trap reports (Table 18.1, Table 18.2). -/
structure Trap where
  cause : Cause
  sub : Nat
  level : Nat
  access : Nat
  tval : Reg64
  tidx0 : Reg64
  tidx1 : Reg64
  tidx2 : Reg64
  struct : Nat
  unit : Nat
  deriving DecidableEq, Repr

/-- Why a hand waits. `point` (a backward transfer), `rewound` (after a strip's third retry) and `after` (an
instruction that ends at a point) stand at a point of Table 7.10 where a request lands; `save` has landed there, with
the RESUME that its context will hold (R364); `stop` waits for the debugger (R390); `vector` for the vector unit (R346). -/
inductive Wait where
  | register
  | order
  | room
  | tileGate
  | twait
  | phend
  | seatw
  | seatin
  | live
  | opening
  | halt
  | heel
  | vector
  | point
  | rewound
  | after
  | save (resume : Nat)
  | stop
  deriving DecidableEq, Repr

/-- What a hand is doing (R92, R364, R360, R391). `none`: no hand here. -/
inductive HandStatus where
  | none
  | running
  | waiting (w : Wait)
  | suspended (seq : Nat)
  | stopped
  | saved
  | retired
  deriving DecidableEq, Repr

/-- How the last instruction ended, read by the convoy's issue (R163) and cleared by every step: the model's own. -/
inductive Latch where
  | clear
  | trapped (t : Trap)
  | waited (w : Wait)
  deriving DecidableEq, Repr

/-! ## Memory writes as the ordering rules see them -/

/-- One byte written by a hand of a task, or by an engine for it (R97): which member, its place in that member's
writes, the element access it belongs to, its class (Table 6.1), the member's earlier writes of each class that
are ordered before it, the writes of other members that precede it, when it was performed (0: not yet), the live
byte that it then replaced, and whether it is an engine's delivery into a bench tile (R126). -/
structure Wr where
  key : Nat
  val : Byte
  member : Nat
  seq : Nat
  ekey : Nat
  width : Nat
  cls : Nat
  fen : SMap Nat
  prec : Clock
  perf : Nat
  was : Byte
  tile : Bool
  deriving DecidableEq, Repr

/-- A byte of a store that stands in a strip store buffer (R73) or is held for heel room (R62), with the virtual page
whose translation it used (none: a bench byte), its class, and the scatter lanes that its acknowledgement counts on (R100). -/
structure Buffered where
  key : Nat
  val : Byte
  seq : Nat
  held : Bool
  page : Option Nat
  cls : Nat
  lanes : List Nat
  deriving DecidableEq, Repr

/-- The link tag of a cached line (R58), and when the line was last reached, as a rank among the tagged lines (R57). -/
structure Tag where
  hand : Nat
  serial : BitVec 16
  pinned : Bool
  used : Nat
  deriving DecidableEq, Repr

/-- A heel image and its index entry (R60). `writer` is the hand's id, or the command's sequence number; `hand` is the hand
that stored or issued the command. -/
structure HeelImage where
  line : Nat
  task : Nat
  byCmd : Bool
  writer : Nat
  hand : Nat
  epoch : Nat
  mask : BitVec 128
  image : List Byte
  deriving DecidableEq, Repr

/-- Engine writes that a linked read of a completion word makes visible (R111, R124): the task whose hands see them so
(none: every hand), the word's key, the value written to it, the bytes published before it, and the command's place among
its member's writes (class, member, place; none: no write of a task). -/
structure Token where
  task : Option Nat
  word : Nat
  value : Reg64
  bytes : Mem
  cmd : Option (Nat × Nat × Nat)
  deriving DecidableEq, Repr

/-- What the live value of a byte came from when it is a task's logged write: its performance count, and for an ordinary
store not yet settled the value that SC loads still return there (R113). -/
structure Note where
  perf : Nat
  under : Option Byte
  deriving DecidableEq, Repr

/-- A byte that a copy or exchange delivered into a bench tile (R126): the tile and fill generation, the value
delivered and the one it replaced. -/
structure Delivered where
  tile : Nat
  gen : Nat
  new : Byte
  old : Byte
  deriving DecidableEq, Repr

/-! ## Summary slots (R291 to R302) -/

/-- The body of a summary slot (Table 15.3). Cells are C as an unsigned 128-bit number (default 0). -/
inductive Body where
  | moments (count : Reg64) (pinf ninf : BitVec 32) (min max : BitVec 32) (sum : BitVec 352) (sumsq : BitVec 640)
  | reservoir (offered : Reg64) (entries : List (BitVec 32 × BitVec 32))
  | topk (offered : Reg64) (entries : List (BitVec 32 × BitVec 32))
  | qhist (counts : SMap Nat)
  | cms (total : Reg64) (counters : SMap Nat)
  | acc (cells : SMap Nat) (nanCells : List Nat)
  deriving DecidableEq, Repr

/-- A summary slot: its descriptor (R291), NaN count, flags, minor version and body. -/
structure Slot where
  typ : Nat
  param : BitVec 24
  seed : BitVec 32
  nans : BitVec 32
  lost : Bool
  ovf : Bool
  sat : Bool
  body : Body
  deriving DecidableEq, Repr

/-! ## The hand -/

/-- A loop-stack entry (R190). -/
structure LoopEntry where
  start : Reg64
  stop : Reg64
  count : Reg64
  index : Reg64
  deriving DecidableEq, Repr

/-- A repeat frame in progress (R166): the words it captured, its rep word's fields and count, the replay and the member. -/
structure Frame where
  n : Nat
  words : List Word
  count : Nat
  stag : Nat
  md : Bool
  ma : Bool
  mb : Bool
  k : Nat
  j : Nat
  deriving DecidableEq, Repr

/-- A bound stream (R264): record words e0 to e8, e10, e11, base as computed, chain word, table tile, position, and the views
(snapshot, writes that happened before) that the hand has had since the lace or the last xfence to STR (R123). -/
structure Stream where
  shape : List Word
  base : Reg64
  chain : Reg64
  tile : Nat
  pos : Reg64
  views : List (Mem × Clock)
  deriving DecidableEq, Repr

/-- What an outstanding instruction will fill (R83, R237, R239): scalar x, a vector group, a predicate, a summary slot, or
nothing but memory (a vector store whose data are still to come). -/
inductive Dest where
  | scalar (r : Nat)
  | vector (r n : Nat)
  | pred (r : Nat)
  | slot (n : Nat)
  | memory
  deriving DecidableEq, Repr

/-- An outstanding producer: its destination, its access class when it accesses memory, for a spawn the submission
whose status fills it (R180), what it reads, which earlier producers fill first (R237), whether it can raise a flag (R84),
and the bytes of the vector file that it replaced (R366). -/
structure Producer where
  dest : Dest
  cls : Option Nat
  spawn : Option Nat
  srcs : List Dest
  flags : Bool
  was : SMap Byte
  deriving DecidableEq, Repr

/-- A store, element group or scatter element whose acknowledgement is outstanding (R100): its class, and the
lane of a scatter element. -/
structure Ack where
  cls : Nat
  lane : Option Nat
  deriving DecidableEq, Repr

/-- A matrix job (R281): its word, its tiles and slot, the K row it starts from, the copy it follows (R278; 0: it is issued again, R284),
whether it runs, and its place in its core's issue order (R282). -/
structure Job where
  word : Word
  handle : Nat
  vector : Bool
  block : Nat
  ta : Nat
  tb : Nat
  k0 : Nat
  follows : Option Nat
  copyEnded : Bool
  started : Bool
  issued : Nat
  deriving DecidableEq, Repr

/-- The strip checkpoint (R146). -/
structure Checkpoint where
  x : Vector Reg64 32
  streams : Vector (Option Stream) 4
  loops : List LoopEntry
  lq : Vector (List Word) 4
  vl : Nat
  sew : BitVec 2
  grp : BitVec 2
  fz : Bool
  fh : Bool
  vprof : Nat
  stripno : Reg64
  orun : Reg64
  onext : Reg64
  fstat : Reg64
  xidx : Vector Reg64 5
  handles : SMap Slot
  shifts : SMap Word
  pc : Reg64
  deriving DecidableEq, Repr

/-- The strip record being counted (R388): the opening's address, CYC at the opening, whether a wait that STALL counts
occurred (how many cycles it took is open, log 3), beats of ARITH and MEM, rewinds, ACTIVE. -/
structure RecordCount where
  addr : Reg64
  cyc0 : Reg64
  stall : Bool
  abusy : Nat
  mbusy : Nat
  rewinds : Nat
  active : Nat
  deriving DecidableEq, Repr

/-- A strip breakpoint (R390). -/
structure Break where
  addr : Reg64
  strip : Option Reg64
  deriving DecidableEq, Repr

/-- A watchpoint, and the first match of the current strip: address, STRIPNO, element (R390). -/
structure Watch where
  base : Reg64
  size : Nat
  onRead : Bool
  onWrite : Bool
  hit : Option (Reg64 × Reg64 × Nat)
  deriving DecidableEq, Repr

/-- A phend whose arrival stands (R102): scope, the phase end waited for, and where the instruction is. -/
structure Arrived where
  scope : Nat
  number : Nat
  pc : Reg64
  deriving DecidableEq, Repr

/-- The CSRs of Table 8.9 by their fields (Table 8.10), the run values of R149, and the numbers of ended copies that
CPYDONE has not reached (R272). -/
structure Csrs where
  vl : Nat
  sew : BitVec 2
  grp : BitVec 2
  fz : Bool
  fh : Bool
  vprof : Nat
  vstart : Nat
  stripno : Reg64
  ordbase : Reg64
  orun : Reg64
  onext : Reg64
  mismatch : Nat
  active : Nat
  fpcr : BitVec 2
  fstat : Reg64
  xidx : Vector Reg64 5
  cyc : Reg64
  wdog : Reg64
  tvec : Reg64
  tpc : Reg64
  tcause : Reg64
  tval : Reg64
  tidx0 : Reg64
  tidx1 : Reg64
  tidx2 : Reg64
  tstatus : Reg64
  repidx : Reg64
  cpyseq : Reg64
  cpydone : Reg64
  cpyEnded : List Nat
  srecbase : Reg64
  srecctl : Reg64
  deriving DecidableEq, Repr

/-- What orders a hand's accesses and a rewind takes back (R82): the fences between its paths, the linked reads of completion words,
the writes that precede its next one, and the tiles whose delivery it saw. -/
structure Sight where
  fences : SMap Nat
  links : List (Nat × Nat)
  prec : Clock
  sawTiles : List (Nat × Nat)
  deriving DecidableEq, Repr

/-- The strip (R145 to R148, R312, R362, R388): protection, checkpoint, undo images (each handle's slot before the
strip changed it), which granules have one, the handles declared or loaded in it, the granules of slots freed in
it, the strip store buffer, the retry count, the record being counted, and, the model's own, where the open choices of its loads start,
how many it has made, and what ordered the hand's accesses at the opening (R82). -/
structure Strip where
  prot : Bool
  ckpt : Option Checkpoint
  undo : SMap Slot
  undoGranules : List (Nat × Nat)
  fresh : List Nat
  freedPending : Nat
  ssb : List Buffered
  retries : Nat
  record : RecordCount
  choices : Nat
  drawn : Nat
  sight : Sight
  deriving DecidableEq, Repr

/-- What orders a hand's memory accesses: the link serial and pins (R105, R59), its snapshot (R96), the writes that happen before its next
access and those that precede its next write (R95, R97), its own write count, for each pair of classes how many own writes are ordered
(Table 4.1, R121), linked reads of completion words and the classes ordered after them (R124), how many completion words were written
before its snapshot, tiles whose delivery it saw (R126), its phase epoch (R60), outstanding acknowledgements (R100), its phase numbers
(R103). -/
structure Order where
  serial : BitVec 16
  pins : List Nat
  snap : Mem
  hb : Clock
  prec : Clock
  wseq : Nat
  fences : SMap Nat
  links : List (Nat × Nat)
  known : Nat
  sawTiles : List (Nat × Nat)
  epoch : Nat
  acks : List Ack
  seen : SMap Nat
  deriving DecidableEq, Repr

/-- Scheduling, debug and replay state of a hand: its deficit (R347), a held pre-emption request (R150), a gang abort
and a migration to come (R367, R363), retired instructions (Table 18.6), breakpoints and watchpoints (R390), a
wanted stop (R392) and a stop that a restart passes (R391), whether it has just ended an instruction at a point where a request can
land (R353), an error an engine met for it (R74), a trap that waits for an earlier spawn's status (R357), coming disagreements of the
shifted check (R261), the RESUME of a landing whose save is still to come (R364), and the context save area it stands in (R364). -/
structure Sched where
  deficit : Int
  preempt : Bool
  gangAbort : Option Nat
  migrate : Bool
  retiredCount : Nat
  breaks : SMap Break
  watches : SMap Watch
  stopWanted : Bool
  skipStop : Bool
  point : Bool
  unrecoverable : Option Trap
  due : Option Trap
  landed : Option Nat
  mismatches : List (Nat × Bool)
  savedArea : Option (Nat × Nat)
  deriving DecidableEq, Repr

/-- Everything one hand carries (Table 8.1, Table 8.9, R141, R146). -/
structure Hand where
  /- identity and placement -/
  status : HandStatus
  id : Nat
  core : Nat
  slot : Nat
  dispatchCore : Nat
  task : Nat
  asid : BitVec 16
  taskid : Reg64
  member : Nat
  prio : Nat
  /- register files (Table 8.1) -/
  x : Vector Reg64 32
  v : SMap Byte
  p : Vector (BitVec 1024) 32
  producers : List Producer
  streams : Vector (Option Stream) 4
  lq : Vector (List Word) 4
  handles : SMap Slot
  bound : BitVec 64
  dealer : SMap Word
  inbox : List (BitVec 32)
  /- resumable position -/
  pc : Reg64
  loops : List LoopEntry
  frame : Option Frame
  convoy : Option Reg64
  arrived : Option Arrived
  csr : Csrs
  strip : Strip
  ord : Order
  jobs : List Job
  sched : Sched
  deriving DecidableEq, Repr

/-! ## Cores and fields -/

/-- A tile entry (Table 3.2) with the invisible fill count and the bytes landed of each granule (R66, R68), and the count of
performed writes when it became READY (R87; the model's own). -/
structure Tile where
  state : Nat
  plane : Bool
  efmt : Nat
  rows : Nat
  cols : Nat
  gen : Nat
  base : Nat
  fill : Nat
  landed : SMap Nat
  since : Nat
  deriving DecidableEq, Repr

/-- A core (R54, R64, R71, R346, R363, R381, R382). `ptr` is the hand slot that the sequencer chose last; `corrected` counts
the corrected symbols of each bank, `uncorrectable` and `rebuilds` the other reads of R64's table. -/
structure Core where
  tiles : SMap Tile
  delivered : SMap Delivered
  chain : Nat
  ptr : Nat
  granted : Option Nat
  clusters : SMap Nat
  retiring : List Nat
  spv : Bool
  spared : Nat
  residues : Nat
  badBanks : List (Nat × Nat)
  corrected : SMap Nat
  uncorrectable : Nat
  rebuilds : Nat
  excluded : Bool
  offline : Bool
  deriving DecidableEq, Repr

/-- A field: its power register (Table 23.4), limits and current (R349, R351), the node sequences and currents placed in this window, the
last and the one before it (R344), the windows below the lower bound, the throttle, retired cache slices (R65), heel stalls (R62), retired
quads (R383), whether the spare is one of them, and the counters of its cache banks and stacks (R56, R64): bank b of slice k is entry 32 k
+ b of `corrected`, its stacks are entries 512 and 513. -/
structure Field where
  state : Nat
  stk : BitVec 2
  spqv : Bool
  spq : Nat
  active : Nat
  flim : Nat
  flimNext : Option Nat
  fdraw : Nat
  recentNow : List (Nat × Nat)
  recentOld : List (Nat × Nat)
  recentOlder : List (Nat × Nat)
  lowWindows : Nat
  throttle : Bool
  badSlices : List (Nat × Nat)
  slicesOut : List Nat
  heelStalls : Nat
  excludedQuads : List Nat
  spareOut : Bool
  calibrated : Bool
  corrected : SMap Nat
  uncorrectable : Nat
  rebuilds : Nat
  deriving DecidableEq, Repr

/-! ## Translation -/

/-- A range entry (Table 2.3). -/
structure Range where
  base : Nat
  limit : Nat
  offset : Nat
  attr : Reg64
  deriving DecidableEq, Repr

/-- An ASID descriptor as loaded (Table 2.2). -/
structure AsidDesc where
  root : Nat
  ranges : List Range
  deriving DecidableEq, Repr

/-- A cached leaf (R39): the ASID, the 4 KiB virtual page, and the leaf with its level and address. -/
structure Cached where
  asid : BitVec 16
  page : Nat
  leaf : Reg64
  level : Nat
  leafAt : Nat
  deriving DecidableEq, Repr

/-! ## Queues, the pool, tasks -/

/-- A queue's register block (Table 23.2), and for a submission queue the gang of its next submission (R406). -/
structure Queue where
  rbase : Nat
  sbase : Nat
  log2n : Nat
  en : Bool
  asid : BitVec 16
  mode : Byte
  vmaj : Byte
  vmin : Byte
  tail : Nat
  accepted : Nat
  statused : Nat
  gang : List Nat
  deriving DecidableEq, Repr

/-- A declared tile operand (Table 7.3). -/
structure TileOp where
  defn : Reg64
  percore : Bool
  tile : Nat
  src : Nat
  deriving DecidableEq, Repr

/-- A node record (Table 7.2). -/
structure NodeRec where
  cls : Nat
  prio : Nat
  scope : Nat
  hands : Nat
  vprof : Nat
  cores : Nat
  succ : List Nat
  preds : Nat
  entry : Reg64
  xs : List Reg64
  done : Nat
  est : Nat
  gangn : Nat
  gangix : Nat
  tiles : List TileOp
  deriving DecidableEq, Repr

/-- Where a graph came from: a submission queue, or a spawn by a hand (R180). -/
inductive Origin where
  | queue (q : Nat)
  | spawn (hand : Nat)
  deriving DecidableEq, Repr

/-- A graph read and checked, which waits for room (R340), or a spawn that the pool has still to read (R180). -/
structure Graph where
  subno : Nat
  origin : Origin
  asid : BitVec 16
  sys : Bool
  paired : Bool
  gang : List Nat
  addr : Nat
  count : Nat
  nodes : List NodeRec
  status : Option Nat
  deriving DecidableEq, Repr

/-- What a node entry of the pool is doing (R134, R342, R365). `done`: its gang aborted before it had hands (R367). -/
inductive NodeState where
  | waiting
  | ready
  | filling (cores : List Nat) (left : List (Nat × Nat))
  | running
  | done
  deriving DecidableEq, Repr

/-- A node entry of the pool (R342): the node's record, its graph, its sequence number, predecessors to come, the
task dispatched for it, how often a paired node mismatched (R387), and of a gang launch the GANGIX that it has heard from and
whether it still awaits some, and whether the gang has aborted here (R367). -/
structure Node where
  subno : Nat
  index : Nat
  nseq : Nat
  record : NodeRec
  asid : BitVec 16
  sys : Bool
  paired : Bool
  gang : List Nat
  preds : Nat
  state : NodeState
  cores : List Nat
  coresB : List Nat
  task : Nat
  taskB : Nat
  mismatches : Nat
  blocked : Bool
  heard : List Nat
  gangOpen : Bool
  gangOver : Bool
  deriving DecidableEq, Repr

/-- A scope instance of a task (R94): its scope and unit, the phase number, every member's arrivals, the writes that
precede the arrivals so far, those that preceded the last phase end, and whether the phase end that is due stalls for heel room (R62). -/
structure Instance where
  scope : Nat
  unit : Nat
  number : Nat
  arrivals : SMap Nat
  clock : Clock
  prev : Clock
  stalled : Bool
  deriving DecidableEq, Repr

/-- Which side of a paired task (R384). -/
inductive Side where
  | single
  | a
  | b
  deriving DecidableEq, Repr

/-- A task in flight (R91 to R99): its hands, its writes, its instances, its strip records, and its place in its gang. -/
structure Task where
  id : Nat
  taskid : Reg64
  asid : BitVec 16
  side : Side
  cores : List Nat
  hands : List (Nat × Nat)
  gangn : Nat
  gangix : Nat
  log : List Wr
  instances : List Instance
  records : List (Nat × Nat × List Byte)
  deriving DecidableEq, Repr

/-- What a copy command does (Table 13.4); `fill` is a declared tile fill (R133). -/
inductive CopyKind where
  | cpyIn | cpyInp | cpyOut | cpyPeer | cpyMem | fill
  deriving DecidableEq, Repr

/-- A copy command in the command chain (R271): what it reads and writes, its place in its sweep, the bytes of its
element stream so far, how it ended, its place among its hand's writes and what is ordered before it (R97, R121), and
the compressed pages that it has expanded, by virtual page (R274), and the Vuxon port that a cpy.peer holds (R404). -/
structure Copy where
  hand : Nat
  n : Nat
  kind : CopyKind
  core : Nat
  task : Nat
  asid : BitVec 16
  tile : Nat
  gen : Nat
  shape : List Word
  srcOff : Reg64
  dst : Reg64
  followed : Bool
  pos : Nat
  moved : List Byte
  status : Option Byte
  seq : Nat
  fen : SMap Nat
  prec : Clock
  pages : SMap (List Byte)
  port : Option Nat
  deriving DecidableEq, Repr

/-- A copy that is arriving from another device (R277, R68): what its first flit brought, the tile's fill generation, how many of its
positions have landed, and the bytes of memory that they wrote. -/
structure Arrival where
  f : PeerF
  gen : Nat
  pos : Nat
  wrote : Mem
  deriving DecidableEq, Repr

/-- A member's exchange command (R285), or a class 2 node's (R138; no hand): its scope instance and id, its tiles, how
many of its own blocks have landed, the members whose blocks have landed in its destination, whether its task's
cancellation or TILE-RESET abandoned it (R70), and its place among its hand's writes (R97). -/
structure Xchg where
  hand : Option Nat
  task : Nat
  core : Nat
  scope : Nat
  unit : Nat
  xid : BitVec 32
  n : Nat
  me : Nat
  brows : Nat
  src : Nat
  dst : Nat
  gen : Nat
  round : Nat
  landed : List Nat
  dead : Bool
  member : Nat
  seq : Nat
  fen : SMap Nat
  prec : Clock
  deriving DecidableEq, Repr

/-- A fault record (Table 18.2). -/
structure FaultRec where
  trap : Trap
  flags : Nat
  hand : Nat
  asid : BitVec 16
  seq : Nat
  taskid : Reg64
  tpc : Reg64
  stripno : Reg64
  deriving DecidableEq, Repr

/-! ## Seats -/

/-- A seat in storage (R326, R328): its number and state (0 WAITING, 1 OWNER, 2 FOLDED), its holder (none while it
stands in an inbox), and what its taker receives (R88): the task and the writes of the release that made it OWNER, and
those of its passer. -/
structure Seat where
  number : BitVec 17
  state : Nat
  holder : Option Nat
  released : Option (Nat × Clock)
  passed : Option (Nat × Clock)
  deriving DecidableEq, Repr

/-- An exclusive object (R324, R326): its owning ASID, next number and queue, head first. -/
structure SeatObj where
  asid : BitVec 16
  next : BitVec 17
  queue : List Seat
  deriving DecidableEq, Repr

/-! ## Host, fabric, reliability -/

/-- A context region (R364) and the areas in use: physical address, length. -/
structure Region where
  base : Nat
  size : Nat
  areas : List (Nat × Nat)
  deriving DecidableEq, Repr

/-- A Vuxon port (R404): whether it is up, and the partner's number. -/
structure Port where
  up : Bool
  partner : Nat
  deriving DecidableEq, Repr

/-- An inbound window of a root port (R397). -/
structure Window where
  base : Nat
  limit : Nat
  we : Bool
  deriving DecidableEq, Repr

/-- A reduction or a multicast handed to the switch (R407, R408). -/
structure SwitchOp where
  isMcast : Bool
  group : Nat
  member : Nat
  ctlSeq : Reg64
  src : Nat
  size : Nat
  dst : Nat
  cw : Nat
  deriving DecidableEq, Repr

/-- A thread of a class 1 node on a system core (R395): the node sequence number, its ASID, the next instruction's address, the integer and
floating-point registers of RV64GC, its floating-point control and status register, and, where it stands before an instruction that
raised an exception, the exception's number (log 88). -/
structure Thread where
  core : Nat
  node : Nat
  asid : BitVec 16
  pc : Reg64
  x : Vector Reg64 32
  f : Vector Reg64 32
  fcsr : BitVec 8
  cause : Option Nat
  deriving DecidableEq, Repr

/-- A message to another device of the pod (R367): the acceptance of a gang launch, or its abort. -/
inductive PodMsg where
  | accept (device : Nat) (taskid : Reg64) (gangix : Nat)
  | abort (device : Nat) (taskid : Reg64) (gangix : Nat)
  deriving DecidableEq, Repr

/-- How a request of an endpoint completed (R397). -/
inductive Completion where
  | unsupported
  | written
  | data (l : List Byte)
  deriving DecidableEq, Repr

/-- A Dudel entry (R393). -/
structure DudelEntry where
  kind : Byte
  source : BitVec 16
  stamp : Reg64
  payload : List Byte
  deriving DecidableEq, Repr

/-- Boot (R402). -/
inductive Boot where
  | rom
  | refused
  | running
  deriving DecidableEq, Repr

/-- A hardware error that the environment brings (R56, R64, R74, R261, R283, R58): data that no longer decode (a memory key, in
its field cache or not, with the bank; of a hand's own stores and of the device's structures of Table 18.2, the hand that depends
on them, STRUCT and UNIT), a corrected symbol (kind 0 to 3 of a core as BANK_FAIL numbers them, 4 a field's cache with bank
32 × slice + bank, 5 its stacks), a rebuilt read, a disagreement of the shifted check at a lane (true: the third run decides), the
eviction of a line, a cleared error, a value that a system core draws (R393), the arrival of another device's multicast (R408),
and the oldest `n` placements of a field that 2,048 cycles have passed since (R344). -/
inductive Upset where
  | badByte (key : Nat) (cached : Bool) (bank : Nat)
  | badHand (hand : Nat) (struct : Nat) (unit : Nat)
  | repaired
  | corrected (unit : Nat) (kind : Nat) (bank : Nat)
  | rebuilt (unit : Nat) (kind : Nat)
  | mismatch (hand : Nat) (lane : Nat) (majority : Bool)
  | evict (line : Nat)
  | entropy (core : Nat) (value : List Byte)
  | multicast (addr : Nat) (bytes : List Byte)
  | aged (field : Nat) (n : Nat)
  deriving DecidableEq, Repr

/-- Who moves next: a hand issues, a step of the device without a word occurs, or the environment disturbs. -/
inductive Turn where
  | hand (id : Nat)
  | event (i : Instr)
  | upset (u : Upset)
  deriving DecidableEq, Repr

/-- Memory and what orders it device-wide: live and published contents, for each spawned submission the spawner's stores that stand as
published to its hands alone (R180), link tags (R58), heel images (R60), `bad` with STRUCT and UNIT by key, completion tokens (R124), data
that no longer decode (R74), the ticket counter (R112, R413), for each system core the first key and the length of what its load-reserved
holds reserved (log 88), and, the model's own, a count of performed writes and what the live bytes that tasks wrote came from. -/
structure MemState where
  perfCtr : Nat
  notes : SMap Note
  live : Mem
  pub : Mem
  gifts : SMap (SMap Byte)
  tags : SMap Tag
  heel : List HeelImage
  tokens : List Token
  bad : SMap (Nat × Nat)
  badHands : List (Nat × Nat × Nat)
  ticket : Nat
  ticketInF1 : Bool
  reserved : SMap (Nat × Nat)
  deriving DecidableEq, Repr

/-- The system fault queue beyond its ring: records that wait for room, records that await an answer, and the last SEQ
(R360, R399). -/
structure FaultState where
  waiting : List FaultRec
  pending : List FaultRec
  seq : Nat
  deriving DecidableEq, Repr

/-- The ready pool (R338 to R345): its counters, node entries, waiting graphs, the queue served last, and running
system-core threads. -/
structure Pool where
  submissions : Nat
  completions : Nat
  nodeSeq : Nat
  taskSeq : Nat
  nodes : List Node
  graphs : List Graph
  lastQueue : Nat
  threads : List Thread
  deriving DecidableEq, Repr

/-- Vuxon, root ports, time-outs and the switch (R392, R397, R404, R367, R368, R407): with the messages sent to other devices, how the
last request on each root port completed, and what the last load or fetch of each system core returned (R128). -/
structure PodState where
  devNumber : Option Nat
  ports : SMap Port
  windows : SMap Window
  halted : Bool
  haltedTask : Reg64
  inbound : List (Nat × List Byte)
  launchTimeout : Nat
  reduceTimeout : Nat
  switchOps : List SwitchOp
  sent : List PodMsg
  answers : SMap Completion
  sysLoaded : SMap (List Byte)
  deriving DecidableEq, Repr

/-- Dudel recording and replay (R393, R394). -/
structure Dudel where
  on : Bool
  replay : Bool
  region : Option (Nat × Nat)
  next : Option (Nat × Nat)
  log : List DudelEntry
  truncated : Bool
  pos : Nat
  done : Nat
  deriving DecidableEq, Repr

/-- The device. `poolCopy` is the copy of the pool's entries in f1 (R413). -/
structure State where
  hand : Hand
  others : List Hand
  agenda : List Turn
  latch : Latch
  freeCtr : Nat
  cores : SMap Core
  fields : Vector Field 6
  serials : SMap Nat
  asids : SMap AsidDesc
  cached : List Cached
  queues : SMap Queue
  ctlSeq : Reg64
  tasks : List Task
  copies : List Copy
  arrivals : List Arrival
  xchgs : List Xchg
  seats : SMap SeatObj
  regions : SMap Region
  boot : Boot
  measured : Vector (BitVec 256) 8
  firstUp : Bool
  mem : MemState
  faults : FaultState
  pool : Pool
  poolCopy : List Node
  pod : PodState
  dudel : Dudel
  deriving DecidableEq, Repr

/-- A fault of the machine. `unserviceable` is raised by step once field f0 has failed bring-up (R411): the spec
gives the device no further behaviour. Safe: the model stops. -/
inductive Fault where
  | unserviceable
  deriving DecidableEq, Repr

/-- A refusal. `notModelled` is raised by exec for an instruction without a meaning, by its mnemonic. Safe: the
model stops. -/
inductive Refusal where
  | notModelled (mnemonic : String)
  deriving DecidableEq, Repr

/-! ## Reset -/

/-- The CSRs of a new hand (Table 7.4; log 5 names the values the table does not give). -/
def Csrs.empty : Csrs where
  vl := 0
  sew := 0
  grp := 0
  fz := false
  fh := false
  vprof := 4
  vstart := 0
  stripno := 0
  ordbase := 0
  orun := 0
  onext := 0
  mismatch := 0
  active := 16
  fpcr := 0
  fstat := 0
  xidx := Vector.replicate 5 (BitVec.allOnes 64)
  cyc := 0
  wdog := 0
  tvec := 0
  tpc := 0
  tcause := 0
  tval := 0
  tidx0 := 0
  tidx1 := 0
  tidx2 := 0
  tstatus := 0
  repidx := 0
  cpyseq := 0
  cpydone := 0
  cpyEnded := []
  srecbase := 0
  srecctl := 0

/-- No strip yet: STRIPNO 0, nothing protected. -/
def Strip.empty : Strip where
  prot := false
  ckpt := none
  undo := []
  undoGranules := []
  fresh := []
  freedPending := 0
  ssb := []
  retries := 0
  record := ⟨0, 0, false, 0, 0, 0, 16⟩
  choices := 0
  drawn := 0
  sight := ⟨[], [], [], []⟩

/-- No access yet. -/
def Order.empty : Order where
  serial := 0
  pins := []
  snap := []
  hb := []
  prec := []
  wseq := 0
  fences := []
  links := []
  known := 0
  sawTiles := []
  epoch := 0
  acks := []
  seen := []

/-- Nothing scheduled. -/
def Sched.empty : Sched where
  deficit := 0
  preempt := false
  gangAbort := none
  migrate := false
  retiredCount := 0
  breaks := []
  watches := []
  stopWanted := false
  skipStop := false
  point := false
  unrecoverable := none
  due := none
  landed := none
  mismatches := []
  savedArea := none

/-- No hand, with every register as Table 7.4 gives a new one. -/
def Hand.empty : Hand where
  status := .none
  id := 0
  core := 0
  slot := 0
  dispatchCore := 0
  task := 0
  asid := 0
  taskid := 0
  member := 0
  prio := 0
  x := Vector.replicate 32 0
  v := []
  p := (Vector.replicate 32 0).set 0 (BitVec.allOnes 1024)
  producers := []
  streams := Vector.replicate 4 none
  lq := Vector.replicate 4 []
  handles := []
  bound := 0
  dealer := []
  inbox := []
  pc := 0
  loops := []
  frame := none
  convoy := none
  arrived := none
  csr := Csrs.empty
  strip := Strip.empty
  ord := Order.empty
  jobs := []
  sched := Sched.empty

/-- A field after reset (Table 23.4): off, ACTIVE 16; its limit 640 W, 800,000 mA (R4, Table 8.10). -/
def Field.atReset : Field :=
  ⟨0, 0, false, 0, 16, 800000, none, 0, [], [], [], 0, false, [], [], 0, [], false, false, [], 0, 0⟩

/-- A core after reset: every tile entry zero (Table 3.2), nothing failed. -/
def Core.atReset : Core := ⟨[], [], 0, 3, none, [], [], false, 0, 0, [], [], 0, 0, false, false⟩

/-- Reset. -/
def MemState.atReset : MemState where
  perfCtr := 1
  notes := []
  live := []
  pub := []
  gifts := []
  tags := []
  heel := []
  tokens := []
  bad := []
  badHands := []
  ticket := 0
  ticketInF1 := false
  reserved := []

/-- Reset. -/
def FaultState.atReset : FaultState where
  waiting := []
  pending := []
  seq := 0

/-- Reset. -/
def Pool.atReset : Pool where
  submissions := 1
  completions := 1
  nodeSeq := 0
  taskSeq := 1
  nodes := []
  graphs := []
  lastQueue := 65
  threads := []

/-- Reset. -/
def PodState.atReset : PodState where
  devNumber := none
  ports := []
  windows := []
  halted := false
  haltedTask := 0
  inbound := []
  launchTimeout := 3800000
  reduceTimeout := 3800000
  switchOps := []
  sent := []
  answers := []
  sysLoaded := []

/-- Reset. -/
def Dudel.atReset : Dudel where
  on := false
  replay := false
  region := none
  next := none
  log := []
  truncated := false
  pos := 0
  done := 0

/-- The device right after reset: no hand, no descriptor in force (R30), the counters at their reset values
(R112, R140, R339), the time-outs of R367 and R368, every field off (Table 23.4). -/
def State.reset : State where
  hand := Hand.empty
  others := []
  agenda := []
  latch := .clear
  freeCtr := 0
  cores := []
  fields := Vector.replicate 6 Field.atReset
  serials := []
  asids := []
  cached := []
  queues := []
  ctlSeq := 0
  tasks := []
  copies := []
  arrivals := []
  xchgs := []
  seats := []
  regions := []
  boot := .rom
  measured := Vector.replicate 8 0
  firstUp := false
  mem := MemState.atReset
  faults := FaultState.atReset
  pool := Pool.atReset
  poolCopy := []
  pod := PodState.atReset
  dudel := Dudel.atReset

end Sys2Proof.Machine
end

