-- ==== Sys2Proof/Machine/Sparse.lean ====
section
/-! DEFINITION. Sparse maps (SMap) and plain list helpers. -/

namespace Sys2Proof.Machine

/-- Reading a sparse map. -/
def mget {α : Type} (d : α) : SMap α → Nat → α
  | [], _ => d
  | (k, v) :: m, i => if i = k then v else mget d m i

/-- Taking a key out of a sparse map. -/
def mdel {α : Type} : SMap α → Nat → SMap α
  | [], _ => []
  | (k, v) :: m, i => if i = k then m else (k, v) :: mdel m i

/-- Inserting into a rising list, replacing an equal key. -/
def mins {α : Type} : SMap α → Nat → α → SMap α
  | [], i, w => [(i, w)]
  | (k, v) :: m, i, w => if i < k then (i, w) :: (k, v) :: m else if i = k then (i, w) :: m else (k, v) :: mins m i w

/-- Writing a sparse map: an entry equal to the default is taken out. -/
def mput {α : Type} [DecidableEq α] (d : α) (m : SMap α) (i : Nat) (w : α) : SMap α :=
  if w = d then mdel m i else mins m i w

/-- Looking a key up. -/
def mfind {α : Type} : SMap α → Nat → Option α
  | [], _ => none
  | (k, v) :: m, i => if i = k then some v else mfind m i

/-- The numbers from `a` on, `n` of them. -/
def upFrom (a : Nat) : Nat → List Nat
  | 0 => []
  | n + 1 => a :: upFrom (a + 1) n

/-- Keys strictly rising. -/
def rising {α : Type} : SMap α → Bool
  | [] => true
  | [_] => true
  | (a, _) :: (b, w) :: m => decide (a < b) && rising ((b, w) :: m)

/-- The canonical form of memory: addresses strictly rising, no byte equal to what an unlisted address reads as. -/
def Mem.wf (m : Mem) : Bool := rising m && m.all (fun c => c.2 != 0)

/-- A byte of memory; an unlisted byte reads as zero (log 1). -/
def Mem.get (m : Mem) (a : Nat) : Byte := mget 0 m a

/-- Writing a byte of memory. -/
def Mem.put (m : Mem) (a : Nat) (b : Byte) : Mem := mput 0 m a b

/-- Writing many bytes. -/
def Mem.putAll (m : Mem) (l : List (Nat × Byte)) : Mem := l.foldl (fun m c => m.put c.1 c.2) m

/-- `n` bytes from `a` on. -/
def Mem.bytes (m : Mem) (a n : Nat) : List Byte := (upFrom a n).map m.get

/-- The number that bytes stand for, little-endian (R6). -/
def leNat : List Byte → Nat
  | [] => 0
  | b :: l => b.toNat + 256 * leNat l

/-- The low `n` bytes of a number, little-endian (R6). -/
def leBytes : Nat → Nat → List Byte
  | 0, _ => []
  | n + 1, v => BitVec.ofNat 8 v :: leBytes n (v / 256)

/-- Pairing bytes with rising addresses. -/
def atAddr (a : Nat) : List Byte → List (Nat × Byte)
  | [] => []
  | b :: l => (a, b) :: atAddr (a + 1) l

/-- Bytes at addresses as a map, the later over the earlier. -/
def byteMap (l : List (Nat × Byte)) : SMap Byte := l.foldl (fun m x => mins m x.1 x.2) []

/-- The join of two vector clocks. -/
def Clock.join (a b : Clock) : Clock := b.foldl (fun c kv => mput 0 c kv.1 (Nat.max (mget 0 c kv.1) kv.2)) a

/-- Adding a number to a list that holds no number twice. -/
def addOnce (l : List Nat) (n : Nat) : List Nat := if n ∈ l then l else l ++ [n]

/-- The distinct numbers of a list, in their first order. -/
def distinct (l : List Nat) : List Nat := l.foldl addOnce []

/-- Folding from the low numbers up, `n` of them. -/
def foldUp {α : Type} (n : Nat) (f : α → Nat → α) (a : α) : α := (List.range n).foldl f a

end Sys2Proof.Machine
end

