-- ==== Sys2Proof/Machine/Digest.lean ====
section
/-! DEFINITION. CRC-32C (R43, R275) and SHA3-256 (R386, R402). -/

namespace Sys2Proof.Machine

/-- One bit of the reflected Castagnoli CRC. -/
def crcBit : Nat → Nat → Nat
  | 0, c => c
  | k + 1, c => crcBit k (if c % 2 = 1 then Nat.xor (c / 2) 0x82F63B78 else c / 2)

/-- CRC-32C of bytes: reflected, initial value and final XOR all ones. -/
def crc32c (l : List Byte) : Nat :=
  Nat.xor (l.foldl (fun c b => crcBit 8 (Nat.xor c b.toNat)) 0xFFFFFFFF) 0xFFFFFFFF

/-- Rotation of a 64-bit lane to the left. -/
def rotl64 (x r : Nat) : Nat := (x * 2 ^ r % 2 ^ 64) + x / 2 ^ (64 - r)

/-- Keccak's rotation amounts for lanes 0 to 24 (lane = x + 5y). -/
def keccakRot : List Nat :=
  [0, 1, 62, 28, 27, 36, 44, 6, 55, 20, 3, 10, 43, 25, 39, 41, 45, 15, 21, 8, 18, 2, 61, 56, 14]

/-- Keccak's round constants. -/
def keccakRC : List Nat :=
  [0x0000000000000001, 0x0000000000008082, 0x800000000000808A, 0x8000000080008000, 0x000000000000808B,
   0x0000000080000001, 0x8000000080008081, 0x8000000000008009, 0x000000000000008A, 0x0000000000000088,
   0x0000000080008009, 0x000000008000000A] ++
  [0x000000008000808B, 0x800000000000008B, 0x8000000000008089, 0x8000000000008003, 0x8000000000008002,
   0x8000000000000080, 0x000000000000800A, 0x800000008000000A, 0x8000000080008081, 0x8000000000008080,
   0x0000000080000001, 0x8000000080008008]

/-- A lane of the state. -/
def lane (s : List Nat) (i : Nat) : Nat := s.getD i 0

/-- One round of Keccak-f[1600]. -/
def keccakRound (s : List Nat) (rc : Nat) : List Nat :=
  let c := (List.range 5).map (fun x => (List.range 5).foldl (fun a y => Nat.xor a (lane s (x + 5 * y))) 0)
  let d := (List.range 5).map (fun x => Nat.xor (lane c ((x + 4) % 5)) (rotl64 (lane c ((x + 1) % 5)) 1))
  let t := (List.range 25).map (fun i => Nat.xor (lane s i) (lane d (i % 5)))
  -- rho and pi: the lane that lands at (x, y) comes from ((x + 3y) mod 5, x)
  let b := (List.range 25).map (fun i =>
    let x := i % 5
    let y := i / 5
    let j := (x + 3 * y) % 5 + 5 * x
    rotl64 (lane t j) (keccakRot.getD j 0))
  let chi := (List.range 25).map (fun i =>
    let x := i % 5
    let y := i / 5
    Nat.xor (lane b i) (Nat.land (2 ^ 64 - 1 - lane b ((x + 1) % 5 + 5 * y)) (lane b ((x + 2) % 5 + 5 * y))))
  match chi with
  | [] => []
  | h :: r => Nat.xor h rc :: r

/-- The permutation. -/
def keccakF (s : List Nat) : List Nat := keccakRC.foldl keccakRound s

/-- Absorbing one 136-byte block. -/
def absorb (s : List Nat) (blk : List Byte) : List Nat :=
  keccakF ((List.range 25).map (fun i => Nat.xor (lane s i) (leNat ((blk.drop (8 * i)).take 8))))

/-- Absorbing the message's blocks; the last is padded with 0x06 … 0x80. -/
def absorbAll : Nat → List Nat → List Byte → List Nat
  | 0, s, _ => s
  | k + 1, s, m =>
    if m.length < 136 then
      let z := List.replicate (136 - m.length - 1) (0 : Byte)
      let p := m ++ [0x06] ++ z
      absorb s (p.take 135 ++ [(p.getD 135 0) ||| 0x80])
    else absorbAll k (absorb s (m.take 136)) (m.drop 136)

/-- SHA3-256 of bytes, as 32 bytes. -/
def sha3 (m : List Byte) : List Byte :=
  let s := absorbAll (m.length / 136 + 1) (List.replicate 25 0) m
  ((List.range 4).map (fun i => leBytes 8 (lane s i))).flatten

/-- SHA3-256 as a number, little-endian. -/
def sha3Num (m : List Byte) : BitVec 256 := BitVec.ofNat 256 (leNat (sha3 m))

end Sys2Proof.Machine
end

