-- ==== Sys2Proof/Machine/Float.lean ====
section
/-! DEFINITION. Float formats and rounding (R198 to R202), exact: a finite value is a whole number times a power of
two, and every operation rounds once. Flags are a mask with the bit places of FSTAT (Table 8.10). -/

namespace Sys2Proof.Machine

/-- FSTAT bit places (Table 8.10). -/
def fNV : Nat := 1
/-- DZ. -/
def fDZ : Nat := 2
/-- OF. -/
def fOF : Nat := 4
/-- UF. -/
def fUF : Nat := 8
/-- NX. -/
def fNX : Nat := 16
/-- SX. -/
def fSX : Nat := 32
/-- LOST. -/
def fLOST : Nat := 64
/-- OVF. -/
def fOVF : Nat := 128
/-- SAT. -/
def fSAT : Nat := 256

/-- A float format: exponent bits and fraction bits (Table 10.1). -/
structure Fmt where
  eb : Nat
  mb : Nat
  deriving DecidableEq, Repr

/-- binary32. -/
def f32 : Fmt := ⟨8, 23⟩
/-- Bits 31:16 of binary32. -/
def bf16 : Fmt := ⟨8, 7⟩
/-- binary16. -/
def f16 : Fmt := ⟨5, 10⟩

/-- The bias. -/
def Fmt.bias (f : Fmt) : Nat := 2 ^ (f.eb - 1) - 1
/-- All bits of the format. -/
def Fmt.width (f : Fmt) : Nat := 1 + f.eb + f.mb
/-- The exponent of a subnormal's lowest bit. -/
def Fmt.low (f : Fmt) : Int := 1 - (f.bias : Int) - (f.mb : Int)
/-- +inf. -/
def Fmt.inf (f : Fmt) : Nat := (2 ^ f.eb - 1) * 2 ^ f.mb
/-- The default NaN (R202). -/
def Fmt.nan (f : Fmt) : Nat := f.inf + 2 ^ (f.mb - 1)
/-- The sign bit. -/
def Fmt.sign (f : Fmt) : Nat := 2 ^ (f.eb + f.mb)

/-- A float as a value: `fin neg m e` is (−1)^neg × m × 2^e with m > 0. -/
inductive FVal where
  | nan (signalling : Bool)
  | inf (neg : Bool)
  | zero (neg : Bool)
  | fin (neg : Bool) (m : Nat) (e : Int)
  deriving DecidableEq, Repr

/-- The value that bits encode (R198). -/
def Fmt.value (f : Fmt) (b : Nat) : FVal :=
  let neg := decide (b / f.sign % 2 = 1)
  let e := b / 2 ^ f.mb % 2 ^ f.eb
  let m := b % 2 ^ f.mb
  if e = 2 ^ f.eb - 1 then (if m = 0 then .inf neg else .nan (decide (m < 2 ^ (f.mb - 1))))
  else if e = 0 then (if m = 0 then .zero neg else .fin neg m f.low)
  else .fin neg (m + 2 ^ f.mb) (f.low + (e : Int) - 1)

/-- Is the encoding subnormal? -/
def Fmt.subnormal (f : Fmt) (b : Nat) : Bool := b / 2 ^ f.mb % 2 ^ f.eb == 0 && b % 2 ^ f.mb != 0

/-- An input value, flushed when FZ = 1 (R200). -/
def Fmt.input (f : Fmt) (fz : Bool) (b : Nat) : FVal :=
  if fz && f.subnormal b then .zero (decide (b / f.sign % 2 = 1)) else f.value b

/-- Whether the magnitude is rounded up, in mode 0 RNE, 1 RTZ, 2 RDN, 3 RUP, and 4, to nearest with ties away from zero, which application
cores alone have (log 88): from the kept number's parity and twice the rest against the unit. -/
def roundsUp (mode : Nat) (neg odd : Bool) (rest2 unit : Nat) : Bool :=
  match mode with
  | 0 => decide (unit < rest2) || (decide (rest2 = unit) && odd)
  | 1 => false
  | 2 => neg && decide (0 < rest2)
  | 4 => decide (unit ≤ rest2)
  | _ => !neg && decide (0 < rest2)

/-- m × 2^e as a multiple of 2^q, rounded; and whether that was inexact. -/
def roundAt (mode : Nat) (neg : Bool) (m : Nat) (e q : Int) : Nat × Bool :=
  if q ≤ e then (m * 2 ^ (e - q).toNat, false)
  else
    let u := 2 ^ (q - e).toNat
    let k := m / u
    let r := m % u
    (if roundsUp mode neg (k % 2 == 1) (2 * r) u then k + 1 else k, r != 0)

/-- The overflow results of Table 10.2. -/
def Fmt.overflow (f : Fmt) (mode : Nat) (neg : Bool) : Nat :=
  let s := if neg then f.sign else 0
  let toInf := match mode with
    | 0 => true
    | 1 => false
    | 2 => neg
    | 4 => true
    | _ => !neg
  s + (if toInf then f.inf else f.inf - 1)

/-- The one rounding (R199, R200): (−1)^neg × m × 2^e, m > 0, to the format, with its flags. -/
def Fmt.round (f : Fmt) (mode : Nat) (fz : Bool) (neg : Bool) (m : Nat) (e : Int) : Nat × Nat :=
  let s := if neg then f.sign else 0
  let len : Int := (m.log2 : Int) + 1
  let top := e + len
  let minNormal : Int := 1 - (f.bias : Int)
  if fz && decide (top ≤ minNormal) then (s, fUF + fNX)
  else
    let q0 := top - (f.mb : Int) - 1
    let q := max q0 f.low
    let (k, nx) := roundAt mode neg m e q
    let (k0, _) := roundAt mode neg m e q0
    let tiny := decide (q0 + (k0.log2 : Int) + 1 ≤ minNormal)
    if k ≠ 0 ∧ (f.bias : Int) + 1 ≤ q + (k.log2 : Int) then (f.overflow mode neg, fOF + fNX)
    else
      (s + (q - f.low).toNat * 2 ^ f.mb + k, (if nx then fNX else 0) + (if nx && tiny then fUF else 0))

/-- A value with something more below its last bit, so that it is inexact (the last bit stands below every place
that rounding looks at). -/
def Fmt.roundSticky (f : Fmt) (mode : Nat) (fz neg : Bool) (m : Nat) (e : Int) (sticky : Bool) : Nat × Nat :=
  if sticky then f.round mode fz neg (2 * m + 1) (e - 1) else f.round mode fz neg m e

/-- A signed whole number times 2^e, rounded; an exact zero takes the sign given. -/
def Fmt.roundInt (f : Fmt) (mode : Nat) (fz zneg : Bool) (m : Int) (e : Int) : Nat × Nat :=
  if m = 0 then (if zneg then f.sign else 0, 0) else f.round mode fz (decide (m < 0)) m.natAbs e

/-- A quotient n / d (d > 0) of whole numbers times 2^e, rounded. -/
def Fmt.roundRatio (f : Fmt) (mode : Nat) (fz : Bool) (n : Int) (d : Nat) (e : Int) : Nat × Nat :=
  if n = 0 then (0, 0)
  else
    let k := d.log2 + f.mb + 4
    let a := n.natAbs * 2 ^ k
    f.roundSticky mode fz (decide (n < 0)) (a / d) (e - k) (a % d != 0)

/-- The signed number m of a finite value; zero for the others. -/
def FVal.sint : FVal → Int
  | .fin true m _ => -(m : Int)
  | .fin false m _ => m
  | _ => 0

/-- Is it a NaN? -/
def FVal.isNan : FVal → Bool
  | .nan _ => true
  | _ => false

/-- Is it a signalling NaN? -/
def FVal.isSig : FVal → Bool
  | .nan s => s
  | _ => false

/-- The sign (false for NaN). -/
def FVal.neg : FVal → Bool
  | .nan _ => false
  | .inf n => n
  | .zero n => n
  | .fin n _ _ => n

/-- The value with its sign turned. -/
def FVal.negate : FVal → FVal
  | .nan s => .nan s
  | .inf n => .inf (!n)
  | .zero n => .zero (!n)
  | .fin n m e => .fin (!n) m e

/-- NV for a signalling NaN among the inputs. -/
def sigNV (l : List FVal) : Nat := if l.any FVal.isSig then fNV else 0

/-- An exact sum of two finite nonzero values: number and exponent. -/
def exactAdd (ma : Int) (ea : Int) (mb : Int) (eb : Int) : Int × Int :=
  let e := min ea eb
  (ma * 2 ^ (ea - e).toNat + mb * 2 ^ (eb - e).toNat, e)

/-- Addition of two values, rounded once (R199). -/
def Fmt.addV (f : Fmt) (mode : Nat) (fz : Bool) (a b : FVal) : Nat × Nat :=
  match a, b with
  | .nan s, y => (f.nan, if s || y.isSig then fNV else 0)
  | x, .nan s => (f.nan, if s || x.isSig then fNV else 0)
  | .inf x, .inf y => if x = y then ((if x then f.sign else 0) + f.inf, 0) else (f.nan, fNV)
  | .inf x, _ => ((if x then f.sign else 0) + f.inf, 0)
  | _, .inf y => ((if y then f.sign else 0) + f.inf, 0)
  | .zero x, .zero y => (if (if x = y then x else mode == 2) then f.sign else 0, 0)
  | .zero _, .fin n m e => f.round mode fz n m e
  | .fin n m e, .zero _ => f.round mode fz n m e
  | x@(.fin _ _ ea), y@(.fin _ _ eb) =>
    let (m, e) := exactAdd x.sint ea y.sint eb
    f.roundInt mode fz (mode == 2) m e

/-- An exact product as a value (no NaN unless inf × 0 or an input is one). -/
def mulV (a b : FVal) : FVal :=
  match a, b with
  | .nan s, y => .nan (s || y.isSig)
  | x, .nan s => .nan (s || x.isSig)
  | .inf _, .zero _ => .nan true
  | .zero _, .inf _ => .nan true
  | .inf x, y => .inf (x != y.neg)
  | x, .inf y => .inf (x.neg != y)
  | .zero x, y => .zero (x != y.neg)
  | x, .zero y => .zero (x.neg != y)
  | .fin x ma ea, .fin y mb eb => .fin (x != y) (ma * mb) (ea + eb)

/-- A value as it stands, rounded to the format: conversions and products. -/
def Fmt.roundV (f : Fmt) (mode : Nat) (fz : Bool) : FVal → Nat × Nat
  | .nan s => (f.nan, if s then fNV else 0)
  | .inf n => ((if n then f.sign else 0) + f.inf, 0)
  | .zero n => (if n then f.sign else 0, 0)
  | .fin n m e => f.round mode fz n m e

/-- a × b. -/
def Fmt.mul (f : Fmt) (mode : Nat) (fz : Bool) (a b : FVal) : Nat × Nat := f.roundV mode fz (mulV a b)

/-- a × b + d, fused: NV for inf × 0 even when d is a quiet NaN (R245). -/
def Fmt.fma (f : Fmt) (mode : Nat) (fz : Bool) (a b d : FVal) : Nat × Nat :=
  f.addV mode fz (mulV a b) d

/-- a / b (R201). -/
def Fmt.div (f : Fmt) (mode : Nat) (fz : Bool) (a b : FVal) : Nat × Nat :=
  match a, b with
  | .nan s, y => (f.nan, if s || y.isSig then fNV else 0)
  | x, .nan s => (f.nan, if s || x.isSig then fNV else 0)
  | .inf _, .inf _ => (f.nan, fNV)
  | .zero _, .zero _ => (f.nan, fNV)
  | .inf x, y => ((if x != y.neg then f.sign else 0) + f.inf, 0)
  | x, .inf y => (if x.neg != y then f.sign else 0, 0)
  | .zero x, y => (if x != y.neg then f.sign else 0, 0)
  | x, .zero y => ((if x.neg != y then f.sign else 0) + f.inf, fDZ)
  | .fin x ma ea, .fin y mb eb =>
    let k := mb.log2 + f.mb + 4
    let n := ma * 2 ^ k
    f.roundSticky mode fz (x != y) (n / mb) (ea - eb - k) (n % mb != 0)

/-- The whole square root, bit by bit from place `k` down. -/
def isqrtFrom (n : Nat) : Nat → Nat → Nat
  | 0, r => if (r + 1) * (r + 1) ≤ n then r + 1 else r
  | k + 1, r => isqrtFrom n k (if (r + 2 ^ (k + 1)) * (r + 2 ^ (k + 1)) ≤ n then r + 2 ^ (k + 1) else r)

/-- The whole square root. -/
def isqrt (n : Nat) : Nat := isqrtFrom n (n.log2 / 2 + 1) 0

/-- √a (Table 10.3). -/
def Fmt.sqrt (f : Fmt) (mode : Nat) (fz : Bool) (a : FVal) : Nat × Nat :=
  match a with
  | .nan s => (f.nan, if s then fNV else 0)
  | .inf true => (f.nan, fNV)
  | .inf false => (f.inf, 0)
  | .zero n => (if n then f.sign else 0, 0)
  | .fin true _ _ => (f.nan, fNV)
  | .fin false m e =>
    let odd := e % 2 != 0
    let m' := (if odd then 2 * m else m) * 4 ^ (f.mb + 4)
    let e' := (if odd then e - 1 else e) - 2 * ((f.mb : Int) + 4)
    let r := isqrt m'
    f.roundSticky mode fz false r (e' / 2) (r * r != m')

/-- 1/√a (Table 10.3). -/
def Fmt.rsqrt (f : Fmt) (mode : Nat) (fz : Bool) (a : FVal) : Nat × Nat :=
  match a with
  | .nan s => (f.nan, if s then fNV else 0)
  | .inf true => (f.nan, fNV)
  | .inf false => (0, 0)
  | .zero n => ((if n then f.sign else 0) + f.inf, fDZ)
  | .fin true _ _ => (f.nan, fNV)
  | .fin false m e =>
    let odd := e % 2 != 0
    let m' := if odd then 2 * m else m
    let e' := if odd then e - 1 else e
    let k := m'.log2 + f.mb + 6
    let n := 4 ^ k
    let r := isqrt (n / m')
    f.roundSticky mode fz false r (-(e' / 2) - k) (r * r * m' != n)

/-- The order of two values by their real value; NaN never asked. −0 = +0. -/
def FVal.ltV (a b : FVal) : Bool :=
  match a, b with
  | .nan _, _ => false
  | _, .nan _ => false
  | .inf true, .inf true => false
  | .inf true, _ => true
  | _, .inf true => false
  | .inf false, _ => false
  | _, .inf false => true
  | .zero _, y => decide (0 < y.sint)
  | x, .zero _ => decide (x.sint < 0)
  | x@(.fin _ _ ea), y@(.fin _ _ eb) =>
    let (m, _) := exactAdd x.sint ea (-y.sint) eb
    decide (m < 0)

/-- Equality of two values, −0 = +0; false for a NaN. -/
def FVal.eqV (a b : FVal) : Bool := !a.isNan && !b.isNan && !a.ltV b && !b.ltV a

/-- vfmin's choice: is a the lesser, −0 below +0 (R246)? -/
def FVal.lessZ (a b : FVal) : Bool := a.ltV b || (a.eqV b && a.neg && !b.neg)

/-- vfmin and vfmax (R246): bits in, bits out. -/
def Fmt.minmax (f : Fmt) (fz isMax : Bool) (a b : Nat) : Nat × Nat :=
  let x := f.input fz a
  let y := f.input fz b
  let fl := sigNV [x, y]
  let out (v : FVal) : Nat := (f.roundV 0 false v).1
  match x, y with
  | .nan _, .nan _ => (f.nan, fl)
  | .nan _, y => (out y, fl)
  | x, .nan _ => (out x, fl)
  | x, y => (out (if isMax then (if y.lessZ x then x else y) else if x.lessZ y then x else y), fl)

/-- The class of an encoding, one hot (R247). -/
def Fmt.classOf (f : Fmt) (fz : Bool) (b : Nat) : Nat :=
  match f.input fz b with
  | .nan s => if s then 2 ^ 8 else 2 ^ 9
  | .inf n => if n then 2 ^ 0 else 2 ^ 7
  | .zero n => if n then 2 ^ 3 else 2 ^ 4
  | .fin n _ _ => if f.subnormal b then (if n then 2 ^ 2 else 2 ^ 5) else if n then 2 ^ 1 else 2 ^ 6

/-- A value rounded to a whole number in a mode, and whether that was inexact. -/
def FVal.toInt (mode : Nat) : FVal → Int × Bool
  | .fin n m e =>
    let (k, nx) := roundAt mode n m e 0
    (if n then -(k : Int) else k, nx)
  | _ => (0, false)

/-- vcvtfi and vcvtfn (Table 12.10): clamped to [lo, hi]. -/
def FVal.toIntClamped (mode : Nat) (lo hi : Int) (a : FVal) : Int × Nat :=
  match a with
  | .nan _ => (0, fNV)
  | .inf n => (if n then lo else hi, fNV)
  | v =>
    let (k, nx) := v.toInt mode
    if k < lo then (lo, fNV) else if hi < k then (hi, fNV) else (k, if nx then fNX else 0)

end Sys2Proof.Machine
end

