-- ==== Sys2Proof/Machine/FloatFn.lean ====
section
/-! DEFINITION. vfexp2 and vflog2 (R201), correctly rounded: bounds of the exact result are computed with a
precision that doubles until both bounds round alike, up to 512 bits (log 6). -/

namespace Sys2Proof.Machine

/-- Σ z^(2k+1)/(2k+1) from k on, in units of 2^-p, z = num/2^p; each term is cut downwards. -/
def atanhTerms (p z2 : Nat) : Nat → Nat → Nat → Nat → Nat
  | 0, _, _, acc => acc
  | fuel + 1, t, k, acc => atanhTerms p z2 fuel (t * z2 / 2 ^ p) (k + 2) (acc + t / k)

/-- ln 2 in units of 2^-p, from below (2 atanh(1/3)). -/
def ln2Fixed (p : Nat) : Nat := 2 * atanhTerms p (2 ^ p / 9) (p / 3 + 4) (2 ^ p / 3) 1 0

/-- Σ y^k/k! from k on, in units of 2^-p. -/
def expTerms (p y : Nat) : Nat → Nat → Nat → Nat → Nat
  | 0, _, _, acc => acc
  | fuel + 1, t, k, acc => expTerms p y fuel (t * y / 2 ^ p / k) (k + 1) (acc + t)

/-- 2^f for a fraction f in units of 2^-p: a lower and an upper bound in units of 2^-p. -/
def pow2Bounds (p f : Nat) : Nat × Nat :=
  let y := f * ln2Fixed p / 2 ^ p
  let n := p / 2 + 24
  let lo := expTerms p y n (2 ^ p) 1 0
  (max lo (2 ^ p), lo + 8 * (n + p))

/-- Both bounds cut to `keep` bits below the point agree: the number, else none. -/
def agreed (p keep lo hi : Nat) : Option Nat :=
  let u := 2 ^ (p - keep)
  if lo / u = hi / u then some (lo / u) else none

/-- 2^f cut to 60 bits, with the precisions 128, 256 and 512 tried in turn; f is n / 2^s, 0 < f < 1. -/
def pow2Frac (n s : Nat) : Nat :=
  let at' (p : Nat) : Option Nat :=
    let f := if s ≤ p then n * 2 ^ (p - s) else n / 2 ^ (s - p)
    let (lo, hi) := pow2Bounds p f
    agreed p 60 lo (hi + 2)
  match at' 128 with
  | some r => r
  | none => match at' 256 with
    | some r => r
    | none => match at' 512 with
      | some r => r
      | none => 2 ^ 60

/-- 2^a (Table 10.3). A magnitude of 2^14 or more is beyond every format. -/
def Fmt.exp2 (f : Fmt) (mode : Nat) (fz : Bool) (a : FVal) : Nat × Nat :=
  match a with
  | .nan s => (f.nan, if s then fNV else 0)
  | .inf n => if n then (0, 0) else (f.inf, 0)
  | .zero _ => f.round mode fz false 1 0
  | .fin n m e =>
    if 14 ≤ e + (m.log2 : Int) then f.roundSticky mode fz false (2 ^ 40) (if n then -20000 else 20000) true
    else if 0 ≤ e then f.round mode fz false 1 (if n then -((m * 2 ^ e.toNat : Nat) : Int) else ((m * 2 ^ e.toNat : Nat) : Int))
    else
      let s := (-e).toNat
      let v : Int := if n then -(m : Int) else m
      let whole := v / (2 ^ s : Nat)
      let frac := (v % (2 ^ s : Nat)).toNat
      if frac = 0 then f.round mode fz false 1 whole
      else f.roundSticky mode fz false (pow2Frac frac s) (whole - 60) true

/-- log2 of t = m / 2^s in [1, 2), as bounds in units of 2^-p. -/
def log2Bounds (p m s : Nat) : Nat × Nat :=
  let z := (m - 2 ^ s) * 2 ^ p / (m + 2 ^ s)
  let n := p / 3 + 8
  let l := 2 * atanhTerms p (z * z / 2 ^ p) n z 1 0
  let ln2 := ln2Fixed p
  let e := 8 * (n + p)
  (l * 2 ^ p / (ln2 + e), (l + e) * 2 ^ p / ln2 + 1)

/-- log2 a (Table 10.3). Exact only for powers of two. -/
def Fmt.log2 (f : Fmt) (mode : Nat) (fz : Bool) (a : FVal) : Nat × Nat :=
  match a with
  | .nan s => (f.nan, if s then fNV else 0)
  | .inf true => (f.nan, fNV)
  | .inf false => (f.inf, 0)
  | .zero _ => (f.sign + f.inf, fDZ)
  | .fin true _ _ => (f.nan, fNV)
  | .fin false m e =>
    let s := m.log2
    let n : Int := e + s
    if m = 2 ^ s then f.roundInt mode fz false n 0
    else
      let at' (p : Nat) : Option (Bool × Nat) :=
        let (lo, hi) := log2Bounds p m s
        if 0 ≤ n then (agreed p 90 (n.toNat * 2 ^ p + lo) (n.toNat * 2 ^ p + hi)).map (fun r => (false, r))
        else (agreed p 90 ((-n).toNat * 2 ^ p - hi) ((-n).toNat * 2 ^ p - lo)).map (fun r => (true, r))
      match at' 160 with
      | some (g, r) => f.roundSticky mode fz g r (-90) true
      | none => match at' 256 with
        | some (g, r) => f.roundSticky mode fz g r (-90) true
        | none => match at' 512 with
          | some (g, r) => f.roundSticky mode fz g r (-90) true
          | none => f.roundInt mode fz false n 0

end Sys2Proof.Machine
end

