-- ==== Sys2Proof/Machine/Block.lean ====
section
/-! DEFINITION. Block formats (R206 to R209) and the exact contributions to accumulator cells (R211 to R214). -/

namespace Sys2Proof.Machine

/-- Bytes of one block of `n` elements of BXw (R207). -/
def blockBytes (w n : Nat) : Nat := 4 + n * w / 8

/-- A block as fields: E, F and the signed mantissas. -/
structure Block where
  e : Nat
  f : Nat
  ms : List Int
  deriving DecidableEq, Repr

/-- XOR of bytes. -/
def xorBytes (l : List Byte) : Byte := l.foldl (fun a b => a ^^^ b) 0

/-- A signed number of `w` bits. -/
def toSigned (w v : Nat) : Int := if 2 * v < 2 ^ w then (v : Int) else (v : Int) - (2 ^ w : Nat)

/-- The two checks of R208; none for a block that fails them. -/
def readBlock (w n : Nat) (l : List Byte) : Option Block :=
  let h := leNat (l.take 4)
  let pay := (l.drop 4).take (n * w / 8)
  let chk := xorBytes (l.take 3 ++ pay)
  let e := h / 2 ^ 12 % 256
  let f := h % 2 ^ 12
  let p := leNat pay
  if chk.toNat ≠ h / 2 ^ 24 ∨ h / 2 ^ 20 % 16 ≠ 0 then none
  else if (e = 0 ∨ e = 255) ∧ (f ≠ 0 ∨ p ≠ 0) then none
  else some ⟨e, f, (List.range n).map (fun j => toSigned w (p / 2 ^ (j * w) % 2 ^ w))⟩

/-- value(j) of R206 as F32 bits, exact. -/
def Block.value (b : Block) (w j : Nat) : Nat :=
  let m := b.ms.getD j 0
  if b.e = 255 then f32.nan
  else if b.e = 0 ∨ m = 0 then 0
  else (f32.round 0 false (decide (m < 0)) (m.natAbs * (4096 + b.f)) ((b.e : Int) - 138 - w)).1

/-- The bytes of a block, CHK8 computed (Table 10.5). -/
def Block.bytes (b : Block) (w : Nat) : List Byte :=
  let n := b.ms.length
  let p := (b.ms.zipIdx).foldl (fun (a : Nat) (mj : Int × Nat) => a + (mj.1 % (2 ^ w : Nat)).toNat * 2 ^ (mj.2 * w)) 0
  let pay := leBytes (n * w / 8) p
  let h := leBytes 3 (b.e * 2 ^ 12 + b.f)
  h ++ [xorBytes (h ++ pay)] ++ pay

/-- Does a bound of number `a` times 2^(e) lie within the scale (E, F) × (2^(w−1) − 1)/2^(w−1)? All exact. -/
def scaleCovers (w : Nat) (am : Nat) (ae : Int) (e f : Nat) : Bool :=
  let r : Int := (e : Int) - 138 - w
  let lhs := if r ≤ ae then am * 2 ^ (ae - r).toNat else am
  let rhs := (4096 + f) * (2 ^ (w - 1) - 1) * (if r ≤ ae then 1 else 2 ^ (r - ae).toNat)
  decide (lhs ≤ rhs)

/-- The smallest scale that covers, by exponent and then fraction (the search halves the fraction's range). -/
def leastFrac (w am : Nat) (ae : Int) (e : Nat) : Nat → Nat → Nat → Nat
  | 0, lo, _ => lo
  | k + 1, lo, hi =>
    if hi ≤ lo then lo
    else
      let mid := (lo + hi) / 2
      if scaleCovers w am ae e mid then leastFrac w am ae e k lo mid else leastFrac w am ae e k (mid + 1) hi

/-- The least E in 1..254 whose largest fraction covers, halving the range. -/
def leastExp (w am : Nat) (ae : Int) : Nat → Nat → Nat → Nat
  | 0, lo, _ => lo
  | k + 1, lo, hi =>
    if hi ≤ lo then lo
    else
      let mid := (lo + hi) / 2
      if scaleCovers w am ae mid 4095 then leastExp w am ae k lo mid else leastExp w am ae k (mid + 1) hi

/-- A larger magnitude of two finite ones. -/
def maxMag (a b : Nat × Int) : Nat × Int :=
  let (d, _) := exactAdd (a.1 : Int) a.2 (-(b.1 : Int)) b.2
  if d < 0 then b else a

/-- RNE of m × 2^e / S × 2^(w−1) for the scale (E, F), clamped (R209). -/
def encodeMant (w e f : Nat) (neg : Bool) (m : Nat) (me : Int) : Int :=
  let r : Int := me - ((e : Int) - 138 - w)
  let num := if 0 ≤ r then m * 2 ^ r.toNat else m
  let den := (4096 + f) * (if 0 ≤ r then 1 else 2 ^ (-r).toNat)
  let q := num / den
  let rest := num % den
  let q' := if roundsUp 0 neg (q % 2 == 1) (2 * rest) den then q + 1 else q
  let k := min q' (2 ^ (w - 1) - 1)
  if neg then -(k : Int) else k

/-- R209: the block of `n` F32 encodings, and each element's flags. Mantissa rounding is RNE. -/
def encodeBlock (w : Nat) (fz : Bool) (vals : List Nat) : Block × List Nat :=
  let vs := vals.map (f32.input fz)
  let zeros := vs.map (fun _ => (0 : Int))
  if vs.any FVal.isNan then (⟨255, 0, zeros⟩, vs.map (fun v => if v.isSig then fNV else 0))
  else
    let amax := vs.foldl (fun a v => match v with
      | .fin _ m e => if a.1 = 0 then (m, e) else maxMag a (m, e)
      | _ => a) ((0 : Nat), (0 : Int))
    let anyInf := vs.any (fun v => match v with
      | .inf _ => true
      | _ => false)
    if !anyInf && amax.1 == 0 then (⟨0, 0, zeros⟩, vs.map (fun _ => 0))
    else
      let fits := scaleCovers w amax.1 amax.2 254 4095
      let big := anyInf || !fits
      let e := if big then 254 else leastExp w amax.1 amax.2 8 1 254
      let f := if big then 4095 else leastFrac w amax.1 amax.2 e 12 0 4095
      let top : Int := (2 ^ (w - 1) - 1 : Nat)
      let ms := vs.map (fun v => match v with
        | .fin g m me => encodeMant w e f g m me
        | .inf g => if g then -top else top
        | _ => 0)
      let b : Block := ⟨e, f, ms⟩
      let flags := (vs.zipIdx).map (fun vj =>
        let inexact := match vj.1 with
          | .zero _ => false
          | .fin _ _ _ => !(FVal.eqV (f32.value (b.value w vj.2)) vj.1)
          | _ => true
        let big := match vj.1 with
          | .inf _ => true
          | .fin _ m me => big && !(scaleCovers w m me 254 4095)
          | _ => false
        (if big then fOF else 0) + (if inexact then fNX else 0))
      (b, flags)

/-! ## Exact accumulation -/

/-- floor of n × 2^k, and whether bits were lost. -/
def floorShift (n : Int) (k : Int) : Int × Bool :=
  if 0 ≤ k then (n * (2 ^ k.toNat : Nat), false)
  else
    let d : Int := (2 ^ (-k).toNat : Nat)
    (n / d, decide (n % d ≠ 0))

/-- A contribution to a cell: c, and whether it sets the NaN bit, LOST and OVF. -/
structure Contribution where
  c : Int
  nan : Bool
  lost : Bool
  ovf : Bool
  deriving DecidableEq, Repr

/-- The contribution of n × 2^e to a cell of anchor a (R211, R212). -/
def contributionOf (n e a : Int) : Contribution :=
  let (c, l) := floorShift n (e - a)
  ⟨c, false, l, decide (2 ^ 110 ≤ c.natAbs)⟩

/-- R211: the contribution of one F32. -/
def contribute (a : Int) (x : Nat) : Contribution :=
  match f32.value x with
  | .nan _ => ⟨0, true, false, false⟩
  | .inf _ => ⟨0, true, false, false⟩
  | .zero _ => ⟨0, false, false, false⟩
  | v@(.fin _ _ e) => contributionOf v.sint e a

/-- R211: the contribution of an exact product of two F32s; NaN for any NaN or infinite factor. -/
def contributeProduct (a : Int) (x y : Nat) : Contribution :=
  let special (v : FVal) : Bool := match v with
    | .nan _ => true
    | .inf _ => true
    | _ => false
  let u := f32.value x
  let v := f32.value y
  if special u || special v then ⟨0, true, false, false⟩
  else match mulV u v with
    | w@(.fin _ _ e) => contributionOf w.sint e a
    | _ => ⟨0, false, false, false⟩

/-- R212: the contribution of a pair of 32-element blocks. -/
def contributeBlocks (a : Int) (wa wb : Nat) (x y : Block) : Contribution :=
  if x.e = 255 ∨ y.e = 255 then ⟨0, true, false, false⟩
  else if x.e = 0 ∨ y.e = 0 then ⟨0, false, false, false⟩
  else
    let p := (List.zipWith (· * ·) x.ms y.ms).foldl (· + ·) 0
    contributionOf (p * (4096 + x.f) * (4096 + y.f)) ((x.e : Int) + y.e - 276 - wa - wb) a

/-- C + c modulo 2^128 (R210). -/
def addCell (c : Nat) (d : Int) : Nat := (((c : Int) + d) % (2 ^ 128 : Nat)).toNat

/-- R214: a cell read as F32, RNE. -/
def readCell (anchor : Int) (c : Nat) (nan : Bool) : Nat × Nat :=
  if nan then (f32.nan, 0) else f32.roundInt 0 false false (toSigned 128 c) anchor

end Sys2Proof.Machine
end

