-- ==== Sys2Proof/Machine/Summary.lean ====
section
/-! DEFINITION. Summary slots as values (R291 to R303, R307 to R309): new slots, updates, merges, the serialised
form and its checks, and queries. Nothing here reads the machine. -/

namespace Sys2Proof.Machine

/-- The descriptor (R291). -/
def Slot.descriptor (s : Slot) : Reg64 :=
  BitVec.ofNat 64 (s.typ + 2 ^ 8 * s.param.toNat + 2 ^ 32 * s.seed.toNat)

/-- Granules of a type's footprint (Table 15.1). -/
def typeGranules (t : Nat) : Nat :=
  match t with
  | 1 => 1
  | 2 => 4
  | 3 => 4
  | 7 => 1033
  | _ => 65

/-- Bytes of the serialised form (Table 15.1). -/
def recordBytes (t : Nat) (param : BitVec 24) : Nat :=
  match t with
  | 1 => 176
  | 2 => 32 + 8 * (param.toNat % 256)
  | 3 => 32 + 8 * (param.toNat % 256)
  | 4 => 16416
  | 5 => 16416
  | 6 => 16528
  | _ => 264208

/-- Does the type exist and the parameter keep Table 15.1? -/
def paramOk (t : Nat) (param : BitVec 24) : Bool :=
  let p := param.toNat
  match t with
  | 1 => p == 0
  | 2 => decide (1 ≤ p ∧ p ≤ 64)
  | 3 => decide (1 ≤ p % 256 ∧ p % 256 ≤ 64 ∧ p / 512 = 0)
  | 4 => p == 0
  | 5 => p == 0
  | 6 => decide (p / 65536 = 0)
  | 7 => decide (p / 65536 = 0)
  | _ => false

/-- Cells of an accumulator type (R301). -/
def cellCount (t : Nat) : Nat := if t = 7 then 16384 else 1024

/-- The ANCHOR of an accumulator (Table 15.1). -/
def Slot.anchor (s : Slot) : Int := toSigned 16 (s.param.toNat % 65536)

/-- k of a RESERVOIR or TOPK. -/
def Slot.k (s : Slot) : Nat := s.param.toNat % 256

/-- Does a TOPK keep the least keys? -/
def Slot.isMin (s : Slot) : Bool := s.param.toNat / 256 % 2 == 1

/-- The body of a new slot (R305). -/
def newBody (t : Nat) : Body :=
  match t with
  | 1 => .moments 0 0 0 0x7F800000 0xFF800000 0 0
  | 2 => .reservoir 0 []
  | 3 => .topk 0 []
  | 4 => .qhist []
  | 5 => .cms 0 []
  | _ => .acc [] []

/-- A new slot (R305). -/
def newSlot (t : Nat) (param : BitVec 24) (seed : BitVec 32) : Slot := ⟨t, param, seed, 0, false, false, false, newBody t⟩

/-- R215: a saturating count of 32 bits, and whether it clamped. -/
def satAdd (c d : Nat) : Nat × Bool := if c + d < 2 ^ 32 then (c + d, false) else (2 ^ 32 - 1, true)

/-- One more NaN (R294). -/
def Slot.addNans (s : Slot) (d : Nat) : Slot :=
  let (n, c) := satAdd s.nans.toNat d
  { s with nans := BitVec.ofNat 32 n, sat := s.sat || c }

/-- R294: the prepared input of F32 bits; none for a NaN. -/
def prepare (b : Nat) : Option Nat :=
  if (f32.value b).isNan then none else if b = 0x80000000 then some 0 else some b

/-- R203: the integer key of canonical F32 bits. -/
def keyOf (b : Nat) : Nat := if b / 2 ^ 31 % 2 = 1 then 2 ^ 32 - 1 - b else b + 2 ^ 31

/-- R297: the hash H32. -/
def h32 (v s : Nat) : Nat :=
  let x := Nat.xor v s
  let x := x * 0x2F6BA3C5 % 2 ^ 32
  let x := Nat.xor x (x / 2 ^ 15)
  let x := x * 0x93E14D27 % 2 ^ 32
  Nat.xor x (x / 2 ^ 13)

/-- Inserting into an ordered list, by `before`. -/
def insertBy {α : Type} (before : α → α → Bool) (a : α) : List α → List α
  | [] => [a]
  | b :: l => if before b a then b :: insertBy before a l else a :: b :: l

/-- Uniting ordered multisets and keeping the first k. -/
def unite {α : Type} (before : α → α → Bool) (k : Nat) (l m : List α) : List α :=
  (m.foldl (fun acc a => (insertBy before a acc).take k) l).take k

/-- A pair of a reservoir before another: by priority, then value bits (R297). Equal pairs count as before. -/
def resBefore (a b : BitVec 32 × BitVec 32) : Bool :=
  decide (a.1.toNat < b.1.toNat ∨ (a.1 = b.1 ∧ a.2.toNat ≤ b.2.toNat))

/-- A pair of a top-k at least as good as another (R298). -/
def topBefore (isMin : Bool) (a b : BitVec 32 × BitVec 32) : Bool :=
  let ka := keyOf a.1.toNat
  let kb := keyOf b.1.toNat
  if ka = kb then decide (a.2.toNat ≤ b.2.toNat) else if isMin then decide (ka < kb) else decide (kb < ka)

/-- A sum of x·2^149 or of its square, as whole numbers (R296). -/
def momentTerm (b : Nat) : Int :=
  match f32.value b with
  | v@(.fin _ _ e) => v.sint * (2 ^ (e + 149).toNat : Nat)
  | _ => 0

/-- The lesser and greater of two canonical encodings in the order of R203; an empty bound gives way. -/
def keyMin (a b : BitVec 32) : BitVec 32 := if keyOf b.toNat < keyOf a.toNat then b else a
/-- The greater one. -/
def keyMax (a b : BitVec 32) : BitVec 32 := if keyOf a.toNat < keyOf b.toNat then b else a

/-- Adding a weight to a saturating counter of a map. -/
def bump (m : SMap Nat) (i d : Nat) : SMap Nat × Bool :=
  let (c, s) := satAdd (mget 0 m i) d
  (mput 0 m i c, s)

/-- The row counters of a key (R300). -/
def cmsIndex (seed key row : Nat) : Nat := 1024 * row + h32 key ((seed + row * 0x6A09) % 2 ^ 32) % 1024

/-- One input offered to a slot: F32 bits or key bits, and the index, weight or cell (R296 to R301). -/
structure Input where
  bits : Nat
  arg : Nat
  second : Option Nat
  deriving DecidableEq, Repr

/-- A contribution added to a cell (R301, R213). -/
def Slot.addTo (s : Slot) (cell : Nat) (c : Contribution) : Slot :=
  match s.body with
  | .acc cells nans =>
    { s with
      lost := s.lost || c.lost
      ovf := s.ovf || c.ovf
      body := .acc (mput 0 cells cell (addCell (mget 0 cells cell) c.c)) (if c.nan then addOnce nans cell else nans) }
  | _ => s

/-- The update of a slot by one input (R296 to R301). -/
def Slot.take (s : Slot) (i : Input) : Slot :=
  match s.body with
  | .moments count pinf ninf mn mx sum sumsq =>
    match prepare i.bits with
    | none => s.addNans 1
    | some b =>
      let (p, cp) := satAdd pinf.toNat (if b = 0x7F800000 then 1 else 0)
      let (n, cn) := satAdd ninf.toNat (if b = 0xFF800000 then 1 else 0)
      let t := momentTerm b
      { s with
        sat := s.sat || cp || cn
        body := .moments (count + 1) (BitVec.ofNat 32 p) (BitVec.ofNat 32 n) (keyMin mn (BitVec.ofNat 32 b))
          (keyMax mx (BitVec.ofNat 32 b)) (sum + BitVec.ofInt 352 t) (sumsq + BitVec.ofInt 640 (t * t)) }
  | .reservoir offered es =>
    match prepare i.bits with
    | none => s.addNans 1
    | some b =>
      let e := (BitVec.ofNat 32 (h32 b s.seed.toNat), BitVec.ofNat 32 b)
      { s with body := .reservoir (offered + 1) (unite resBefore s.k es [e]) }
  | .topk offered es =>
    match prepare i.bits with
    | none => s.addNans 1
    | some b =>
      { s with body := .topk (offered + 1) (unite (topBefore s.isMin) s.k es [(BitVec.ofNat 32 b, BitVec.ofNat 32 i.arg)]) }
  | .qhist counts =>
    match prepare i.bits with
    | none => s.addNans 1
    | some b =>
      let (m, c) := bump counts (keyOf b / 2 ^ 20) i.arg
      { s with sat := s.sat || c, body := .qhist m }
  | .cms total m =>
    let (m', c) := (List.range 4).foldl (fun (acc : SMap Nat × Bool) r =>
      let (x, y) := bump acc.1 (cmsIndex s.seed.toNat i.bits r) i.arg
      (x, acc.2 || y)) (m, false)
    { s with sat := s.sat || c, body := .cms (total + BitVec.ofNat 64 i.arg) m' }
  | .acc _ _ =>
    s.addTo i.arg (match i.second with
      | none => contribute s.anchor i.bits
      | some y => contributeProduct s.anchor i.bits y)

/-- Merging counter maps (R215). -/
def mergeCounts (a b : SMap Nat) : SMap Nat × Bool :=
  b.foldl (fun (acc : SMap Nat × Bool) kv =>
    let (m, c) := bump acc.1 kv.1 kv.2
    (m, acc.2 || c)) (a, false)

/-- The merge of two slots of equal descriptor (R296 to R301, R307); and whether a saturating field clamped. -/
def Slot.merge (s t : Slot) : Slot × Bool :=
  let (nn, cn) := satAdd s.nans.toNat t.nans.toNat
  let base : Slot := { s with
    nans := BitVec.ofNat 32 nn, lost := s.lost || t.lost, ovf := s.ovf || t.ovf, sat := s.sat || t.sat || cn }
  match s.body, t.body with
  | .moments c1 p1 n1 mn1 mx1 s1 q1, .moments c2 p2 n2 mn2 mx2 s2 q2 =>
    let (p, cp) := satAdd p1.toNat p2.toNat
    let (n, cm) := satAdd n1.toNat n2.toNat
    ({ base with
       sat := base.sat || cp || cm
       body := .moments (c1 + c2) (BitVec.ofNat 32 p) (BitVec.ofNat 32 n) (keyMin mn1 mn2) (keyMax mx1 mx2)
         (s1 + s2) (q1 + q2) }, cn || cp || cm)
  | .reservoir o1 e1, .reservoir o2 e2 => ({ base with body := .reservoir (o1 + o2) (unite resBefore s.k e1 e2) }, cn)
  | .topk o1 e1, .topk o2 e2 => ({ base with body := .topk (o1 + o2) (unite (topBefore s.isMin) s.k e1 e2) }, cn)
  | .qhist m1, .qhist m2 =>
    let (m, c) := mergeCounts m1 m2
    ({ base with sat := base.sat || c, body := .qhist m }, cn || c)
  | .cms t1 m1, .cms t2 m2 =>
    let (m, c) := mergeCounts m1 m2
    ({ base with sat := base.sat || c, body := .cms (t1 + t2) m }, cn || c)
  | .acc c1 n1, .acc c2 n2 =>
    let m := c2.foldl (fun m kv => mput 0 m kv.1 (addCell (mget 0 m kv.1) kv.2)) c1
    ({ base with body := .acc m (n2.foldl addOnce n1) }, cn)
  | _, _ => (base, cn)

/-! ## The serialised form (Table 15.3) -/

/-- NaN cells, or the NaN count. -/
def Slot.nansField (s : Slot) : Nat :=
  match s.body with
  | .acc _ nans => nans.length
  | _ => s.nans.toNat

/-- FLAGS bits 3:0. -/
def Slot.flagBits (s : Slot) : Nat :=
  (if s.lost then 1 else 0) + (if s.ovf then 2 else 0) + (if s.sat then 4 else 0) +
    (match s.body with
     | .acc _ nans => if nans.isEmpty then 0 else 8
     | _ => 0)

/-- Entries as bytes, unused ones zero. -/
def entryBytes (k : Nat) (es : List (BitVec 32 × BitVec 32)) : List Byte :=
  ((List.range k).map (fun j => match es[j]? with
    | some (a, b) => leBytes 4 a.toNat ++ leBytes 4 b.toNat
    | none => List.replicate 8 0)).flatten

/-- A byte of the NaN map. -/
def nanMapByte (nans : List Nat) (i : Nat) : Byte :=
  BitVec.ofNat 8 ((List.range 8).foldl (fun a b => if 8 * i + b ∈ nans then a + 2 ^ b else a) 0)

/-- The serialised record of a slot (R302). -/
def Slot.serialise (s : Slot) : List Byte :=
  let head := [BitVec.ofNat 8 s.typ] ++ leBytes 3 s.param.toNat ++ leBytes 4 s.seed.toNat ++ leBytes 4 s.nansField ++
    leBytes 4 (s.flagBits + 2 ^ 24)
  head ++ (match s.body with
    | .moments c p n mn mx sum sq =>
      leBytes 8 c.toNat ++ leBytes 4 p.toNat ++ leBytes 4 n.toNat ++ leBytes 4 mn.toNat ++ leBytes 4 mx.toNat ++
        leBytes 44 sum.toNat ++ leBytes 80 sq.toNat ++ List.replicate 12 0
    | .reservoir o es => leBytes 8 o.toNat ++ leBytes 4 es.length ++ List.replicate 4 0 ++ entryBytes s.k es
    | .topk o es => leBytes 8 o.toNat ++ leBytes 4 es.length ++ List.replicate 4 0 ++ entryBytes s.k es
    | .qhist m => List.replicate 16 0 ++ ((List.range 4096).map (fun i => leBytes 4 (mget 0 m i))).flatten
    | .cms t m => leBytes 8 t.toNat ++ List.replicate 8 0 ++
        ((List.range 4096).map (fun i => leBytes 4 (mget 0 m i))).flatten
    | .acc cells nans =>
      ((List.range (cellCount s.typ)).map (fun i => leBytes 16 (mget 0 cells i))).flatten ++
        (List.range (cellCount s.typ / 8)).map (nanMapByte nans))

/-- A little-endian field of a record. -/
def recField (r : List Byte) (off n : Nat) : Nat := leNat ((r.drop off).take n)

/-- The checks 1 and 2 of R303, on the header alone: the offset of the field that fails. -/
def headerFault (r : List Byte) : Option Nat :=
  if recField r 15 1 ≠ 1 then some 15
  else if recField r 0 1 = 0 ∨ 7 < recField r 0 1 then some 0
  else if paramOk (recField r 0 1) (BitVec.ofNat 24 (recField r 1 3)) then none
  else some 1

/-- The first number that a test picks. -/
def firstOf (n : Nat) (f : Nat → Option Nat) : Option Nat := (List.range n).findSome? f

/-- The pairs of a RESERVOIR or TOPK record. -/
def recEntry (r : List Byte) (j : Nat) : BitVec 32 × BitVec 32 :=
  (BitVec.ofNat 32 (recField r (32 + 8 * j) 4), BitVec.ofNat 32 (recField r (36 + 8 * j) 4))

/-- Is it an encoding that prepared inputs never have (R294)? -/
def notCanonical (b : BitVec 32) : Bool := (f32.value b.toNat).isNan || b == 0x80000000

/-- Check 3 of R303. -/
def zeroFault (r : List Byte) : Option Nat :=
  let t := recField r 0 1
  let seed := if (t = 6 ∨ t = 7) ∧ recField r 4 4 ≠ 0 then some 4 else none
  let flags := if recField r 12 4 / 16 % 4096 ≠ 0 then some 12 else none
  let body := match t with
    | 1 => if recField r 164 12 ≠ 0 then some 164 else none
    | 2 => if recField r 28 4 ≠ 0 then some 28 else none
    | 3 => if recField r 28 4 ≠ 0 then some 28 else none
    | 4 => if recField r 16 16 ≠ 0 then some 16 else none
    | 5 => if recField r 24 8 ≠ 0 then some 24 else none
    | _ => none
  seed.orElse (fun _ => flags.orElse (fun _ => body))

/-- A pair of a TOPK record with its key as R203 compares it: −0 as +0. -/
def plusZero (e : BitVec 32 × BitVec 32) : BitVec 32 × BitVec 32 := if e.1 = 0x80000000 then (0, e.2) else e

/-- Check 4 of R303. -/
def entriesFault (r : List Byte) : Option Nat :=
  let t := recField r 0 1
  let k := recField r 1 1
  let stored := recField r 24 4
  let bef (a b : BitVec 32 × BitVec 32) : Bool :=
    if t = 2 then resBefore a b else topBefore (recField r 2 1 % 2 == 1) (plusZero a) (plusZero b)
  if t ≠ 2 ∧ t ≠ 3 then none
  else if k < stored ∨ stored ≠ min k (recField r 16 8) then some 24
  else
    (firstOf (stored - 1) (fun j => if bef (recEntry r j) (recEntry r (j + 1)) then none else some (32 + 8 * (j + 1)))).orElse (fun _ =>
    (firstOf stored (fun j =>
      if t = 3 then (if notCanonical (recEntry r j).1 then some (32 + 8 * j) else none)
      else if notCanonical (recEntry r j).2 then some (36 + 8 * j) else none)).orElse (fun _ =>
    firstOf (k - stored) (fun j => if recField r (32 + 8 * (stored + j)) 8 ≠ 0 then some (32 + 8 * (stored + j)) else none)))

/-- Check 5 of R303. -/
def priorityFault (r : List Byte) : Option Nat :=
  if recField r 0 1 ≠ 2 then none
  else firstOf (recField r 24 4) (fun j =>
    if h32 (recEntry r j).2.toNat (recField r 4 4) = (recEntry r j).1.toNat then none else some (32 + 8 * j))

/-- The NaN cells of an accumulator record. -/
def recNans (r : List Byte) : List Nat :=
  let n := cellCount (recField r 0 1)
  let m := (r.drop (16 + 16 * n)).take (n / 8)
  (m.zipIdx).foldl (fun acc bi => acc ++ (upFrom 0 8).filterMap (fun b => if bi.1.toNat / 2 ^ b % 2 = 1 then some (8 * bi.2 + b)
    else none)) []

/-- Check 6 of R303. -/
def nansFault (r : List Byte) : Option Nat :=
  let t := recField r 0 1
  if t ≠ 6 ∧ t ≠ 7 then none
  else
    let n := (recNans r).length
    if recField r 8 4 ≠ n then some 8
    else if (recField r 12 4 / 8 % 2 == 1) != (n != 0) then some 12
    else none

/-- R303: the record's first fault, by the offset of the field it judges. -/
def recordFault (r : List Byte) : Option Nat :=
  (headerFault r).orElse (fun _ => (zeroFault r).orElse (fun _ => (entriesFault r).orElse (fun _ =>
    (priorityFault r).orElse (fun _ => nansFault r))))

/-- Counters of a record, sparse. -/
def recCounts (r : List Byte) (off n : Nat) : SMap Nat :=
  (List.range n).filterMap (fun i => let c := recField r (off + 4 * i) 4; if c = 0 then none else some (i, c))

/-- The slot that a checked record describes. -/
def deserialise (r : List Byte) : Slot :=
  let t := recField r 0 1
  let fl := recField r 12 4
  let body := match t with
    | 1 => .moments (BitVec.ofNat 64 (recField r 16 8)) (BitVec.ofNat 32 (recField r 24 4)) (BitVec.ofNat 32 (recField r 28 4))
        (BitVec.ofNat 32 (recField r 32 4)) (BitVec.ofNat 32 (recField r 36 4)) (BitVec.ofNat 352 (recField r 40 44))
        (BitVec.ofNat 640 (recField r 84 80))
    | 2 => .reservoir (BitVec.ofNat 64 (recField r 16 8)) ((List.range (recField r 24 4)).map (recEntry r))
    | 3 => .topk (BitVec.ofNat 64 (recField r 16 8)) ((List.range (recField r 24 4)).map (recEntry r))
    | 4 => .qhist (recCounts r 32 4096)
    | 5 => .cms (BitVec.ofNat 64 (recField r 16 8)) (recCounts r 32 4096)
    | _ => .acc ((List.range (cellCount t)).filterMap (fun i =>
        let c := recField r (16 + 16 * i) 16; if c = 0 then none else some (i, c))) (recNans r)
  ⟨t, BitVec.ofNat 24 (recField r 1 3), BitVec.ofNat 32 (recField r 4 4),
    if t = 6 ∨ t = 7 then 0 else BitVec.ofNat 32 (recField r 8 4), fl % 2 == 1, fl / 2 % 2 == 1, fl / 4 % 2 == 1, body⟩

/-! ## Queries (R296, R299, R300, R309) -/

/-- sq.mom (Table 15.2): the value and its flags. -/
def Slot.queryMoments (s : Slot) (code : Nat) : Nat × Nat :=
  match s.body with
  | .moments count p n mn mx sum sq =>
    let s1 := sum.toInt
    let infs : Option Nat := if p ≠ 0 ∧ n ≠ 0 then some f32.nan else if p ≠ 0 then some f32.inf
      else if n ≠ 0 then some (f32.inf + f32.sign) else none
    match code with
    | 0 => (count.toNat, 0)
    | 1 => match infs with
      | some b => (b, 0)
      | none => if count = 0 then (f32.nan, 0) else f32.roundRatio 0 false s1 count.toNat (-149)
    | 2 => if count = 0 ∨ infs.isSome then (f32.nan, 0)
      else f32.roundRatio 0 false ((count.toNat : Int) * sq.toInt - s1 * s1) (count.toNat * count.toNat) (-298)
    | 3 => (mn.toNat, 0)
    | 4 => (mx.toNat, 0)
    | 5 => match infs with
      | some b => (b, 0)
      | none => if count = 0 then (0, 0) else f32.roundInt 0 false false s1 (-149)
    | 6 => (s.nans.toNat, 0)
    | 7 => (p.toNat, 0)
    | _ => (n.toNat, 0)
  | _ => (0, 0)

/-- The lower edge of a bucket (R299): the least F32 in it that is no NaN. -/
def bucketEdge (i : Nat) : Nat :=
  let k := i * 2 ^ 20
  let b := if k < 2 ^ 31 then 2 ^ 32 - 1 - k else k - 2 ^ 31
  if (f32.value b).isNan then f32.inf + f32.sign else b

/-- The first bucket whose cumulative count reaches r. -/
def quantileBucket : SMap Nat → Nat → Option Nat
  | [], _ => none
  | (i, c) :: m, r => if r ≤ c then some i else quantileBucket m (r - c)

/-- ceil(q × n) for an F32 value q between 0 and 1. -/
def ceilTimes (q n : Nat) : Nat :=
  match f32.value q with
  | .fin _ m e => if 0 ≤ e then m * 2 ^ e.toNat * n else (m * n + 2 ^ (-e).toNat - 1) / 2 ^ (-e).toNat
  | _ => 0

/-- sq.qh. -/
def Slot.quantile (s : Slot) (q : Nat) : Nat :=
  match s.body with
  | .qhist m =>
    let n := m.foldl (fun a kv => a + kv.2) 0
    if n = 0 then f32.nan
    else match quantileBucket m (max 1 (ceilTimes q n)) with
      | some i => bucketEdge i
      | none => f32.nan
  | _ => f32.nan

/-- sq.cms for one key. -/
def Slot.estimate (s : Slot) (key : Nat) : Nat :=
  match s.body with
  | .cms _ m => (List.range 4).foldl (fun a r => min a (mget 0 m (cmsIndex s.seed.toNat key r))) (2 ^ 32 - 1)
  | _ => 0

/-- A cell read as F32 (R214). -/
def Slot.cell (s : Slot) (i : Nat) : Nat × Nat :=
  match s.body with
  | .acc cells nans => readCell s.anchor (mget 0 cells i) (decide (i ∈ nans))
  | _ => (0, 0)

/-- The entries that sq.res and sq.topk show. -/
def Slot.entries (s : Slot) : List (BitVec 32 × BitVec 32) :=
  match s.body with
  | .reservoir _ es => es
  | .topk _ es => es
  | _ => []

/-- sq.resn. -/
def Slot.queryRes (s : Slot) (code : Nat) : Nat :=
  match s.body with
  | .reservoir o es => match code with
    | 0 => es.length
    | 1 => o.toNat
    | _ => s.nans.toNat
  | _ => 0

end Sys2Proof.Machine
end

