-- ==== Sys2Proof/Machine/Ops.lean ====
section
/-! DEFINITION. The shared operations over the state: registers, waits and traps, taking an exception and returning
from one, the strip's commit and rewind, and the PC's advance. -/

namespace Sys2Proof.Machine

/-- How an instruction stops short of its effect: a trap or a wait, with the state it leaves (R357, R83), or a strip
already rewound (R261). -/
inductive Stop where
  | trap (t : Trap) (s : State)
  | wait (w : Wait) (s : State)
  | rewound (s : State)
  deriving Repr

/-- What an instruction or a part of one gives. -/
abbrev Run (α : Type) := Except Stop α

/-! ## Names and fields -/

/-- The code of a cause (Table 18.1). -/
def Cause.code : Cause → Nat
  | .zeroWord => 0x00
  | .illegalOpcode => 0x01
  | .reservedField => 0x02
  | .convoyConflict => 0x03
  | .emptyRead => 0x04
  | .groupAlign => 0x05
  | .groupOverlap => 0x06
  | .repeatFrame => 0x07
  | .softwareTrap => 0x08
  | .breakpoint => 0x09
  | .misaligned => 0x0A
  | .translation => 0x10
  | .permission => 0x11
  | .compressedAccess => 0x12
  | .formatAlign => 0x13
  | .formatPath => 0x14
  | .blockCheck => 0x15
  | .fetchFault => 0x16
  | .streamUnbound => 0x20
  | .tileState => 0x21
  | .expandLength => 0x22
  | .checksum => 0x23
  | .summaryType => 0x28
  | .summaryCapacity => 0x29
  | .summaryParam => 0x2A
  | .dealerRange => 0x30
  | .dealerTable => 0x31
  | .seatState => 0x38
  | .seatNotHeld => 0x39
  | .seatCapacity => 0x3A
  | .uncorrectable => 0x40
  | .watchdog => 0x41
  | .gangAbort => 0x42
  | .stripRetryExhausted => 0x44
  | .stackOffline => 0x48
  | .quadRetired => 0x49
  | .pairMismatch => 0x4A
  | .linkDown => 0x4B
  | .linkVersion => 0x4C
  | .crossingLost => 0x4D
  | .fieldLost => 0x4E
  | .dudelDiverge => 0x4F
  | .cacheSliceRetired => 0x50

/-- Does Table 18.1 deliver the cause to the system fault queue? -/
def Cause.toSystem : Cause → Bool
  | .translation | .permission | .compressedAccess | .fetchFault | .uncorrectable | .watchdog
  | .stripRetryExhausted => true
  | _ => false

/-- A trap with a value and nothing else. -/
def Trap.mk' (c : Cause) (v : Reg64) : Trap := ⟨c, 0, 0xFF, 11, v, 0, 0, 0, 0, 0⟩

/-- The trap with an element number. -/
def Trap.at' (t : Trap) (e : Nat) : Trap := { t with tidx0 := BitVec.ofNat 64 e }

/-- The state with another current hand. -/
def State.withHand (s : State) (h : Hand) : State := { s with hand := h }

/-- The hand of an id, the current one or another. -/
def State.handOf (s : State) (id : Nat) : Option Hand :=
  if s.hand.id = id ∧ s.hand.status ≠ .none then some s.hand
  else s.others.find? (fun h => h.id == id && h.status != .none)

/-- Changing the hand of an id. -/
def State.modHand (s : State) (id : Nat) (f : Hand → Hand) : State :=
  if s.hand.id = id ∧ s.hand.status ≠ .none then { s with hand := f s.hand }
  else { s with others := s.others.map (fun h => if h.id = id then f h else h) }

/-- Every hand. -/
def State.allHands (s : State) : List Hand := if s.hand.status = .none then s.others else s.hand :: s.others

/-- A core; a core nothing has changed is as at reset. -/
def State.core (s : State) (c : Nat) : Core := mget Core.atReset s.cores c
/-- Changing a core. -/
def State.modCore (s : State) (c : Nat) (f : Core → Core) : State :=
  { s with cores := mput Core.atReset s.cores c (f (s.core c)) }
/-- The field of a core (R3). -/
def fieldOfCore (c : Nat) : Nat := c / Config.coresPerField
/-- A field. -/
def State.field (s : State) (f : Nat) : Field := s.fields.toArray.getD f Field.atReset
/-- Changing a field. -/
def State.modField (s : State) (f : Nat) (g : Field → Field) : State :=
  { s with fields := s.fields.setIfInBounds f (g (s.field f)) }

/-- An empty tile entry (Table 3.2). -/
def Tile.empty : Tile := ⟨0, false, 0, 0, 0, 0, 0, 0, [], 0⟩
/-- A tile of a core. -/
def State.tile (s : State) (c t : Nat) : Tile := mget Tile.empty (s.core c).tiles t
/-- Changing a tile of a core. -/
def State.modTile (s : State) (c t : Nat) (f : Tile → Tile) : State :=
  s.modCore c (fun k => { k with tiles := mput Tile.empty k.tiles t (f (mget Tile.empty k.tiles t)) })

/-- The task of a number. -/
def State.taskOf (s : State) (id : Nat) : Option Task := s.tasks.find? (fun t => t.id == id)
/-- Changing a task. -/
def State.modTask (s : State) (id : Nat) (f : Task → Task) : State :=
  { s with tasks := s.tasks.map (fun t => if t.id = id then f t else t) }

/-- An open choice among `n` outcomes (log 2): the free value, applied to a count that moves on. With one outcome
there is nothing to choose. -/
def State.choose (s : State) (n : Nat) : State × Nat :=
  if n ≤ 1 then (s, 0) else ({ s with freeCtr := s.freeCtr + 1 }, Config.freeChoice s.freeCtr % n)

/-! ## Registers (R152) -/

/-- A scalar register; x0 reads zero. -/
def Hand.getX (h : Hand) (r : Fld5) : Reg64 := if r = 0 then 0 else h.x.get r.toFin
/-- Writing a scalar register; writes to x0 are discarded. -/
def Hand.setX (h : Hand) (r : Fld5) (v : Reg64) : Hand := if r = 0 then h else { h with x := h.x.set r.toNat v r.isLt }
/-- The choice of number `j` of an element read of the current hand, among `n` values: in a protected strip its own, which a rewind makes
again as before (R82); otherwise a free one. -/
def State.chooseRead (s : State) (j n : Nat) : State × Nat :=
  if n ≤ 1 then (s, 0)
  else if s.hand.strip.prot then (s, Config.freeRead s.hand.strip.choices s.hand.strip.drawn j % n)
  else s.choose n

/-- An element read of a protected strip is behind the hand, whether it left a choice or not: the next has its own (R82). -/
def State.readDone (s : State) : State :=
  if s.hand.strip.prot then { s with hand := { s.hand with strip := { s.hand.strip with drawn := s.hand.strip.drawn + 1 } } } else s

/-- A choice of an engine's read, of any number (log 2). -/
def State.chooseFree (s : State) (_ n : Nat) : State × Nat := s.choose n

/-- Does an outstanding producer fill this scalar register? -/
def Hand.xEmpty (h : Hand) (r : Fld5) : Bool := r != 0 && h.producers.any (fun p => p.dest == .scalar r.toNat)
/-- Does an outstanding producer fill a vector register of the group that starts at r? -/
def Hand.vEmpty (h : Hand) (r n : Nat) : Bool :=
  h.producers.any (fun p => match p.dest with
    | .vector q m => decide (q < r + n ∧ r < q + m)
    | _ => false)
/-- Has every earlier instruction that writes this predicate written it (R239)? -/
def Hand.pReady (h : Hand) (r : Nat) : Bool := !(h.producers.any (fun p => p.dest == .pred r))
/-- Do two places where results go share a register or a slot? -/
def Dest.meets : Dest → Dest → Bool
  | .scalar a, .scalar b => a == b
  | .vector a n, .vector b m => decide (a < b + m ∧ b < a + n)
  | .pred a, .pred b => a == b
  | .slot a, .slot b => a == b
  | _, _ => false
/-- May the `i`-th outstanding producer fill its destination? The earlier ones that fill what it reads, or its destination, fill
first (R83, R237). -/
def Hand.mayLand (h : Hand) (i : Nat) : Bool :=
  match h.producers[i]? with
  | none => false
  | some p => !((h.producers.take i).any (fun q => q.dest.meets p.dest || p.srcs.any q.dest.meets))
/-- A predicate register; p0 is all ones (R239). -/
def Hand.getP (h : Hand) (r : Nat) : BitVec 1024 := if r = 0 then BitVec.allOnes 1024 else h.p.toArray.getD r 0
/-- Writing a predicate register; p0 is read-only. -/
def Hand.setP (h : Hand) (r : Nat) (v : BitVec 1024) : Hand :=
  if r = 0 then h else { h with p := h.p.setIfInBounds r v }
/-- A byte of the vector file: register r, byte o of the group that starts there. -/
def Hand.getVB (h : Hand) (r o : Nat) : Byte := mget 0 h.v (r * 4096 + o)
/-- Writing a byte of the vector file. -/
def Hand.setVB (h : Hand) (r o : Nat) (b : Byte) : Hand := { h with v := mput 0 h.v (r * 4096 + o) b }
/-- A little-endian element of `w` bytes at byte `o` of the group at r. -/
def Hand.getVN (h : Hand) (r o w : Nat) : Nat := leNat ((upFrom o w).map (h.getVB r))
/-- Writing an element of `w` bytes. -/
def Hand.setVN (h : Hand) (r o w v : Nat) : Hand :=
  { h with v := (leBytes w v).zipIdx.foldl (fun m bi => mput 0 m (r * 4096 + o + bi.2) bi.1) h.v }
/-- Adding an outstanding producer (R83); x0 never gets one. -/
def Hand.produce (h : Hand) (d : Dest) (cls : Option Nat) : Hand :=
  if d = .scalar 0 then h else { h with producers := h.producers ++ [⟨d, cls, none, [], false, []⟩] }

/-- Putting a scalar register. -/
def State.setX (s : State) (r : Fld5) (v : Reg64) : State := { s with hand := s.hand.setX r v }

/-- SEW in bytes. -/
def Hand.sewBytes (h : Hand) : Nat := 2 ^ h.csr.sew.toNat
/-- SEW in bits. -/
def Hand.sewBits (h : Hand) : Nat := 8 * h.sewBytes
/-- GRP in registers. -/
def Hand.grpN (h : Hand) : Nat := 2 ^ h.csr.grp.toNat
/-- Is element e active under mask m (R23)? -/
def Hand.activeAt (h : Hand) (m : BitVec 3) (e : Nat) : Bool :=
  decide (e < h.csr.vl) && (m == 0 || (h.getP m.toNat).getLsbD e)
/-- The element ordinal (R149). -/
def Hand.ordinal (h : Hand) (e : Nat) : Reg64 := h.csr.ordbase + h.csr.orun + BitVec.ofNat 64 e

/-! ## TSTATUS -/

/-- Handler mode (Table 8.10). -/
def Csrs.hm (c : Csrs) : Bool := c.tstatus.getLsbD 0

/-- TSTATUS of its four fields. -/
def tstatusOf (rwd prot frm hm : Bool) : Reg64 :=
  BitVec.ofNat 64 ((if rwd then 8 else 0) + (if prot then 4 else 0) + (if frm then 2 else 0) + (if hm then 1 else 0))

/-! ## Lines, fields of addresses -/

/-- The 128-byte line of a memory key. -/
def lineOf (key : Nat) : Nat := key / 128
/-- Is a key of the bench? -/
def isBench (key : Nat) : Bool := decide (Config.benchKey 0 0 ≤ key)
/-- The home field of a key: of its stack, or of the bench's core (R55, R86). -/
def homeField (key : Nat) : Nat :=
  if isBench key then fieldOfCore ((key - Config.benchKey 0 0) / 0x80_0000) else key / Config.stackBytes / 2

/-- Heel images that a field has room for (R60, R56). -/
def State.heelRoom (s : State) (f : Nat) : Nat :=
  let k := (s.field f).stk
  (if k.getLsbD 0 then Config.heelImagesPerStack else 0) + (if k.getLsbD 1 then Config.heelImagesPerStack else 0)

/-- Heel images that a field holds. -/
def State.heelUsed (s : State) (f : Nat) : Nat := (s.mem.heel.filter (fun i => homeField (i.line * 128) == f)).length

/-! ## Performing a store -/

/-- The mask bit of a byte in its line. -/
def maskBit (key : Nat) : BitVec 128 := BitVec.ofNat 128 (2 ^ (key % 128))

/-- Clearing a line's tag and releasing its pin (R58, R59). -/
def State.clearTag (s : State) (line : Nat) : State :=
  match mfind s.mem.tags line with
  | none => s
  | some t =>
    let s := { s with mem := { s.mem with tags := mdel s.mem.tags line } }
    s.modHand t.hand (fun h => { h with ord := { h.ord with pins := h.ord.pins.filter (· != line) } })

/-- A byte that reaches live memory: links to its line break, a delivered tile byte there is overwritten, and what the byte came from
before no longer stands. Data that no longer decode stay so, whatever is stored over them (log 78). -/
def State.putLive (s : State) (key : Nat) (b : Byte) : State :=
  let s := s.clearTag (lineOf key)
  let s := if isBench key then
      let c := (key - Config.benchKey 0 0) / 0x80_0000
      let o := (key - Config.benchKey 0 0) % 0x80_0000
      match mfind (s.core c).delivered o with
      | none => s
      | some _ => s.modCore c (fun k => { k with delivered := mdel k.delivered o })
    else s
  { s with mem := { s.mem with live := s.mem.live.put key b, notes := mdel s.mem.notes key } }

/-- The byte that an SC load finds live (R113): ordinary stores that no settling has reached are not among what it returns. -/
def MemState.scByte (m : MemState) (key : Nat) : Byte :=
  match mfind m.notes key with
  | some n => n.under.getD (m.live.get key)
  | none => m.live.get key

/-- A byte's value published device-wide (R96): it replaces what a spawner's store stood for at its graph's hands (R180), and what a system
core held reserved there it no longer does (log 88). -/
def MemState.publish (m : MemState) (key : Nat) (b : Byte) : MemState :=
  { m with
    pub := m.pub.put key b
    gifts := m.gifts.map (fun g => (g.1, mdel g.2 key))
    reserved := m.reserved.filter (fun r => !decide (r.2.1 ≤ key ∧ key < r.2.1 + r.2.2)) }

/-- Published contents as a refresh of a hand takes them in (R96): a spawned hand's with the spawner's stores (R180). -/
def MemState.pubFor (m : MemState) (h : Hand) : Mem :=
  m.pub.putAll ((mfind m.gifts (h.taskid.toNat / 65536)).getD [])

/-- A byte published device-wide as it performs (R117, R124, R128). -/
def State.putPub (s : State) (key : Nat) (b : Byte) : State :=
  let s := s.putLive key b
  { s with mem := s.mem.publish key b }

/-- Publishing many bytes. -/
def State.putPubAll (s : State) (l : List (Nat × Byte)) : State := l.foldl (fun s c => s.putPub c.1 c.2) s

/-- Making live many bytes. -/
def State.putLiveAll (s : State) (l : List (Nat × Byte)) : State := l.foldl (fun s c => s.putLive c.1 c.2) s

/-- The lines that `n` bytes from a key lie in. -/
def linesOf (key n : Nat) : List Nat := if n = 0 then [] else upFrom (lineOf key) (lineOf (key + n - 1) + 1 - lineOf key)

/-- The rank that the line reached next gets among the tagged lines (R57). -/
def MemState.nextUse (m : MemState) : Nat := m.tags.foldl (fun n kt => Nat.max n (kt.2.used + 1)) 0

/-- A tagged line is reached: it is the most recently used one (R57). -/
def MemState.useLine (m : MemState) (line : Nat) : MemState :=
  match mfind m.tags line with
  | none => m
  | some t => { m with tags := mins m.tags line { t with used := m.nextUse } }

/-- Bytes are read through the cache: each of their lines is in turn the most recently used one (R57). -/
def State.uses (s : State) (key n : Nat) : State := { s with mem := (linesOf key n).foldl MemState.useLine s.mem }

/-- Is a physical address one that a hand's mapping may name: HBM4E outside the heel areas (R55, R396)? -/
def mappable (pa : Nat) : Bool := decide (pa < 12 * Config.stackBytes ∧ pa % Config.stackBytes < Config.stackUsable)

/-- Whether a stack serves (R56, R412): some true when online, some false when gone, none while it comes up. -/
def State.stackUp (s : State) (pa : Nat) : Option Bool :=
  let k := pa / Config.stackBytes
  let f := s.field (k / 2)
  if f.state = 5 then some (f.stk.getLsbD (k % 2))
  else if f.state = 6 then some false
  else none

/-- Do some bytes stand in memory: all of them in HBM4E that hands may map, on stacks that serve them (R56, R412)? None while one is still
coming up: an access then waits. -/
def State.memUp (s : State) (a n : Nat) : Option Bool :=
  if !mappable a || !mappable (a + n - 1) then some false
  else match s.stackUp a, s.stackUp (a + n - 1) with
    | some true, some true => some true
    | some false, _ => some false
    | _, some false => some false
    | _, _ => none

/-- Bytes written at physical addresses, where they stand in memory. What the device writes to a stack that is gone is lost: R56 says so
of no write of its own, and this is the model's choice (log 113). -/
def State.physWrite (s : State) (a : Nat) (l : List Byte) : State :=
  if s.memUp a l.length = some true then s.putPubAll (atAddr a l) else s

/-- Performing a member's logged write of a byte: an ordinary store when `plain` (R113). -/
def State.stamp (s : State) (task member seq key : Nat) (b : Byte) (plain : Bool) : State :=
  let n := s.mem.perfCtr
  let was := s.mem.live.get key
  let under := if plain then some (s.mem.scByte key) else none
  let s := s.putLive key b
  let s := { s with mem := { s.mem with perfCtr := n + 1, notes := mins s.mem.notes key ⟨n, under⟩ } }
  s.modTask task (fun t => { t with log := t.log.map (fun w =>
    if w.member = member ∧ w.seq = seq ∧ w.key = key then { w with perf := n, was := was } else w) })

/-- Who stores, as the heel's index names it (R60): the task, a hand's store or a command's, the writer, the hand, its epoch. -/
structure Writer where
  task : Nat
  byCmd : Bool
  writer : Nat
  hand : Nat
  epoch : Nat
  deriving DecidableEq, Repr

/-- The current hand as a storing agent. -/
def State.storer (s : State) : Writer := ⟨s.hand.task, false, s.hand.id, s.hand.id, s.hand.ord.epoch⟩

/-- Is an image the one that a writer's first store to the line retained? -/
def Writer.owns (w : Writer) (line : Nat) (i : HeelImage) : Bool :=
  i.line == line && i.byCmd == w.byCmd && i.writer == w.writer && i.hand == w.hand && i.epoch == w.epoch && i.task == w.task

/-- Would a store of a writer to a byte need a heel image for which its home field has no room (R62)? -/
def State.heelFull (s : State) (w : Writer) (key : Nat) : Bool :=
  !(s.mem.heel.any (w.owns (lineOf key))) && decide (s.heelRoom (homeField key) ≤ s.heelUsed (homeField key))

/-- The heel image a store of a writer needs (R60): the state with it, or none when the field has no room. -/
def State.retain (s : State) (w : Writer) (key : Nat) : Option State :=
  let line := lineOf key
  let same := w.owns line
  if s.mem.heel.any same then
    some { s with mem := { s.mem with heel := s.mem.heel.map (fun i => if same i then { i with mask := i.mask ||| maskBit key } else i) } }
  else if s.heelFull w key then none
  else
    let img : HeelImage := ⟨line, w.task, w.byCmd, w.writer, w.hand, w.epoch, maskBit key, s.mem.live.bytes (line * 128) 128⟩
    some { s with mem := { s.mem with heel := s.mem.heel ++ [img] } }

/-- The heel images that a writer's stores to some bytes need, taken in order, and the bytes for which the room does not suffice. -/
def State.retaining (s : State) (w : Writer) (keys : List Nat) : State × List Nat :=
  keys.foldl (fun (acc : State × List Nat) k => match acc.1.retain w k with
    | some s => (s, acc.2)
    | none => (acc.1, acc.2 ++ [k])) (s, [])

/-- The current hand performs one of its buffered bytes: into live memory with its heel image, or held when the
heel has no room (R62). -/
def State.performByte (s : State) (b : Buffered) : State :=
  let h := s.hand
  match s.retain s.storer b.key with
  | some s => s.stamp h.task h.member b.seq b.key b.val true
  | none =>
    { s with hand := { s.hand with strip := { s.hand.strip with ssb := s.hand.strip.ssb ++ [{ b with held := true }] } } }

/-- Adding acknowledgements to come: one outstanding entry stands for the stores of a class until it returns; a scatter
lane holds at most 64 (R100, log 13). -/
def Order.addAck (o : Order) (a : Ack) : Order :=
  match a.lane with
  | none => if o.acks.contains a then o else { o with acks := o.acks ++ [a] }
  | some l => if 64 ≤ (o.acks.filter (fun x => x.lane == some l)).length then o else { o with acks := o.acks ++ [a] }

/-- The acknowledgements that performing a store makes outstanding: one of its class, or one on each scatter lane (R100). -/
def Order.ackStore (o : Order) (cls : Nat) (lanes : List Nat) : Order :=
  match lanes with
  | [] => o.addAck ⟨cls, none⟩
  | _ => lanes.foldl (fun o l => o.addAck ⟨cls, some l⟩) o

/-- The stores that buffered bytes belong to, in program order: each with its class and lanes. -/
def storesOf (l : List Buffered) : List (Nat × Nat × List Nat) :=
  l.foldl (fun acc b => if acc.any (fun x => x.1 == b.seq) then acc else acc ++ [(b.seq, b.cls, b.lanes)]) []

/-- Draining the strip store buffer (R73): the strip's stores perform in program order, held stores of earlier
phases stay held (R147); their acknowledgements are then outstanding. -/
def State.drain (s : State) : State :=
  let b := s.hand.strip.ssb
  let mine := b.filter (fun x => !x.held)
  if mine.isEmpty then s
  else
    let s := { s with hand := { s.hand with strip := { s.hand.strip with ssb := b.filter (·.held) } } }
    let s := mine.foldl State.performByte s
    let o := (storesOf mine).foldl (fun (o : Order) x => o.ackStore x.2.1 x.2.2) s.hand.ord
    { s with hand := { s.hand with ord := o } }

/-- A commit point (R147): the buffer drains, the undo images are released, and protection lapses. -/
def State.commit (s : State) : State :=
  if s.hand.strip.prot then
    let s := s.drain
    { s with hand := { s.hand with strip := { s.hand.strip with
        prot := false, undo := [], undoGranules := [], fresh := [], freedPending := 0 } } }
  else s

/-! ## The strip -/

/-- Releasing the pins of a hand (R59). -/
def MemState.unpin (m : MemState) (hand : Nat) : MemState :=
  { m with tags := m.tags.map (fun kt => if kt.2.hand = hand then (kt.1, { kt.2 with pinned := false }) else kt) }

/-- Clearing the tags of a hand before its serial wraps (R105). -/
def MemState.untag (m : MemState) (hand : Nat) : MemState :=
  { m with tags := m.tags.filter (fun kt => kt.2.hand != hand) }

/-- The link serial advances (R105) and its pins are released (R59); before it wraps, the device clears the hand's tags, a wait
that the strip record counts. -/
def State.advanceSerial (s : State) : State :=
  let h := s.hand
  let wraps := h.ord.serial == 0xFFFF
  let r := h.strip.record
  { s with
    mem := if wraps then s.mem.untag h.id else s.mem.unpin h.id
    hand := { h with
      ord := { h.ord with serial := h.ord.serial + 1, pins := [] }
      strip := { h.strip with record := { r with stall := r.stall || wraps } } } }

/-- v0 to v31 zero and full, p1 to p31 clear (R145, R148, Table 7.10). -/
def Hand.clearStripLocal (h : Hand) : Hand :=
  { h with
    v := []
    p := (Vector.replicate 32 0).set 0 (BitVec.allOnes 1024)
    producers := h.producers.filter (fun p => match p.dest with
      | .vector _ _ | .pred _ => false
      | _ => true) }

/-- The shifts of the bound dimensions: bit 31−r of every W[d][r] (R315, R322), keyed as the context's words. -/
def Hand.shifts (h : Hand) : SMap Word :=
  h.dealer.filterMap (fun kw =>
    let r := kw.1 % 64 - 32
    if kw.1 % 64 < 32 ∨ kw.2.getLsbD (31 - r) = false then none else some (kw.1, BitVec.ofNat 32 (2 ^ (31 - r))))

/-- The context with other shifts. -/
def restoreShifts (d : SMap Word) (sh : SMap Word) : SMap Word :=
  let cleared : SMap Word := d.foldl (fun m kw =>
    let r := kw.1 % 64 - 32
    if kw.1 % 64 < 32 then m else mput 0 m kw.1 (kw.2 &&& ~~~(BitVec.ofNat 32 (2 ^ (31 - r))))) d
  sh.foldl (fun m kw => mput 0 m kw.1 (mget 0 m kw.1 ||| kw.2)) cleared

/-- The checkpoint of R146, with the PC after the opening instruction. -/
def Hand.checkpoint (h : Hand) (pc : Reg64) : Checkpoint where
  x := h.x
  streams := h.streams
  loops := h.loops
  lq := h.lq
  vl := h.csr.vl
  sew := h.csr.sew
  grp := h.csr.grp
  fz := h.csr.fz
  fh := h.csr.fh
  vprof := h.csr.vprof
  stripno := h.csr.stripno
  orun := h.csr.orun
  onext := h.csr.onext
  fstat := h.csr.fstat
  xidx := h.csr.xidx
  handles := h.handles
  shifts := h.shifts
  pc := pc

/-- The slots after a rewind (R312): changed slots from their images, slots of the strip's own released. -/
def Hand.undone (h : Hand) (c : Checkpoint) : SMap Slot :=
  c.handles.map (fun ks => (ks.1, (mfind h.strip.undo ks.1).getD ((mfind h.handles ks.1).getD ks.2)))

/-- Taking a member's writes that never performed out of the log. -/
def State.forget (s : State) (task member : Nat) (seqs : List Nat) : State :=
  s.modTask task (fun t => { t with log := t.log.filter (fun w => !(w.member == member && seqs.contains w.seq && w.perf == 0)) })

/-- A stream without what its engine has read ahead: later pops read afresh (R123, R148, R269, R270, R364). -/
def Stream.afresh (t : Stream) : Stream := { t with views := [] }

/-- R148: the rewind of a protected strip. What ordered the hand's accesses is again as at the opening (R82). -/
def State.rewind (s : State) : State :=
  let h := s.hand
  match h.strip.ckpt with
  | none => s
  | some c =>
    let drop := (h.strip.ssb.filter (fun b => !b.held)).map (·.seq)
    let s := s.forget h.task h.member drop
    let h' : Hand := { h.clearStripLocal with
      x := c.x, streams := c.streams.map (Option.map Stream.afresh), loops := c.loops, lq := c.lq, handles := h.undone c
      dealer := restoreShifts h.dealer c.shifts, pc := c.pc, frame := none, convoy := none
      producers := []
      csr := { h.csr with
        vl := c.vl, sew := c.sew, grp := c.grp, fz := c.fz, fh := c.fh, vprof := c.vprof, stripno := c.stripno
        orun := c.orun, onext := c.onext, fstat := c.fstat, xidx := c.xidx }
      strip := { h.strip with
        undo := [], undoGranules := [], fresh := [], freedPending := 0, ssb := h.strip.ssb.filter (·.held)
        record := { h.strip.record with rewinds := h.strip.record.rewinds + 1 }
        drawn := 0 }
      ord := { h.ord with
        fences := h.strip.sight.fences, links := h.strip.sight.links, prec := h.strip.sight.prec, sawTiles := h.strip.sight.sawTiles }
      sched := { h.sched with due := none, watches := h.sched.watches.map (fun kw => (kw.1, { kw.2 with hit := none })) } }
    ({ s with hand := h' }).advanceSerial

/-! ## The system fault queue (R360, R399) -/

/-- A fault record's bytes (Table 18.2). -/
def FaultRec.bytes (r : FaultRec) : List Byte :=
  [0, 1, BitVec.ofNat 8 r.trap.cause.code, BitVec.ofNat 8 r.trap.sub, BitVec.ofNat 8 r.trap.level,
    BitVec.ofNat 8 r.trap.access, BitVec.ofNat 8 r.flags, BitVec.ofNat 8 r.trap.struct] ++
  leBytes 2 r.hand ++ leBytes 2 r.asid.toNat ++ leBytes 4 r.trap.unit ++ leBytes 8 r.seq ++ leBytes 8 r.taskid.toNat ++
  leBytes 8 r.tpc.toNat ++ leBytes 8 r.trap.tval.toNat ++ leBytes 4 r.trap.tidx0.toNat ++ leBytes 4 r.trap.tidx1.toNat ++
  leBytes 4 r.trap.tidx2.toNat ++ leBytes 4 r.stripno.toNat

/-- A queue never enabled (Table 23.2). -/
def Queue.empty : Queue := ⟨0, 0, 0, false, 0, 0, 0, 0, 0, 0, 0, []⟩

/-- A queue. -/
def State.queue (s : State) (q : Nat) : Queue := mget Queue.empty s.queues q
/-- Changing a queue. -/
def State.modQueue (s : State) (q : Nat) (f : Queue → Queue) : State :=
  { s with queues := mput Queue.empty s.queues q (f (s.queue q)) }

/-- The granted hand gives the vector unit up (R346; log 72). -/
def State.dropGrant (s : State) : State :=
  s.modCore s.hand.core (fun c => if c.granted = some s.hand.slot then { c with granted := none } else c)

/-- Where the next 64-byte record of the control or the fault queue stands. -/
def Queue.slot64 (q : Queue) : Nat := q.rbase + 64 * (q.accepted % 2 ^ q.log2n)

/-- Writing the waiting fault records into the ring while it has room (R399) and does not stand in a stack that is coming up (R412). -/
def State.flushFaults (s : State) : Nat → State
  | 0 => s
  | n + 1 =>
    let q := s.queue 1
    match s.faults.waiting with
    | [] => s
    | r :: rest =>
      if q.en && decide (q.accepted < q.tail + 2 ^ q.log2n) && (s.memUp q.slot64 64).isSome then
        let s := s.physWrite q.slot64 r.bytes
        let s := s.modQueue 1 (fun q => { q with accepted := q.accepted + 1 })
        State.flushFaults { s with faults := { s.faults with waiting := rest } } n
      else s

/-- Posting a fault record: it takes the next SEQ, and waits while the ring is full. -/
def State.post (s : State) (mk : Nat → FaultRec) (awaits : Bool) : State :=
  let n := s.faults.seq + 1
  let r := mk n
  let s := { s with faults := { s.faults with
    seq := n, waiting := s.faults.waiting ++ [r], pending := if awaits then s.faults.pending ++ [r] else s.faults.pending } }
  s.flushFaults 1

/-- Posting a device event (R356, R360): HANDID 0xFFFF, FLAGS bit 0 clear. -/
def State.postEvent (s : State) (c : Cause) (v : Reg64) (unit struct : Nat) (taskid : Reg64) : State :=
  s.post (fun n => ⟨{ Trap.mk' c v with unit := unit, struct := struct }, 0, 0xFFFF, 0, n, taskid, 0, 0⟩) false

/-- The address a trap names: the convoy's head (R163), the rep word (R167: the PC stands there), or the PC. -/
def Hand.trapPc (h : Hand) : Reg64 := h.convoy.getD h.pc

/-- Every earlier instruction of a trapping hand has completed (R357): what it loaded or computed is there. A spawn's status is
waited for before the trap is taken (finish). -/
def Hand.completed (h : Hand) : Hand := { h with producers := h.producers.filter (fun p => p.spawn.isSome) }

/-- System-queue delivery (R360, R361) with the TPC that the record names: a protected strip rewinds first; the hand is
suspended. -/
def State.toSystemAt (s : State) (t : Trap) (resumable : Bool) (tpc : Reg64) : State :=
  let h := s.hand
  let prot := h.strip.prot
  let frm := h.frame.isSome
  let s := if prot then s.rewind else s
  let flags := (if resumable then 1 else 0) + (if prot then 6 else 0) + (if frm then 8 else 0)
  let s := s.post (fun n => ⟨t, flags, h.id, h.asid, n, h.taskid, tpc, h.csr.stripno⟩) true
  { s.dropGrant with hand := { s.hand.completed with status := .suspended s.faults.seq, convoy := none } }

/-- System-queue delivery at the address that the trap names. -/
def State.toSystem (s : State) (t : Trap) (resumable : Bool) : State := s.toSystemAt t resumable s.hand.trapPc

/-- An address as a CSR holds it: its bits 56:0 (Table 8.10); the others are reserved (R7). -/
def addr57 (a : Reg64) : Reg64 := (a.extractLsb' 0 57).setWidth 64

/-- In-hand delivery proper (R358), with the TPC and RWD that the caller gives. -/
def State.inHand (s : State) (t : Trap) (tpc : Reg64) (rwd : Bool) : State :=
  let prot := s.hand.strip.prot
  let frm := s.hand.frame.isSome
  let s := s.commit
  { s with hand := { s.hand.completed with
      status := .running
      pc := s.hand.csr.tvec
      frame := none
      convoy := none
      csr := { s.hand.csr with
        tpc := addr57 tpc, tcause := BitVec.ofNat 64 (t.sub * 256 + t.cause.code), tval := t.tval
        tidx0 := t.tidx0, tidx1 := t.tidx1, tidx2 := t.tidx2, tstatus := tstatusOf rwd prot frm true } } }

/-- Is the error one that a protected strip retries (Table 3.6)? What a hand consumes itself: memory it loads or fetches, its vector
registers, its store buffer, a summary slot; not what an engine or one of the device's own reads meets. -/
def Trap.retries (t : Trap) : Bool :=
  !([5, 6, 7, 8, 9, 10].contains t.access) && decide (t.struct < 7)

/-- Counting an uncorrectable read (R56, R64): at a core for its own stores, at the field for its caches and stacks. -/
def State.countBadAt (s : State) (core : Nat) (t : Trap) : State :=
  if t.cause ≠ .uncorrectable then s
  else if t.struct = 1 ∨ t.struct = 2 then
    s.modField (homeField t.tval.toNat) (fun f => { f with uncorrectable := f.uncorrectable + 1 })
  else if 3 ≤ t.struct ∧ t.struct ≤ 6 then s.modCore core (fun c => { c with uncorrectable := c.uncorrectable + 1 })
  else s

/-- Counting an uncorrectable read of the current hand's. -/
def State.countBad (s : State) (t : Trap) : State := s.countBadAt s.hand.core t

/-- A rewound strip's retry count (R362): at 3 the hand migrates before it executes again (R363). -/
def State.retry (s : State) (n : Nat) : State :=
  { s with hand := { s.hand with
      status := if n = 3 then .waiting .rewound else .running
      strip := { s.hand.strip with retries := n }
      sched := { s.hand.sched with migrate := s.hand.sched.migrate || n == 3, preempt := s.hand.sched.preempt || n == 3 } } }

/-- UNCORRECTABLE of a structure of Table 18.2 that a hand depends on, when its data no longer decode (R74): 4 its summary slots, 5 its
vector registers, 6 its strip store buffer, 7 the tile table, 8 the heel, 9 the command chain; `addr` is the physical address or bench
offset, 0 for a structure that has none (log 98). -/
def State.badOf (s : State) (hand struct addr : Nat) : Option Trap :=
  (s.mem.badHands.find? (fun b => b.1 == hand && b.2.1 == struct)).map (fun b =>
    { Trap.mk' .uncorrectable (BitVec.ofNat 64 addr) with struct := struct, unit := b.2.2 })

/-- An uncorrectable error that an engine, or a phase end, met for a hand (Table 3.6). -/
def State.engineError (s : State) (hand : Nat) (t : Trap) : State :=
  s.modHand hand (fun h => { h with sched := { h.sched with unrecoverable := some t } })

/-- A key as records name it (R74): the physical address, or the offset in the bench. -/
def placeOf (key : Nat) : Nat := if isBench key then (key - Config.benchKey 0 0) % 0x80_0000 else key

/-- The trap of a strip store buffer that drains and no longer decodes (R74): it names the first buffered byte. -/
def State.badDrain (s : State) : Option Trap :=
  match s.hand.strip.ssb.find? (fun b => !b.held) with
  | none => none
  | some b => if s.hand.strip.prot then s.badOf s.hand.id 6 (placeOf b.key) else none

/-- An uncorrectable error of a protected strip (R362): it rewinds and counts; at 3 the hand migrates, at 4 STRIP-RETRY-EXHAUSTED is
posted. -/
def State.retried (s : State) : State :=
  let n := s.hand.strip.retries + 1
  if 4 ≤ n then s.toSystem (Trap.mk' .stripRetryExhausted ((s.hand.strip.ckpt.map (·.pc)).getD s.hand.pc)) true
  else (s.rewind).retry n

/-- TAKING AN EXCEPTION (R356 to R362): to the in-hand handler, or to the system fault queue for the causes of Table
18.1 and while TVEC is 0 or HM is 1. An uncorrectable error that a protected strip retries rewinds it, one of the buffer that an in-hand
delivery drains too (R358). A GANG-ABORT in a protected strip names the checkpointed PC (R367). -/
def State.take (s0 : State) (t : Trap) : State :=
  let s := s0.countBad t
  let h := s.hand
  let ckpt := (h.strip.ckpt.map (·.pc)).getD h.pc
  if t.cause = .uncorrectable ∧ h.strip.prot ∧ t.retries then s.retried
  else if t.cause = .uncorrectable then s.toSystem t h.strip.prot
  else if t.cause = .gangAbort ∧ h.strip.prot then
    if h.csr.tvec = 0 ∨ h.csr.hm then s.toSystemAt t true ckpt
    else
      let s := s.rewind
      s.inHand t s.hand.pc true
  else if t.cause.toSystem ∨ h.csr.tvec = 0 ∨ h.csr.hm then s.toSystem t true
  else match s.badDrain with
    | some b => (s.countBad b).retried
    | none => s.inHand t h.trapPc false

/-! ## The PC -/

/-- An iteration end at E (R191), counted down over the loop stack's depth. The exit goes to E + 4 also where E holds a lit or lith, whose
own next word is at E + 8 (R165): the choice between the two rules is the model's (log 108). -/
def loopEnd (e : Reg64) : Nat → List LoopEntry → List LoopEntry × Reg64
  | 0, l => (l, e + 4)
  | _, [] => ([], e + 4)
  | n + 1, t :: l =>
    if t.stop ≠ e then (t :: l, e + 4)
    else if (t.index + 1).toNat < t.count.toNat then ({ t with index := t.index + 1 } :: l, t.start)
    else loopEnd e n l

/-- The iteration end when the top entry's end lies at or above `a` and below `b` (R191): the words of one
instruction, of a convoy or of a frame. The exit PC is E + 4. -/
def Hand.iterEnd (h : Hand) (a b : Nat) : Hand :=
  match h.loops with
  | [] => h
  | t :: _ =>
    if a ≤ t.stop.toNat ∧ t.stop.toNat < b then
      let (l, p) := loopEnd t.stop 7 h.loops
      { h with loops := l, pc := p }
    else h

/-- An instruction of `len` bytes completes: the next word, or the iteration end (R191). In a frame the next member
follows (R166); in a convoy the iteration end is tested after its last member. -/
def Hand.advance (h : Hand) (len : Nat) : Hand :=
  match h.frame with
  | some f =>
    if f.j + 1 < f.n then { h with frame := some { f with j := f.j + 1 } }
    else if f.k + 1 < f.count then { h with frame := some { f with j := 0, k := f.k + 1 } }
    else
      let e := h.pc
      let past := e + BitVec.ofNat 64 (4 * (f.n + 1))
      ({ h with frame := none, pc := past }).iterEnd e.toNat past.toNat
  | none =>
    match h.convoy with
    | some _ => { h with pc := h.pc + BitVec.ofNat 64 len }
    | none => ({ h with pc := h.pc + BitVec.ofNat 64 len }).iterEnd h.pc.toNat (h.pc.toNat + 4)

/-- An instruction completes and the next one follows. -/
def State.retire (s : State) (len : Nat) : State :=
  let h := s.hand
  { s with hand := { h.advance len with
      status := .running, sched := { h.sched with retiredCount := h.sched.retiredCount + 1 } } }

/-- An instruction completes by a transfer of control (R191): no iteration end. -/
def State.jumpTo (s : State) (pc : Reg64) : State :=
  let h := s.hand
  { s with hand := { h with
      pc := pc, status := .running, sched := { h.sched with retiredCount := h.sched.retiredCount + 1 } } }

/-- Waits that a strip record counts as stall (Table 22.2); the wait for a LUT table is a tile wait, those for power gating and
for a serial's wrap are marked where they arise. -/
def Wait.stalls : Wait → Bool
  | .tileGate | .heel => true
  | _ => false

/-- Marking the strip record: cycles that STALL counts pass. -/
def Hand.stalled (h : Hand) (b : Bool) : Hand :=
  { h with strip := { h.strip with record := { h.strip.record with stall := h.strip.record.stall || b } } }

/-- The hand waits: registers and PC as they are. -/
def State.waits (s : State) (w : Wait) : State :=
  { s with
    hand := { s.hand.stalled w.stalls with status := .waiting w }
    latch := .waited w }

/-- A stall for heel room in a field (R62) is counted once, when it begins. -/
def State.heelStall (s : State) (f : Nat) : State :=
  if s.hand.status = .waiting .heel then s else s.modField f (fun fl => { fl with heelStalls := fl.heelStalls + 1 })

/-- Is a trap's cause decided once, so that the instruction executed again would not meet it: a source that fills meanwhile, a gang's
abort, an error of the hardware (R157, R367, R261)? -/
def Cause.once : Cause → Bool
  | .emptyRead | .gangAbort | .uncorrectable | .stripRetryExhausted => true
  | _ => false

/-- Is the status of a spawn outstanding? No trap of the hand is delivered before it: every earlier instruction has completed then
(R357). -/
def Hand.spawning (h : Hand) : Bool := h.producers.any (fun p => p.spawn.isSome)

/-- A trap that an instruction raises: of a convoy's member it is left for the convoy to take (R163). While the status of an earlier spawn
is outstanding it waits (R357): a cause that is decided once is then due; other checks are made again. -/
def State.trapped (s : State) (t : Trap) : State :=
  if s.hand.convoy.isSome then { s with latch := .trapped t }
  else if s.hand.spawning then
    if t.cause.once then
      ({ s with hand := { s.hand with sched := { s.hand.sched with due := some t } } }).waits .register
    else s.waits .register
  else { s.take t with latch := .trapped t }

/-- How an instruction ends: its effect, a trap, or a wait. -/
def finish (r : Run State) : Host.Outcome State Fault Refusal :=
  match r with
  | .ok s => .next s
  | .error (.trap t s) => .next (s.trapped t)
  | .error (.wait w s) => .next (s.waits w)
  | .error (.rewound s) => .next { s with latch := .waited .rewound }

/-! ## Guards and sources (R155, R157, R168, R172) -/

/-- The guard: true when the instruction executes; waits while the guard register is empty. -/
def State.guard (s : State) (g : BitVec 3) : Run Bool :=
  if g = 0 then .ok true
  else
    let r : Fld5 := g.setWidth 5
    if s.hand.xEmpty r then .error (.wait .register s) else .ok (s.hand.getX r != 0)

/-- A scalar source: field 0 is A, 1 is B. An empty one raises EMPTY-READ when its trap bit is set, else waits. An instruction acts on A
before B: with both empty, TA 0 and TB 1 it waits for A, and raises EMPTY-READ for B only if B is still empty then (R172 does not say
which comes first: the model's choice, log 114). -/
def State.src (s : State) (field : Nat) (r : Fld5) (trap : Bit) : Run Reg64 :=
  if s.hand.xEmpty r then
    if trap = 1 then .error (.trap (Trap.mk' .emptyRead (BitVec.ofNat 64 (32 * field + r.toNat))) s)
    else .error (.wait .register s)
  else .ok (s.hand.getX r)

/-- A scalar register read without a trap bit. -/
def State.need (s : State) (r : Fld5) : Run Reg64 := s.src 0 r 0

/-- A destination that is empty is waited for (R83). -/
def State.dest (s : State) (r : Fld5) : Run Unit :=
  if s.hand.xEmpty r then .error (.wait .register s) else .ok ()

/-- Raising a trap. -/
def State.trap {α : Type} (s : State) (t : Trap) : Run α := .error (.trap t s)
/-- Waiting. -/
def State.wait {α : Type} (s : State) (w : Wait) : Run α := .error (.wait w s)

/-- A guarded instruction of one word: guarded-off, it only moves on (R168). -/
def guarded (s : State) (g : BitVec 3) (body : State → Run State) : Host.Outcome State Fault Refusal :=
  finish (do
    let go ← s.guard g
    if go then body s else pure (s.retire 4))

end Sys2Proof.Machine
end

