-- ==== Sys2Proof/Machine/Xlat.lean ====
section
/-! DEFINITION. Translation (R27 to R53): the bench window, range entries, the five-level walk with A and D, leaf
rules, permissions, shadow pages, and what a byte's address finally names. -/

namespace Sys2Proof.Machine

/-- How memory is reached, as Table 18.2 codes it (ACCESS), and what the paths refuse. -/
inductive Access where
  | load | store | fetch | linked | vsc | ticketLoad | ticketStore
  | copyRead | copyWrite | stream | exchange | record (write : Bool)
  deriving DecidableEq, Repr

/-- The ACCESS code (Table 18.2). -/
def Access.code : Access → Nat
  | .load => 0
  | .store => 1
  | .fetch => 2
  | .linked => 3
  | .vsc => 3
  | .ticketLoad => 4
  | .ticketStore => 4
  | .copyRead => 5
  | .copyWrite => 6
  | .stream => 7
  | .exchange => 9
  | .record _ => 11

/-- Does the access write? -/
def Access.writes : Access → Bool
  | .store | .vsc | .ticketStore | .copyWrite => true
  | .record w => w
  | _ => false

/-- The linked path, tickets and live waits, which Table 2.8, Table 2.1 and R45 refuse on special pages. -/
def Access.livePath : Access → Bool
  | .linked | .vsc | .ticketLoad | .ticketStore => true
  | _ => false

/-- What an address names: a plain byte (and whether its page is SC), a byte of a decoded view (its block's address,
width, elements, and the byte's offset in the block's view), a byte of a compressed page (its record, the offset). -/
inductive Target where
  | plain (key : Nat) (sc : Bool)
  | view (block w n off : Nat)
  | packed (rec off : Nat)
  deriving DecidableEq, Repr

/-- Who accesses: an ASID, the core whose bench the window names, the permission HAND or SYS, and the side of a
paired task (R48, R49, R385). -/
structure Agent where
  asid : BitVec 16
  core : Option Nat
  sys : Bool
  side : Side
  deriving DecidableEq, Repr

/-- A translation fault: NOT-MAPPED and so on (Table 2.12). -/
def xfault (c : Cause) (sub level : Nat) (a : Access) (va : Nat) : Trap :=
  ⟨if a = .fetch then .fetchFault else c, sub, level, a.code, BitVec.ofNat 64 va, 0, 0, 0, 0, 0⟩

/-- Attribute bits of a leaf or range attribute word (Table 2.5). -/
def attrBit (l : Reg64) (n : Nat) : Bool := l.getLsbD n
/-- FMT. -/
def attrFmt (l : Reg64) : Nat := l.toNat / 256 % 16
/-- GEOM. -/
def attrGeom (l : Reg64) : Nat := l.toNat / 2 ^ 55 % 8
/-- FRAME: 40 bits. -/
def attrFrame (l : Reg64) : Nat := l.toNat / 4096 % 2 ^ 40

/-- Block elements of a geometry (R40). -/
def geomN (g : Nat) : Nat := if g = 1 then 16 else 32

/-- The packed page size P of Table 2.6. -/
def packedPage (w n : Nat) : Nat := 1024 / n * blockBytes w n

/-- A live 64-bit number. -/
def State.live64 (s : State) (a : Nat) : Reg64 := BitVec.ofNat 64 (leNat (s.mem.live.bytes a 8))

/-- A leaf as the walk finds it: its level, its entry's address (of entry 0 of a CONTIG group), and the entry. -/
structure Leaf where
  level : Nat
  at' : Nat
  pte : Reg64
  deriving DecidableEq, Repr

/-- Bits of the page offset at a leaf's level. -/
def leafBits (level : Nat) (pte : Reg64) : Nat :=
  match level with
  | 2 => 30
  | 1 => 21
  | _ => if attrBit pte 54 then 16 else 12

/-- The rules a leaf keeps (R35, R36), by the sub-code of the first broken row. A leaf that breaks several of them reports the reserved
bits first, then FMT, then the rows of R36 in their order: the spec does not say which, this is the model's choice (log 79). -/
def leafFault (level : Nat) (l : Reg64) : Option Nat :=
  let fmt := attrFmt l
  let cpx := attrBit l 7
  let sh := attrBit l 6
  let sc := attrBit l 5
  let contig := attrBit l 54
  let kinds := (if fmt ≠ 0 then 1 else 0) + (if cpx then 1 else 0) + (if sh then 1 else 0) + (if sc then 1 else 0)
  let fr := attrFrame l
  if l.toNat / 2 ^ 58 ≠ 0 then some 4
  else if 8 ≤ fmt then some 3
  else if (fmt ≠ 0 ∧ 2 ≤ attrGeom l) ∨ (fmt = 0 ∧ attrGeom l ≠ 0) then some 4
  else if 1 < kinds then some 4
  else if (cpx || sh) && (decide (level ≠ 0) || contig) then some 5
  else if contig && (decide (level ≠ 0) || decide (fmt ≠ 0)) then some 4
  else if !(cpx || sh) && decide (fmt = 0) &&
      ((decide (level = 1) && decide (fr % 512 ≠ 0)) || (decide (level = 2) && decide (fr % 2 ^ 18 ≠ 0))) then some 6
  else none

/-- The CONTIG group of a level-0 entry (R37): entry 0's address and word when the group is one page. -/
def State.contigGroup (s : State) (entryAt : Nat) : Option (Nat × Reg64) :=
  let a0 := entryAt / 128 * 128
  let e0 := s.live64 a0
  let ok := (List.range 16).all (fun j =>
    let e := s.live64 (a0 + 8 * j)
    attrBit e 0 && attrBit e 54 && e.toNat % 4096 == e0.toNat % 4096 && attrFrame e == attrFrame e0 + j)
  if ok && attrFrame e0 % 16 == 0 then some (a0, e0) else none

/-- Why a walk gives no leaf: a fault's sub-code and level, an entry whose data no longer decode (R74), or one in a stack that is still
coming up (R412). -/
inductive NoLeaf where
  | fault (sub level : Nat)
  | bad (key : Nat)
  | later
  deriving DecidableEq, Repr

/-- Data that no longer decode among some bytes: the first key. -/
def State.badKey (s : State) (key w : Nat) : Option Nat :=
  if s.mem.bad.isEmpty then none else (upFrom key w).find? (fun k => (mfind s.mem.bad k).isSome)

/-- Does the stack of a table's entry serve it (R56, R412)? -/
def State.tableUp (s : State) (a : Nat) : Option Bool := if 12 * Config.stackBytes ≤ a then some true else s.stackUp a

/-- Where the entry of a level for an address stands in a table. -/
def tableEntry (va lv table : Nat) : Nat := table + 8 * (va / 2 ^ (12 + 9 * lv) % 512)

/-- The walk (R34) from the table at `table`, over the levels given: the leaf, or why there is none. Where ROOT or a pointer names a
table outside HBM4E or in a heel area, the spec says nothing; the walk reads what live memory holds there (the model's choice,
log 95). An entry in a stack that is gone is not mapped (log 113). A CONTIG entry that breaks R35 or R36 in a group that breaks R37 too
reports the rule of the entry; of the group's entry 0, which the page is then read from, bits 63:55 are not looked at (log 79). -/
def State.walk (s : State) (va : Nat) : List Nat → Nat → Except NoLeaf Leaf
  | [], _ => .error (.fault 0 4)
  | lv :: rest, table =>
    let at' := tableEntry va lv table
    let e := s.live64 at'
    let isLeaf := attrBit e 3 || attrBit e 4
    match s.tableUp at', s.badKey at' 8 with
    | none, _ => .error .later
    | some false, _ => .error (.fault 0 lv)
    | some true, some k => .error (.bad k)
    | some true, none =>
      if !attrBit e 0 then .error (.fault 0 lv)
      else if isLeaf then
        if 3 ≤ lv then .error (.fault 5 lv)
        else match leafFault lv e with
          | some sub => .error (.fault sub lv)
          | none =>
            if attrBit e 54 then
              match s.contigGroup at' with
              | some (a0, e0) => .ok ⟨lv, a0, e0⟩
              | none => .error (.fault 6 lv)
            else .ok ⟨lv, at', e⟩
      else if lv = 0 then .error (.fault 4 0)
      else if e.toNat / 2 ^ 52 ≠ 0 ∨ e.toNat % 4096 ≠ 1 then .error (.fault 4 lv)
      else s.walk va rest (e.toNat / 4096 * 4096)

/-- The entries that a walk reads. -/
def State.walkReads (s : State) (va : Nat) : List Nat → Nat → List Nat
  | [], _ => []
  | lv :: rest, table =>
    let at' := tableEntry va lv table
    let e := s.live64 at'
    let pointer := attrBit e 0 && !(attrBit e 3 || attrBit e 4) && s.tableUp at' == some true && (s.badKey at' 8).isNone &&
      lv != 0 && e.toNat / 2 ^ 52 == 0 && e.toNat % 4096 == 1
    at' :: (if pointer then s.walkReads va rest (e.toNat / 4096 * 4096) else [])

/-- A walk in an ASID has been made: its entries' lines have been read (R57). An access by a leaf that is cached makes none (log 115). -/
def State.walked (s : State) (asid : BitVec 16) (va : Nat) : State :=
  match mfind s.asids asid.toNat with
  | none => s
  | some d => (s.walkReads va [4, 3, 2, 1, 0] d.root).foldl (fun s a => s.uses a 8) s

/-- The leaf without A and D. -/
def bareLeaf (l : Reg64) : Reg64 := l &&& ~~~(BitVec.ofNat 64 (2 ^ 52 + 2 ^ 53))

/-- A and, for a write, D. -/
def leafMarks (write : Bool) : Reg64 := BitVec.ofNat 64 (2 ^ 52 + if write then 2 ^ 53 else 0)

/-- May an access go by a cached leaf that the table no longer holds? It needs no update of A and D, or the entry in memory still is
the leaf that the walker read; otherwise the walk restarts (R38). -/
def State.cachedServes (s : State) (c : Cached) (write : Bool) : Bool :=
  c.leaf ||| leafMarks write == c.leaf || bareLeaf (s.live64 c.leafAt) == bareLeaf c.leaf

/-- Keeping a leaf for a page of an ASID (R39). -/
def State.keepLeaf (s : State) (asid : BitVec 16) (page : Nat) (l : Leaf) : State :=
  { s with cached := ⟨asid, page, l.pte, l.level, l.at'⟩ :: s.cached.filter (fun c => !(c.asid == asid && c.page == page)) }

/-- The page table's answer, old or new where a cached translation differs (R39, log 2). Where no leaf is cached for the 4 KiB page the
walk is made afresh: that a table changed without an invalidation may be used as it was, by an entry that had V = 0, a pointer or a leaf
read for another page, R39 allows and the model does not show (log 115). -/
def State.leafFor (s : State) (asid : BitVec 16) (va : Nat) (write : Bool) : State × Except NoLeaf Leaf :=
  let fresh : Except NoLeaf Leaf := match mfind s.asids asid.toNat with
    | none => .error (.fault 0 4)
    | some d => s.walk va [4, 3, 2, 1, 0] d.root
  let page := va / 4096
  let old := (s.cached.find? (fun c => c.asid == asid && c.page == page)).filter (fun c => s.cachedServes c write)
  match old, fresh with
  | none, .ok l => ((s.walked asid va).keepLeaf asid page l, fresh)
  | none, .error _ => (s.walked asid va, fresh)
  | some c, .ok l =>
    if bareLeaf c.leaf = bareLeaf l.pte ∧ c.level = l.level then (s.keepLeaf asid page l, fresh)
    else
      let (s, k) := s.choose 2
      if k = 0 then ((s.walked asid va).keepLeaf asid page l, fresh) else (s, .ok ⟨c.level, c.leafAt, c.leaf⟩)
  | some c, .error _ =>
    let (s, k) := s.choose 2
    if k = 0 then ({ s.walked asid va with cached := s.cached.filter (fun c => !(c.asid == asid && c.page == page)) }, fresh)
    else (s, .ok ⟨c.level, c.leafAt, c.leaf⟩)

/-- Setting A, and D for a write, in the leaf of an access that is performed (R38), and in what is cached of it. -/
def State.markLeaf (s : State) (l : Leaf) (write : Bool) : State :=
  let now := s.live64 l.at'
  let new := now ||| leafMarks write
  let s := { s with cached := s.cached.map (fun c =>
    if c.leafAt = l.at' ∧ bareLeaf c.leaf = bareLeaf l.pte then { c with leaf := c.leaf ||| leafMarks write } else c) }
  if new = now ∨ bareLeaf now ≠ bareLeaf l.pte then s else s.putPubAll (atAddr l.at' (leBytes 8 new.toNat))

/-- A 16-byte shadow record as a number (Table 2.10). -/
def State.shadowRec (s : State) (a : Nat) : Nat := leNat (s.mem.live.bytes a 16)

/-- The frame of LIVE, SHA or SHB (0, 1, 2) of a shadow record. -/
def shadowFrame (r k : Nat) : Nat := r / 2 ^ (40 * k) % 2 ^ 40

/-- The hands of a side of the paired tasks of an ASID. -/
def State.ofSide (s : State) (asid : BitVec 16) (side : Side) (h : Hand) : Bool :=
  h.asid == asid && ((s.taskOf h.task).map (·.side)).getD .single == side

/-- A frame's 4,096 bytes copied to another frame. -/
def Mem.copyFrame (m : Mem) (own live : Nat) : Mem := m.putAll (atAddr own (m.bytes live 4096))

/-- The side's first write through a shadow page (R48): LIVE is copied, the dirty bit set. A hand of the side that reads its own
frame from then on finds there what LIVE held for it: the frame's earlier content is never read. -/
def State.shadowFirst (s : State) (at' : Nat) (asid : BitVec 16) (side : Side) : State :=
  let b := decide (side = .b)
  let r := s.shadowRec at'
  let own := shadowFrame r (if b then 2 else 1) * 4096
  let live := shadowFrame r 0 * 4096
  let pub := s.mem.pub.copyFrame own live
  let seen (h : Hand) : Hand :=
    if s.ofSide asid side h then { h with ord := { h.ord with snap := h.ord.snap.copyFrame own live } } else h
  let s := s.putLiveAll (atAddr own (s.mem.live.bytes live 4096))
  let s := { s with mem := { s.mem with pub := pub }, hand := seen s.hand, others := s.others.map seen }
  s.putPubAll (atAddr at' (leBytes 16 (r + 2 ^ (if b then 121 else 120))))

/-- Do all of some bytes lie where a mapping may name them? -/
def mappableAll (pa n : Nat) : Bool := mappable pa && mappable (pa + n - 1)

/-- Does the frame, record or packed storage that a mapping names for an offset lie where it may (R55, R396)? A page record takes
16 + STORLEN bytes (R43), a shadow record 16, a block its packed bytes. -/
def State.mapped (s : State) (attr : Reg64) (phys off : Nat) : Bool :=
  if attrBit attr 7 then mappableAll phys 16 && mappableAll phys (16 + leNat (s.mem.live.bytes (phys + 4) 2))
  else if attrBit attr 6 then mappableAll phys 16
  else if attrFmt attr ≠ 0 then
    let w := attrFmt attr + 1
    let n := geomN (attrGeom attr)
    mappableAll (phys + off / 4096 * packedPage w n + off % 4096 / (4 * n) * blockBytes w n) (blockBytes w n)
  else mappable (phys + off)

/-- What a mapping of a page kind gives for an offset (R33, R40, R43, R48): the target, or the trap. -/
def State.target (s : State) (ag : Agent) (a : Access) (va : Nat) (level : Nat) (attr : Reg64) (phys : Nat)
    (off : Nat) : Except Trap (State × Target) :=
  let fmt := attrFmt attr
  let gone : Trap := xfault .translation 0 level a va
  if attrBit attr 7 then
    if a = .fetch then .error (xfault .fetchFault 15 level a va)
    else if a = .copyRead then .ok (s, .packed phys (off % 4096))
    else if a = .copyWrite then .error (xfault .permission 0 level a va)
    else .error (xfault .compressedAccess 0 level a va)
  else if fmt ≠ 0 then
    let w := fmt + 1
    let n := geomN (attrGeom attr)
    let page := phys + off / 4096 * packedPage w n
    let blk := page + off % 4096 / (4 * n) * blockBytes w n
    if a = .fetch then .error (xfault .fetchFault 14 level a va)
    else if a.livePath then .error { xfault .formatPath 0 level a va with level := level }
    else if ag.side ≠ .single && a.writes then .error (xfault .permission 12 level a va)
    else .ok (s, .view blk w n (off % (4 * n)))
  else if attrBit attr 6 then
    let write := a.writes
    let r := s.shadowRec phys
    match ag.side with
    | .single =>
      if write then .error (xfault .permission 12 level a va)
      else
        let k := shadowFrame r 0 * 4096 + off % 4096
        if mappable k then .ok (s, .plain k false) else .error gone
    | side =>
      let b := decide (side = .b)
      let dirty := r / 2 ^ (if b then 121 else 120) % 2 == 1
      if a.livePath then .error (xfault .permission 12 level a va)
      else if dirty || write then
        let k := shadowFrame r (if b then 2 else 1) * 4096 + off % 4096
        if mappable k then .ok (if dirty then s else s.shadowFirst phys ag.asid side, .plain k false) else .error gone
      else
        let k := shadowFrame r 0 * 4096 + off % 4096
        if mappable k then .ok (s, .plain k false) else .error gone
  else
    let k := phys + off
    let sc := attrBit attr 5
    if ag.side ≠ .single && (a.writes || a.livePath || sc) then .error (xfault .permission 12 level a va)
    else .ok (s, .plain k sc)

/-- The permission checks of Table 2.11. -/
def permFault (ag : Agent) (a : Access) (attr : Reg64) : Option Nat :=
  if ag.sys then
    if !attrBit attr 4 then some 11 else if a.writes && !attrBit attr 1 then some 9 else none
  else if !attrBit attr 3 then some 8
  else if a = .fetch then (if attrBit attr 2 then none else some 10)
  else if a.writes && !attrBit attr 1 then some 9
  else none

/-- What stops an address: a trap, or a stack that is still coming up (R412). -/
inductive NoAddr where
  | trap (t : Trap)
  | later
  deriving Repr

/-- The key that a target names. -/
def Target.key : Target → Nat
  | .plain k _ => k
  | .view b _ _ _ => b
  | .packed r _ => r

/-- The bytes from there that an element's access reads: of a view its block, of a compressed page its record's header. -/
def Target.span : Target → Nat
  | .plain _ _ => 1
  | .view _ w n _ => blockBytes w n
  | .packed _ _ => 16

/-- The check on the stack that some address lies in (R56, R412). -/
def State.served (s : State) (a : Access) (va level key : Nat) : Except NoAddr Unit :=
  if isBench key then .ok ()
  else match s.stackUp key with
    | some true => .ok ()
    | some false => .error (.trap (xfault .translation 0 level a va))
    | none => .error .later

/-- A page kind's target with the stacks that it needs: that of its record, where it has one (R43, R48), and that of what it names. -/
def State.targetServed (s : State) (ag : Agent) (a : Access) (va level : Nat) (attr : Reg64) (phys off : Nat) :
    Except NoAddr (State × Target) := do
  if attrBit attr 6 || attrBit attr 7 then s.served a va level phys
  let s := if attrBit attr 6 then s.uses phys 16 else s
  match s.target ag a va level attr phys off with
  | .error t => .error (.trap t)
  | .ok (s, t) => do
    s.served a va level t.key
    pure (s, t)

/-- UNCORRECTABLE of a memory key (R74): the structure, its bank or stack, the address. -/
def State.badTrap (s : State) (key access : Nat) : Trap :=
  let su := (mfind s.mem.bad key).getD (1, key / Config.stackBytes)
  { Trap.mk' .uncorrectable (BitVec.ofNat 64 (placeOf key)) with
    access := access, struct := su.1, unit := su.2 }

/-- Translation of one address by an agent (R33, R53): the target, and the leaf whose A and D the access sets when it performs. -/
def State.look (s : State) (ag : Agent) (a : Access) (va : Nat) : Except NoAddr (State × Target × Option Leaf) :=
  if va / 2 ^ 57 ≠ 0 then .error (.trap (xfault .translation 1 7 a va))
  else if Config.benchWindow ≤ va then
    let o := va - Config.benchWindow
    match ag.core with
    | none => .error (.trap (xfault .translation 0 7 a va))
    | some c =>
      if Config.benchHole ≤ o then .error (.trap (xfault .translation 2 7 a va))
      else if a = .fetch ∨ a.livePath then .error (.trap (xfault .permission 13 7 a va))
      else if a.writes ∧ Config.chainOffset ≤ o then .error (.trap (xfault .permission 13 7 a va))
      else .ok (s, .plain (Config.benchKey c o) false, none)
  else
    let ranges := ((mfind s.asids ag.asid.toNat).map (·.ranges)).getD []
    match ranges.find? (fun r => attrBit r.attr 0 && decide (r.base ≤ va ∧ va < r.limit)) with
    | some r =>
      if !s.mapped r.attr r.offset (va - r.base) then .error (.trap (xfault .translation 0 7 a va))
      else match permFault ag a r.attr with
      | some sub => .error (.trap (xfault .permission sub 7 a va))
      | none => (s.targetServed ag a va 7 r.attr r.offset (va - r.base)).map (fun st => (st.1, st.2, none))
    | none =>
      let (s, l) := s.leafFor ag.asid va a.writes
      match l with
      | .error (.fault sub lv) => .error (.trap (xfault .translation sub lv a va))
      | .error (.bad k) => .error (.trap (s.badTrap k 10))
      | .error .later => .error .later
      | .ok l =>
        let bits := leafBits l.level l.pte
        let special := attrFmt l.pte ≠ 0 || attrBit l.pte 7 || attrBit l.pte 6
        let phys := if special then attrFrame l.pte * 64 else attrFrame l.pte * 4096
        if !s.mapped l.pte phys (va % 2 ^ bits) then .error (.trap (xfault .translation 0 l.level a va))
        else match permFault ag a l.pte with
        | some sub => .error (.trap (xfault .permission sub l.level a va))
        | none => (s.targetServed ag a va l.level l.pte phys (va % 2 ^ bits)).map (fun st => (st.1, st.2, some l))

/-- Stripes of a bench that `w` bytes at an offset touch (R63). -/
def stripes (o w : Nat) : Nat := (o + w - 1) / 30 - o / 30 + 1

/-- A read of a bench with a failed bank rebuilds each stripe that it reads (R64). -/
def State.rebuilds (s : State) (key w : Nat) : State :=
  if !isBench key then s
  else
    let c := (key - Config.benchKey 0 0) / 0x80_0000
    if (s.core c).badBanks.any (fun b => b.1 == 0) then s.modCore c (fun k => { k with rebuilds := k.rebuilds + stripes (placeOf key) w })
    else s

/-- The leaf's A and D, once the access performs (R38). -/
def State.marked (s : State) (l : Option Leaf) (a : Access) : State :=
  match l with
  | none => s
  | some l => s.markLeaf l a.writes

/-- An access performs: its leaf is marked, and its lines are the most recently used of their sets (R38, R57). -/
def State.reached (s : State) (l : Option Leaf) (a : Access) (t : Target) : State := (s.marked l a).uses t.key t.span

/-- Translation of an access that performs. -/
def State.xlate (s : State) (ag : Agent) (a : Access) (va : Nat) : Except NoAddr (State × Target) :=
  (s.look ag a va).map (fun r => (r.1.reached r.2.2 a r.2.1, r.2.1))

/-- The current hand as an agent; its ACCESS faults name the hand's own bench. -/
def State.me (s : State) : Agent :=
  ⟨s.hand.asid, some s.hand.core, false, ((s.taskOf s.hand.task).map (·.side)).getD .single⟩

/-- The current hand's translation: a fault is a trap, a stack coming up is waited for. -/
def State.xlook (s : State) (a : Access) (va : Reg64) : Run (State × Target × Option Leaf) :=
  match s.look s.me a va.toNat with
  | .ok r => .ok r
  | .error (.trap t) => .error (.trap t s)
  | .error .later => .error (.wait .order s)

/-- What an access that stops leaves of what it did: the open choices made, and the stalls that fields counted. -/
def State.stoppedAs (s r : State) : State := { s with freeCtr := r.freeCtr, fields := r.fields }

/-- A part of an instruction that, where it stops, leaves nothing of what it did. -/
def State.undone {α : Type} (s : State) (r : Run α) : Run α :=
  match r with
  | .error (.trap x r) => .error (.trap x (s.stoppedAs r))
  | .error (.wait w r) => .error (.wait w (s.stoppedAs r))
  | r => r

/-- An access that a part of an instruction makes, done with its leaf marked and its lines used: where it stops, it has not performed, and
neither has happened (R38, R57). -/
def State.performing {α : Type} (s : State) (l : Option Leaf) (a : Access) (t : Target) (f : State → Run α) : Run α :=
  s.undone (f (s.reached l a t))

end Sys2Proof.Machine
end

