-- ==== Sys2Proof/Machine/View.lean ====
section
/-! DEFINITION. What a load returns and where a store goes (R60 to R63, R73 to R83, R95 to R99, R114, R117, R126):
the survivor rule, the hand's view of a byte, element loads and stores, order points, phases of the log. -/

namespace Sys2Proof.Machine

/-! ## The survivor rule (R97) -/

/-- Is the class an engine's? -/
def engineClass (c : Nat) : Bool := decide (3 ≤ c)

/-- Where a clock keeps how many writes of a class by a member are covered. -/
def clockKey (cls member : Nat) : Nat := 2 ^ 32 * cls + member

/-- The writes of its own member that precede a write, and itself (R97, R124). -/
def Wr.clock (w : Wr) : Clock :=
  (List.range 7).foldl (fun c a => mput 0 c (clockKey a w.member)
    (if engineClass a == engineClass w.cls then w.seq + 1 else mget 0 w.fen a)) []

/-- Where a clock keeps that one engine command's write, and not those before it, is covered (R124). -/
def cmdKey (cls member seq : Nat) : Nat := 2 ^ 48 * (seq + 1) + clockKey cls member

/-- Does a clock cover a write? -/
def Clock.covers (c : Clock) (w : Wr) : Bool :=
  decide (w.seq < mget 0 c (clockKey w.cls w.member)) || mget 0 c (cmdKey w.cls w.member w.seq) == 1

/-- Does write `a` precede write `b` (R95, R97)? Within one member program order decides, but for an engine write and
a store, which only an xfence orders (R124). -/
def Wr.precedes (a b : Wr) : Bool :=
  if a.member = b.member then
    if engineClass a.cls != engineClass b.cls then decide (a.seq < mget 0 b.fen a.cls) else decide (a.seq < b.seq)
  else Clock.covers b.prec a

/-- Of two writes of one member, does `a` reach the byte later? One that stands in the store buffer does so after every one that
has been performed. -/
def Wr.later (a b : Wr) : Bool :=
  if a.perf = 0 then b.perf != 0 || decide (b.seq ≤ a.seq)
  else b.perf != 0 && decide (b.perf < a.perf ∨ (b.perf = a.perf ∧ b.seq ≤ a.seq))

/-- The better of two candidates: the higher member; of one member, the one performed later, else the later. -/
def Wr.outranks (a b : Wr) : Bool :=
  if a.member = b.member then a.later b else decide (b.member < a.member)

/-- The survivor of writes to one byte (R97). -/
def survivor (l : List Wr) : Option Wr :=
  (l.filter (fun a => !l.any (fun b => a.precedes b))).foldl (fun best a => match best with
    | none => some a
    | some b => if a.outranks b then some a else some b) none

/-- A task's writes. -/
def State.logOf (s : State) (task : Nat) : List Wr := ((s.taskOf task).map (·.log)).getD []

/-- A clock with some writes and those that precede them. -/
def clockWith (c : Clock) (l : List Wr) : Clock := l.foldl (fun c w => (c.join w.prec).join w.clock) c

/-- A clock with all that precedes the writes of a task that it covers (R97). -/
def State.preceding (s : State) (task : Nat) (c : Clock) : Clock := ((s.logOf task).filter c.covers).foldl (fun p w => p.join w.prec) c

/-! ## The hand's view -/

/-- How many of the hand's own writes of class `a` are ordered before an access of class `b` (Table 4.1, R121). -/
def Order.fence (o : Order) (a b : Nat) : Nat := mget 0 o.fences (8 * a + b)

/-- Ordering every own write of class `a` so far before later accesses of class `b`. -/
def Order.setFence (o : Order) (a b : Nat) : Order := { o with fences := mput 0 o.fences (8 * a + b) o.wseq }

/-- Is an own write certainly seen by an own access of class `c`: one scalar path, one linked path, a fence, or a
phase end (R75, R80, R119)? -/
def Hand.ownCertain (h : Hand) (c : Nat) (w : Wr) : Bool :=
  (w.cls == 0 && c == 0) || (w.cls == 2 && c == 2) || decide (w.seq < h.ord.fence w.cls c) ||
    decide (w.seq < mget 0 h.ord.hb (clockKey w.cls h.member))

/-- The marks of a completion word that a hand has read: bit c once a fence orders accesses of class c after it, and this one once
a refresh has taken the published bytes into the snapshot. -/
def linkTaken : Nat := 128

/-- The completion tokens that a fence makes visible to accesses of class `c` (R111, R124), with their marks, in the order in which the
commands completed. -/
def State.tokensFor (s : State) (h : Hand) (c : Nat) : List (Token × Nat) :=
  (s.mem.tokens.zipIdx).filterMap (fun ti =>
    ((h.ord.links.find? (fun tl => tl.1 == ti.2)).filter (fun tl => tl.2 / 2 ^ c % 2 == 1)).map (fun tl => (ti.1, tl.2)))

/-- The base value of a byte (R96): published contents at the last refresh, and what completion tokens have made visible since
(R111, R124). What another agent has published since and no rule makes visible yet is never returned (Trick 6.4 lets a load return it
too; the model's choice, log 96). -/
def State.baseByte (s : State) (h : Hand) (c key : Nat) : Byte :=
  (s.tokensFor h c).foldl (fun b t => if linkTaken ≤ t.2 then b else (mfind t.1.bytes key).getD b) (h.ord.snap.get key)

/-- Does a completion word that the hand read, and a fence after it, make an engine's write happen before its accesses of
class `c` (R124)? -/
def State.tokenCovers (s : State) (h : Hand) (c : Nat) (w : Wr) : Bool :=
  engineClass w.cls && (s.tokensFor h c).any (fun t => t.1.task == some h.task && t.1.cmd == some (w.cls, w.member, w.seq))

/-- The delivered byte at a bench key, when there is one, and whether the hand saw its tile READY. -/
def State.deliveredAt (s : State) (h : Hand) (key : Nat) : Option (Delivered × Bool) :=
  if isBench key then
    (mfind (s.core h.core).delivered ((key - Config.benchKey 0 0) % 0x80_0000)).map (fun d =>
      (d, h.ord.sawTiles.contains (d.tile, d.gen)))
  else none

/-- What a load of a byte may find: the value without any write, the writes it certainly sees, its hand's own stores that no order
makes certain, in program order, and a delivered value that it may see in place of the base (R126). -/
structure ByteView where
  base : Byte
  sure : List Wr
  maybe : List Wr
  alt : Option Byte
  deriving DecidableEq, Repr

/-- The value when `w` is seen among them (R97). -/
def ByteView.value (b : ByteView) (w : Option Wr) : Byte := ((survivor (b.sure ++ w.toList)).map (·.val)).getD b.base

/-- Own stores that a certain write does not overwrite (R78): the latest in program order is the one that remains. -/
def unsettled (sure l : List Wr) : List Wr := l.filter (fun w => !sure.any w.precedes)

/-- What a load of class `c` by hand `h` may find at a byte (R77, R79, R96). A byte that an engine delivered into a tile is the
delivered one, and the hand's stores still buffered (R126). Once a store of another hand has replaced a delivered byte and no phase end
has settled it, R126 says only that the load no longer returns what was delivered: it returns what the hand's snapshot has, which may be
older than the delivery (the model's choice, log 119). -/
def State.byteView (s : State) (h : Hand) (c key : Nat) : ByteView :=
  let log := (s.logOf h.task).filter (fun w => w.key == key)
  let log := if (s.deliveredAt h key).isNone then log else log.filter (fun w => w.perf == 0 && !engineClass w.cls)
  let certain (w : Wr) : Bool := s.tokenCovers h c w ||
    (if w.member = h.member then h.ownCertain c w else Clock.covers h.ord.hb w)
  let sure := log.filter certain
  let maybe := unsettled sure (log.filter (fun w => w.member == h.member && !certain w))
  match s.deliveredAt h key with
  | some (d, true) => ⟨d.new, sure, maybe, none⟩
  | some (d, false) => ⟨d.old, sure, maybe, if sure.isEmpty then some d.new else none⟩
  | none => ⟨s.baseByte h c key, sure, maybe, none⟩

/-- A byte of an element load, given the own whole element store that the load sees (R77): the stores of another width or place
after it are seen or not byte by byte. -/
def pickByte (pick : State → Nat → Nat → State × Nat) (whole : Nat → Bool) (seen : Option Nat) (acc : State × List Byte) (b : ByteView) :
    State × List Byte :=
  let n := acc.2.length
  let parts := b.maybe.filter (fun w => !whole w.seq && decide ((seen.map (· + 1)).getD 0 ≤ w.seq))
  let (s, j) := pick acc.1 (2 * n + 1) (parts.length + 1)
  let w := if j = 0 then (match seen with
    | none => none
    | some q => b.maybe.find? (fun w => w.seq == q)) else parts[j - 1]?
  let (s, a) := pick s (2 * n + 2) (if w.isNone && b.alt.isSome then 2 else 1)
  (s, acc.2 ++ [if a = 0 then b.value w else b.alt.getD 0])

/-- The bytes of one element load from what it may find (R77): an own store of an element of the same width at the same place is seen
whole or not at all (a block of a view, too); every other byte by byte. The outcome is an open choice, which `pick` makes: number 0 for
the whole element, two more for each byte (log 2). -/
def pickBytes (pick : State → Nat → Nat → State × Nat) (s : State) (key w : Nat) (views : List ByteView) : State × List Byte :=
  let wholes := (views.map (fun b => (b.maybe.filter (fun x => x.ekey == key && x.width == w)).map (·.seq))).flatten
  let wholes := distinct wholes
  let (s, k) := pick s 0 (wholes.length + 1)
  let seen := if k = 0 then none else wholes[k - 1]?
  views.foldl (pickByte pick wholes.contains seen) (s, [])

/-- The bytes of an element read by the current hand, which is then behind it (R82). -/
def State.pickRead (s : State) (key w : Nat) (views : List ByteView) : State × List Byte :=
  let (s, l) := pickBytes State.chooseRead s key w views
  (s.readDone, l)

/-- A load's bytes by a hand at a class. -/
def State.viewBytes (s : State) (h : Hand) (c key w : Nat) : State × List Byte := s.pickRead key w ((upFrom key w).map (s.byteView h c))

/-- The bytes an engine reads for a hand's command (R120): the hand's view at the class, without what stands in its
strip store buffer (R82); `pick` makes its open choices. -/
def State.engineBytes (s : State) (pick : State → Nat → Nat → State × Nat) (h : Hand) (c key w : Nat) : State × List Byte :=
  let hidden := (h.strip.ssb.map (·.seq))
  let s' := s.modTask h.task (fun t =>
    { t with log := t.log.filter (fun x => !(x.member == h.member && hidden.contains x.seq && x.perf == 0)) })
  pickBytes pick s key w ((upFrom key w).map (s'.byteView h c))

/-! ## Errors and watchpoints -/

/-- A read of data that no longer decode (R74). -/
def State.readable (s : State) (key w access : Nat) : Run Unit :=
  match s.badKey key w with
  | some k => s.trap (s.badTrap k access)
  | none => .ok ()

/-- UNCORRECTABLE where a structure that the hand depends on is read and no longer decodes (R74). -/
def State.sound (s : State) (struct addr : Nat) : Run Unit :=
  match s.badOf s.hand.id struct addr with
  | some t => s.trap t
  | none => .ok ()

/-- A commit point as an instruction reaches it: the buffer's own data are checked as they drain (R74, R147). -/
def State.commits (s : State) : Run State :=
  match s.badDrain with
  | some t => s.trap t
  | none => .ok s.commit

/-- The hand's store buffer as a load of some bytes reads it, where it holds one of them (R74). -/
def State.soundBuffer (s : State) (key w : Nat) : Run Unit :=
  if s.hand.strip.ssb.any (fun b => decide (key ≤ b.key ∧ b.key < key + w)) then s.sound 6 (placeOf key) else .ok ()

/-- The structures that a load of some bytes reads beside memory (R74): the hand's store buffer where it holds one of them, and the heel,
which keeps the images that a snapshot is served from (R60). -/
def State.soundBytes (s : State) (key w : Nat) : Run Unit := do
  s.soundBuffer key w
  s.sound 8 (placeOf key)

/-- Recording the first match of a watchpoint in the strip (R390). -/
def State.watch (s : State) (va w : Nat) (write : Bool) (elem : Nat) : State :=
  if s.hand.sched.watches.isEmpty then s
  else
    { s with hand := { s.hand with sched := { s.hand.sched with watches := s.hand.sched.watches.map (fun kw =>
        let x := kw.2
        let hit := (if write then x.onWrite else x.onRead) && decide (x.base.toNat < va + w ∧ va < x.base.toNat + x.size)
        (kw.1, if hit && x.hit.isNone then { x with hit := some (BitVec.ofNat 64 va, s.hand.csr.stripno, elem) } else x)) } } }

/-! ## Order points -/

/-- Have the hand's accesses of a class performed and been acknowledged (R121, Table 6.2)? Buffered stores count as
done for SCA and VEC. -/
def Hand.classQuiet (h : Hand) (c : Nat) : Bool :=
  !(h.ord.acks.any (fun a => a.cls == c)) && !(h.producers.any (fun p => p.cls == some c))

/-- Every SCA, VEC and LNK access so far comes before every later one of them (R114). -/
def State.passPoint (s : State) : State :=
  let o := [(0, 0), (0, 1), (0, 2), (1, 0), (1, 1), (1, 2), (2, 0), (2, 1), (2, 2)].foldl
    (fun (o : Order) ab => o.setFence ab.1 ab.2) s.hand.ord
  { s with hand := { s.hand with ord := o } }

/-- An order point (R114, R117): a commit point; earlier SCA, VEC and LNK accesses have performed. A store held for heel room, which R62
performs at the next phase end, is not waited for: R114 says nothing of it, and the hand may be waiting for the very phase end (the
model's choice, log 116). -/
def State.orderPoint (s : State) : Run State := do
  let s ← s.commits
  if s.hand.classQuiet 0 && s.hand.classQuiet 1 && s.hand.classQuiet 2 then .ok s.passPoint
  else s.wait .order

/-! ## Element loads -/

/-- Is a key in the command chain's window (R63)? -/
def isChain (k : Nat) : Bool := isBench k && decide (Config.chainOffset ≤ (k - Config.benchKey 0 0) % 0x80_0000)

/-- Bytes of the command chain's window, live (R63, R272): the completion records; the chain's entries have no stated
contents, so that each of their bytes is a free value (log 2). -/
def State.chainBytes (s : State) (k w : Nat) : State × List Byte :=
  if 0x77_F000 ≤ (k - Config.benchKey 0 0) % 0x80_0000 then (s, s.mem.live.bytes k w)
  else
    let (s, v) := s.choose (256 ^ w)
    (s, leBytes w v)

/-- Reading `w` bytes of a target at `va` by the current hand's class (R220, R227): the number, little-endian. Bytes
of a view are the F32 encodings (R41); an SC page and the command chain are read live. -/
def State.readTarget (s : State) (a : Access) (cls : Nat) (t : Target) (va : Reg64) (w : Nat) : Run (State × Nat) := do
  match t with
  | .plain k sc =>
    s.readable k w a.code
    if isChain k then do
      s.sound 9 (placeOf k)
      let (s, l) := s.chainBytes k w
      pure (s, leNat l)
    else if sc then pure (s.rebuilds k w, leNat (s.mem.live.bytes k w))
    else do
      s.soundBytes k w
      let (s, l) := (s.rebuilds k w).viewBytes s.hand cls k w
      pure (s, leNat l)
  | .view b bw n off => do
    s.readable b (blockBytes bw n) a.code
    s.soundBytes b (blockBytes bw n)
    let (s, l) := (s.rebuilds b (blockBytes bw n)).viewBytes s.hand cls b (blockBytes bw n)
    match readBlock bw n l with
    | none => s.trap { Trap.mk' .blockCheck (BitVec.ofNat 64 b) with access := a.code }
    | some blk =>
      let l := ((upFrom (off / 4) 2).map (fun j => leBytes 4 (blk.value bw j))).flatten
      pure (s, leNat ((l.drop (off % 4)).take w))
  | .packed _ _ => s.trap (xfault .compressedAccess 0 7 a va.toNat)

/-- Is the target on an SC page? -/
def Target.isSc : Target → Bool
  | .plain _ sc => sc
  | _ => false

/-- An element load by the current hand on the scalar path, or of a device structure in memory, at an address already
checked for alignment (R96, R220): an SC page makes it an order point (R117). -/
def State.readElem (s : State) (a : Access) (cls : Nat) (va : Reg64) (w elem : Nat) : Run (State × Nat) := do
  let (s, t, leaf) ← s.xlook a va
  let s ← if t.isSc then s.orderPoint else pure s
  s.performing leaf a t (fun s => (s.watch va.toNat w false elem).readTarget a cls t va w)

/-! ## Stores -/

/-- Writes of engine commands that completion words made happen before accesses of class `c`, with all that precedes them: they
precede the hand's writes of that class (R97, R124). -/
def State.precFor (s : State) (h : Hand) (c : Nat) : Clock :=
  let seen := (s.tokensFor h c).filterMap (fun t => if t.1.task != some h.task then none else t.1.cmd.bind (fun q =>
    (s.logOf h.task).find? (fun w => w.cls == q.1 && w.member == q.2.1 && w.seq == q.2.2)))
  s.preceding h.task (clockWith h.ord.prec seen)

/-- Entering one element's bytes in the task's log, as the hand's next write, not yet performed. -/
def State.logWrite (s : State) (cls k : Nat) (l : List Byte) : State :=
  let h := s.hand
  let fen : SMap Nat := (List.range 7).foldl (fun m a => mput 0 m a (h.ord.fence a cls)) []
  let prec := s.precFor h cls
  let ws := (atAddr k l).map (fun kb => (⟨kb.1, kb.2, h.member, h.ord.wseq, k, l.length, cls, fen, prec, 0, 0, false⟩ : Wr))
  let s := s.modTask h.task (fun t => { t with log := t.log ++ ws })
  { s with hand := { s.hand with ord := { s.hand.ord with wseq := h.ord.wseq + 1 } } }

/-- Granules of the strip store buffer in use (R73). -/
def Strip.granules (st : Strip) : List Nat := distinct (st.ssb.map (fun b => b.key / 64))

/-- Granules that some keys need beyond those in use. -/
def Strip.needs (st : Strip) (keys : List Nat) : List Nat :=
  distinct ((keys.map (· / 64)).filter (fun g => !(st.granules.contains g)))

/-- Does the strip store buffer take a store of `n` bytes: while the strip is protected, as long as its granules suffice (R73, R147)? -/
def Strip.buffers (st : Strip) (k n : Nat) : Bool :=
  st.prot && decide (st.granules.length + (st.needs (upFrom k n)).length ≤ Config.ssbGranules)

/-- What a hand's plain store of `n` bytes needs before it takes place: a commit where the buffer does not take it, and then, where the
heel has no room for all of it, granules for what is held; it stalls while the buffer is full of held stores (R62, R73). -/
def State.storeRoom (s : State) (k n : Nat) : Run State :=
  if s.hand.strip.buffers k n then .ok s
  else do
    let s ← s.commits
    let hold := (s.retaining s.storer (upFrom k n)).2
    if Config.ssbGranules < s.hand.strip.granules.length + (s.hand.strip.needs hold).length then
      (s.heelStall (homeField (hold.headD k))).wait .heel
    else .ok s

/-- A hand's plain store of some bytes, with the scatter lanes it counts on and the virtual page it was translated by: into the strip
store buffer while the strip is protected, else performed, or held for heel room (R62, R73, R147). -/
def State.storeNow (s : State) (cls : Nat) (lanes : List Nat) (page : Option Nat) (k : Nat) (l : List Byte) : State :=
  let seq := s.hand.ord.wseq
  let bytes : List Buffered := (atAddr k l).map (fun kb => ⟨kb.1, kb.2, seq, false, page, cls, lanes⟩)
  if s.hand.strip.buffers k l.length then
    let s := s.logWrite cls k l
    { s with hand := { s.hand with strip := { s.hand.strip with ssb := s.hand.strip.ssb ++ bytes } } }
  else
    let hold := (s.retaining s.storer (upFrom k l.length)).2
    let s := s.logWrite cls k l
    let s := bytes.foldl State.performByte s
    if hold.length = l.length then s else { s with hand := { s.hand with ord := s.hand.ord.ackStore cls lanes } }

/-- A hand's plain store, once there is room for it. -/
def State.storePlain (s : State) (cls : Nat) (lanes : List Nat) (page : Option Nat) (k : Nat) (l : List Byte) : Run State := do
  let s ← s.storeRoom k l.length
  pure (s.storeNow cls lanes page k l)

/-- A hand's store that reaches the line live at once: vsc and vstsq elements (R107, R115). It keeps a heel image
while the heel has room (log 18). -/
def State.storeLive (s : State) (cls : Nat) (lanes : List Nat) (k : Nat) (l : List Byte) : State :=
  let s := (s.retaining s.storer (upFrom k l.length)).1
  let seq := s.hand.ord.wseq
  let s := s.logWrite cls k l
  let s := (atAddr k l).foldl (fun (s : State) kb => s.stamp s.hand.task s.hand.member seq kb.1 kb.2 false) s
  { s with hand := { s.hand with ord := s.hand.ord.ackStore cls lanes } }

/-- A store to an SC page (R117): live, published as it performs, no heel image. -/
def State.storeSc (s : State) (cls : Nat) (lanes : List Nat) (k : Nat) (l : List Byte) : State :=
  let s := s.putPubAll (atAddr k l)
  { s with hand := { s.hand with ord := s.hand.ord.ackStore cls lanes } }

/-- A hand's store of bytes to a plain target: an SC page's at once, others as R62 and R73 say. -/
def State.writePlain (s : State) (cls : Nat) (lanes : List Nat) (page : Option Nat) (k : Nat) (sc : Bool) (l : List Byte) : Run State :=
  if sc then .ok (s.storeSc cls lanes k l) else s.storePlain cls lanes page k l

/-- An element store on the scalar path, or of a device structure, to an address already checked (R220): a view
refuses it. Its leaf is marked once nothing holds it back (R38). -/
def State.writeElem (s0 : State) (cls : Nat) (va : Reg64) (w elem val : Nat) : Run State := do
  let (s, t, leaf) ← s0.xlook .store va
  match t with
  | .plain k sc =>
    let s ← if sc then s.orderPoint else s.storeRoom k w
    let s := (s.reached leaf .store t).watch va.toNat w true elem
    let l := leBytes w val
    pure (if sc then s.storeSc cls [] k l else s.storeNow cls [] (if isBench k then none else some (va.toNat / 4096)) k l)
  | .view _ _ _ _ => s0.trap { Trap.mk' .formatAlign va with access := 1 }
  | .packed _ _ => s0.trap (xfault .compressedAccess 0 7 .store va.toNat)

/-- What a tile-gated read of the current hand may find at a byte (R69, R87): what has landed, its own buffered stores before memory; an
own store that no order makes certain is old or new, but for one that had landed when the tile became READY (`since`). -/
def State.tileView (s : State) (since key : Nat) : ByteView :=
  let h := s.hand
  let own := (s.logOf h.task).filter (fun w => w.key == key && w.member == h.member && !engineClass w.cls)
  let certain (w : Wr) : Bool := h.ownCertain 1 w || (w.perf != 0 && decide (w.perf < since))
  let sure := own.filter certain
  let maybe := unsettled sure (own.filter (fun w => !certain w))
  let base := match maybe.find? (fun w => w.perf != 0) with
    | some w => w.was
    | none => s.mem.live.get key
  ⟨base, sure.filter (fun w => w.perf == 0), maybe, none⟩

/-- The bytes that a hand's tile-gated read sees. -/
def State.tileBytes (s : State) (since k w : Nat) : State × List Byte := s.pickRead k w ((upFrom k w).map (s.tileView since))

/-! ## Snapshots and hand-offs -/

/-- A refresh of a hand's snapshot (R96): it takes in what the commands so far, `known` of them, have published. A bound stream may have
read ahead in the view that ends (R123). -/
def Hand.refresh (h : Hand) (pub : Mem) (known : Nat) : Hand :=
  { h with
    ord := { h.ord with
      snap := pub, known := known, links := h.ord.links.map (fun tl => (tl.1, if linkTaken ≤ tl.2 then tl.2 else tl.2 + linkTaken)) }
    streams := h.streams.map (Option.map (fun t => { t with views := t.views ++ [(h.ord.snap, h.ord.hb)] })) }

/-- Writes that now happen before the hand's accesses (R88, R95), and so precede its later writes with all that precedes them (R97). -/
def Hand.receive (h : Hand) (c before : Clock) : Hand :=
  { h with ord := { h.ord with hb := h.ord.hb.join c, prec := h.ord.prec.join before } }

/-- A hand's own writes as a clock: those of its stores, and those of its engine commands that `eng` gives for a class. -/
def Hand.ownClock (h : Hand) (eng : Nat → Nat) : Clock :=
  (List.range 7).foldl (fun c a => mput 0 c (clockKey a h.member) (if engineClass a then eng a else h.ord.wseq)) []

/-- What happens before a hand's accesses: what it received, and the engine writes that completion words it read, with a fence after
them, made so (R124). -/
def State.received (s : State) (h : Hand) : Clock :=
  (List.range 7).foldl (fun c a => (s.tokensFor h a).foldl (fun (c : Clock) t => match t.1.cmd with
    | some (cls, m, q) => if t.1.task = some h.task then mput 0 c (cmdKey cls m q) 1 else c
    | none => c) c) h.ord.hb

/-- The clock that a hand hands on at a release (R88): what it received, its own stores, and the writes of its engine
commands that an xfence orders (R124). -/
def State.clockOf (s : State) (h : Hand) : Clock :=
  (s.received h).join (h.ownClock (fun a => (List.range 7).foldl (fun n b => Nat.max n (h.ord.fence a b)) 0))

/-- The clock of a hand whose commands have all completed, at an arrival or after halt (R100, R177). -/
def State.fullClock (s : State) (h : Hand) : Clock := (s.received h).join (h.ownClock (fun _ => h.ord.wseq))

/-! ## Linked reads -/

/-- The task's write that a live byte holds, when it is one (R97). -/
def State.holds (s : State) (task key : Nat) : Option Wr :=
  match mfind s.mem.notes key with
  | none => none
  | some n => (s.logOf task).find? (fun w => w.key == key && w.perf == n.perf)

/-- A linked read of live bytes by the current hand (R97, R106): the writes it returned precede the hand's later
writes. Of a completion word it gives the token: of a command of the task, whose word now holds the completion value or a later one
(R124); of a switch operation, where it returns the sequence number (R111). What the last refresh took in stands in the snapshot. -/
def State.linkedRead (s : State) (k w : Nat) : State × Nat :=
  let h := s.hand
  let returned := (upFrom k w).filterMap (s.holds h.task)
  let prec := s.preceding h.task (clockWith h.ord.prec returned)
  let v := leNat (s.mem.live.bytes k w)
  let seen := (s.mem.tokens.zipIdx).filterMap (fun ti =>
    let named : Bool := match ti.1.task with
      | none => decide (leNat (s.mem.live.bytes ti.1.word 8) = ti.1.value.toNat)
      | some t => t == h.task
    if decide (k ≤ ti.1.word ∧ ti.1.word + 8 ≤ k + w) && named then some (ti.2, if ti.2 < h.ord.known then linkTaken else 0) else none)
  let links := seen.foldl (fun l x => if l.any (fun y => y.1 == x.1) then l else l ++ [x]) h.ord.links
  ({ s with hand := { h with ord := { h.ord with prec := prec, links := links } } }, v)

/-! ## Dudel (R393, R394) -/

/-- Appending an entry to the recording region; a full region stops recording (R393). -/
def State.record (s : State) (e : DudelEntry) : State :=
  match s.dudel.on && !s.dudel.truncated, s.dudel.region with
  | true, some (base, size) =>
    if s.dudel.pos + 32 ≤ size then
      let l := [e.kind] ++ leBytes 2 e.source.toNat ++ leBytes 8 e.stamp.toNat ++ (e.payload ++ List.replicate 21 0).take 21
      let s := s.putPubAll (atAddr (base + s.dudel.pos) l)
      { s with dudel := { s.dudel with pos := s.dudel.pos + 32, log := s.dudel.log ++ [e] } }
    else { s with dudel := { s.dudel with truncated := true } }
  | _, _ => s

/-- What an arrival at a port enters in the log (R393): the port (a Vuxon port above 255), the length, the address (log 25). -/
def arrivalPayload (port len a : Nat) : List Byte := leBytes 2 port ++ leBytes 4 len ++ leBytes 8 a

/-- An arrival at a port (R393): recorded. In replay nothing arrives but what the log delivers at its stamped count (R394). A system core's
count of instructions, its stamp, is not the device's to know: an open value (log 25). -/
def State.arrives (s : State) (port len a : Nat) : Option State :=
  if s.dudel.replay then none
  else
    let n := s.freeCtr
    some (({ s with freeCtr := n + 1 }).record ⟨3, 0x8000, Config.freeCycles n, arrivalPayload port len a⟩)

/-- The next operation of kinds 4 to 7 that the log records, with its place (R394). -/
def Dudel.following (d : Dudel) : Option (Nat × DudelEntry) :=
  match (d.log.drop d.done).findIdx? (fun e => decide (4 ≤ e.kind.toNat)) with
  | none => none
  | some i => (d.log[d.done + i]?).map (fun e => (d.done + i, e))

/-- In replay, the entry that the next operation has to match. -/
def State.replayNext (s : State) : Option DudelEntry := if s.dudel.replay then s.dudel.following.map (·.2) else none

/-- In replay, may an operation perform now (R394)? It waits for its recorded predecessors; where the log has another kind of
operation next for the same hand, it performs and diverges. -/
def State.replayTurn (s : State) (kind : Byte) (source : BitVec 16) : Bool :=
  match s.replayNext with
  | none => true
  | some e => e.source == source && (e.kind == kind || (kind != 7 && e.kind != 7))

/-- The outcome that the log forces on an operation (R394): the payload recorded for it. -/
def State.forced (s : State) (kind : Byte) (source : BitVec 16) : Option (List Byte) :=
  match s.replayNext with
  | none => none
  | some e => if e.kind = kind ∧ e.source = source then some e.payload else none

/-- The payload of an eviction among the entries of kind 4 (log 62). -/
def evictionPayload (line : Nat) : List Byte := leBytes 8 (128 * line) ++ List.replicate 12 0 ++ [0xFF]

/-- Does an entry record an eviction? -/
def DudelEntry.isEviction (e : DudelEntry) : Bool := e.kind == 4 && e.payload.getD 8 0 == 0 && e.payload.getD 20 0 == 0xFF

/-- In replay, the evictions that the log records next happen at once, at most `n` of them (R394). -/
def State.replayEvictions (s : State) : Nat → State
  | 0 => s
  | n + 1 => match s.dudel.following with
    | none => s
    | some (j, e) =>
      if e.isEviction then
        State.replayEvictions { s.clearTag (leNat (e.payload.take 8) / 128) with dudel := { s.dudel with done := j + 1 } } n
      else s

/-- The machine halts as in R392 and posts DUDEL-DIVERGE with an entry's offset (R394). -/
def State.diverge (s : State) (offset : Nat) : State :=
  let stop (h : Hand) : Hand := { h with sched := { h.sched with stopWanted := true } }
  let s := { s with pod := { s.pod with halted := true }, hand := stop s.hand, others := s.others.map stop }
  s.postEvent .dudelDiverge (BitVec.ofNat 64 offset) 0 0 0

/-- Recording an operation (R393), or in replay consuming its entry, with the evictions that come next; one that does not match
diverges (R394). -/
def State.dudelOp (s : State) (kind : Byte) (source : BitVec 16) (stamp : Reg64) (payload : List Byte) : State :=
  if s.dudel.replay then
    match s.dudel.following with
    | none => s
    | some (j, e) =>
      if e.kind = kind ∧ e.source = source ∧ e.stamp = stamp ∧ e.payload.take payload.length = payload then
        State.replayEvictions { s with dudel := { s.dudel with done := j + 1 } } s.dudel.log.length
      else s.diverge (32 * j)
  else s.record ⟨kind, source, stamp, payload⟩

end Sys2Proof.Machine
end

