-- ==== Sys2Proof/Machine/Flags.lean ====
section
/-! DEFINITION. Flags (R205, R84): FSTAT and XIDX. -/

namespace Sys2Proof.Machine

/-- The flags with an XIDX, by index: NV, DZ, OF, UF, NX. -/
def xidxBit (c : Nat) : Nat := 2 ^ c

/-- The lowest element that raised class k, if any did. -/
def lowestRaiser (fl : List (Nat × Nat)) (k : Nat) : Option Nat :=
  fl.foldl (fun b ef =>
    if ef.2 / xidxBit k % 2 = 1 then some (match b with
      | none => ef.1
      | some e => Nat.min e ef.1) else b) none

/-- Raising flags at elements: FSTAT, and XIDX where it reads none (R205). -/
def Csrs.raise (c : Csrs) (fl : List (Nat × Nat)) : Csrs :=
  let all := fl.foldl (fun a ef => Nat.lor a ef.2) 0
  let xi := (List.range 5).foldl (fun (x : Vector Reg64 5) k =>
    match lowestRaiser fl k with
    | none => x
    | some e => if x.toArray.getD k 0 = BitVec.allOnes 64 then
        x.setIfInBounds k (BitVec.ofNat 64 (c.stripno.toNat % 2 ^ 32 * 2 ^ 32 + e % 2 ^ 32)) else x) c.xidx
  { c with fstat := c.fstat ||| BitVec.ofNat 64 all, xidx := xi }

/-- Raising flags on the current hand: with VL = 0 an instruction raises none (R196, R205). -/
def State.raise (s : State) (fl : List (Nat × Nat)) : State :=
  { s with hand := { s.hand with csr := if s.hand.csr.vl = 0 then s.hand.csr else s.hand.csr.raise fl } }

/-- Has every earlier instruction that can raise a flag completed (R84)? Values and flags are computed at issue; what is still
outstanding of such an instruction is its result. -/
def Hand.flagsQuiet (h : Hand) : Bool := !(h.producers.any (·.flags))

end Sys2Proof.Machine
end

