-- ==== Sys2Proof/Machine/Operands.lean ====
section
/-! DEFINITION. Operand forms: the checks of R164 that the state decides (SEW, predicates, groups), vector sources,
elements, immediates, the shape record, and the beats that an instruction costs (R260). -/

namespace Sys2Proof.Machine

/-! ## The state-dependent encoding checks -/

/-- What the checks of R164 need to know of a vector instruction: the SEW codes allowed (Table 12.3), whether it
reads p1–p31 or writes a predicate (R239), its groups by first register and size in GRP (R238), its destination
group when no source may share a register with it, and lone source registers for that check. -/
structure VShape where
  sews : List Nat
  preds : Bool
  groups : List (Fld5 × Nat)
  apart : Option (Fld5 × Nat)
  lone : List Fld5
  deriving DecidableEq, Repr

/-- What a vector instruction fills and which predicates it reads (R237, R239): its vector destination (size in GRP), its
predicate destination, the predicates it waits for, the class of a store, the slot that it updates. -/
structure VFlow where
  out : Option (Fld5 × Nat)
  pout : Option Nat
  preads : List Nat
  store : Option Nat
  slot : Option Nat
  deriving DecidableEq, Repr

/-- Any SEW. -/
def anySew : List Nat := [0, 1, 2, 3]
/-- Float SEWs. -/
def floatSew : List Nat := [1, 2]

/-- Element-wise with a masked group destination. -/
def shEl (sews : List Nat) (f : VReg) : Option VShape := some ⟨sews, f.m != 0, [(f.d, 1), (f.a, 1), (f.b, 1)], none, []⟩
/-- Element-wise, unary. -/
def shUn (sews : List Nat) (f : VUn) : Option VShape := some ⟨sews, f.m != 0, [(f.d, 1), (f.a, 1)], none, []⟩
/-- Widening (VWIDE). -/
def shWide (f : VReg) : Option VShape := some ⟨[0, 1, 2], f.m != 0, [(f.d, 2), (f.a, 1), (f.b, 1)], some (f.d, 2), []⟩
/-- A compare. -/
def shCmp (sews : List Nat) (f : VReg) : Option VShape := some ⟨sews, true, [(f.a, 1), (f.b, 1)], none, []⟩
/-- Predicate to predicate. -/
def shPred : Option VShape := some ⟨anySew, true, [], none, []⟩
/-- A predicate source into a scalar or a queue. -/
def shPsrc (f : PUn) : Option VShape := some ⟨anySew, f.a != 0 || f.m != 0, [], none, []⟩
/-- VPERM with a scalar in B. -/
def shPerm (f : VReg) : Option VShape := some ⟨anySew, f.m != 0, [(f.d, 1), (f.a, 1)], some (f.d, 1), []⟩
/-- VPERM, unary. -/
def shPermUn (f : VUn) : Option VShape := some ⟨anySew, f.m != 0, [(f.d, 1), (f.a, 1)], some (f.d, 1), []⟩
/-- A reduction. -/
def shRed (sews : List Nat) (f : VUn) : Option VShape := some ⟨sews, f.m != 0, [(f.a, 1)], none, []⟩
/-- A vector destination alone. -/
def shDst (d : Fld5) (m : BitVec 3) : Option VShape := some ⟨anySew, m != 0, [(d, 1)], none, []⟩
/-- VIMM. -/
def shImm (f : VImm) : Option VShape := some ⟨anySew, f.m != 0, [(f.d, 1), (f.a, 1)], none, []⟩
/-- VIMM shifts. -/
def shShImm (f : VShImm) : Option VShape := some ⟨anySew, f.m != 0, [(f.d, 1), (f.a, 1)], none, []⟩
/-- SUPD: B names a source when it is not zero (Table 15.5). -/
def shSupd (sews : List Nat) (f : VReg) : Option VShape :=
  some ⟨sews, f.m != 0, (f.a, 1) :: (if f.b = 0 then [] else [(f.b, 1)]), none, []⟩

/-- The shape of each instruction that R164's last checks concern. -/
def vshape : Instr → Option VShape
  | .vadd f | .vsub f | .vand f | .vor f | .vxor f | .vsll f | .vsrl f | .vsra f | .vmul f | .vmulh f | .vmulhn f
  | .vmin f | .vmax f | .vminn f | .vmaxn f | .vsadd f | .vsaddn f | .vssub f | .vssubn f | .vincw f | .vaddb f
  | .vsel f => shEl anySew f
  | .vabs f | .vclz f | .vpopc f | .vmov f => shUn anySew f
  | .vmovStream f => shDst f.d f.m
  | .vfadd f | .vfsub f | .vfmul f | .vfdiv f | .vfmin f | .vfmax f | .vfsgn f | .vfma f | .vfms f | .vfnma f =>
    shEl floatSew f
  | .vfsqrt f | .vfrsqrt f | .vfexp2 f | .vflog2 f | .vfabs f | .vfneg f | .vfclass f => shUn floatSew f
  | .vwmac f | .vwmacn f | .vwmacsn f | .vwmul f | .vwmuln f | .vwadd f | .vwaddn f => shWide f
  | .vceq f | .vcne f | .vclt f | .vcle f | .vcltn f | .vclen f => shCmp anySew f
  | .vfceq f | .vfclt f | .vfcle f | .vfcun f => shCmp floatSew f
  | .pand _ | .por _ | .pxor _ | .pandn _ | .pnot _ | .pset _ => shPred
  | .ppopc f | .pfirst f | .pmvx f | .vpopq f => shPsrc f
  | .vperm f => some ⟨anySew, f.m != 0, [(f.d, 1), (f.a, 1), (f.b, 1)], some (f.d, 1), []⟩
  | .vslup f | .vsldn f | .vbcast f | .vrshp f => shPerm f
  | .vcomp f | .vexpd f => shPermUn f
  | .vsortk f => some ⟨anySew, f.m != 0, (f.d, 2) :: (f.a, 1) :: (if f.b = 0 then [] else [(f.b, 1)]), some (f.d, 2), []⟩
  | .vredadd f | .vredmin f | .vredmax f | .vredminn f | .vredmaxn f | .vredand f | .vredor f => shRed anySew f
  | .vfredadd f | .vfredmin f | .vfredmax f => shRed floatSew f
  | .vcvtfi f | .vcvtfn f | .vcvtif f | .vcvtnf f => shUn floatSew f
  | .vcvtff f =>
    if f.b = 0 then some ⟨[1], f.m != 0, [(f.d, 1), (f.a, 2)], some (f.d, 1), []⟩
    else some ⟨[1], f.m != 0, [(f.d, 2), (f.a, 1)], some (f.d, 2), []⟩
  | .vquant f | .vdequant f => some ⟨[2], f.m != 0, [(f.d, 1), (f.a, 1)], some (f.d, 1), []⟩
  | .vsplat f => shDst f.d f.m
  | .vins f => shDst f.d f.m
  | .vext f => some ⟨anySew, f.m != 0, [(f.a, 1)], none, []⟩
  | .viota f | .vord f => shDst f.d f.m
  | .vld f | .vldsq f => shDst f.d f.m
  | .vlds f => shDst f.d f.m
  | .vldx f | .vgl f => some ⟨anySew, f.m != 0, [(f.d, 1), (f.b, 1)], some (f.d, 1), []⟩
  | .vldw f => some ⟨anySew, f.m != 0, [(f.d, 1)], some (f.d, 1), [f.b]⟩
  | .vldb f | .vstb f => shDst f.d f.m
  | .vst f | .vstsq f => shDst f.d f.m
  | .vsts f | .vstw f => shDst f.d f.m
  | .vstx f => some ⟨anySew, f.m != 0, [(f.d, 1), (f.b, 1)], none, []⟩
  | .vsc f => some ⟨anySew, true, [(f.d, 1), (f.b, 1)], none, []⟩
  | .supdMom f | .supdRes f => some ⟨floatSew, f.m != 0, [(f.a, 1)], none, []⟩
  | .supdTopk f | .supdQh f | .supdVacc f | .supdVaccm f => shSupd floatSew f
  | .supdCms f => shSupd [0, 1, 2] f
  | .sqCms f => some ⟨anySew, false, [(f.d, 1), (f.b, 1)], none, []⟩
  | .sqVacc f => some ⟨anySew, false, [(f.d, 1)], none, []⟩
  | .qdeal f => some ⟨[2, 3], f.m != 0, (f.d, 1) :: (if f.b = 0 then [] else [(f.b, 1)]), none, []⟩
  | .qdealf f => some ⟨[2], f.m != 0, (f.d, 1) :: (if f.b = 0 then [] else [(f.b, 1)]), none, []⟩
  | .vaddi f | .vandi f | .vori f | .vxori f | .vmini f | .vmaxi f => shImm f
  | .vslli f | .vsrli f | .vsrai f => shShImm f
  | .vceqi f => some ⟨anySew, true, [(f.a, 1)], none, []⟩
  | _ => none

/-- A vector destination under a mask. -/
def flVec (d : Fld5) (n : Nat) (m : BitVec 3) : VFlow := ⟨some (d, n), none, [m.toNat], none, none⟩
/-- A vector destination written at every element below VL, whatever the mask: p0 stands last among the predicates read. -/
def flWhole (d : Fld5) (n : Nat) (m : BitVec 3) : VFlow := ⟨some (d, n), none, [m.toNat, 0], none, none⟩
/-- A predicate destination, under a mask or of a predicate source. -/
def flPred (d : Fld5) (srcs : List Nat) : VFlow := ⟨none, some d.toNat, srcs, none, none⟩
/-- Only predicates read. -/
def flRead (srcs : List Nat) : VFlow := ⟨none, none, srcs, none, none⟩
/-- A store of a class under a mask. -/
def flStore (cls : Nat) (m : BitVec 3) : VFlow := ⟨none, none, [m.toNat], some cls, none⟩
/-- An update of a summary slot under a mask. -/
def flSlot (n : Nat) (m : BitVec 3) : VFlow := ⟨none, none, [m.toNat], none, some n⟩

/-- The flow of the ARITH and PERM instructions, and the predicates that the others read. -/
def vflow : Instr → VFlow
  | .vadd f | .vsub f | .vand f | .vor f | .vxor f | .vsll f | .vsrl f | .vsra f | .vmul f | .vmulh f | .vmulhn f
  | .vmin f | .vmax f | .vminn f | .vmaxn f | .vsadd f | .vsaddn f | .vssub f | .vssubn f | .vincw f | .vaddb f
  | .vfadd f | .vfsub f | .vfmul f | .vfdiv f | .vfmin f | .vfmax f | .vfsgn f | .vfma f | .vfms f | .vfnma f
  | .vperm f | .vslup f | .vsldn f | .vbcast f | .vrshp f => flVec f.d 1 f.m
  | .vabs f | .vclz f | .vpopc f | .vmov f | .vfsqrt f | .vfrsqrt f | .vfexp2 f | .vflog2 f | .vfabs f | .vfneg f | .vfclass f
  | .vexpd f | .vcvtfi f | .vcvtfn f | .vcvtif f | .vcvtnf f | .vsplat f => flVec f.d 1 f.m
  | .vsel f => flWhole f.d 1 f.m
  | .vcomp f => flWhole f.d 1 f.m
  | .vsortk f => flWhole f.d 2 f.m
  | .vmovStream f => flVec f.d 1 f.m
  | .vwmac f | .vwmacn f | .vwmacsn f | .vwmul f | .vwmuln f | .vwadd f | .vwaddn f => flVec f.d 2 f.m
  | .vceq f | .vcne f | .vclt f | .vcle f | .vcltn f | .vclen f | .vfceq f | .vfclt f | .vfcle f | .vfcun f => flPred f.d [f.m.toNat]
  | .vceqi f => flPred f.d [f.m.toNat]
  | .pand f | .por f | .pxor f | .pandn f => flPred f.d [f.a.toNat, f.b.toNat, f.m.toNat]
  | .pnot f => flPred f.d [f.a.toNat, f.m.toNat]
  | .pset f => flPred f.d [f.m.toNat]
  | .ppopc f | .pfirst f | .pmvx f | .vpopq f => flRead [f.a.toNat, f.m.toNat]
  | .vredadd f | .vredmin f | .vredmax f | .vredminn f | .vredmaxn f | .vredand f | .vredor f
  | .vfredadd f | .vfredmin f | .vfredmax f => flRead [f.m.toNat]
  | .vcvtff f => flVec f.d (if f.b = 0 then 1 else 2) f.m
  | .vquant f => flWhole f.d 1 f.m
  | .vdequant f => flVec f.d 1 f.m
  | .vins f => flVec f.d 1 f.m
  | .vext f => flRead [f.m.toNat]
  | .viota f => flWhole f.d 1 f.m
  | .vord f => flVec f.d 1 f.m
  | .vaddi f | .vandi f | .vori f | .vxori f | .vmini f | .vmaxi f => flVec f.d 1 f.m
  | .vslli f | .vsrli f | .vsrai f => flVec f.d 1 f.m
  | .vld f | .vldsq f => flRead [f.m.toNat]
  | .vlds f | .vldx f | .vgl f | .vldw f => flRead [f.m.toNat]
  | .vldb f => flRead [f.m.toNat]
  | .vst f | .vstsq f => flStore 1 f.m
  | .vsts f | .vstx f | .vstw f => flStore 1 f.m
  | .vstb f => flStore 1 f.m
  | .vsc f => { flStore 2 f.m with pout := some f.p.toNat }
  | .supdMom f | .supdRes f => flSlot f.d.toNat f.m
  | .supdTopk f | .supdQh f | .supdVacc f | .supdVaccm f | .supdCms f => flSlot f.d.toNat f.m
  | .qdeal f | .qdealf f => flRead [f.m.toNat]
  | _ => flRead []

/-- Can the instruction raise a flag of FSTAT (R84, R205)? Float arithmetic, saturation, conversions, vector loads that convert a view,
stream elements, stores that encode a view's blocks, updates and queries. -/
def canFlag : Instr → Bool
  | .vsadd _ | .vsaddn _ | .vssub _ | .vssubn _ | .vwmacsn _ | .vmovStream _ | .vld _ | .vlds _ | .vldx _ | .vldw _
  | .vst _ | .vsts _ | .vstx _ | .vstw _
  | .vfadd _ | .vfsub _ | .vfmul _ | .vfdiv _ | .vfmin _ | .vfmax _ | .vfsgn _ | .vfma _ | .vfms _ | .vfnma _
  | .vfsqrt _ | .vfrsqrt _ | .vfexp2 _ | .vflog2 _ | .vfabs _ | .vfneg _ | .vfclass _
  | .vfceq _ | .vfclt _ | .vfcle _ | .vfcun _ | .vfredadd _ | .vfredmin _ | .vfredmax _
  | .vcvtfi _ | .vcvtfn _ | .vcvtif _ | .vcvtnf _ | .vcvtff _ | .vquant _ | .vdequant _
  | .supdMom _ | .supdRes _ | .supdTopk _ | .supdQh _ | .supdVacc _ | .supdVaccm _ | .supdCms _
  | .sqCms _ | .sqVacc _ | .qdeal _ | .qdealf _ => true
  | _ => false

/-- Do two groups share a register? -/
def shares (g : Nat) (a b : Fld5 × Nat) : Bool :=
  decide (a.1.toNat < b.1.toNat + b.2 * g ∧ b.1.toNat < a.1.toNat + a.2 * g)

/-- The first broken check of a shape (R164's order: function, field, alignment, overlap). -/
def VShape.fault (v : VShape) (h : Hand) : Option Cause :=
  let g := h.grpN
  if !v.sews.contains h.csr.sew.toNat then some .illegalOpcode
  else if v.preds && decide (1024 < h.csr.vl) then some .reservedField
  else if v.groups.any (fun r => r.1.toNat % (r.2 * g) != 0) then some .groupAlign
  else match v.apart with
    | none => none
    | some d =>
      if (v.groups.drop 1).any (fun r => shares g d r) ||
          v.lone.any (fun r => decide (d.1.toNat ≤ r.toNat ∧ r.toNat < d.1.toNat + d.2 * g)) then some .groupOverlap
      else none

/-- The encoding fault that the state decides, for the instruction as it stands (R164). -/
def encFault (i : Instr) (h : Hand) : Option Cause := (vshape i).bind (fun v => v.fault h)

/-- An encoding fault's trap: TVAL holds the word. -/
def encTrap (c : Cause) (i : Instr) : Trap := Trap.mk' c ((encodeWord i).setWidth 64)

/-- A trap whose TVAL is a SYS word (R173). -/
def sysTrap (c : Cause) (fn d a b : Fld5) (g : BitVec 3) : Trap :=
  Trap.mk' c ((joinWord ⟨0, 55, d, a, b, fn, 0, 0, g⟩).setWidth 64)

/-! ## Vector sources -/

/-- A vector source group of `n` registers: an empty one raises EMPTY-READ when its trap bit is set; otherwise its
consumers chain (R237). Data that no longer decode are consumed here (R74). -/
def State.vsrc (s : State) (field : Nat) (r : Fld5) (n : Nat) (trap : Bit) : Run Unit := do
  s.sound 5 0
  if trap = 1 ∧ s.hand.vEmpty r.toNat n then s.trap (Trap.mk' .emptyRead (BitVec.ofNat 64 (32 * field + r.toNat)))
  else .ok ()

/-- A vector register whose contents an engine or scalar instruction takes at once: it waits until the register is
full (R262), or raises EMPTY-READ. -/
def State.vneed (s : State) (field : Nat) (r : Fld5) (trap : Bit) : Run Unit := do
  s.sound 5 0
  if s.hand.vEmpty r.toNat 1 then
    if trap = 1 then s.trap (Trap.mk' .emptyRead (BitVec.ofNat 64 (32 * field + r.toNat))) else s.wait .register
  else .ok ()

/-- Element e of the group at r, SEW bits (R236). -/
def Hand.elem (h : Hand) (r : Fld5) (e : Nat) : Nat := h.getVN r.toNat (e * h.sewBytes) h.sewBytes
/-- Writing element e of the group at r, modulo 2^SEW. -/
def Hand.setElem (h : Hand) (r : Fld5) (e v : Nat) : Hand := h.setVN r.toNat (e * h.sewBytes) h.sewBytes v
/-- A 32-bit word of a register. -/
def Hand.vword (h : Hand) (r : Fld5) (k : Nat) : Word := BitVec.ofNat 32 (h.getVN r.toNat (4 * k) 4)

/-- The elements below VL. -/
def Hand.elems (h : Hand) : List Nat := List.range h.csr.vl
/-- The active elements, ascending. -/
def Hand.actives (h : Hand) (m : BitVec 3) : List Nat := h.elems.filter (h.activeAt m)

/-- A signed element. -/
def Hand.sel (h : Hand) (v : Nat) : Int := toSigned h.sewBits v
/-- An element from an integer, modulo 2^SEW. -/
def Hand.wrap (h : Hand) (v : Int) : Nat := (v % (2 ^ h.sewBits : Nat)).toNat

/-- The float format of SEW and FH (R198). -/
def Hand.fmt (h : Hand) : Fmt := if h.csr.sew = 2 then f32 else if h.csr.fh then f16 else bf16
/-- The 16-bit format of FH. -/
def Hand.fmt16 (h : Hand) : Fmt := if h.csr.fh then f16 else bf16
/-- The rounding mode captured. -/
def Hand.mode (h : Hand) : Nat := h.csr.fpcr.toNat
/-- An element as a float value, flushed under FZ (R200). -/
def Hand.fval (h : Hand) (b : Nat) : FVal := h.fmt.input h.csr.fz b

/-- A float element as F32 bits, converted exactly (R203, R294). -/
def Hand.asF32 (h : Hand) (b : Nat) : Nat := if h.csr.sew = 2 then b else (f32.roundV 0 false (h.fmt16.value b)).1

/-! ## The shape record (R262) -/

/-- The words of the record, as many as asked for. -/
def Hand.shape (h : Hand) (r : Fld5) (n : Nat) : List Word := (List.range n).map (h.vword r)

/-- A word of a record. -/
def wordAt (l : List Word) (k : Nat) : Nat := (l.getD k 0).toNat
/-- The record's volume. -/
def recVol (l : List Word) : Nat := wordAt l 2 * wordAt l 3 * wordAt l 4
/-- The record's base plus a register operand. -/
def recBase (l : List Word) (x : Reg64) : Reg64 := BitVec.ofNat 64 (wordAt l 1 * 2 ^ 32 + wordAt l 0) + x
/-- Position e of a sweep as (i, j, k) (R224). -/
def recIjk (l : List Word) (e : Nat) : Nat × Nat × Nat :=
  let d0 := wordAt l 2
  let d1 := wordAt l 3
  (e % d0, e / d0 % d1, e / (d0 * d1))
/-- The address of position e of a sweep (R224). -/
def recAddr (l : List Word) (base : Reg64) (e : Nat) : Reg64 :=
  let (i, j, k) := recIjk l e
  base + BitVec.ofInt 64 ((i : Int) * (l.getD 5 0).toInt + (j : Int) * (l.getD 6 0).toInt + (k : Int) * (l.getD 7 0).toInt)
/-- A trap that reports a sweep position. -/
def Trap.atIjk (t : Trap) (l : List Word) (e : Nat) : Trap :=
  let (i, j, k) := recIjk l e
  { t with tidx0 := BitVec.ofNat 64 i, tidx1 := BitVec.ofNat 64 j, tidx2 := BitVec.ofNat 64 k }

/-! ## Beats (R260, R348) -/

/-- The vector pipes of Table 8.4. -/
inductive Pipe where
  | arith | perm | mem | summ
  deriving DecidableEq, Repr

/-- Element groups of the strip: 1,024 bytes of each operand. -/
def Hand.groups (h : Hand) : Nat := (h.csr.vl * h.sewBytes + 1023) / 1024

/-- ceil(log2 n). -/
def ceilLog2 (n : Nat) : Nat := if n ≤ 1 then 0 else (n - 1).log2 + 1

/-- Counting beats in the strip record and the deficit, over all pipes (R348, R388); a MEM beat for each element group (log 14). -/
def State.charge (s : State) (p : Pipe) (beats : Nat) : State :=
  let r := s.hand.strip.record
  let r := match p with
    | .arith => { r with abusy := r.abusy + beats }
    | .mem => { r with mbusy := r.mbusy + beats }
    | _ => r
  { s with hand := { s.hand with
      strip := { s.hand.strip with record := r }
      sched := { s.hand.sched with deficit := s.hand.sched.deficit - 256 * beats } } }

/-- The cluster of an element's lane (R260). -/
def Hand.cluster (h : Hand) (e : Nat) : Nat := e * h.sewBytes % 1024 / 4 / 16

/-- Beats of a permute that moves source elements to destinations (Table 12.12): per destination group, one, the
largest ring distance, and one for each further source group. -/
def Hand.permBeats (h : Hand) (moves : List (Nat × Nat)) : Nat :=
  let per := 1024 / h.sewBytes
  foldUp h.groups (fun acc g =>
    let mv := moves.filter (fun sd => sd.2 / per == g)
    let dist := mv.foldl (fun d sd => Nat.max d ((h.cluster sd.2 + 16 - h.cluster sd.1) % 16)) 0
    acc + 1 + dist + ((distinct (mv.map (fun sd => sd.1 / per))).length - 1)) 0

end Sys2Proof.Machine
end

