-- ==== Sys2Proof/Machine/Strip.lean ====
section
/-! DEFINITION. Strips: openings (R145, R146), strip records (R388, R389), the points at which a held request lands
(Table 7.10), and what the shifted check does (R261, R381). -/

namespace Sys2Proof.Machine

/-! ## Cycles and strip records -/

/-- The hand's CYC moves on by an open number of cycles (R352, log 3). -/
def State.tick (s : State) : State :=
  { s with
    freeCtr := s.freeCtr + 1
    hand := { s.hand with csr := { s.hand.csr with cyc := s.hand.csr.cyc + Config.freeCycles s.freeCtr } } }

/-- SRECCTL's fields (Table 8.10). -/
def srecEn (r : Reg64) : Bool := r.getLsbD 0
/-- WRAP. -/
def srecWrap (r : Reg64) : Bool := r.getLsbD 1
/-- LOG2N. -/
def srecLog (r : Reg64) : Nat := r.toNat / 256 % 256
/-- NEXT. -/
def srecNext (r : Reg64) : Nat := r.toNat / 2 ^ 32

/-- FLAGS of a strip record (Table 22.2). A record with stalled cycles holds an open count of them (log 3). -/
def recordFlags (c : RecordCount) (stall : Nat) (pre prot : Bool) : Nat :=
  stall * 65536 + c.active * 256 + (if pre then 32 else 0) + Nat.min c.rewinds 15 * 2 + (if prot then 1 else 0)

/-- The bytes of a strip record (Table 22.1). -/
def recordBytesOf (h : Hand) (stall : Nat) (pre : Bool) : List Byte :=
  let c := h.strip.record
  let top := 2 ^ 32 - 1
  leBytes 8 c.addr.toNat ++ leBytes 4 h.csr.stripno.toNat ++ leBytes 4 h.csr.vl ++
  leBytes 4 (Nat.min (h.csr.cyc - c.cyc0).toNat top) ++ leBytes 4 (Nat.min c.abusy top) ++ leBytes 4 (Nat.min c.mbusy top) ++
  leBytes 4 (recordFlags c stall pre h.strip.prot)

/-- A record's write that faults clears EN and is reported; the hand goes on (R389). -/
def State.recordFault (s : State) (t : Trap) : State :=
  let h := s.hand
  let s := { s with hand := { h with csr := { h.csr with srecctl := h.csr.srecctl &&& ~~~(1 : Reg64) } } }
  s.post (fun n => ⟨{ t with access := 11 }, 1, h.id, h.asid, n, h.taskid, h.pc, h.csr.stripno⟩) false

/-- Closing the strip record (R388, R389): published as it is written; nothing while records are off or no strip was
opened. -/
def State.closeRecord (s : State) (pre : Bool) : Run State :=
  let c := s.hand.csr.srecctl
  if !srecEn c || s.hand.csr.stripno == 0 then .ok s
  else if !srecWrap c && srecNext c == 2 ^ srecLog c then
    .ok { s with hand := { s.hand with csr := { s.hand.csr with srecctl := c ||| 4 } } }
  else
    let s := s.tick
    let (s, stall) : State × Nat := if !s.hand.strip.record.stall then (s, 0)
      else ({ s with freeCtr := s.freeCtr + 1 }, Nat.min (Config.freeCycles s.freeCtr).toNat 65535)
    let va := s.hand.csr.srecbase.toNat + 32 * (srecNext c % 2 ^ srecLog c)
    match s.look s.me (.record true) va with
    | .error .later => s.wait .order
    | .error (.trap t) => .ok (s.recordFault t)
    | .ok (s, .plain k sc, leaf) =>
      let l := recordBytesOf s.hand stall pre
      let s := (s.reached leaf (.record true) (.plain k sc)).putPubAll (atAddr k l)
      let s := s.modTask s.hand.task (fun t => { t with records := t.records ++ [(s.hand.member, k, l)] })
      let next : Reg64 := BitVec.ofNat 64 ((srecNext c + 1) % 2 ^ 32 * 2 ^ 32 + c.toNat % 2 ^ 32)
      .ok { s with hand := { s.hand with csr := { s.hand.csr with srecctl := next } } }
    | .ok (s, _, _) => .ok (s.recordFault (xfault .formatAlign 0 255 (.record true) va))

/-! ## Openings -/

/-- Marked clusters give way to the spare at an opening (R381). -/
def State.takeSpare (s : State) : State :=
  s.modCore s.hand.core (fun c => match c.retiring with
    | [] => c
    | k :: _ => { c with spv := true, spared := k, retiring := [] })

/-- A strip that has just been opened (R145 to R147): protected, nothing buffered but held stores, no retry. The
checkpoint's PC is that of the instruction that follows, an iteration end included. `choices` names this execution of it (R82). -/
def Hand.freshStrip (h : Hand) (addr : Reg64) (choices : Nat) : Hand :=
  { h with
    strip := ⟨true, some (h.checkpoint h.pc), [], [], [], 0, h.strip.ssb.filter (·.held), 0,
      ⟨addr, h.csr.cyc, false, 0, 0, 0, h.csr.active⟩, choices, 0,
      ⟨h.ord.fences, h.ord.links, h.ord.prec, h.ord.sawTiles⟩⟩
    sched := { h.sched with watches := h.sched.watches.map (fun kw => (kw.1, { kw.2 with hit := none })), skipStop := false } }

/-- Does a matrix job or a copy of a hand wait to start because its field is throttled (Table 17.5)? The strip record counts the
wait as stall (R349). -/
def State.throttled (s : State) (h : Hand) : Bool :=
  (s.field (fieldOfCore h.core)).throttle &&
    (h.jobs.any (fun j => !j.started) || s.copies.any (fun c => c.hand == h.id && c.pos == 0 && c.status.isNone))

/-- Opening a strip (R145) by the one-word instruction at the PC: the record closes and the old strip commits (R150);
`set` gives the new values; STRIPNO advances, the strip-local registers clear, ACTIVE is taken up (R349), the
instruction completes, and the checkpoint holds all of it. The wait of a serial that wraps here (R105) is counted in the record of the
strip that opens: the spec does not say in which, and this is the model's choice (log 101). -/
def State.openStrip (s : State) (set : Hand → Hand) : Run State := do
  let addr := s.hand.pc
  let s ← s.closeRecord false
  let s ← s.commits
  let s := s.takeSpare.dropGrant
  let active := (s.field (fieldOfCore s.hand.core)).active
  let h := set s.hand.clearStripLocal
  let s := ({ s with hand := { h with csr := { h.csr with stripno := h.csr.stripno + 1, active := active } } }).retire 4
  pure (({ s with freeCtr := s.freeCtr + 1, hand := (s.hand.freshStrip addr s.freeCtr).stalled (s.throttled s.hand) }).advanceSerial)

/-- The wait of R146: every scalar register is full. -/
def State.scalarsFull (s : State) (w : Wait) : Run Unit :=
  if s.hand.producers.any (fun p => match p.dest with
      | .scalar _ => true
      | _ => false) then s.wait w
  else .ok ()

/-! ## Points (Table 7.10, R150, R367, R390, R392) -/

/-- Does a strip breakpoint name the opening at this address and number (R390)? -/
def Hand.breaksAt (h : Hand) (addr : Reg64) : Bool :=
  h.sched.breaks.any (fun kb => kb.2.addr == addr && (kb.2.strip.isNone || kb.2.strip == some (h.csr.stripno + 1)))

/-- A watchpoint of the strip has matched (R390). -/
def Hand.watched (h : Hand) : Bool := h.sched.watches.any (fun kw => kw.2.hit.isSome)

/-- A wanted stop that a restart has not passed. -/
def Hand.stops (h : Hand) : Bool := h.sched.stopWanted && !h.sched.skipStop

/-- Would the landing of a request at a wait rewind a strip (Table 7.10's fourth row)? -/
def Hand.wouldRewind (h : Hand) (w : Wait) : Bool := decide (w = .point ∨ w = .tileGate) && h.strip.prot

/-- At a point of Table 7.10: a gang abort is taken, a held pre-emption or a stop holds the hand there. A request that has landed already
never rewinds a second time (Table 7.11). -/
def State.atPoint (s : State) (w : Wait) : Run Unit :=
  match s.hand.sched.gangAbort with
  | some ix =>
    let h := s.hand
    ({ s with hand := { h with sched := { h.sched with gangAbort := none } } }).trap (Trap.mk' .gangAbort (BitVec.ofNat 64 ix))
  | none => if s.hand.sched.preempt && !(s.hand.wouldRewind w && s.hand.sched.landed.isSome) then s.wait w
    else if s.hand.stops then s.wait .stop else .ok ()

/-- Before an opening: a point, and the place of strip breakpoints and of watchpoint stops (R390). -/
def State.atOpening (s : State) : Run Unit := do
  s.atPoint .opening
  if !s.hand.sched.skipStop && (s.hand.breaksAt s.hand.pc || s.hand.watched) then s.wait .stop else .ok ()

/-- A backward transfer or an iteration end as a point: only before the first strip or in a protected one. -/
def State.backPoint (s : State) : State :=
  if s.hand.csr.stripno = 0 ∨ s.hand.strip.prot then
    match s.atPoint .point with
    | .ok _ => s
    | .error (.trap t s) => s.trapped t
    | .error (.wait w s) => { s with hand := { s.hand with status := .waiting w } }
    | .error (.rewound s) => s
  else s

/-- After an instruction that ends at a point of the second or third row. -/
def State.afterPoint (s : State) : Run State := do
  s.atPoint .after
  pure s

/-- v0 to v31 and p1 to p31 clear at the points of the third row. -/
def State.clearAtPoint (s : State) : State := { s with hand := s.hand.clearStripLocal }

/-! ## The shifted check (R261) -/

/-- Counting a mismatch of lane `e` against the clusters of both runs' lanes (R381). -/
def State.clusterMiss (s : State) (lane : Nat) : State :=
  s.modCore s.hand.core (fun c =>
    { c with clusters := (distinct [lane % 256 / 16, (lane + 1) % 256 / 16]).foldl (fun m k => mput 0 m k (mget 0 m k + 1)) c.clusters })

/-- The check of an ARITH or PERM instruction before its results are written. The environment says when the runs
disagree (log 16); a rewound strip executes again (R362). R261 names no structure for the UNCORRECTABLE of three differing runs: it has
STRUCT 5, the vector registers, UNIT 0 and TVAL 0, and so counts as an uncorrectable stripe of the core (the model's choice, log 121). -/
def State.shiftedCheck (s : State) : Run State :=
  match s.hand.sched.mismatches with
  | [] => .ok s
  | (lane, majority) :: rest =>
    let s := { s with hand := { s.hand with sched := { s.hand.sched with mismatches := rest } } }
    let s := s.clusterMiss lane
    if s.hand.strip.prot then
      let n := s.hand.strip.retries + 1
      let s := { s with hand := { s.hand with csr := { s.hand.csr with mismatch := Nat.min 0xFFFF (s.hand.csr.mismatch + 1) } } }
      if 4 ≤ n then s.trap (Trap.mk' .stripRetryExhausted ((s.hand.strip.ckpt.map (·.pc)).getD s.hand.pc))
      else .error (.rewound (s.rewind.retry n))
    else if majority then .ok s
    else s.trap { Trap.mk' .uncorrectable 0 with struct := 5 }

end Sys2Proof.Machine
end

