-- ==== Sys2Proof/Machine/Control.lean ====
section
/-! DEFINITION. Branches and jumps (R187 to R189), the loop stack (R190 to R193), vsetl, vsetlq and vloop (R195 to
R197). -/

namespace Sys2Proof.Machine

/-! ## Branches -/

/-- A BR format's target. -/
def target12 (pc : Reg64) (off : BitVec 12) : Reg64 := pc + (off.signExtend 64 <<< 2)
/-- A J format's target. -/
def target22 (pc : Reg64) (off : BitVec 22) : Reg64 := pc + (off.signExtend 64 <<< 2)

/-- A conditional branch (R187): empty sources are waited for; not taken, it completes at its address. -/
def branch (cond : Reg64 → Reg64 → Bool) (f : BrF) (s : State) : Host.Outcome State Fault Refusal :=
  finish (do
    let a ← s.need f.a
    let b ← s.need f.b
    pure (if cond a b then s.jumpTo (target12 s.hand.pc f.off) else s.retire 4))

/-- beq (R187). -/
def execBeq (f : BrF) (s : State) : Host.Outcome State Fault Refusal := branch (fun a b => a == b) f s

/-- bne (R187). -/
def execBne (f : BrF) (s : State) : Host.Outcome State Fault Refusal := branch (fun a b => a != b) f s

/-- blt (R187). -/
def execBlt (f : BrF) (s : State) : Host.Outcome State Fault Refusal := branch (fun a b => a.slt b) f s

/-- bge (R187). -/
def execBge (f : BrF) (s : State) : Host.Outcome State Fault Refusal := branch (fun a b => !a.slt b) f s

/-- bltn (R187). -/
def execBltn (f : BrF) (s : State) : Host.Outcome State Fault Refusal := branch (fun a b => a.ult b) f s

/-- bgen (R187). -/
def execBgen (f : BrF) (s : State) : Host.Outcome State Fault Refusal := branch (fun a b => !a.ult b) f s

/-! ## Jumps (R188) -/

/-- jmp. -/
def execJmp (f : JmpF) (s : State) : Host.Outcome State Fault Refusal :=
  guarded s f.g (fun s => pure (s.jumpTo (target22 s.hand.pc f.off)))

/-- jal: x31 := the return address. -/
def execJal (f : JmpF) (s : State) : Host.Outcome State Fault Refusal :=
  guarded s f.g (fun s => do
    s.dest 31
    pure ((s.setX 31 (s.hand.pc + 4)).jumpTo (target22 s.hand.pc f.off)))

/-- jalr: a misaligned target is raised before anything is written. -/
def execJalr (f : ImmG) (s : State) : Host.Outcome State Fault Refusal :=
  guarded s f.g (fun s => do
    let a ← s.src 0 f.a f.ta
    let t := a + f.imm.signExtend 64
    if t.toNat % 4 ≠ 0 then s.trap (Trap.mk' .misaligned t)
    else do
      s.dest f.d
      pure ((s.setX f.d (s.hand.pc + 4)).jumpTo t))

/-! ## The loop stack -/

/-- loop (R190): with a count of zero the body is skipped, a transfer of control (log 17). -/
def execLoop (f : LoopF) (s : State) : Host.Outcome State Fault Refusal :=
  finish (do
    if 6 ≤ s.hand.loops.length then s.trap (encTrap .illegalOpcode (.loop f))
    else do
      let n ← s.need f.a
      let a := s.hand.pc
      let stop := target12 a f.off
      if n = 0 then pure (s.jumpTo (stop + 4))
      else
        let s := { s with hand := { s.hand with loops := ⟨a + 4, stop, n, 0⟩ :: s.hand.loops } }
        pure (s.jumpTo (a + 4)))

/-- lbrk (R192). A SYS instruction is a commit point, which takes effect before it acts (R173). -/
def execLbrk (f : GF) (s : State) : Host.Outcome State Fault Refusal :=
  guarded s f.g (fun s => do
    let s ← s.commits
    match s.hand.loops with
    | [] => s.trap (sysTrap .illegalOpcode 8 0 0 0 f.g)
    | _ :: l => pure (({ s with hand := { s.hand with loops := l } }).retire 4))

/-! ## Strips -/

/-- capbytes (Table 7.6). -/
def capbytes (vprof : Nat) : Nat := 256 * 2 ^ vprof

/-- CAP (R142) for a profile and the codes of SEW and GRP. -/
def capOf (vprof : Nat) (sew grp : BitVec 2) : Nat := capbytes vprof * 2 ^ grp.toNat / 2 ^ sew.toNat

/-- The grant (R142). -/
def grantOf (vprof : Nat) (sew grp : BitVec 2) (remaining : Nat) : Nat := Nat.min remaining (capOf vprof sew grp)

/-- The new values of vsetl and vsetlq (R195, R149). -/
def Hand.granted (h : Hand) (f : VSetF) (grant : Nat) : Hand :=
  ({ h with csr := { h.csr with
      vl := grant, sew := f.sew, grp := f.grp, fz := f.fz == 1, fh := f.fh == 1
      orun := h.csr.onext, onext := h.csr.onext + BitVec.ofNat 64 grant } }).setX f.d (BitVec.ofNat 64 grant)

/-- vsetl (R195). -/
def execVsetl (f : VSetF) (s : State) : Host.Outcome State Fault Refusal :=
  finish (do
    s.atOpening
    s.scalarsFull .opening
    let rem ← s.need f.a
    s.openStrip (fun h => h.granted f (grantOf h.csr.vprof f.sew f.grp rem.toNat)))

/-- vsetlq (R195): the wait on an empty queue is no pre-emption point (R144). -/
def execVsetlq (f : VSetF) (s : State) : Host.Outcome State Fault Refusal :=
  finish (do
    if s.hand.status = .waiting .room then pure () else s.atOpening
    s.scalarsFull .opening
    let q := f.a.toNat
    match s.hand.lq.toArray.getD q [] with
    | [] => s.wait .room
    | rem :: rest =>
      s.openStrip (fun h =>
        ({ h with lq := h.lq.setIfInBounds q rest }).granted f (grantOf h.csr.vprof f.sew f.grp rem.toNat)))

/-- vloop (R197): taken, it is a branch; it falls through into a continuation strip, after which a request lands;
while it waits for full scalars none does (Table 7.10). -/
def execVloop (f : BrF) (s : State) : Host.Outcome State Fault Refusal :=
  finish (do
    let r ← s.need f.a
    let g ← s.need f.b
    let left : Reg64 := if f.a = 0 ∨ r.toNat ≤ g.toNat then 0 else r - g
    if s.hand.csr.vl ≠ 0 ∧ left ≠ 0 then
      pure ((s.setX f.a left).jumpTo (target12 s.hand.pc f.off))
    else do
      if !s.hand.sched.skipStop && (s.hand.breaksAt s.hand.pc || s.hand.watched) then s.wait .stop
      s.scalarsFull .register
      let s ← s.openStrip (fun h => h.setX f.a left)
      s.afterPoint)

end Sys2Proof.Machine
end

