-- ==== Sys2Proof/Machine/MemOps.lean ====
section
/-! DEFINITION. What the scalar and vector memory instructions share (R216 to R223): alignment, vector loads and stores
over a list of element addresses, blocks of a view, tile gating and tile sizes (R67, R69). -/

namespace Sys2Proof.Machine

/-! ## Scalar accesses -/

/-- MISALIGNED unless the address is a multiple of the width (R216), for an access of a kind. -/
def State.aligned (s : State) (acc : Access) (a : Reg64) (w : Nat) : Run Unit :=
  if a.toNat % w = 0 then .ok () else s.trap { Trap.mk' .misaligned a with access := acc.code }

/-! ## Tiles -/

/-- Element bytes of EFMT 0 to 6. -/
def efmtBytes (e : Nat) : Nat :=
  match e with
  | 0 => 1
  | 1 => 2
  | 2 => 4
  | 3 => 8
  | 4 => 4
  | _ => 2

/-- Bytes of a tile's row (R67): ROWS and COLS of an entry are held less one. -/
def Tile.rowBytes (t : Tile) : Nat :=
  let cols := t.cols + 1
  let w := t.efmt - 5
  let raw :=
    if t.plane then w * (cols / 8) + cols / 32 * 4
    else if t.efmt ≤ 6 then cols * efmtBytes t.efmt
    else cols / 32 * (4 + 4 * w)
  (raw + 63) / 64 * 64

/-- A tile's size in bytes (R67). -/
def Tile.size (t : Tile) : Nat := (t.rows + 1) * t.rowBytes

/-- The bench key of byte `o` of a tile of a core. -/
def Tile.key (t : Tile) (core o : Nat) : Nat := Config.benchKey core (64 * t.base + o)

/-- Waiting for a tile's state (R69): a point of Table 7.10's fourth row, at which the hand gives the vector unit up (R346). -/
def State.tileWait {α : Type} (s : State) : Run α :=
  let s := s.dropGrant
  if s.hand.csr.stripno = 0 ∨ s.hand.strip.prot then do
    s.atPoint .tileGate
    s.wait .tileGate
  else s.wait .tileGate

/-! ## Vector loads -/

/-- An element access: its number, its address, how its trap names it. -/
structure Elem where
  e : Nat
  va : Reg64
  tag : Trap → Trap

/-- Elements named by their number (R216). -/
def Elem.at' (e : Nat) (va : Reg64) : Elem := ⟨e, va, fun t => t.at' e⟩

/-- A trap gets its element's indices. -/
def tagged {α : Type} (x : Elem) (r : Run α) : Run α :=
  match r with
  | .error (.trap t s) => .error (.trap (x.tag t) s)
  | r => r

/-- Does any element reach an SC page (R46)? -/
def State.anySc (s : State) (a : Access) (l : List Elem) : Bool :=
  l.any (fun x => match s.look s.me a x.va.toNat with
    | .ok (_, t, _) => t.isSc
    | .error _ => false)

/-- A view element at SEW 16, converted as vcvtff does (Table 2.8): the bits and the flags. -/
def Hand.narrowView (h : Hand) (b : Nat) : Nat × Nat := h.fmt16.roundV h.mode h.csr.fz (f32.input h.csr.fz b)

/-- One element of a vector load (R216, R220, R227): the value and the flags it raises. A refused element marks no leaf (R38). -/
def State.loadElem (s0 : State) (x : Elem) : Run (State × Nat × Nat) := do
  let w := s0.hand.sewBytes
  s0.aligned .load x.va w
  let (s, t, leaf) ← s0.xlook .load x.va
  let got (n : Nat) : Run (State × Nat) :=
    s.performing leaf .load t (fun s => (s.watch x.va.toNat w false x.e).readTarget .load 1 t x.va n)
  match t with
  | .view _ _ _ _ =>
    if w = 4 then do
      let (s, v) ← got 4
      pure (s, v, 0)
    else if w = 2 ∧ x.va.toNat % 4 = 0 then do
      let (s, v) ← got 4
      let (r, fl) := s.hand.narrowView v
      pure (s, r, fl)
    else s0.trap { Trap.mk' .formatAlign x.va with access := 0 }
  | _ => do
    let (s, v) ← got w
    pure (s, v, 0)

/-- The elements of a vector load in order: values by element, and flags; the first fault ends it. -/
def State.loadElems (s : State) (l : List Elem) : Run (State × List (Nat × Nat) × List (Nat × Nat)) :=
  l.foldlM (fun (acc : State × List (Nat × Nat) × List (Nat × Nat)) x => do
    let (s, v, fl) ← tagged x (acc.1.loadElem x)
    pure (s, acc.2.1 ++ [(x.e, v)], if fl = 0 then acc.2.2 else acc.2.2 ++ [(x.e, fl)])) (s, [], [])

/-- Writing elements of the group at r. -/
def Hand.setElems (h : Hand) (r : Fld5) (l : List (Nat × Nat)) : Hand := l.foldl (fun h ev => h.setElem r ev.1 ev.2) h

/-- MEM beats of a vector memory instruction: one for each element group (log 14). -/
def State.memBeats (s : State) : State := s.charge .mem s.hand.groups

/-- A vector load (R217, R221): the elements' values, then `rest` (zeros beyond a sweep), and the group is empty until
the data land. -/
def State.vload (s : State) (d : Fld5) (l : List Elem) (rest : List Nat) : Run State := do
  let s ← if s.anySc .load l then s.orderPoint else pure s
  let (s, vals, fl) ← s.loadElems l
  let h := s.hand.setElems d (vals ++ rest.map (fun e => (e, 0)))
  let h := if vals.isEmpty then h else h.produce (.vector d.toNat h.grpN) (some 1)
  pure (({ s with hand := h }).raise fl).memBeats

/-! ## Vector stores -/

/-- What an element of a store reaches, before any is written: none where translation faults. -/
def State.peek (s : State) (x : Elem) : Option Target :=
  match s.look s.me .store x.va.toNat with
  | .ok (_, t, _) => some t
  | .error _ => none

/-- The block and the position in it that a store element of a view writes. -/
def viewPos : Target → Option (Nat × Nat × Nat × Nat)
  | .view b bw n off => some (b, bw, n, off / 4)
  | _ => none

/-- Is every view element of a block written exactly once by the active elements (R42)? -/
def covered (ps : List (Nat × Nat × Nat × Nat)) (b n : Nat) : Bool :=
  let mine := (ps.filter (fun p => p.1 == b)).map (fun p => p.2.2.2)
  mine.length == n && (List.range n).all mine.contains

/-- May a store write an element of a view (R42)? -/
def storeFits (w : Nat) (ps : List (Nat × Nat × Nat × Nat)) (x : Elem) (p : Nat × Nat × Nat × Nat) : Bool :=
  (w == 2 || w == 4) && x.va.toNat % 4 == 0 && covered ps p.1 p.2.2.1

/-- FORMAT-ALIGN of a store, which precedes the translation of any element (R53, R227): of the lowest element of a view that the store
may not write so, unless a lower one is misaligned (R216, log 80). -/
def State.storeChecks (s : State) (l : List Elem) : Run Unit :=
  let w := s.hand.sewBytes
  let ts := l.map s.peek
  let ps := ts.filterMap (fun t => t.bind viewPos)
  let wrong (xt : Elem × Option Target) : Bool := ((xt.2.bind viewPos).map (fun p => !storeFits w ps xt.1 p)).getD false
  match (l.zip ts).find? (fun xt => xt.1.va.toNat % w != 0 || wrong xt) with
  | some (x, _) => if x.va.toNat % w = 0 then tagged x (s.trap { Trap.mk' .formatAlign x.va with access := 1 }) else .ok ()
  | none => .ok ()

/-- An element of a store and where it goes. -/
structure StoreTo where
  x : Elem
  t : Target
  leaf : Option Leaf

/-- The virtual page by which a store's target was found: none for the bench. -/
def StoreTo.page (d : StoreTo) : Option Nat :=
  match d.t with
  | .plain k _ => if isBench k then none else some (d.x.va.toNat / 4096)
  | _ => some (d.x.va.toNat / 4096)

/-- Checking and translating every element of a store, in order: the first that faults is reported (R50, R53, R216). -/
def State.storeTargets (s : State) (l : List Elem) : Run (State × List StoreTo) :=
  l.foldlM (fun (acc : State × List StoreTo) x => do
    tagged x (acc.1.aligned .store x.va s.hand.sewBytes)
    let (s, t, leaf) ← tagged x (acc.1.xlook .store x.va)
    pure (s, acc.2 ++ [⟨x, t, leaf⟩])) (s, [])

/-- The elements that reach their bytes (R76): of those that write the same bytes of memory, the highest-numbered. On an SC page each
performs in its turn. -/
def survivors : List StoreTo → List StoreTo
  | [] => []
  | d :: l =>
    let hidden : Bool := match d.t with
      | .plain _ false => l.any (fun e => e.t == d.t)
      | _ => false
    if hidden then survivors l else d :: survivors l

/-- A store's element as the encoder of a view's block takes it (R209): F32, or its 16-bit format's value converted exactly, with the
flags of the conversion. -/
def Hand.toF32 (h : Hand) (b : Nat) : Nat × Nat := if h.csr.sew = 2 then (b, 0) else f32.roundV 0 false (h.fmt16.value b)

/-- One block of a view that a store covers: its value and the flags by element (R42, R205, R209). -/
def State.encodeOf (s : State) (d : Fld5) (mine : List (Nat × Nat)) (bw n : Nat) : Block × List (Nat × Nat) :=
  let elemAt (j : Nat) : Nat := ((mine.find? (fun p => p.1 == j)).map (·.2)).getD 0
  let conv := (List.range n).map (fun j => s.hand.toF32 (s.hand.elem d (elemAt j)))
  let (blk, fl) := encodeBlock bw s.hand.csr.fz (conv.map (·.1))
  let fl := (fl.zip conv).zipIdx.map (fun f => (elemAt f.2, Nat.lor f.1.1 f.1.2.2))
  (blk, fl.filter (fun f => f.2 != 0))

/-- Writing the blocks of a view that a store covers (R42, R209): each is encoded from the values stored; the flags of all of them are
raised together (R205). -/
def State.storeBlocks (s : State) (d : Fld5) (lane : StoreTo → List Nat) (xs : List StoreTo) : Run State := do
  let ps := xs.filterMap (fun x => (viewPos x.t).map (fun p => (p, x)))
  let blocks := distinct (ps.map (fun p => p.1.1))
  let (s, fl) ← blocks.foldlM (fun (acc : State × List (Nat × Nat)) b => do
    let mine := ps.filter (fun p => p.1.1 == b)
    match mine with
    | [] => pure acc
    | ((_, bw, n, _), x) :: _ =>
      let (blk, fl) := acc.1.encodeOf d (mine.map (fun p => (p.1.2.2.2, p.2.x.e))) bw n
      let s ← acc.1.storePlain 1 (mine.map (fun p => lane p.2)).flatten x.page b (blk.bytes bw)
      pure (s, acc.2 ++ fl)) (s, [])
  pure (s.raise fl)

/-- Writing the elements of a store that memory or an SC page takes. -/
def State.storeEach (s : State) (d : Fld5) (lane : StoreTo → List Nat) (xs : List StoreTo) : Run State :=
  let w := s.hand.sewBytes
  xs.foldlM (fun (s : State) (x : StoreTo) =>
    match x.t with
    | .plain k sc => s.writePlain 1 (lane x) x.page k sc (leBytes w (s.hand.elem d x.x.e))
    | _ => .ok s) s

/-- The lanes on which what an element writes counts in a scatter (R100): its own, and those of lower elements that it hides. -/
def Hand.scatterLanes (h : Hand) (scatter : Bool) (xs : List StoreTo) (x : StoreTo) : List Nat :=
  let lane (x : StoreTo) : Nat := x.x.e * h.sewBytes % 1024 / 4
  if !scatter then []
  else match x.t with
    | .plain _ false => (xs.filter (fun y => y.t == x.t)).map lane
    | _ => [lane x]

/-- A vector store (R221, R227): every check first, then the elements in order, the higher element surviving (R76). A fault, and a wait
for heel room or for an order point, leave nothing stored and no leaf marked (R38). -/
def State.vstore (s0 : State) (d : Fld5) (scatter : Bool) (l : List Elem) : Run State := do
  s0.storeChecks l
  let (s, xs) ← s0.undone (s0.storeTargets l)
  let s ← if xs.any (fun x => x.t.isSc) then s.orderPoint else pure s
  let lane := s.hand.scatterLanes scatter xs
  let kept := survivors xs
  s.undone (do
    let s := xs.foldl (fun (s : State) x => (s.reached x.leaf .store x.t).watch x.x.va.toNat s.hand.sewBytes true x.x.e) s
    let s ← s.storeEach d lane kept
    let s ← s.storeBlocks d lane kept
    pure s.memBeats)

end Sys2Proof.Machine
end

