-- ==== Sys2Proof/Machine/VecOps.lean ====
section
/-! DEFINITION. How every vector instruction runs: the encoding checks that the state decides (R164, R241), sources,
the shifted check of ARITH and PERM (R261), results, beats, the next word. -/

namespace Sys2Proof.Machine

/-- The encoding checks of an instruction of a shape, whose word is `w` (R164). -/
def State.encodes (s : State) (v : Option VShape) (w : Word) : Run Unit :=
  match v.bind (fun v => v.fault s.hand) with
  | some c => s.trap (Trap.mk' c (w.setWidth 64))
  | none => .ok ()

/-- The predicates that an instruction reads have been written (R239). -/
def State.predsReady (s : State) (fl : VFlow) : Run Unit :=
  if fl.preads.all s.hand.pReady then .ok () else s.wait .register

/-- What an instruction of a shape reads, as places where results go. -/
def VShape.reads (v : Option VShape) (fl : VFlow) (g : Nat) : List Dest :=
  ((v.map (·.groups)).getD []).map (fun r => .vector r.1.toNat (r.2 * g)) ++ fl.preads.map .pred

/-- What the instruction itself leaves outstanding beside what its effect does: its vector destination when an element is active, its
predicate destination, a store or an update whose data are still to come (R237, R239, Table 12.2). -/
def VFlow.fills (fl : VFlow) (h : Hand) (reads : List Dest) : List (Dest × Option Nat) :=
  let act := !(h.actives (BitVec.ofNat 3 (fl.preads.getLastD 0))).isEmpty
  let pending := h.producers.any (fun p => reads.any p.dest.meets)
  (match fl.out with
    | some d => if act then [(.vector d.1.toNat (d.2 * h.grpN), none)] else []
    | none => []) ++
  (match fl.pout with
    | some p => if h.csr.vl = 0 ∨ p = 0 then [] else [(.pred p, none)]
    | none => []) ++
  (match fl.store with
    | some c => if act && pending then [(.memory, some c)] else []
    | none => []) ++
  (match fl.slot with
    | some n => if act && pending then [(.slot n, none)] else []
    | none => [])

/-- The bytes of a vector destination as they stood (R366). -/
def Hand.groupBytes (h : Hand) (d : Dest) : SMap Byte :=
  match d with
  | .vector r n => h.v.filter (fun kb => decide (r * 4096 ≤ kb.1 ∧ kb.1 < (r + n) * 4096))
  | _ => []

/-- The producers of an instruction that the hand `h` issued, in order: each knows what the instruction reads, whether it can raise a
flag, and what its destination held. -/
def State.outstanding (s : State) (h : Hand) (v : Option VShape) (fl : VFlow) (flags : Bool) : State :=
  let reads := VShape.reads v fl h.grpN
  let made := s.hand.producers.drop h.producers.length ++
    (fl.fills h reads).map (fun d => (⟨d.1, d.2, none, [], false, []⟩ : Producer))
  let made := made.map (fun p => { p with srcs := reads ++ p.srcs, flags := flags, was := h.groupBytes p.dest })
  { s with hand := { s.hand with producers := h.producers ++ made } }

/-- A memory, summary or Dealer instruction of the convoy set: checks, then its effect. -/
def vrun (i : Instr) (s : State) (body : State → Run State) : Host.Outcome State Fault Refusal :=
  finish (do
    s.encodes (vshape i) (encodeWord i)
    s.predsReady (vflow i)
    let t ← body s
    pure ((t.outstanding s.hand (vshape i) (vflow i) (canFlag i)).retire 4))

/-- The state with the beats that another one, after an effect, has charged (R348). -/
def State.spent (s t : State) : State :=
  { s with hand := { s.hand with
      strip := { s.hand.strip with record := { s.hand.strip.record with
        abusy := t.hand.strip.record.abusy, mbusy := t.hand.strip.record.mbusy } }
      sched := { s.hand.sched with deficit := t.hand.sched.deficit } } }

/-- Does the shifted check end the next instruction that it checks: by a rewind, or, where three runs differ, by a trap (R261)? -/
def State.checked (s : State) : Bool :=
  match s.hand.sched.mismatches with
  | [] => false
  | (_, majority) :: _ => s.hand.strip.prot || !majority

/-- Before the shifted check ends an instruction so, the beats that its element groups have issued are charged (R348). -/
def State.charged (s : State) (eff : State → Run State) : State :=
  if !s.checked then s
  else match eff s with
    | .ok t => s.spent t
    | .error _ => s

/-- An ARITH or PERM instruction of a shape, flow and word: checks, sources, the shifted check where there is an element, its effect. -/
def vopOf (v : Option VShape) (fl : VFlow) (flags : Bool) (w : Word) (s : State) (srcs : State → Run Unit) (eff : State → Run State) :
    Host.Outcome State Fault Refusal :=
  finish (do
    s.encodes v w
    s.predsReady fl
    srcs s
    let s ← if s.hand.csr.vl = 0 then pure s else (s.charged eff).shiftedCheck
    let t ← eff s
    pure ((t.outstanding s.hand v fl flags).retire 4))

/-- An ARITH or PERM instruction. -/
def vop (i : Instr) (s : State) (srcs : State → Run Unit) (eff : State → Run State) : Host.Outcome State Fault Refusal :=
  vopOf (vshape i) (vflow i) (canFlag i) (encodeWord i) s srcs eff

/-- Putting the hand. -/
def State.put (s : State) (h : Hand) : State := { s with hand := h }

/-- A scalar result of the vector unit: x[D] is empty until it is ready (R237). -/
def State.result (s : State) (d : Fld5) (v : Reg64) : State :=
  let s := s.setX d v
  { s with hand := s.hand.produce (.scalar d.toNat) none }

/-- Writing a predicate whole (R239): positions of `l` are set, every other one is clear; with VL = 0 it is unchanged. -/
def Hand.putPred (h : Hand) (d : Fld5) (l : List Nat) : Hand :=
  if h.csr.vl = 0 then h
  else h.setP d.toNat (l.foldl (fun p e => p ||| BitVec.ofNat 1024 (2 ^ e)) 0)

/-- Element-wise results of the active elements: each element's value and flags (R237, R205). -/
def State.each (s : State) (d : Fld5) (es : List Nat) (f : Nat → Nat × Nat) : State :=
  let rs := es.map (fun e => (e, f e))
  let s := s.put (s.hand.setElems d (rs.map (fun r => (r.1, r.2.1))))
  s.raise ((rs.filter (fun r => r.2.2 != 0)).map (fun r => (r.1, r.2.2)))

/-- The sources of a two-source instruction. -/
def State.srcs2 (s : State) (f : VReg) : Run Unit := do
  s.vsrc 0 f.a s.hand.grpN f.ta
  s.vsrc 1 f.b s.hand.grpN f.tb
/-- The source of a one-source instruction. -/
def State.srcs1 (s : State) (f : VUn) : Run Unit := s.vsrc 0 f.a s.hand.grpN f.ta

end Sys2Proof.Machine
end

