-- ==== Sys2Proof/Machine/Stream.lean ====
section
/-! DEFINITION. Streams (R123, R262 to R270): lace, the chain, pops by vmov, STRM; and how an engine reads a hand's
memory (R71, R120). -/

namespace Sys2Proof.Machine

/-! ## Engine reads -/

/-- What an engine reads of a target for hand `h` at its class (R71, R120): the view that the hand's class has, without
what stands in its strip store buffer. SC pages and the command chain are read live. The heel and the chain may themselves no longer
decode (R74). -/
def State.engineTarget (s : State) (pick : State → Nat → Nat →
  State × Nat) (h : Hand) (a : Access) (cls : Nat) (t : Target) (va : Reg64) (w : Nat) :
    Except Trap (State × List Byte) :=
  let s := s.rebuilds t.key w
  match t with
  | .plain k sc =>
    match s.badKey k w with
    | some b => .error (s.badTrap b a.code)
    | none =>
      if isChain k then match s.badOf h.id 9 (placeOf k) with
        | some t => .error t
        | none => .ok (s.chainBytes k w)
      else if sc then .ok (s, s.mem.live.bytes k w)
      else match s.badOf h.id 8 (placeOf k) with
        | some t => .error t
        | none => .ok (s.engineBytes pick h cls k w)
  | .view b bw n off =>
    match ((s.badKey b (blockBytes bw n)).map (fun k => s.badTrap k a.code)).or (s.badOf h.id 8 (placeOf b)) with
    | some t => .error t
    | none =>
      let (s, l) := s.engineBytes pick h cls b (blockBytes bw n)
      match readBlock bw n l with
      | none => .error { Trap.mk' .blockCheck (BitVec.ofNat 64 b) with access := a.code }
      | some blk => .ok (s, ((((upFrom (off / 4) 2).map (fun j => leBytes 4 (blk.value bw j))).flatten).drop (off % 4)).take w)
  | .packed _ _ => .error (xfault .compressedAccess 0 7 a va.toNat)

/-! ## Shape records (R262, R263) -/

/-- The checks of R263 on a record's size code and e1: the offending value. -/
def recordFaulty (l : List Word) : Option Reg64 :=
  if 4 < wordAt l 8 then some (BitVec.ofNat 64 (wordAt l 8))
  else if 2 ^ 25 ≤ wordAt l 1 then some (BitVec.ofNat 64 (wordAt l 1))
  else none

/-! ## The chain word (R265) -/

/-- A stage: its operation and argument. -/
abbrev Stage := Nat × Nat

/-- The stages of the chain's bytes; none when a byte after the first zero is nonzero. -/
def chainBytes : List Nat → Option (List Stage)
  | [] => some []
  | 0 :: l => if l.all (· == 0) then some [] else none
  | b :: l => (chainBytes l).map (fun r => (b / 32, b % 32) :: r)

/-- The stages of a chain word. -/
def chainOf (x : Reg64) : Option (List Stage) := chainBytes ((List.range 4).map (fun k => x.toNat / 256 ^ k % 256))

/-- The argument of a stage of an operation. -/
def stageArg (st : List Stage) (op : Nat) : Option Nat := (st.find? (fun s => s.1 == op)).map (·.2)

/-- UNPK's width u (Table 13.2). -/
def unpkWidth (arg : Nat) : Nat := if arg % 16 = 0 then 16 else arg % 16

/-- May the stage stand at position `i` of `n`, after the stage before it? -/
def stageOk (n i : Nat) (before : Option Stage) (s : Stage) : Bool :=
  match s.1 with
  | 1 => i == 0
  | 2 => (before.map (·.1)) == some 1
  | 3 => true
  | 4 => [0, 1, 2, 4, 5, 6].contains s.2
  | 5 => i + 1 == n && s.2 != 0
  | _ => false

/-- The rules of R265 and, for the record's size code, of x[B][63:32]. -/
def chainOk (x : Reg64) (code : Nat) : Option (List Stage) :=
  match chainOf x with
  | none => none
  | some st =>
    let ops := st.map (·.1)
    let flt := x.getLsbD 32
    let unpk := ops.contains 1
    if (st.zipIdx).all (fun si => stageOk st.length si.2 (if si.2 = 0 then none else st[si.2 - 1]?) si.1) &&
        (distinct ops).length == ops.length && (!unpk || code == 2) && x.toNat / 2 ^ 34 == 0 &&
        (!flt || ((code == 1 || code == 2) && !unpk)) && (!x.getLsbD 33 || (flt && code == 1)) then some st
    else none

/-- The LUT tile's rules (R268) for fields of u bits. -/
def Tile.tables (t : Tile) (u : Nat) : Bool := !t.plane && (t.efmt == 4 || t.efmt == 5) && decide (2 ^ u ≤ t.cols + 1)

/-- lace (R264). -/
def execLace (f : LaceF) (s : State) : Host.Outcome State Fault Refusal :=
  guarded s f.g (fun s => do
    s.vneed 0 f.a f.ta
    let x ← s.src 1 f.b f.tb
    let l := s.hand.shape f.a 12
    match recordFaulty l with
    | some v => s.trap (Trap.mk' .reservedField v)
    | none =>
      if wordAt l 8 = 4 then s.trap (Trap.mk' .reservedField 4)
      else match chainOk x (wordAt l 8) with
        | none => s.trap (Trap.mk' .reservedField x)
        | some st =>
          let scl := (stageArg st 3).isSome
          let lut := stageArg st 2
          if scl ∧ 2 ^ 25 ≤ wordAt l 11 then s.trap (Trap.mk' .reservedField (BitVec.ofNat 64 (wordAt l 11)))
          else if lut.isNone ∧ f.f ≠ 0 then s.trap (encTrap .reservedField (.lace f))
          else do
            if lut.isSome then s.sound 7 0
            let t := s.tile s.hand.core f.f.toNat
            if lut.isSome && !t.tables (unpkWidth ((stageArg st 1).getD 0)) then
              s.trap (Trap.mk' .tileState (BitVec.ofNat 64 f.f.toNat))
            if lut.isSome && t.state != 1 && t.state != 2 then s.tileWait
            let rec' : List Word := l.take 9 ++ (if scl then (l.drop 10).take 2 else [0, 0])
            let b : Stream := ⟨rec', recBase l 0, x, f.f.toNat, 0, []⟩
            pure (({ s with hand := { s.hand with streams := s.hand.streams.setIfInBounds f.d.toNat (some b) } }).retire 4))

/-! ## STRM (R270) -/

/-- The stream of a number, or STREAM-UNBOUND. -/
def State.bound (s : State) (n : Nat) : Run Stream :=
  match s.hand.streams.toArray.getD n none with
  | some b => .ok b
  | none => s.trap (Trap.mk' .streamUnbound (BitVec.ofNat 64 n))

/-- Putting a stream. -/
def State.setStream (s : State) (n : Nat) (b : Option Stream) : State :=
  { s with hand := { s.hand with streams := s.hand.streams.setIfInBounds n b } }

/-- sunbind. -/
def execSunbind (f : DG) (s : State) : Host.Outcome State Fault Refusal :=
  guarded s f.g (fun s => pure ((s.setStream f.d.toNat none).retire 4))

/-- spos. -/
def execSpos (f : DAG) (s : State) : Host.Outcome State Fault Refusal :=
  guarded s f.g (fun s => do
    let b ← s.bound f.a.toNat
    s.dest f.d
    pure ((s.setX f.d b.pos).retire 4))

/-- sadv: what the engine has read ahead is discarded (R270). -/
def execSadv (f : SadvF) (s : State) : Host.Outcome State Fault Refusal :=
  guarded s f.g (fun s => do
    let x ← s.src 1 f.b f.tb
    let b ← s.bound f.d.toNat
    pure ((s.setStream f.d.toNat (some { b.afresh with pos := b.pos + x })).retire 4))

/-- The stages of a bound stream. -/
def Stream.stages (b : Stream) : List Stage := (chainOf b.chain).getD []

/-- stabl: A is the table tile. -/
def execStabl (f : DAG) (s : State) : Host.Outcome State Fault Refusal :=
  guarded s f.g (fun s => do
    let b ← s.bound f.d.toNat
    let st := b.stages
    if (stageArg st 2).isNone then s.trap (encTrap .reservedField (.stabl f))
    else do
      s.sound 7 0
      if !(s.tile s.hand.core f.a.toNat).tables (unpkWidth ((stageArg st 1).getD 0)) then
        s.trap (Trap.mk' .tileState (BitVec.ofNat 64 f.a.toNat))
      pure ((s.setStream f.d.toNat (some { b with tile := f.a.toNat })).retire 4))

/-! ## Elements of a chain (R266, R267) -/

/-- An element between stages: an integer or a float of a format. -/
inductive SVal where
  | int (v : Int)
  | flt (f : Fmt) (b : Nat)
  deriving DecidableEq, Repr

/-- The element as bits. -/
def SVal.bits (w : Nat) : SVal → Nat
  | .int v => (v % (2 ^ w : Nat)).toNat
  | .flt _ b => b

/-- The real value. -/
def SVal.real : SVal → FVal
  | .int v => if v = 0 then .zero false else .fin (decide (v < 0)) v.natAbs 0
  | .flt f b => f.value b

/-- CVT: RNE whatever FPCR, FZ ignored. -/
def SVal.convert (code : Nat) (v : SVal) : SVal × Nat :=
  let toF (f : Fmt) : SVal × Nat := let (b, fl) := f.roundV 0 false v.real; (.flt f b, fl)
  let toI (n : Nat) : SVal × Nat :=
    let lo : Int := -(2 ^ (n - 1) : Nat)
    let hi : Int := (2 ^ (n - 1) : Nat) - 1
    match v with
    | .int i => let c := if i < lo then lo else if hi < i then hi else i; (.int c, if c = i then 0 else fSAT)
    | .flt f b => let (i, fl) := (f.value b).toIntClamped 0 lo hi; (.int i, fl)
  match code with
  | 0 => toI 8
  | 1 => toI 16
  | 2 => toI 32
  | 4 => toF f32
  | 5 => toF bf16
  | _ => toF f16

/-- Words a pop has read: each is read once. -/
structure PopCache where
  words : SMap Nat
  scales : SMap Nat
  deriving DecidableEq, Repr

/-- The hand as the stream engine may have seen its memory when it read ahead (R123): in its present view, or in one that it has had since
the read-ahead was last discarded; which is an open choice (log 2). -/
def State.readAhead (s : State) (b : Stream) : State × Hand :=
  let (s, k) := s.chooseRead (2 ^ 16) (b.views.length + 1)
  match b.views[k - 1]? with
  | some (snap, hb) => if k = 0 then (s, s.hand) else (s, { s.hand with ord := { s.hand.ord with snap := snap, hb := hb } })
  | none => (s, s.hand)

/-- One read of the stream engine (R269), reported against pattern position `p`. A read of an SC page is live, and as any access to such a
page a commit point and an order point (Table 7.8, R46, R117). -/
def State.streamRead (s0 : State) (b : Stream) (va : Reg64) (w p : Nat) : Run (State × Nat) :=
  let tag (t : Trap) : Trap := t.atIjk b.shape p
  if va.toNat % w ≠ 0 then s0.trap (tag { Trap.mk' .misaligned va with access := 7 })
  else match s0.look s0.me .stream va.toNat with
    | .error (.trap t) => s0.trap (tag t)
    | .error .later => s0.wait .order
    | .ok (s, t, leaf) =>
      let refused : Bool := match t with
        | .view _ _ _ _ => decide (wordAt b.shape 8 ≠ 2)
        | _ => false
      if refused then s0.trap (tag { Trap.mk' .formatAlign va with access := 7 })
      else do
        let s ← if t.isSc then s.orderPoint else pure s
        s.performing leaf .stream t (fun s =>
          let (s, h) := s.readAhead b
          match s.engineTarget State.chooseRead h .stream 4 t va w with
          | .error t => s.trap (tag t)
          | .ok (s, l) => .ok (s.readDone, leNat l))

/-- Pattern element `p`, as raw bits. -/
def State.patternWord (s : State) (b : Stream) (c : PopCache) (p : Nat) : Run (State × PopCache × Nat) :=
  match mfind c.words p with
  | some v => .ok (s, c, v)
  | none => do
    let (s, v) ← s.streamRead b (recAddr b.shape b.base p) (2 ^ wordAt b.shape 8) p
    pure (s, { c with words := mins c.words p v }, v)

/-- Bytes of the landed prefix (R68): kept for tiles of at most 64 KiB; a larger one has none until READY, and none again while it is
DRAINING, where the spec says nothing (log 82). -/
def Tile.prefixBytes (t : Tile) : Nat :=
  if t.state = 2 then t.size
  else if 65536 < t.size then 0
  else 64 * ((List.range (t.size / 64)).takeWhile (fun g => decide (64 ≤ mget 0 t.landed g))).length

/-- Entry `k` of LUT table `n` (R268), once it has landed. -/
def State.lutEntry (s : State) (b : Stream) (n k : Nat) : Run (State × SVal) := do
  s.sound 7 0
  let t := s.tile s.hand.core b.tile
  let row := n % (t.rows + 1)
  if t.state = 2 ∨ (t.state ≠ 0 ∧ (row + 1) * t.rowBytes ≤ t.prefixBytes) then do
    let w := efmtBytes t.efmt
    let key := t.key s.hand.core (row * t.rowBytes + k * w)
    s.readable key w 7
    pure (s.rebuilds key w, .flt (if t.efmt = 4 then f32 else bf16) (leNat (s.mem.live.bytes key w)))
  else s.tileWait

/-- SCL: real(input) × the F32 at the scale base (R266). -/
def State.scaled (s : State) (b : Stream) (c : PopCache) (n q p : Nat) (v : SVal) : Run (State × PopCache × SVal × Nat) := do
  let i := n / 2 ^ q
  let base : Reg64 := BitVec.ofNat 64 (wordAt b.shape 10 * 2 ^ 32 + wordAt b.shape 9)
  let (s, c, x) ← (match mfind c.scales i with
    | some x => (.ok (s, c, x) : Run (State × PopCache × Nat))
    | none => do
      let va := base + BitVec.ofNat 64 (4 * i)
      let (s, x) ← s.streamRead { b with shape := b.shape.set 8 2 } va 4 p
      pure (s, { c with scales := mins c.scales i x }, x))
  let (r, fl) := f32.mul 0 false v.real (f32.value x)
  pure (s, c, .flt f32 r, fl)

/-- Element `n` of the sequence that enters the first stage: a pattern element, or an UNPK field (some: its width). -/
def State.firstElem (s : State) (b : Stream) (c : PopCache) (unpk : Option Nat) (n : Nat) :
    Run (State × PopCache × SVal × Nat) := do
  let code := wordAt b.shape 8
  match unpk with
  | none =>
    let (s, c, v) ← s.patternWord b c n
    let val := if b.chain.getLsbD 32 then
        SVal.flt (if code = 2 then f32 else if b.chain.getLsbD 33 then f16 else bf16) v
      else SVal.int (toSigned (8 * 2 ^ code) v)
    pure (s, c, val, n)
  | some arg =>
    let u := unpkWidth arg
    let k0 := n * u / 32
    let k1 := (n * u + u - 1) / 32
    let (s, c, v0) ← s.patternWord b c k0
    let (s, c, v1) ← (if k1 = k0 then (.ok (s, c, 0) : Run (State × PopCache × Nat)) else s.patternWord b c k1)
    let raw : Nat := (v0 + 2 ^ 32 * v1) / 2 ^ (n * u - 32 * k0) % 2 ^ u
    pure (s, c, .int (if 16 ≤ arg then (raw : Int) else toSigned u raw), k0)

/-- Element `n` of the sequence before XPS: through UNPK, LUT, SCL and CVT in the chain's order. -/
def State.chainElem (s : State) (b : Stream) (c : PopCache) (st : List Stage) (n : Nat) :
    Run (State × PopCache × SVal × Nat) := do
  let unpk := stageArg st 1
  let (s, c, v, p) ← s.firstElem b c unpk n
  st.foldlM (fun (acc : State × PopCache × SVal × Nat) sa =>
    let (s, c, v, fl) := acc
    match sa.1 with
    | 2 => do
      let u := unpkWidth (unpk.getD 0)
      let (s, v) ← s.lutEntry b (n / 2 ^ sa.2) (v.bits u)
      pure (s, c, v, fl)
    | 3 => do
      let (s, c, v, g) ← s.scaled b c n sa.2 p v
      pure (s, c, v, Nat.lor fl g)
    | 4 =>
      let (v, g) := v.convert sa.2
      pure (s, c, v, Nat.lor fl g)
    | _ => pure (s, c, v, fl)) (s, c, v, 0)

/-- The stream's length (R267). -/
def Stream.length (b : Stream) : Nat :=
  match stageArg b.stages 1 with
  | none => recVol b.shape
  | some arg => 32 * recVol b.shape / unpkWidth arg

/-- The output width in bits (R267); the LUT entry's comes from the table tile. -/
def Stream.width (b : Stream) (t : Tile) : Nat :=
  b.stages.foldl (fun w sa => match sa.1 with
    | 1 => 32
    | 2 => if t.efmt = 4 then 32 else 16
    | 3 => 32
    | 4 => (match sa.2 with
      | 0 => 8
      | 1 => 16
      | 5 => 16
      | 6 => 16
      | _ => 32)
    | _ => w) (8 * 2 ^ wordAt b.shape 8)

/-- The input index of XPS's output `n` (Table 13.2). -/
def xpsIndex (l n : Nat) : Nat :=
  let r := n % (l * l)
  n / (l * l) * (l * l) + r % l * l + r / l

/-- A popped element at an active position: its bits and flags. -/
def State.popElem (s : State) (b : Stream) (c : PopCache) (w n : Nat) : Run (State × PopCache × Nat × Nat) :=
  let st := b.stages
  if b.length ≤ n then .ok (s, c, 0, fSX)
  else
    let m := match stageArg st 5 with
      | some l => xpsIndex l n
      | none => n
    if b.length ≤ m then .ok (s, c, 0, 0)
    else do
      let (s, c, v, fl) ← s.chainElem b c st m
      pure (s, c, v.bits w, fl)

/-- What a stream pop that faults leaves: the stream without its read-ahead, so that the pop executed again reads afresh (R269). -/
def State.popped {α : Type} (n : Nat) (b : Stream) (r : Run α) : Run α :=
  match r with
  | .error (.trap t s) => (s.setStream n (some b.afresh)).trap t
  | r => r

/-- vmov of a stream (R267): VL elements are popped; those of inactive positions are skipped. -/
def execVmovStream (f : VStr) (s : State) : Host.Outcome State Fault Refusal :=
  vop (.vmovStream f) s (fun s => do
      let b ← s.bound f.n.toNat
      if b.width (s.tile s.hand.core b.tile) ≠ s.hand.sewBits then
        s.trap (Trap.mk' .reservedField (b.chain &&& 0xFFFF_FFFF))
      else pure ()) (fun s => do
    let b ← s.bound f.n.toNat
    let h := s.hand
    let (s, _, rs) ← State.popped f.n.toNat b ((h.actives f.m).foldlM (fun (acc : State × PopCache × List (Nat × Nat × Nat)) e => do
      let (s, c, v, fl) ← acc.1.popElem b acc.2.1 h.sewBits ((b.pos + BitVec.ofNat 64 e).toNat)
      pure (s, c, acc.2.2 ++ [(e, v, fl)])) (s, ⟨[], []⟩, []))
    let s := s.put (s.hand.setElems f.d (rs.map (fun r => (r.1, r.2.1))))
    let s := s.raise ((rs.filter (fun r => r.2.2 != 0)).map (fun r => (r.1, r.2.2)))
    pure ((s.setStream f.n.toNat (some { b with pos := b.pos + BitVec.ofNat 64 h.csr.vl })).charge .arith h.groups))

end Sys2Proof.Machine
end

