-- ==== Sys2Proof/Machine/Tile.lean ====
section
/-! DEFINITION. The tile table (R66 to R70, R279, R280): entries, deliveries into tiles, tile instructions. -/

namespace Sys2Proof.Machine

/-! ## Entries -/

/-- The entry word (Table 3.2). -/
def Tile.word (t : Tile) : Reg64 :=
  BitVec.ofNat 64 (t.state * 2 ^ 62 + (if t.plane then 2 ^ 61 else 0) + t.efmt * 2 ^ 57 + t.rows * 2 ^ 44 + t.cols * 2 ^ 31 +
    t.gen % 8 * 2 ^ 28 + t.base)

/-- The entry that a definition gives an EMPTY tile of a fill generation. -/
def tileOfWord (w : Reg64) (gen : Nat) : Tile where
  state := 0
  plane := w.getLsbD 61
  efmt := w.toNat / 2 ^ 57 % 16
  rows := w.toNat / 2 ^ 44 % 2 ^ 13
  cols := w.toNat / 2 ^ 31 % 2 ^ 13
  gen := gen
  base := w.toNat % 2 ^ 17
  fill := 0
  landed := []
  since := 0

/-- The rules of R280 on a definition. -/
def tileDefOk (w : Reg64) : Bool :=
  let t := tileOfWord w 0
  let bx := decide (7 ≤ t.efmt)
  w.toNat / 2 ^ 62 == 0 && w.toNat / 2 ^ 17 % 2 ^ 14 == 0 && decide (t.efmt ≤ 13) && (!t.plane || bx) &&
    (!bx || (t.cols + 1) % 32 == 0) && decide (!t.plane || t.cols + 1 ≤ 8192) &&
    decide (64 * t.base + t.size ≤ Config.chainOffset)

/-- May a job of a core read its tiles? A job whose instruction passed the gate at issue (R69) may; a follow-on and a job issued
again at a resumption, which stand with a copy that they follow, wait for that copy and for READY (R278, R284). -/
def State.jobOpen (s : State) (core : Nat) (j : Job) : Bool :=
  j.follows.isNone || (j.copyEnded && (s.tile core j.ta).state == 2 && (s.tile core j.tb).state == 2)

/-- Engine reads of a tile that are under way (R68, R70): a copy from it, a matrix job that may read it, an exchange. -/
def State.engineReads (s : State) (core t : Nat) : Bool :=
  s.copies.any (fun c => c.core == core && c.tile == t && (c.kind == .cpyOut || c.kind == .cpyPeer)) ||
  s.allHands.any (fun h => h.core == core && h.status != .saved && h.jobs.any (fun j => (j.ta == t || j.tb == t) &&
    (j.started || s.jobOpen core j))) ||
  s.xchgs.any (fun x => x.core == core && x.src == t && !x.dead && decide (x.round < x.n))

/-! ## Deliveries -/

/-- Opening a fill (Table 3.3): an EMPTY tile advances GEN, clears its count and is FILLING; a FILLING one stays. -/
def Tile.accept (t : Tile) : Tile :=
  if t.state = 0 then { t with state := 1, gen := (t.gen + 1) % 8, fill := 0, landed := [] } else t

/-- An engine's byte into a bench tile (R126): live and published, and a window load may still see the old byte until
its hand has seen the tile READY. -/
def State.deliver (s : State) (core tile gen key : Nat) (b : Byte) : State :=
  let old := s.mem.live.get key
  let s := s.putPub key b
  s.modCore core (fun c => { c with
    delivered := mins c.delivered ((key - Config.benchKey 0 0) % 0x80_0000) ⟨tile, gen, b, old⟩ })

/-- Bytes landed at offset `o` of a tile, counted when they belong to its current fill (R68); READY at its size. -/
def Tile.count (t : Tile) (gen o n now : Nat) : Tile :=
  if t.gen ≠ gen ∨ t.state ≠ 1 then t
  else
    let landed := (upFrom o n).foldl (fun m k => mput 0 m (k / 64) (mget 0 m (k / 64) + 1)) t.landed
    let fill := t.fill + n
    { t with fill := fill, landed := landed, state := if t.size ≤ fill then 2 else 1, since := if t.size ≤ fill then now else t.since }

/-- Bytes of a command landing in a tile at offset `o`. -/
def State.land (s : State) (core tile gen o : Nat) (l : List Byte) : State :=
  let t := s.tile core tile
  let s := (atAddr (t.key core o) l).foldl (fun (s : State) kb => s.deliver core tile gen kb.1 kb.2) s
  s.modTile core tile (fun t => t.count gen o l.length s.mem.perfCtr)

/-! ## Tile instructions (R279, R280) -/

/-- The tile that D and bit 5 name. -/
def tileNum (f : TileF) : Nat := f.d.toNat + 32 * f.j.toNat

/-- TILE-STATE of a tile. -/
def State.tileTrap {α : Type} (s : State) (t : Nat) : Run α := s.trap (Trap.mk' .tileState (BitVec.ofNat 64 t))

/-- tdef (R280). -/
def execTdef (f : TdefF) (s : State) : Host.Outcome State Fault Refusal :=
  guarded s f.g (fun s => do
    let x ← s.src 0 f.a f.ta
    s.sound 7 0
    let n := f.d.toNat + 32 * f.j.toNat
    let t := s.tile s.hand.core n
    if t.state ≠ 0 then s.tileTrap n
    else if !tileDefOk x then s.trap (Trap.mk' .reservedField x)
    else do
      let s ← s.commits
      pure ((s.modTile s.hand.core n (fun t => tileOfWord x t.gen)).retire 4))

/-- tfree: a READY tile is EMPTY once engine reads under way complete. -/
def execTfree (f : TileF) (s : State) : Host.Outcome State Fault Refusal :=
  guarded s f.g (fun s => do
    s.sound 7 0
    let c := s.hand.core
    let t := s.tile c (tileNum f)
    if t.state = 1 ∨ t.state = 3 then s.tileTrap (tileNum f)
    else do
      let s ← s.commits
      if t.state = 0 then pure (s.retire 4)
      else if s.engineReads c (tileNum f) then s.wait .order
      else pure ((s.modTile c (tileNum f) (fun t => { t with state := 0 })).retire 4))

/-- A hand that has seen a tile's fill delivered (R126). -/
def State.sawTile (s : State) (t : Nat) : State :=
  let e := s.tile s.hand.core t
  if s.hand.ord.sawTiles.contains (t, e.gen) then s
  else { s with hand := { s.hand with ord := { s.hand.ord with sawTiles := s.hand.ord.sawTiles ++ [(t, e.gen)] } } }

/-- A read of a tile's entry shows its fill delivered only when it is READY (R126). -/
def State.sawReady (s : State) (t : Nat) : State := if (s.tile s.hand.core t).state = 2 then s.sawTile t else s

/-- twait: a point of Table 7.10's third row; it clears the strip-local registers when it completes. Any return shows the fill delivered, of
a tile that has been drained or freed since, too (R126). -/
def execTwait (f : TileF) (s : State) : Host.Outcome State Fault Refusal :=
  guarded s f.g (fun s => do
    s.atPoint .twait
    s.sound 7 0
    let t := s.tile s.hand.core (tileNum f)
    if t.state = 1 ∨ t.state = 3 then s.dropGrant.wait .twait
    else pure ((s.sawTile (tileNum f)).clearAtPoint.retire 4))

/-- tstat: the entry as it stands. -/
def execTstat (f : TstatF) (s : State) : Host.Outcome State Fault Refusal :=
  guarded s f.g (fun s => do
    s.dest f.d
    s.sound 7 0
    let n := f.a.toNat + 32 * f.j.toNat
    pure (((s.sawReady n).setX f.d (s.tile s.hand.core n).word).retire 4))

/-- tready: an EMPTY tile is READY once the hand's earlier vstb stores to it have landed. -/
def execTready (f : TileF) (s : State) : Host.Outcome State Fault Refusal :=
  guarded s f.g (fun s => do
    s.sound 7 0
    let c := s.hand.core
    let t := s.tile c (tileNum f)
    if t.state = 1 ∨ t.state = 3 then s.tileTrap (tileNum f)
    else do
      let s ← s.commits
      if t.state = 2 then pure (s.retire 4)
      else
        let lo := t.key c 0
        if s.hand.strip.ssb.any (fun b => decide (lo ≤ b.key ∧ b.key < lo + t.size)) then (s.heelStall (fieldOfCore c)).wait .heel
        else if !s.hand.classQuiet 1 then s.wait .order
        else pure ((s.modTile c (tileNum f) (fun t => { t with
          state := 2, gen := (t.gen + 1) % 8, fill := 0, landed := [], since := s.mem.perfCtr })).retire 4))

end Sys2Proof.Machine
end

