-- ==== Sys2Proof/Machine/SumInstr.lean ====
section
/-! DEFINITION. Summary instructions (R292, R293, R304 to R312): SMGT, SUPD and SQRY. -/

namespace Sys2Proof.Machine

/-! ## Slots of the hand -/

/-- Granules of the hand's slots, those freed in a protected strip included (R292, R312). -/
def Hand.granulesUsed (h : Hand) : Nat :=
  h.handles.foldl (fun a ks => a + typeGranules ks.2.typ) h.strip.freedPending

/-- The budget of a hand, and the undo reserve of a core, in granules (R292, R72). -/
def summaryBudget : Nat := 2048

/-- SUMMARY-CAPACITY unless the footprint fits the free budget (R305, R311). -/
def State.fits (s : State) (t : Nat) : Run Unit :=
  let free := summaryBudget - s.hand.granulesUsed
  if free < typeGranules t then
    s.trap ((Trap.mk' .summaryCapacity (BitVec.ofNat 64 (typeGranules t))).at' free)
  else .ok ()

/-- The descriptor of a handle's slot, or 0. -/
def Hand.descriptor (h : Hand) (r : Fld5) : Reg64 := ((mfind h.handles r.toNat).map Slot.descriptor).getD 0

/-- SUMMARY-TYPE with both values (R311). -/
def typeTrap (tval tidx0 : Reg64) : Trap := { Trap.mk' .summaryType tval with tidx0 := tidx0 }

/-- The slot of a handle, of one of the types (any, when the list is empty); otherwise the trap that its descriptor gives, or that of
an unallocated handle (R305). Data of the summary store that no longer decode are consumed here (R74). -/
def State.slotOr (s : State) (r : Fld5) (types : List Nat) (wrong : Reg64 → Trap) : Run Slot :=
  match mfind s.hand.handles r.toNat with
  | none => s.trap (wrong 0)
  | some x =>
    if types.isEmpty || types.contains x.typ then do
      s.sound 4 0
      pure x
    else s.trap (wrong x.descriptor)

/-- The slot that an instruction names by D. -/
def State.slot (s : State) (r : Fld5) (types : List Nat) : Run Slot := s.slotOr r types (fun d => typeTrap d 0)

/-- The slot that a query names by A; its D names none (R311). -/
def State.asked (s : State) (r : Fld5) (types : List Nat) : Run Slot := s.slotOr r types (fun d => typeTrap 0 d)

/-- The instruction waits for the hand's earlier matrix jobs on the slot (R127, R293). -/
def State.slotQuiet (s : State) (r : Fld5) : Run Unit :=
  if s.hand.jobs.any (fun j => j.handle == r.toNat) then s.wait .order else .ok ()

/-- Putting a slot at a handle. -/
def State.putSlot (s : State) (r : Fld5) (x : Slot) : State :=
  s.put { s.hand with handles := mins s.hand.handles r.toNat x }

/-- The undo key of a handle: a slot that the strip itself declared or loaded counts apart from the one it followed. -/
def Hand.undoKey (h : Hand) (r : Fld5) : Nat := if h.strip.fresh.contains r.toNat then r.toNat + 32 else r.toNat

/-- Granules of undo image that a core's hands hold (R72). -/
def State.undoUsed (s : State) : Nat :=
  s.allHands.foldl (fun a h => if h.core = s.hand.core then a + h.strip.undoGranules.length else a) 0

/-- A change of granules of a slot (R72, R312): each first change in a protected strip keeps an image; the change whose
images would pass 512 KiB on the core is a commit point. -/
def State.touch (s : State) (r : Fld5) (x : Slot) (granules : List Nat) : Run State :=
  if s.hand.strip.prot then
    let key := s.hand.undoKey r
    let new := (distinct granules).filter (fun g => !s.hand.strip.undoGranules.contains (key, g))
    if summaryBudget < s.undoUsed + new.length then s.commits
    else
      let st := s.hand.strip
      let undo := if key ≠ r.toNat ∨ (mfind st.undo r.toNat).isSome then st.undo else mins st.undo r.toNat x
      .ok (s.put { s.hand with strip := { st with undo := undo, undoGranules := st.undoGranules ++ new.map (fun g => (key, g)) } })
  else .ok s

/-- A change of a slot's every granule. -/
def State.touchAll (s : State) (r : Fld5) (x : Slot) : Run State := s.touch r x (List.range (typeGranules x.typ))

/-- A slot that the strip declares or loads is released by its rewind (R312). -/
def State.putFresh (s : State) (r : Fld5) (x : Slot) : State :=
  let s := s.putSlot r x
  if s.hand.strip.prot then s.put { s.hand with strip := { s.hand.strip with fresh := addOnce s.hand.strip.fresh r.toNat } } else s

/-! ## Records in memory (R306) -/

/-- The pieces of `n` bytes that cross no 4 KiB page: offset and length. -/
def recPieces (va : Nat) : Nat → Nat → Nat → List (Nat × Nat)
  | 0, _, _ => []
  | fuel + 1, off, n =>
    if n ≤ off then []
    else
      let m := min (n - off) (4096 - (va + off) % 4096)
      (off, m) :: recPieces va fuel (off + m) n

/-- The pieces of a record's bytes from `off` up to `n`. -/
def piecesOf (va : Reg64) (off n : Nat) : List (Nat × Nat) := recPieces va.toNat ((n - off) / 4096 + 2) off n

/-- What a record's byte reaches (R306): its key, whether its page is SC, and the leaf to mark once it performs (R38). A format page
refuses it. -/
def State.recTarget (s : State) (a : Access) (va : Reg64) (off : Nat) : Run (State × Nat × Bool × Option Leaf) := do
  let x := va + BitVec.ofNat 64 off
  let (s', t, leaf) ← tagged (Elem.at' off x) (s.xlook a x)
  match t with
  | .plain k sc => pure (s', k, sc, leaf)
  | .view _ _ _ _ => s.trap ({ Trap.mk' .formatPath x with access := a.code }.at' off)
  | .packed _ _ => s.trap ((xfault .compressedAccess 0 7 a x.toNat).at' off)

/-- Bytes of a record in ascending order, read as a vector load reads; each byte's value is the hand's view of it. -/
def State.recBytes (s : State) (va : Reg64) (k : Nat) (sc : Bool) (off : Nat) : Nat → Run (State × List Byte)
  | 0 => .ok (s, [])
  | n + 1 => do
    let x := va + BitVec.ofNat 64 off
    let (s, v) ← tagged (Elem.at' off x) (s.readTarget .load 1 (.plain k sc) x 1)
    let (s, l) ← State.recBytes s va (k + 1) sc (off + 1) n
    pure (s, BitVec.ofNat 8 v :: l)

/-- Reading the bytes `off` to `n − 1` of the record at `va`. -/
def State.recRead (s : State) (va : Reg64) (off n : Nat) : Run (State × List Byte) :=
  (piecesOf va off n).foldlM (fun (acc : State × List Byte) p => do
    let (s, k, sc, leaf) ← acc.1.recTarget .load va p.1
    let s ← if sc then s.orderPoint else pure s
    let (s, l) ← s.performing leaf .load (.plain k sc) (fun s =>
      ((s.uses k p.2).watch ((va + BitVec.ofNat 64 p.1).toNat) p.2 false p.1).recBytes va k sc p.1 p.2)
    pure (s, acc.2 ++ l)) (s, [])

/-- The first fault of a record's store, with the offset of its piece. -/
def State.recFault (s : State) (va : Reg64) (n : Nat) : Option (Nat × Stop) :=
  (piecesOf va 0 n).findSome? (fun p => match s.recTarget .store va p.1 with
    | .error e => some (p.1, e)
    | .ok _ => none)

/-- A piece of a record as a store reaches it: its offset and length, its key, whether its page is SC, and its leaf. -/
structure RecPiece where
  off : Nat
  len : Nat
  key : Nat
  sc : Bool
  leaf : Option Leaf
  deriving DecidableEq, Repr

/-- Translating the pieces of a record's store up to offset `n`. -/
def State.recStore (s : State) (va : Reg64) (n : Nat) : Run (State × List RecPiece) :=
  (piecesOf va 0 n).foldlM (fun (acc : State × List RecPiece) p => do
    let (s, k, sc, leaf) ← acc.1.recTarget .store va p.1
    pure (s, acc.2 ++ [⟨p.1, p.2, k, sc, leaf⟩])) (s, [])

/-- A piece of a record performs as a store: its leaf is marked, its lines are used, and watchpoints see it. -/
def State.pieceReached (s : State) (va : Reg64) (p : RecPiece) : State :=
  ((s.reached p.leaf .store (.plain p.key p.sc)).uses p.key p.len).watch ((va + BitVec.ofNat 64 p.off).toNat) p.len true p.off

/-- Writing a record as vector stores, in ascending order. Translation and permission faults leave the bytes before
them; COMPRESSED-ACCESS and FORMAT-PATH change nothing (R306, R311). A wait for heel room leaves nothing stored. -/
def State.recWrite (s0 : State) (va : Reg64) (l : List Byte) : Run State := do
  let stop ← match s0.recFault va l.length with
    | none => pure l.length
    | some (_, .wait w s) => s.wait w
    | some (off, .trap t s) => if t.cause = .compressedAccess ∨ t.cause = .formatPath then s.trap t else pure off
    | some (_, .rewound s) => .error (.rewound s)
  let (s, ps) ← s0.recStore va stop
  let s ← if ps.any (·.sc) then s.orderPoint else pure s
  let s ← s.undone (ps.foldlM (fun (s : State) (p : RecPiece) =>
    (s.pieceReached va p).writePlain 1 [] (if isBench p.key then none else some ((va + BitVec.ofNat 64 p.off).toNat / 4096)) p.key p.sc
      ((l.drop p.off).take p.len)) s)
  if stop = l.length then pure s
  else do
    let (s, _, _) ← s.recTarget .store va stop
    pure s

/-- SUMMARY-PARAM with a value. -/
def State.paramTrap {α : Type} (s : State) (v : Nat) : Run α := s.trap (Trap.mk' .summaryParam (BitVec.ofNat 64 v))

/-- Reading and checking a record (R303, R306): its header first, whose first two checks decide its length. -/
def State.record' (s : State) (va : Reg64) : Run (State × Slot) := do
  let (s, hd) ← s.recRead va 0 16
  match headerFault hd with
  | some off => s.paramTrap off
  | none => do
    let n := recordBytes (recField hd 0 1) (BitVec.ofNat 24 (recField hd 1 3))
    let (s, tl) ← s.recRead va 16 n
    let r := hd ++ tl
    match Sys2Proof.Machine.recordFault r with
    | some off => s.paramTrap off
    | none => pure (s, deserialise r)

/-- The address of a record that an access of a kind names: a multiple of 16. -/
def State.summaryAddr (s : State) (a : Access) (f : UnG) : Run Reg64 := do
  let va ← s.src 0 f.a f.ta
  s.aligned a va 16
  pure va

/-! ## SMGT (R305 to R307) -/

/-- The parameter and seed that sdecl's operands declare (R305); or the offending value. -/
def declared (a b : Reg64) : Except Reg64 (Nat × BitVec 24 × BitVec 32) :=
  let t := a.toNat % 256
  let p := a.toNat / 256 % 2 ^ 24
  if a.toNat / 2 ^ 32 ≠ 0 ∨ t = 0 ∨ 7 < t then .error a
  else if t = 6 ∨ t = 7 then
    if p ≠ 0 then .error a
    else if b.toInt < -32768 ∨ 32767 < b.toInt then .error b
    else .ok (t, BitVec.ofNat 24 (b.toNat % 65536), 0)
  else if !paramOk t (BitVec.ofNat 24 p) then .error a
  else if b.toNat / 2 ^ 32 ≠ 0 then .error b
  else .ok (t, BitVec.ofNat 24 p, BitVec.ofNat 32 b.toNat)

/-- sdecl (R305). -/
def execSdecl (f : RegG) (s : State) : Host.Outcome State Fault Refusal :=
  guarded s f.g (fun s => do
    let a ← s.src 0 f.a f.ta
    let b ← s.src 1 f.b f.tb
    if (mfind s.hand.handles f.d.toNat).isSome then s.trap (typeTrap (s.hand.descriptor f.d) 0)
    else match declared a b with
      | .error v => s.trap (Trap.mk' .summaryParam v)
      | .ok (t, p, seed) => do
        s.fits t
        pure ((s.putFresh f.d (newSlot t p seed)).retire 4))

/-- sclr (R305). -/
def execSclr (f : DG) (s : State) : Host.Outcome State Fault Refusal :=
  guarded s f.g (fun s => do
    let x ← s.slot f.d []
    s.slotQuiet f.d
    let s ← s.touchAll f.d x
    pure ((s.putSlot f.d (newSlot x.typ x.param x.seed)).retire 4))

/-- sfree (R305, R312): in a protected strip the footprint still counts, and the contents are kept for a rewind. -/
def execSfree (f : DG) (s : State) : Host.Outcome State Fault Refusal :=
  guarded s f.g (fun s => do
    let x ← s.slot f.d []
    s.slotQuiet f.d
    let st := s.hand.strip
    let st := if st.prot then
        { st with
          freedPending := st.freedPending + typeGranules x.typ
          undo := if st.fresh.contains f.d.toNat ∨ (mfind st.undo f.d.toNat).isSome then st.undo else mins st.undo f.d.toNat x }
      else st
    pure ((s.put { s.hand with strip := st, handles := mdel s.hand.handles f.d.toNat }).retire 4))

/-- ssave (R306). -/
def execSsave (f : UnG) (s : State) : Host.Outcome State Fault Refusal :=
  guarded s f.g (fun s => do
    let va ← s.summaryAddr .store f
    let x ← s.slot f.d []
    s.slotQuiet f.d
    let s ← s.recWrite va x.serialise
    pure (s.retire 4))

/-- sload (R306). -/
def execSload (f : UnG) (s : State) : Host.Outcome State Fault Refusal :=
  guarded s f.g (fun s => do
    let va ← s.summaryAddr .load f
    if (mfind s.hand.handles f.d.toNat).isSome then s.trap (typeTrap (s.hand.descriptor f.d) 0)
    else do
      let (s, x) ← s.record' va
      s.fits x.typ
      let st := s.hand.strip
      let s := if st.prot then s.put { s.hand with strip := { st with fresh := addOnce st.fresh f.d.toNat } } else s
      let s ← s.touchAll f.d x
      pure ((s.putFresh f.d x).retire 4))

/-- Merging a slot into the slot of handle D: SAT where a saturating field clamps (R307). -/
def State.mergeInto (s : State) (d : Fld5) (x y : Slot) : Run State := do
  let s ← s.touchAll d x
  let (m, c) := x.merge y
  let s := s.putSlot d m
  pure (if c then s.raise [(0, fSAT)] else s)

/-- smrg (R307). -/
def execSmrg (f : DAG) (s : State) : Host.Outcome State Fault Refusal :=
  guarded s f.g (fun s => do
    match mfind s.hand.handles f.d.toNat, mfind s.hand.handles f.a.toNat with
    | some x, some y =>
      if x.descriptor ≠ y.descriptor then s.trap (typeTrap x.descriptor y.descriptor)
      else do
        s.sound 4 0
        s.slotQuiet f.d
        s.slotQuiet f.a
        let s ← s.mergeInto f.d x y
        pure (s.retire 4)
    | _, _ => s.trap (typeTrap (s.hand.descriptor f.d) (s.hand.descriptor f.a)))

/-- smrgm (R306). -/
def execSmrgm (f : UnG) (s : State) : Host.Outcome State Fault Refusal :=
  guarded s f.g (fun s => do
    let va ← s.summaryAddr .load f
    let x ← s.slot f.d []
    s.slotQuiet f.d
    let (s, y) ← s.record' va
    if x.descriptor ≠ y.descriptor then s.trap (typeTrap x.descriptor y.descriptor)
    else do
      let s ← s.mergeInto f.d x y
      pure (s.retire 4))

/-- stype (R305). -/
def execStype (f : DAG) (s : State) : Host.Outcome State Fault Refusal :=
  guarded s f.g (fun s => do
    s.slotQuiet f.a
    s.dest f.d
    pure ((s.setX f.d (s.hand.descriptor f.a)).retire 4))

/-! ## SUPD (R308) -/

/-- The slot after the inputs, and the flags that they raised in it. -/
def Slot.takeAll (x : Slot) (l : List Input) : Slot × Nat :=
  let y := l.foldl Slot.take { x with lost := false, ovf := false, sat := false }
  ({ y with lost := x.lost || y.lost, ovf := x.ovf || y.ovf, sat := x.sat || y.sat },
   (if y.lost then fLOST else 0) + (if y.ovf then fOVF else 0) + (if y.sat then fSAT else 0))

/-- The granules that updates of cells change (R72): sixteen cells of sixteen bytes each; every granule of other types. -/
def Slot.granulesOf (x : Slot) (l : List Input) : List Nat :=
  match x.body with
  | .acc _ _ => distinct (l.map (fun i => i.arg / 16))
  | _ => List.range (typeGranules x.typ)

/-- SUPD: slot and input checks, then the update by the active elements' inputs. -/
def supd (i : Instr) (types : List Nat) (d a b : Fld5) (ta tb : Bit) (m : BitVec 3)
    (cellCheck : Bool) (input : Hand → Slot → Nat → Input) (beats : Slot → Nat) (s : State) :
    Host.Outcome State Fault Refusal :=
  vrun i s (fun s => do
    s.vsrc 0 a s.hand.grpN ta
    if b ≠ 0 then s.vsrc 1 b s.hand.grpN tb
    let x ← s.slot d types
    s.slotQuiet d
    let es := s.hand.actives m
    let ins := es.map (fun e => (e, input s.hand x e))
    match (if cellCheck then ins.find? (fun i => cellCount x.typ ≤ i.2.arg) else none) with
    | some (e, i) => s.trap ((Trap.mk' .summaryParam (BitVec.ofNat 64 i.arg)).at' e)
    | none => do
      let beats := beats x * s.hand.groups
      if ins.isEmpty then pure (s.charge .summ beats)
      else do
        let s ← s.touch d x (x.granulesOf (ins.map (·.2)))
        let (y, fl) := x.takeAll (ins.map (·.2))
        let s := s.putSlot d y
        let s := s.raise [((es.head?).getD 0, fl)]
        pure (s.charge .summ beats))

/-- The float input of an element, as F32 bits (R294). -/
def Hand.sumFloat (h : Hand) (a : Fld5) (e : Nat) : Nat := h.asF32 (h.elem a e)
/-- The second operand of an element, modulo 2^32, or a default where B is zero. -/
def Hand.sumSecond (h : Hand) (b : Fld5) (dflt e : Nat) : Nat := if b = 0 then dflt else h.elem b e
/-- The ordinal of an element modulo 2^32 (R149, R298). -/
def Hand.ordinalN (h : Hand) (e : Nat) : Nat := (h.ordinal e).toNat % 2 ^ 32

/-- supd.mom (R296). -/
def execSupdMom (f : VUn) (s : State) : Host.Outcome State Fault Refusal :=
  supd (.supdMom f) [1] f.d f.a 0 f.ta 0 f.m false
    (fun h _ e => ⟨h.sumFloat f.a e, 0, none⟩) (fun _ => 1) s

/-- supd.res (R297). -/
def execSupdRes (f : VUn) (s : State) : Host.Outcome State Fault Refusal :=
  supd (.supdRes f) [2] f.d f.a 0 f.ta 0 f.m false
    (fun h _ e => ⟨h.sumFloat f.a e, 0, none⟩) (fun _ => 2) s

/-- supd.topk (R298). -/
def execSupdTopk (f : VReg) (s : State) : Host.Outcome State Fault Refusal :=
  supd (.supdTopk f) [3] f.d f.a f.b f.ta f.tb f.m false
    (fun h _ e => ⟨h.sumFloat f.a e, h.sumSecond f.b (h.ordinalN e) e, none⟩) (fun x => if x.k ≤ 8 then 1 else 4) s

/-- supd.qh (R299). -/
def execSupdQh (f : VReg) (s : State) : Host.Outcome State Fault Refusal :=
  supd (.supdQh f) [4] f.d f.a f.b f.ta f.tb f.m false
    (fun h _ e => ⟨h.sumFloat f.a e, h.sumSecond f.b 1 e, none⟩) (fun _ => 1) s

/-- supd.cms (R300): the key is the element's bits, the weight as for QHIST. -/
def execSupdCms (f : VReg) (s : State) : Host.Outcome State Fault Refusal :=
  supd (.supdCms f) [5] f.d f.a f.b f.ta f.tb f.m false
    (fun h _ e => ⟨h.elem f.a e, h.sumSecond f.b 1 e, none⟩) (fun _ => 1) s

/-- supd.vacc (R301). -/
def execSupdVacc (f : VReg) (s : State) : Host.Outcome State Fault Refusal :=
  supd (.supdVacc f) [6, 7] f.d f.a f.b f.ta f.tb f.m true
    (fun h x e => ⟨h.sumFloat f.a e, h.sumSecond f.b ((h.ordinal e).toNat % cellCount x.typ) e, none⟩) (fun _ => 1) s

/-- supd.vaccm (R301): with B = 0 the factor is 1, as supd.vacc. -/
def execSupdVaccm (f : VReg) (s : State) : Host.Outcome State Fault Refusal :=
  supd (.supdVaccm f) [6, 7] f.d f.a f.b f.ta f.tb f.m false
    (fun h x e => ⟨h.sumFloat f.a e, (h.ordinal e).toNat % cellCount x.typ,
      if f.b = 0 then none else some (h.sumFloat f.b e)⟩) (fun _ => 2) s

/-! ## SQRY (R309, R310) -/

/-- What a query leaves outstanding: its destination, which fills after the updates of the slot it reads and may still raise a flag
(R84, R237, R309). -/
def Hand.queries (h : Hand) (d : Dest) (a : Fld5) (reads : List Dest) (flags : Bool) (was : SMap Byte) : Hand :=
  if d = .scalar 0 then h
  else { h with producers := h.producers ++ [⟨d, none, none, .slot a.toNat :: reads, flags, was⟩] }

/-- A query of a slot into x[D], with flags at element 0: the operand first (R164), then the slot. -/
def scalarQuery {α : Type} (g : BitVec 3) (d a : Fld5) (types : List Nat) (arg : State → Run α)
    (ask : State → Slot → α → Run (Reg64 × Nat)) (s : State) : Host.Outcome State Fault Refusal :=
  guarded s g (fun s => do
    let b ← arg s
    let x ← s.asked a types
    let (v, fl) ← ask s x b
    s.slotQuiet a
    s.dest d
    let s := (if fl = 0 then s else s.raise [(0, fl)]).setX d v
    pure ((s.put (s.hand.queries (.scalar d.toNat) a [] true [])).retire 4))

/-- A query without an operand of its own. -/
def noArg (_ : State) : Run Unit := .ok ()

/-- sq.mom (Table 15.2). -/
def execSqMom (f : DABG) (s : State) : Host.Outcome State Fault Refusal :=
  scalarQuery f.g f.d f.a [1] noArg (fun s x _ =>
    if 8 < f.b.toNat then s.paramTrap f.b.toNat
    else
      let (v, fl) := x.queryMoments f.b.toNat
      .ok (BitVec.ofNat 64 v, fl)) s

/-- sq.resn. -/
def execSqResn (f : DABG) (s : State) : Host.Outcome State Fault Refusal :=
  scalarQuery f.g f.d f.a [2] noArg (fun s x _ =>
    if 2 < f.b.toNat then s.paramTrap f.b.toNat else .ok (BitVec.ofNat 64 (x.queryRes f.b.toNat), 0)) s

/-- sq.qh (R299, R309). -/
def execSqQh (f : DABtG) (s : State) : Host.Outcome State Fault Refusal :=
  scalarQuery f.g f.d f.a [4] (fun s => s.src 1 f.b f.tb) (fun s x q =>
    let b := q.toNat % 2 ^ 32
    let ok := match f32.value b with
      | .zero _ => true
      | .fin neg m e => !neg && decide ((m : Int) * 2 ^ (e + 200).toNat ≤ 2 ^ 200)
      | _ => false
    if !ok then s.paramTrap b else .ok (BitVec.ofNat 64 (x.quantile b), 0)) s

/-- sq.flags. -/
def execSqFlags (f : DAG) (s : State) : Host.Outcome State Fault Refusal :=
  scalarQuery f.g f.d f.a [] noArg (fun _ x _ => .ok (BitVec.ofNat 64 (x.flagBits + 2 ^ 32 * x.nansField), 0)) s

/-- Words 0 to 63 of a register. -/
def Hand.setWords (h : Hand) (r : Nat) (l : List Nat) : Hand :=
  (l.zipIdx).foldl (fun h wi => h.setVN r (4 * wi.2) 4 wi.1) h

/-- Words 0 to 63 that the entries give, and what stands beyond the stored count (R309). -/
def entryWords (l : List Nat) (beyond : Nat) : List Nat := (List.range 64).map (fun i => l.getD i beyond)

/-- A fixed-length query of entries into vector registers (R309). -/
def entryQuery (g : BitVec 3) (d a : Fld5) (typ regs : Nat) (fill : Hand → Slot → Hand) (s : State) :
    Host.Outcome State Fault Refusal :=
  guarded s g (fun s => do
    let x ← s.asked a [typ]
    s.slotQuiet a
    let d : Dest := .vector d.toNat regs
    pure ((s.put ((fill s.hand x).queries d a [] false (s.hand.groupBytes d))).retire 4))

/-- sq.res: the value bits of the entries. -/
def execSqRes (f : DAG) (s : State) : Host.Outcome State Fault Refusal :=
  entryQuery f.g f.d f.a 2 1 (fun h x =>
    h.setWords f.d.toNat (entryWords (x.entries.map (fun e => e.2.toNat)) 0x7FC00000)) s

/-- sq.topk: keys to v[D], indices to v[D+1]. -/
def execSqTopk (f : DAG) (s : State) : Host.Outcome State Fault Refusal :=
  entryQuery f.g f.d f.a 3 2 (fun h x =>
    (h.setWords f.d.toNat (entryWords (x.entries.map (fun e => e.1.toNat)) 0x7FC00000)).setWords (f.d.toNat + 1)
      (entryWords (x.entries.map (fun e => e.2.toNat)) 0xFFFFFFFF)) s

/-- VTYPE as a number (Table 8.10). -/
def Hand.vtypeWord (h : Hand) : Reg64 :=
  BitVec.ofNat 64 (2 ^ 8 * h.csr.sew.toNat + 2 ^ 6 * h.csr.grp.toNat + (if h.csr.fz then 2 ^ 5 else 0) + (if h.csr.fh then 2 ^ 4 else 0))

/-- A query of one value for each active element (R309): group alignment, the operand, the slot, SEW 32, then the checks of
the type; with VL = 0 nothing is written. -/
def elementQuery (v : Option VShape) (w : Word) (g : BitVec 3) (d a : Fld5) (types : List Nat)
    (args : State → Run Reg64) (check : Slot → Nat → Reg64 → Option Trap) (val : Hand → Slot → Reg64 → Nat → Nat × Nat)
    (reads : Hand → List Dest) (s : State) : Host.Outcome State Fault Refusal :=
  finish (do
    s.encodes v w
    let go ← s.guard g
    if !go then pure (s.retire 4)
    else do
      let b ← args s
      let x ← s.asked a types
      s.slotQuiet a
      if s.hand.csr.sew ≠ 2 then s.trap (Trap.mk' .summaryParam s.hand.vtypeWord)
      else match check x s.hand.csr.vl b with
        | some t => s.trap t
        | none =>
          if s.hand.csr.vl = 0 then pure (s.retire 4)
          else
            let h := s.hand
            let dst : Dest := .vector d.toNat h.grpN
            let s := s.each d h.elems (val h x b)
            pure ((s.put (s.hand.queries dst a (reads h) true (h.groupBytes dst))).retire 4))

/-- sq.cms (R300). -/
def execSqCms (f : DABtG) (s : State) : Host.Outcome State Fault Refusal :=
  elementQuery (vshape (.sqCms f)) (encodeWord (.sqCms f)) f.g f.d f.a [5]
    (fun s => do
      s.vsrc 1 f.b s.hand.grpN f.tb
      pure 0)
    (fun _ _ _ => none) (fun h x _ e => (x.estimate (h.elem f.b e), 0)) (fun h => [.vector f.b.toNat h.grpN]) s

/-- sq.vacc (R309, R214): with VL = 0 too, a first cell beyond the slot's cells is refused. -/
def execSqVacc (f : DABtG) (s : State) : Host.Outcome State Fault Refusal :=
  elementQuery (vshape (.sqVacc f)) (encodeWord (.sqVacc f)) f.g f.d f.a [6, 7] (fun s => s.src 1 f.b f.tb)
    (fun x vl b =>
      let n := cellCount x.typ
      if b.toNat + vl ≤ n then none else some ((Trap.mk' .summaryParam b).at' (n - b.toNat)))
    (fun _ x b e => x.cell (b.toNat + e)) (fun _ => []) s

/-- sq.tile (R310): gated as vstb, its bytes are hand stores. -/
def execSqTile (f : DAG) (s0 : State) : Host.Outcome State Fault Refusal :=
  guarded s0 f.g (fun s => do
    let x ← s.asked f.a [7]
    s.sound 7 0
    let n := f.d.toNat
    let t := s.tile s.hand.core n
    if t.plane ∨ t.efmt ≠ 4 ∨ t.rows ≠ 127 ∨ t.cols ≠ 127 then s.tileTrap n
    else do
      s.slotQuiet f.a
      if t.state ≠ 0 ∧ t.state ≠ 2 then s.tileWait
      else do
        let vals := (List.range 16384).map x.cell
        let s ← s0.undone ((vals.zipIdx).foldlM (fun (s : State) vi =>
          (s.watch (Config.benchWindow + 64 * t.base + 4 * vi.2) 4 true vi.2).storePlain 1 [] none (t.key s.hand.core (4 * vi.2))
            (leBytes 4 vi.1.1)) s)
        let fl := (vals.zipIdx).filterMap (fun vi => if vi.1.2 = 0 then none else some (vi.2, vi.1.2))
        pure ((s.raise fl).retire 4))

end Sys2Proof.Machine
end

