-- ==== Sys2Proof/Machine/Deal.lean ====
section
/-! DEFINITION. The Dealer (R314 to R323). -/

namespace Sys2Proof.Machine

/-- V[d][j] of a context. -/
def dealV (c : SMap Word) (d j : Nat) : Word := mget 0 c (64 * d + j)
/-- W[d][r] of a context. -/
def dealW (c : SMap Word) (d r : Nat) : Word := mget 0 c (64 * d + 32 + r)

/-- Parity of a word. -/
def parity (w : Word) : Bool := (List.range 32).foldl (fun b i => b != w.getLsbD i) false

/-- The direction sum of an index (R316). -/
def dirSum (c : SMap Word) (d i : Nat) : Word :=
  (List.range 32).foldl (fun x j => if i / 2 ^ j % 2 = 1 then x ^^^ dealV c d j else x) 0

/-- One digit of a point: row r of the scramble, then the shift (R315, R316). -/
def dealDigit (w x : Word) (r : Nat) : Bool :=
  let bit : Word := BitVec.ofNat 32 (2 ^ (31 - r))
  parity ((w ||| bit) &&& ~~~(bit - 1) &&& x) != w.getLsbD (31 - r)

/-- R316: the point of dimension d at index i. -/
def dealPoint (c : SMap Word) (d i : Nat) : Nat :=
  let x := dirSum c d i
  (List.range 32).foldl (fun y r => if dealDigit (dealW c d r) x r then y + 2 ^ (31 - r) else y) 0

/-- R317: the F32 bits of (y >> 8) × 2^−24, exact. -/
def pointF32 (y : Nat) : Nat := (f32.roundInt 0 false false ((y / 256 : Nat) : Int) (-24)).1

/-- Is a dimension bound (R314)? -/
def Hand.dimBound (h : Hand) (d : Nat) : Bool := h.bound.getLsbD d

/-- The index of an element: its ordinal when B is 0 (R320). -/
def Hand.dealIndex (h : Hand) (b : Fld5) (e : Nat) : Nat := if b = 0 then (h.ordinal e).toNat else h.elem b e

/-- The first broken check of a draw (R320). -/
def Hand.dealFault (h : Hand) (d : Reg64) (b : Fld5) (es : List Nat) : Option Trap :=
  if es.isEmpty then none
  else if 64 ≤ d.toNat then some (Trap.mk' .dealerRange d)
  else if !h.dimBound d.toNat then some (Trap.mk' .dealerTable d)
  else (es.find? (fun e => 2 ^ 32 ≤ h.dealIndex b e)).map (fun e =>
    (Trap.mk' .dealerRange (BitVec.ofNat 64 (h.dealIndex b e))).at' e)

/-- A draw (R320). -/
def draw (i : Instr) (f : VReg) (form : Nat → Nat) (s : State) : Host.Outcome State Fault Refusal :=
  vrun i s (fun s => do
    let d ← s.src 0 f.a f.ta
    if f.b ≠ 0 then s.vsrc 1 f.b s.hand.grpN f.tb
    let es := s.hand.actives f.m
    match s.hand.dealFault d f.b es with
    | some t => s.trap t
    | none =>
      let h := s.hand
      let h' := h.setElems f.d (es.map (fun e => (e, form (dealPoint h.dealer d.toNat (h.dealIndex f.b e)))))
      let h' := if es.isEmpty then h' else h'.produce (.vector f.d.toNat h.grpN) none
      pure ((s.put h').charge .summ (2 * h.groups)))

/-- qdeal (R320). -/
def execQdeal (f : VReg) (s : State) : Host.Outcome State Fault Refusal :=
  draw (.qdeal f) f (fun y => y) s

/-- qdealf (R320, R317). -/
def execQdealf (f : VReg) (s : State) : Host.Outcome State Fault Refusal :=
  draw (.qdealf f) f pointF32 s

/-- Word k of an image (Table 16.1). -/
def imageWord (img : List Byte) (k : Nat) : Word := BitVec.ofNat 32 (recField img (4 * k) 4)

/-- The first scramble word with a bit below its shift bit (R321). -/
def imageFault (img : List Byte) : Option Nat :=
  firstOf 32 (fun r => if (imageWord img (32 + r)).toNat % 2 ^ (31 - r) = 0 then none else some r)

/-- A context with dimension d of an image. -/
def bindImage (c : SMap Word) (d : Nat) (img : List Byte) : SMap Word :=
  (List.range 64).foldl (fun m k => mput 0 m (64 * d + k) (imageWord img k)) c

/-- qtab (R321): a commit point; a rewind never undoes it. -/
def execQtab (f : ABF) (s : State) : Host.Outcome State Fault Refusal :=
  finish (do
    let d ← s.src 0 f.a f.ta
    let va ← s.src 1 f.b f.tb
    if 64 ≤ d.toNat then s.trap (Trap.mk' .dealerRange d)
    else do
      s.aligned .load va 64
      let s ← s.commits
      let (s, img) ← s.recRead va 0 256
      match imageFault img with
      | some r => s.trap ((Trap.mk' .dealerTable d).at' r)
      | none =>
        let h := s.hand
        pure ((s.put { h with
          dealer := bindImage h.dealer d.toNat img, bound := h.bound ||| BitVec.ofNat 64 (2 ^ d.toNat) }).retire 4))

/-- A context whose dimension d has another shift (R322). -/
def seedShift (c : SMap Word) (d : Nat) (v : Word) : SMap Word :=
  (List.range 32).foldl (fun m r =>
    let bit : Word := BitVec.ofNat 32 (2 ^ (31 - r))
    mput 0 m (64 * d + 32 + r) ((dealW m d r &&& ~~~bit) ||| (v &&& bit))) c

/-- qseed (R322). -/
def execQseed (f : ABF) (s : State) : Host.Outcome State Fault Refusal :=
  finish (do
    let d ← s.src 0 f.a f.ta
    let v ← s.src 1 f.b f.tb
    if 64 ≤ d.toNat then s.trap (Trap.mk' .dealerRange d)
    else if v.toNat / 2 ^ 32 ≠ 0 then s.trap (Trap.mk' .dealerRange v)
    else if !s.hand.dimBound d.toNat then s.trap (Trap.mk' .dealerTable d)
    else
      pure ((s.put { s.hand with dealer := seedShift s.hand.dealer d.toNat (v.setWidth 32) }).retire 4))

end Sys2Proof.Machine
end

