-- ==== Sys2Proof/Machine/VMem.lean ====
section
/-! DEFINITION. Vector loads and stores (R221 to R226) and the linked path (R106 to R109, R228, R229). -/

namespace Sys2Proof.Machine

/-! ## Unit stride, strided, indexed -/

/-- Elements at a stride from a base. -/
def Hand.strided (h : Hand) (m : BitVec 3) (base stride : Reg64) : List Elem :=
  (h.actives m).map (fun e => Elem.at' e (base + BitVec.ofNat 64 e * stride))

/-- Elements at the offsets of a group. -/
def Hand.indexed (h : Hand) (m : BitVec 3) (base : Reg64) (b : Fld5) : List Elem :=
  (h.actives m).map (fun e => Elem.at' e (base + BitVec.ofNat 64 (h.elem b e)))

/-- Elements at unit stride. -/
def Hand.unit (h : Hand) (m : BitVec 3) (base : Reg64) : List Elem := h.strided m base (BitVec.ofNat 64 h.sewBytes)

/-- vld (R221). -/
def execVld (f : VUn) (s : State) : Host.Outcome State Fault Refusal :=
  vrun (.vld f) s (fun s => do
    let a ← s.src 0 f.a f.ta
    s.vload f.d (s.hand.unit f.m a) [])

/-- vlds (R221): the stride is signed. -/
def execVlds (f : VReg) (s : State) : Host.Outcome State Fault Refusal :=
  vrun (.vlds f) s (fun s => do
    let a ← s.src 0 f.a f.ta
    let b ← s.src 1 f.b f.tb
    s.vload f.d (s.hand.strided f.m a b) [])

/-- vldx (R221). -/
def execVldx (f : VReg) (s : State) : Host.Outcome State Fault Refusal :=
  vrun (.vldx f) s (fun s => do
    let a ← s.src 0 f.a f.ta
    s.vsrc 1 f.b s.hand.grpN f.tb
    s.vload f.d (s.hand.indexed f.m a f.b) [])

/-- The data group of a store, which it reads as it fills. -/
def State.vdata (s : State) (d : Fld5) : Run Unit := s.vsrc 0 d s.hand.grpN 0

/-- vst (R221). -/
def execVst (f : VUn) (s : State) : Host.Outcome State Fault Refusal :=
  vrun (.vst f) s (fun s => do
    let a ← s.src 0 f.a f.ta
    s.vdata f.d
    s.vstore f.d false (s.hand.unit f.m a))

/-- vsts (R221). -/
def execVsts (f : VReg) (s : State) : Host.Outcome State Fault Refusal :=
  vrun (.vsts f) s (fun s => do
    let a ← s.src 0 f.a f.ta
    let b ← s.src 1 f.b f.tb
    s.vdata f.d
    s.vstore f.d false (s.hand.strided f.m a b))

/-- vstx (R221): its elements count in the scatter counters (R223). -/
def execVstx (f : VReg) (s : State) : Host.Outcome State Fault Refusal :=
  vrun (.vstx f) s (fun s => do
    let a ← s.src 0 f.a f.ta
    s.vsrc 1 f.b s.hand.grpN f.tb
    s.vdata f.d
    s.vstore f.d true (s.hand.indexed f.m a f.b))

/-! ## Sweeps (R224) -/

/-- The record of a vector sweep, checked: e8 holds SEW. -/
def State.sweepRec (s : State) (b : Fld5) (tb : Bit) : Run (List Word) := do
  s.vneed 1 b tb
  let l := s.hand.shape b 9
  if wordAt l 8 ≠ s.hand.csr.sew.toNat then s.trap (Trap.mk' .reservedField (BitVec.ofNat 64 (wordAt l 8))) else pure l

/-- The active elements within the record's volume. -/
def Hand.sweepElems (h : Hand) (m : BitVec 3) (l : List Word) (x : Reg64) : List Elem :=
  ((h.actives m).filter (fun e => e < recVol l)).map (fun e => ⟨e, recAddr l (recBase l x) e, fun t => t.atIjk l e⟩)

/-- vldw (R224): active elements at and above the volume get zero. -/
def execVldw (f : VReg) (s : State) : Host.Outcome State Fault Refusal :=
  vrun (.vldw f) s (fun s => do
    let a ← s.src 0 f.a f.ta
    let l ← s.sweepRec f.b f.tb
    s.vload f.d (s.hand.sweepElems f.m l a) ((s.hand.actives f.m).filter (fun e => recVol l ≤ e)))

/-- vstw (R224). -/
def execVstw (f : VReg) (s : State) : Host.Outcome State Fault Refusal :=
  vrun (.vstw f) s (fun s => do
    let a ← s.src 0 f.a f.ta
    let l ← s.sweepRec f.b f.tb
    s.vdata f.d
    s.vstore f.d true (s.hand.sweepElems f.m l a))

/-! ## Sequentially consistent accesses (R112 to R116, R225) -/

/-- The ticket that an element draws (R112): the counter's value, or in replay the recorded one (R394). -/
def State.nextTicket (s : State) : Nat :=
  match s.forced 6 (BitVec.ofNat 16 s.hand.id) with
  | none => s.mem.ticket
  | some l => leNat (l.take 8)

/-- One element of an SC access: its checks, then its ticket (an SC page draws none, R117). -/
def State.ticketElem (s0 : State) (a : Access) (x : Elem) : Run (State × Nat × Bool) := do
  let w := s0.hand.sewBytes
  s0.aligned a x.va w
  let (s, t, leaf) ← s0.xlook a x.va
  match t with
  | .plain k sc => do
    s.readable k w a.code
    let s := (s.reached leaf a t).watch x.va.toNat w a.writes x.e
    if sc then pure (s, k, true)
    else
      let tk := s.nextTicket
      let s := s.dudelOp 6 (BitVec.ofNat 16 s.hand.id) (BitVec.ofNat 64 s.hand.sched.retiredCount) (leBytes 8 tk ++ leBytes 4 x.e)
      pure ({ s with mem := { s.mem with ticket := tk + 1 } }, k, false)
  | _ => s0.trap { Trap.mk' .formatPath x.va with access := a.code }

/-- Does an SC access draw a ticket: does an element before its first fault reach an ordinary page (R112, R117)? -/
def State.draws (s : State) (a : Access) : List Elem → Bool
  | [] => false
  | x :: l => x.va.toNat % s.hand.sewBytes == 0 && (match s.look s.me a x.va.toNat with
    | .ok (_, .plain k sc, _) => (s.badKey k s.hand.sewBytes).isNone && (!sc || s.draws a l)
    | _ => false)

/-- An SC access that draws a ticket waits in replay until its recorded turn (R394). -/
def State.ticketTurn (s : State) (a : Access) (l : List Elem) : Run Unit :=
  if !s.draws a l || s.replayTurn 6 (BitVec.ofNat 16 s.hand.id) then .ok () else s.wait .order

/-- The elements of an SC access in turn. Where a stack that one of them needs is still coming up (R412), the access waits before its
first element, so that none draws two tickets (R112). -/
def State.inTurn {α : Type} (s : State) (r : Run α) : Run α :=
  match r with
  | .error (.wait q _) => s.wait q
  | r => r

/-- vldsq (R225): elements one at a time, ascending; those before a faulting one stay performed (R116). -/
def execVldsq (f : VUn) (s : State) : Host.Outcome State Fault Refusal :=
  vrun (.vldsq f) s (fun s => do
    let a ← s.src 0 f.a f.ta
    let l := s.hand.unit f.m a
    let s ← s.commits
    if l.isEmpty then pure s
    else do
      s.ticketTurn .ticketLoad l
      let s ← s.orderPoint
      let w := s.hand.sewBytes
      let (s, vals) ← s.inTurn (l.foldlM (fun (acc : State × List (Nat × Nat)) x => do
        let (s, k, _) ← tagged x (acc.1.ticketElem .ticketLoad x)
        pure (s, acc.2 ++ [(x.e, leNat ((upFrom k w).map s.mem.scByte))])) (s, []))
      let h := s.hand.setElems f.d vals
      pure (s.put (h.produce (.vector f.d.toNat h.grpN) (some 1))).memBeats)

/-- vstsq (R225): no later SCA, VEC or LNK access begins before its last element has performed (R114). -/
def execVstsq (f : VUn) (s : State) : Host.Outcome State Fault Refusal :=
  vrun (.vstsq f) s (fun s => do
    let a ← s.src 0 f.a f.ta
    s.vdata f.d
    let l := s.hand.unit f.m a
    let s ← s.commits
    if l.isEmpty then pure s
    else do
      s.ticketTurn .ticketStore l
      let s ← s.orderPoint
      let w := s.hand.sewBytes
      let s ← s.inTurn (l.foldlM (fun (s : State) x => do
        let (s, k, sc) ← tagged x (s.ticketElem .ticketStore x)
        let b := leBytes w (s.hand.elem f.d x.e)
        pure (if sc then s.storeSc 1 [] k b else s.storeLive 1 [] k b)) s)
      pure s.passPoint.memBeats)

/-! ## Bench tiles (R226) -/

/-- The tile of a vldb or vstb. -/
def benchTile (f : VBench) : Nat := f.a.toNat + 32 * f.j.toNat

/-- The elements of a bench access: number and offset in the tile, modulo 2^64 (R216), all within it. -/
def State.benchElems (s : State) (f : VBench) (x : Reg64) (t : Tile) : Run (List (Nat × Nat)) :=
  let w := s.hand.sewBytes
  let l := (s.hand.actives f.m).map (fun e => (e, (x + BitVec.ofNat 64 (e * w)).toNat))
  match l.find? (fun eo => t.size < eo.2 + w) with
  | some (e, o) => s.trap ((Trap.mk' .tileState (BitVec.ofNat 64 o)).at' e)
  | none => .ok l

/-- The register offset of a bench access, a multiple of the element width. Otherwise MISALIGNED is raised whatever VL and the mask are,
with TIDX0 0: R226 makes it a rule of x[B] and gives no element for it (the model's choice, log 120). -/
def State.benchOffset (s : State) (a : Access) (f : VBench) : Run Reg64 := do
  let x ← s.src 1 f.b f.tb
  s.aligned a x s.hand.sewBytes
  pure x

/-- vldb (R226): gated on READY (Table 3.4), it sees what has landed (R87). A watchpoint sees the tile's bytes at their window
addresses (R390). -/
def execVldb (f : VBench) (s : State) : Host.Outcome State Fault Refusal :=
  vrun (.vldb f) s (fun s => do
    let x ← s.benchOffset .load f
    s.sound 7 0
    let t := s.tile s.hand.core (benchTile f)
    if t.state ≠ 2 then s.tileWait
    else do
      let l ← s.benchElems f x t
      let w := s.hand.sewBytes
      let (s, vals) ← l.foldlM (fun (acc : State × List (Nat × Nat)) eo => do
        let k := t.key s.hand.core eo.2
        tagged (Elem.at' eo.1 0) (acc.1.readable k w 0)
        tagged (Elem.at' eo.1 0) (acc.1.soundBuffer k w)
        let (s, b) := ((acc.1.watch (Config.benchWindow + 64 * t.base + eo.2) w false eo.1).rebuilds k w).tileBytes t.since k w
        pure (s, acc.2 ++ [(eo.1, leNat b)])) (s, [])
      let h := s.hand.setElems f.d vals
      let h := if vals.isEmpty then h else h.produce (.vector f.d.toNat h.grpN) (some 1)
      pure (s.put h).memBeats)

/-- vstb (R226): gated on EMPTY or READY; its stores are hand stores to the bench. -/
def execVstb (f : VBench) (s0 : State) : Host.Outcome State Fault Refusal :=
  vrun (.vstb f) s0 (fun s => do
    let x ← s.benchOffset .store f
    s.sound 7 0
    s.vdata f.d
    let t := s.tile s.hand.core (benchTile f)
    if t.state ≠ 0 ∧ t.state ≠ 2 then s.tileWait
    else do
      let l ← s.benchElems f x t
      let w := s.hand.sewBytes
      let s ← s0.undone (l.foldlM (fun (s : State) eo =>
        (s.watch (Config.benchWindow + 64 * t.base + eo.2) w true eo.1).storePlain 1 [] none (t.key s.hand.core eo.2)
          (leBytes w (s.hand.elem f.d eo.1))) s)
      pure s.memBeats)

/-! ## The linked path -/

/-- The set of a line in its home field cache (R57, R65, log 19): the slice in service, and the set in it. -/
def State.cacheSet (s : State) (line : Nat) : Nat × Nat :=
  let out := (s.field (homeField (line * 128))).slicesOut
  let slice := line % 16
  (((upFrom slice 16).map (· % 16)).find? (fun k => !out.contains k) |>.getD slice, line / 16 % 1536)

/-- Is the line's set full of other pinned lines, so that it is served without allocation (R59)? -/
def State.noWay (s : State) (line : Nat) : Bool :=
  let here := s.cacheSet line
  let fld := homeField (line * 128)
  let pinned := s.mem.tags.filter (fun kt =>
    kt.2.pinned && kt.1 != line && homeField (kt.1 * 128) == fld && decide (s.cacheSet kt.1 = here))
  (mfind s.mem.tags line).isNone && decide (16 ≤ pinned.length)

/-- The tagged lines of a line's set other than the line itself, the least recently used first (R57). -/
def State.tagsOfSet (s : State) (line : Nat) : List (Nat × Tag) :=
  let l := s.mem.tags.filter (fun kt => kt.1 != line && homeField (kt.1 * 128) == homeField (line * 128) &&
    decide (s.cacheSet kt.1 = s.cacheSet line))
  l.mergeSort (fun a b => decide (a.2.used ≤ b.2.used))

/-- Evicting a tagged line (R58), recorded as linked-path order of the hand whose link breaks (R393). -/
def State.evict (s : State) (line : Nat) : State :=
  match mfind s.mem.tags line with
  | none => s
  | some t =>
    let n := ((s.handOf t.hand).map (fun h => h.sched.retiredCount)).getD 0
    (s.dudelOp 4 (BitVec.ofNat 16 t.hand) (BitVec.ofNat 64 n) (evictionPayload line)).clearTag line

/-- The line takes a way of its set: of 16 tagged lines there the least recently used unpinned one gives way (R57); in replay the log
says which line does (R394). -/
def State.makeWay (s : State) (line : Nat) : State :=
  let l := s.tagsOfSet line
  if (mfind s.mem.tags line).isSome ∨ l.length < 16 ∨ s.dudel.replay then s
  else match l.find? (fun kt => !kt.2.pinned) with
    | some kt => s.evict kt.1
    | none => s

/-- May an unpinned tagged line be the next that its set gives up: no unpinned one was used less recently (R57)? -/
def State.leastUsed (s : State) (line : Nat) (t : Tag) : Bool :=
  !t.pinned && !((s.tagsOfSet line).any (fun kt => !kt.2.pinned && decide (kt.2.used < t.used)))

/-- Linking a line for the current hand (R58, R59, R106). -/
def State.link (s : State) (line : Nat) : State :=
  if s.noWay line then s
  else
    let s := s.makeWay line
    let already := s.hand.ord.pins.contains line
    let s := match mfind s.mem.tags line with
      | some t => if t.hand = s.hand.id then s else s.clearTag line
      | none => s
    let pin := already || decide (s.hand.ord.pins.length < Config.pinLimit)
    let s := { s with mem := { s.mem with tags := mins s.mem.tags line ⟨s.hand.id, s.hand.ord.serial, pin, s.mem.nextUse⟩ } }
    if pin && !already then s.put { s.hand with ord := { s.hand.ord with pins := s.hand.ord.pins ++ [line] } } else s

/-- Is the line's link intact for the current hand (R107)? -/
def State.intact (s : State) (line : Nat) : Bool :=
  match mfind s.mem.tags line with
  | some t => t.hand == s.hand.id && t.serial == s.hand.ord.serial
  | none => false

/-- Where a linked element goes: its number, the byte, whether the page is SC, and the leaf whose A and D it sets if it performs. -/
structure LinkTo where
  e : Nat
  key : Nat
  sc : Bool
  leaf : Option Leaf

/-- A linked element's target: a plain byte of memory. -/
def State.linkTarget (s0 : State) (a : Access) (x : Elem) : Run (State × LinkTo) := do
  let w := s0.hand.sewBytes
  s0.aligned a x.va w
  let (s, t, leaf) ← s0.xlook a x.va
  match t with
  | .plain k sc => do
    s.readable k w a.code
    pure (s.watch x.va.toNat w a.writes x.e, ⟨x.e, k, sc, leaf⟩)
  | _ => s0.trap { Trap.mk' .formatPath x.va with access := a.code }

/-- The targets of all linked elements, in element order. No leaf is marked yet (R38). -/
def State.linkTargets (s : State) (a : Access) (l : List Elem) : Run (State × List LinkTo) :=
  l.foldlM (fun (acc : State × List LinkTo) x => do
    let (s, t) ← tagged x (acc.1.linkTarget a x)
    pure (s, acc.2 ++ [t])) (s, [])

/-- A linked element performs (R38). -/
def State.linkReached (s : State) (a : Access) (t : LinkTo) : State := s.reached t.leaf a (.plain t.key t.sc)

/-- Recording a line's linked-path order (R393): its address, and the positions that succeeded among its elements. -/
def State.linkOp (s : State) (line mask : Nat) : State :=
  s.dudelOp 4 (BitVec.ofNat 16 s.hand.id) (BitVec.ofNat 64 s.hand.sched.retiredCount)
    (leBytes 8 (line * 128) ++ leBytes 13 mask)

/-- In replay a linked access waits for its turn. -/
def State.linkTurn (s : State) : Run Unit :=
  if s.replayTurn 4 (BitVec.ofNat 16 s.hand.id) then .ok () else s.wait .order

/-- vgl (R106, R228): live values; each line is linked after it is read. A page with SC set makes it an order point
(R46, log 20). -/
def execVgl (f : VReg) (s : State) : Host.Outcome State Fault Refusal :=
  vrun (.vgl f) s (fun s => do
    let a ← s.src 0 f.a f.ta
    s.vsrc 1 f.b s.hand.grpN f.tb
    let l := s.hand.indexed f.m a f.b
    if l.isEmpty then pure s
    else do
      s.linkTurn
      let (s, ts) ← s.linkTargets .linked l
      let s ← if ts.any (·.sc) then s.orderPoint else pure s
      let w := s.hand.sewBytes
      let lines := distinct (ts.map (fun t => lineOf t.key))
      let (s, vals) := lines.foldl (fun (acc : State × List (Nat × Nat)) line =>
        let (s, vs) := (ts.filter (fun t => lineOf t.key == line)).foldl (fun (acc : State × List (Nat × Nat)) t =>
          let (s, v) := ((acc.1.linkReached .linked t).rebuilds t.key w).linkedRead t.key w
          (s, acc.2 ++ [(t.e, v)])) acc
        ((s.link line).linkOp line 0, vs)) (s, [])
      let h := s.hand.setElems f.d vals
      pure (s.put (h.produce (.vector f.d.toNat h.grpN) (some 2))).memBeats)

/-- Does a line of a vsc succeed: its link is intact (R107), or in replay the log records so (R394)? -/
def State.lineSucceeds (s : State) (line : Nat) : Bool :=
  match s.forced 4 (BitVec.ofNat 16 s.hand.id) with
  | none => s.intact line
  | some l => if leNat (l.take 8) = 128 * line then leNat (l.drop 8) != 0 else s.intact line

/-- One line of a vsc (R107): the state, and the elements that wrote; of repeated offsets the highest element's data stay (R76). -/
def State.vscLine (s : State) (d : Fld5) (line : Nat) (ts : List LinkTo) : State × List Nat :=
  let w := s.hand.sewBytes
  let mine := ts.filter (fun t => lineOf t.key == line)
  if s.lineSucceeds line then
    let lanes (t : LinkTo) : List Nat := (mine.filter (fun u => u.key == t.key)).map (fun u => u.e * w % 1024 / 4)
    let s := mine.foldl (fun (s : State) t => s.linkReached .vsc t) s
    let s := (mine.filter (fun t => !(mine.any (fun u => u.key == t.key && decide (t.e < u.e))))).foldl (fun (s : State) t =>
      let b := leBytes w (s.hand.elem d t.e)
      if t.sc then s.storeSc 2 (lanes t) t.key b else s.storeLive 2 (lanes t) t.key b) s
    (s.linkOp line (2 ^ mine.length - 1), mine.map (·.e))
  else (s.linkOp line 0, [])

/-- vsc (R107, R229): a commit point; every check precedes the first line. -/
def execVsc (f : VscF) (s : State) : Host.Outcome State Fault Refusal :=
  vrun (.vsc f) s (fun s => do
    let a ← s.src 0 f.a f.ta
    s.vsrc 1 f.b s.hand.grpN f.tb
    s.vdata f.d
    let s ← s.commits
    let l := s.hand.indexed f.m a f.b
    if l.isEmpty then pure (s.put (s.hand.putPred f.p []))
    else do
      s.linkTurn
      let (s, ts) ← s.linkTargets .vsc l
      let s ← if ts.any (·.sc) then s.orderPoint else pure s
      let lines := distinct (ts.map (fun t => lineOf t.key))
      let (s, good) := lines.foldl (fun (acc : State × List Nat) line =>
        let (s, g) := acc.1.vscLine f.d line ts
        (s, acc.2 ++ g)) (s, [])
      pure (s.put (s.hand.putPred f.p good)).memBeats)

end Sys2Proof.Machine
end

