-- ==== Sys2Proof/Machine/Msync.lean ====
section
/-! DEFINITION. MSYNC: fences (R80, R121, R232), phases (R91 to R103), live waits (R118, R233), unlink (R230). -/

namespace Sys2Proof.Machine

/-! ## Fences -/

/-- Ordering class `a` before class `b` from here on (Table 4.1, R121); linked reads of completion words count as the
LNK class (R124). -/
def Order.orders (o : Order) (a b : Nat) : Order :=
  let o := o.setFence a b
  if a = 2 then { o with links := o.links.map (fun tl => if tl.2 / 2 ^ b % 2 = 1 then tl else (tl.1, tl.2 + 2 ^ b)) } else o

/-- What an xfence to STR discards (R121): all that the stream engine has read ahead, so that later pops read afresh (R123). -/
def Hand.afresh (h : Hand) (b : Nat) : Hand :=
  if b = 4 then { h with streams := h.streams.map (Option.map Stream.afresh) } else h

/-- A fence between the scalar and the vector path: it waits for the earlier class and drains nothing. -/
def fence (a b : Nat) (f : GF) (s : State) : Host.Outcome State Fault Refusal :=
  guarded s f.g (fun s =>
    if s.hand.classQuiet a then
      pure ({ s with hand := { s.hand with ord := s.hand.ord.orders a b } }.retire 4)
    else s.wait .order)

/-- fence.sv (R232). -/
def execFenceSv (f : GF) (s : State) : Host.Outcome State Fault Refusal := fence 0 1 f s
/-- fence.vs (R232). -/
def execFenceVs (f : GF) (s : State) : Host.Outcome State Fault Refusal := fence 1 0 f s
/-- fence.vv (R232). -/
def execFenceVv (f : GF) (s : State) : Host.Outcome State Fault Refusal := fence 1 1 f s

/-- complete_before of Table 6.2 for the current hand. An exchange that an uncorrectable error stopped never completes (Table 3.6). -/
def State.completeBefore (s : State) (a : Nat) : Bool :=
  let h := s.hand
  match a with
  | 0 | 1 | 2 => h.classQuiet a
  | 3 => h.csr.cpydone == h.csr.cpyseq
  | 5 => h.jobs.isEmpty
  | 6 => !(s.xchgs.any (fun x => x.hand == some h.id && decide (x.round < x.n)))
  | _ => true

/-- xfence (R121): SCA, SCA and LNK, LNK wait for nothing; a later LNK or engine class is a commit point. -/
def execXfence (f : ClsG) (s : State) : Host.Outcome State Fault Refusal :=
  guarded s f.g (fun s => do
    let a := f.a.toNat
    let b := f.b.toNat
    let s ← if 2 ≤ b then s.commits else pure s
    if a = b ∧ (a = 0 ∨ a = 2) ∨ s.completeBefore a then
      pure ({ s with hand := { s.hand with ord := s.hand.ord.orders a b }.afresh b }.retire 4)
    else s.wait .order)

/-! ## Phases -/

/-- Does the hand's task run on several devices? -/
def State.inGang (s : State) (h : Hand) : Bool := ((s.taskOf h.task).map (fun t => decide (1 < t.gangn))).getD false

/-- The scope under which an instance is kept: POD is PKG for a task on one device (R111). -/
def State.scopeKey (s : State) (h : Hand) (scope : Nat) : Nat := if scope = 5 ∧ !s.inGang h then 4 else scope

/-- The unit of a hand's instance, from its dispatch core (R91). -/
def unitOf (scope core : Nat) : Nat :=
  match scope with
  | 1 => core
  | 2 => core / 4
  | 3 => core / Config.coresPerField
  | _ => 0

/-- An instance no one has arrived at. -/
def Instance.fresh (scope unit : Nat) : Instance := ⟨scope, unit, 0, [], [], [], false⟩

/-- An instance of a task. -/
def Task.inst (t : Task) (scope unit : Nat) : Instance :=
  (t.instances.find? (fun i => i.scope == scope && i.unit == unit)).getD (Instance.fresh scope unit)

/-- Replacing an instance of a task. -/
def Task.setInst (t : Task) (i : Instance) : Task :=
  { t with instances := i :: t.instances.filter (fun j => !(j.scope == i.scope && j.unit == i.unit)) }

/-- The current hand's instance at a kept scope. -/
def State.myInst (s : State) (scope : Nat) : Instance :=
  let u := unitOf scope s.hand.dispatchCore
  ((s.taskOf s.hand.task).map (fun t => t.inst scope u)).getD (Instance.fresh scope u)

/-- Stores, groups and scatter elements of the hand that no acknowledgement has returned for (R100). -/
def Hand.unacked (h : Hand) : Bool := !h.ord.acks.isEmpty || h.producers.any (fun p => p.dest == .memory && p.cls.isSome)

/-- Engine commands of the current hand that have not completed (R100). -/
def State.commandsDone (s : State) : Bool := s.completeBefore 3 && s.completeBefore 5 && s.completeBefore 6

/-- Arriving at an instance (R94): the arrival counts, and the hand's writes precede the phase end. -/
def State.arrive (s : State) (scope : Nat) : State :=
  let h := s.hand
  let u := unitOf scope h.dispatchCore
  let n := mget 0 (s.myInst scope).arrivals h.member
  let s := s.modTask h.task (fun t =>
    let i := t.inst scope u
    t.setInst { i with arrivals := mput 0 i.arrivals h.member (n + 1), clock := i.clock.join (s.fullClock h) })
  { s with hand := { s.hand with arrived := some ⟨scope, n, h.pc⟩ } }

/-- Departing from phase end n (R96, R100): the phase number, the link serial, the snapshot, a new epoch (R60), and the
clearing of Table 7.10. -/
def State.depart (s : State) (scope n : Nat) : State :=
  let h := s.hand
  let h := { h with arrived := none, ord := { h.ord with seen := mput 0 h.ord.seen scope (n + 1), epoch := h.ord.epoch + 1 } }
  let h := (h.refresh (s.mem.pubFor h) s.mem.tokens.length).clearStripLocal
  ({ s with hand := h }).advanceSerial

/-- The steps of phend after its arrival (R100): the wait for the phase end, and the departure. -/
def State.afterArrival (s : State) (ar : Arrived) : Run State :=
  if ar.number < (s.myInst ar.scope).number then pure ((s.depart ar.scope ar.number).dropGrant.retire 4)
  else do
    s.atPoint .phend
    s.dropGrant.wait .phend

/-- phend (R100, R102): after arrival it waits for the phase end and departs; a landing before or after stands, and an instruction that has
arrived does not test its guard again. Where a trap is taken in the hand between, GANG-ABORT or a FORWARD, R357 would take the arrival
back and R102 has it stand: it stands, and the next phend of any scope that the hand executes finishes it (the model's choice,
log 117). -/
def execPhend (f : ScopeG) (s : State) : Host.Outcome State Fault Refusal :=
  match s.hand.arrived.filter (fun ar => ar.pc == s.hand.pc) with
  | some ar => finish (s.afterArrival ar)
  | none => guarded s f.g (fun s =>
    match s.hand.arrived with
    | some ar => s.afterArrival ar
    | none => do
      let s ← s.commits
      s.atPoint .phend
      let s := s.dropGrant
      if s.hand.unacked || !s.commandsDone then s.wait .phend
      else (s.arrive (s.scopeKey s.hand f.a.toNat)).wait .phend)

/-- phase (R103): the hand's own phase number. -/
def execPhase (f : DAG) (s : State) : Host.Outcome State Fault Refusal :=
  guarded s f.g (fun s => do
    s.dest f.d
    let n := mget 0 s.hand.ord.seen (s.scopeKey s.hand f.a.toNat)
    pure ((s.setX f.d (BitVec.ofNat 64 n)).retire 4))

/-- The members of an instance on this device: hands of the task whose dispatch cores lie in it (R92). -/
def State.membersOf (s : State) (task scope unit : Nat) : List Hand :=
  s.allHands.filter (fun h => h.task == task && unitOf scope h.dispatchCore == unit)

/-- A hand as a storing agent. -/
def Hand.storer (h : Hand) : Writer := ⟨h.task, false, h.id, h.id, h.ord.epoch⟩

/-- Performing a held byte of a hand once the barrier completes (R62): an image only when the line has none of the
task; none when the heel has no room. -/
def State.performHeld (s : State) (h : Hand) (b : Buffered) : Option State :=
  let s' := if s.mem.heel.any (fun i => i.task == h.task && i.line == lineOf b.key) then some s else s.retain h.storer b.key
  s'.map (fun s => s.stamp h.task h.member b.seq b.key b.val true)

/-- All held stores of a hand; while one still lacks room, the field in which it does. -/
def State.performAllHeld (s : State) (h : Hand) : Except Nat State := do
  let s ← (h.strip.ssb.filter (fun b => b.held)).foldlM (fun (s : State) (b : Buffered) => match s.performHeld h b with
    | some s => .ok s
    | none => .error (homeField b.key)) s
  pure (s.modHand h.id (fun g => { g with strip := { g.strip with ssb := g.strip.ssb.filter (fun b => !b.held) } }))

/-- Settling (R98): every byte that a member wrote in the phase holds the survivor of the task's writes that happen
before the departures; a byte that only deliveries into a tile wrote holds what was delivered (R126). It is a store that reaches the
line, whatever the byte held (R58). A store still held (R62) of a hand that is no member, handed on by a seat's release, is none of them: it
reaches the line at a phase end of its own hand (R98 counts it, R62 and R109 keep it back: the model's choice, log 116). -/
def State.settle (s : State) (t : Task) (members : List Nat) (prev clock : Clock) : State :=
  let within (w : Wr) : Bool := Clock.covers clock w && w.perf != 0
  let keys := distinct ((t.log.filter (fun w => within w && members.contains w.member && !(Clock.covers prev w) &&
    !w.tile)).map (·.key))
  keys.foldl (fun s k => match survivor (t.log.filter (fun w => w.key == k && within w)) with
    | some w => s.stamp t.id w.member w.seq k w.val false
    | none => s) s

/-- Heel images of a task collapse to the oldest of each line (R61). -/
def collapseHeel (task : Nat) : List HeelImage → List HeelImage → List HeelImage
  | acc, [] => acc.reverse
  | acc, i :: l =>
    if i.task == task && !i.byCmd && acc.any (fun j => j.task == task && !j.byCmd && j.line == i.line) then collapseHeel task acc l
    else collapseHeel task (i :: acc) l

/-- A phase end that is due stalls for heel room in a field (R62): counted once there, and in its members' strip records. -/
def State.phaseStalls (s : State) (e : InstEv) (f : Nat) (ids : List Nat) : State :=
  let s := s.modTask e.task (fun t => t.setInst { t.inst e.scope e.unit with stalled := true })
  let s := s.modField f (fun fl => { fl with heelStalls := fl.heelStalls + 1 })
  ids.foldl (fun s id => s.modHand id (fun h => h.stalled true)) s

/-- Members of a POD instance on other devices that wrote here by cpy.peer (R111): their writes stand in the task's log, and precede a
phase end, because phend waits for the command (R100). -/
def Task.remote (t : Task) (scope : Nat) (here : List Nat) : List Nat :=
  if scope = 5 then distinct ((t.log.filter (fun w => engineClass w.cls && !here.contains w.member)).map (·.member)) else []

/-- The writes of some members as a clock. -/
def Task.clockOf (t : Task) (members : List Nat) : Clock :=
  (t.log.filter (fun w => members.contains w.member)).foldl (fun (c : Clock) w => (c.join w.prec).join w.clock) []

/-- A living member whose held stores are to be performed from a buffer that no longer decodes (R74). -/
def State.badHeld (s : State) (ms : List Hand) : Option (Nat × Trap) :=
  ms.findSome? (fun h => if h.status = .retired then none
    else (h.strip.ssb.find? (fun b => b.held)).bind (fun b => (s.badOf h.id 6 (placeOf b.key)).map (fun t => (h.id, t))))

/-- A phase end completes (R94, R98): when every member on this device has arrived once more or is retired. Members on
other devices are the environment's (log 21); what they wrote here settles with the rest (R111, R124). -/
def execPhaseEndComplete (e : InstEv) (s : State) : Host.Outcome State Fault Refusal :=
  .next (match s.taskOf e.task with
  | none => s
  | some t =>
    let ms := s.membersOf e.task e.scope e.unit
    let i := t.inst e.scope e.unit
    let ready := ms.all (fun h => h.status == .retired || decide (i.number < mget 0 i.arrivals h.member))
    if ms.isEmpty || ms.all (fun h => h.status == .retired) || !ready then s
    else if let some (id, t) := s.badHeld ms then s.engineError id t
    else match ms.foldlM (fun s h => s.performAllHeld h) s with
      | .error f => if i.stalled then s else s.phaseStalls e f (ms.map (·.id))
      | .ok s =>
        let t := (s.taskOf e.task).getD t
        let away := t.remote e.scope (t.hands.map (·.1))
        let clock := (ms.filter (fun h => h.status == .retired)).foldl (fun c h => Clock.join c (s.fullClock h)) i.clock
        let clock := clock.join (t.clockOf away)
        let s := s.settle t (ms.map (·.member) ++ away) i.prev clock
        let whole := (decide (t.gangn ≤ 1) || e.scope == 5) && s.allHands.all (fun h => h.task != e.task || ms.any (fun m => m.id == h.id))
        let s := if whole then { s with mem := { s.mem with heel := collapseHeel e.task [] s.mem.heel } } else s
        let s := s.modTask e.task (fun t => t.setInst { i with number := i.number + 1, clock := clock, prev := clock, stalled := false })
        let before := s.preceding e.task clock
        ms.foldl (fun s m => s.modHand m.id (fun h => if h.arrived.isSome then h.receive clock before else h)) s)

/-! ## Live waits -/

/-- waitge and waitne (R118, R233). Only the read that returns is a linked read, and enters the linked-path order (R393); in replay it
returns in its recorded turn (R394). -/
def liveWait (done : Reg64 → Reg64 → Bool) (f : ABG) (s : State) : Host.Outcome State Fault Refusal :=
  guarded s f.g (fun s => do
    let a ← s.src 0 f.a f.ta
    let v ← s.src 1 f.b f.tb
    s.aligned .linked a 8
    let (s, t, leaf) ← s.xlook .linked a
    match t with
    | .plain k sc => do
      s.readable k 8 3
      let s ← s.commits
      s.atPoint .live
      let s ← if sc then s.orderPoint else pure s
      let s := ((s.reached leaf .linked t).watch a.toNat 8 false 0).rebuilds k 8
      if done (s.live64 k) v && s.replayTurn 4 (BitVec.ofNat 16 s.hand.id) then
        pure (((s.linkedRead k 8).1.linkOp (lineOf k) 0).clearAtPoint.retire 4)
      else s.dropGrant.wait .live
    | _ => s.trap { Trap.mk' .formatPath a with access := 3 })

/-- waitge (R233). -/
def execWaitge (f : ABG) (s : State) : Host.Outcome State Fault Refusal := liveWait (fun m v => !m.ult v) f s

/-- waitne (R233). -/
def execWaitne (f : ABG) (s : State) : Host.Outcome State Fault Refusal := liveWait (fun m v => m != v) f s

/-- unlink (R230). -/
def execUnlink (f : GF) (s : State) : Host.Outcome State Fault Refusal :=
  guarded s f.g (fun s => pure (s.advanceSerial.retire 4))

end Sys2Proof.Machine
end

