-- ==== Sys2Proof/Machine/Seat.lean ====
section
/-! DEFINITION. Objects and seats (R324 to R337), the hand-off of R88. -/

namespace Sys2Proof.Machine

/-! ## Objects and handles -/

/-- Objects and seats of a field, and handles of an inbox (R324, R333). -/
def objectsPerField : Nat := 4096
/-- Objects of the device. -/
def objectCount : Nat := 24576
/-- Seats a field stores. -/
def seatStorage : Nat := 65536
/-- Handles an inbox holds. -/
def inboxSize : Nat := 16

/-- The object and number that a handle names; none when it is malformed (R325, R329). -/
def seatName (x : Reg64) : Option (Nat × BitVec 17) :=
  if x.toNat / 2 ^ 32 ≠ 0 ∨ 5 < x.toNat / 2 ^ 29 then none
  else some (x.toNat / 2 ^ 29 * objectsPerField + x.toNat / 2 ^ 17 % objectsPerField, BitVec.ofNat 17 x.toNat)

/-- The handle of a seat of an object (Table 16.4). -/
def seatHandle (obj : Nat) (n : BitVec 17) : BitVec 32 :=
  BitVec.ofNat 32 (obj / objectsPerField * 2 ^ 29 + obj % objectsPerField * 2 ^ 17 + n.toNat)

/-- The seat of a number in a queue. -/
def SeatObj.find (o : SeatObj) (n : BitVec 17) : Option Seat := o.queue.find? (fun q => q.number == n)

/-- An object after reset: its queue is empty and its counter 0 (R324, R326). The spec gives its owning ASID no reset value: the model's
is 0 (log 29). -/
def SeatObj.atReset : SeatObj := ⟨0, 0, []⟩

/-- An object: every one always exists (R324). -/
def State.seatObj (s : State) (obj : Nat) : SeatObj := mget SeatObj.atReset s.seats obj
/-- Replacing an object. -/
def State.putObj (s : State) (obj : Nat) (o : SeatObj) : State := { s with seats := mput SeatObj.atReset s.seats obj o }

/-- The seat that an object and number name. -/
def State.seatAt (s : State) (obj : Nat) (n : BitVec 17) : Option Seat := (s.seatObj obj).find n

/-- STATE of R326 of the seat that a handle names: 3 when it is not in storage. -/
def State.seatState (s : State) (x : Reg64) : Nat :=
  (((seatName x).bind (fun on => s.seatAt on.1 on.2)).map (·.state)).getD 3

/-- Changing one seat. -/
def State.modSeat (s : State) (obj : Nat) (n : BitVec 17) (f : Seat → Seat) : State :=
  let o := s.seatObj obj
  s.putObj obj { o with queue := o.queue.map (fun q => if q.number = n then f q else q) }

/-- Seats that a field stores. -/
def State.seatsUsed (s : State) (fld : Nat) : Nat :=
  s.seats.foldl (fun a ko => if ko.1 / objectsPerField = fld then a + ko.2.queue.length else a) 0

/-- SEAT-STATE with its value and the STATE of the seat that x[A] names (R337). -/
def seatTrap (v : Reg64) (st : Nat) : Trap := (Trap.mk' .seatState v).at' st

/-! ## Release and fold (R332) -/

/-- The queue without the folded seats at its head; its first seat owns, with what a release hands on. -/
def promote (given : Nat × Clock) : List Seat → List Seat
  | [] => []
  | q :: l => if q.state = 2 then promote given l else { q with state := 1, released := some given } :: l

/-- Releasing the OWNER seat at the head of an object's queue (R332), with the writes of hand `h`: all of them when it has
retired (R88 step 4). -/
def State.releaseSeat (s : State) (obj : Nat) (h : Hand) : State :=
  let o := s.seatObj obj
  let given := if h.status = .retired then s.fullClock h else s.clockOf h
  s.putObj obj { o with queue := promote (h.task, given) (o.queue.drop 1) }

/-- Folding a seat (R332): an OWNER is released, a WAITING one stays in the queue. -/
def State.foldSeat (s : State) (obj : Nat) (n : BitVec 17) (h : Hand) : State :=
  match s.seatAt obj n with
  | none => s
  | some q =>
    if q.state = 1 then s.releaseSeat obj h
    else if q.state = 0 then s.modSeat obj n (fun q => { q with state := 2, holder := none })
    else s

/-- The seats that a hand holds, by object, then in queue order. -/
def State.heldSeats (s : State) (id : Nat) : List (Nat × BitVec 17) :=
  (s.seats.map (fun ko => (ko.2.queue.filter (fun q => q.holder == some id)).map (fun q => (ko.1, q.number)))).flatten

/-- Recording an operation of an object's seat order (R327, R393) by a hand: object id, FN, handle. -/
def State.seatNote (s : State) (h : Hand) (obj fn handle : Nat) : State :=
  s.dudelOp 5 (BitVec.ofNat 16 h.id) (BitVec.ofNat 64 h.sched.retiredCount) (leBytes 4 obj ++ leBytes 1 fn ++ leBytes 4 handle)

/-- The seats that a hand folds at its retirement (R336): those it holds, then those in its inbox. -/
def State.foldsOf (s : State) (h : Hand) : List (Nat × BitVec 17) :=
  s.heldSeats h.id ++ h.inbox.filterMap (fun x => seatName (x.setWidth 64))

/-- R336: at retirement a hand folds every seat it holds and every seat in its inbox, each an operation of its object's seat order as
seatf is (R327). -/
def State.foldAll (s : State) (h : Hand) : State :=
  (s.foldsOf h).foldl (fun s on => (s.foldSeat on.1 on.2 h).seatNote h on.1 3 (seatHandle on.1 on.2).toNat) s

/-! ## What every seat instruction does first -/

/-- A hand of a paired task is refused seats (R385). -/
def State.unpaired (s : State) (x : Reg64) : Run Unit :=
  if s.me.side = .single then .ok () else s.trap (seatTrap x (s.seatState x))

/-- In replay, an operation waits for its turn (R394). -/
def State.seatTurn (s : State) : Run Unit :=
  if s.replayTurn 5 (BitVec.ofNat 16 s.hand.id) then .ok () else s.wait .order

/-- Recording a seat operation of the current hand (R393). -/
def State.seatDone (s : State) (obj fn handle : Nat) : State := s.seatNote s.hand obj fn handle

/-- A release waits until every earlier access of the hand on its paths has performed, its stores acknowledged (Table 4.1, R88).
A store that the strip store buffer still holds is not waited for, and the next owner reads it: the spec leaves open how R88's hand-off
meets R82's hiding (the model's choice, log 106). -/
def State.beforeRelease (s : State) : Run Unit :=
  if s.hand.classQuiet 0 && s.hand.classQuiet 1 && s.hand.classQuiet 2 then .ok () else s.wait .order

/-- R329's first check: a well-formed handle of an object that the hand's ASID owns. -/
def State.seatOf (s : State) (x : Reg64) : Run (Nat × BitVec 17) :=
  match seatName x with
  | none => s.trap (seatTrap x 3)
  | some (obj, n) =>
    if (s.seatObj obj).asid = s.hand.asid then .ok (obj, n) else s.trap (seatTrap (BitVec.ofNat 64 obj) (s.seatState x))

/-- R329's second check: the hand holds the seat. -/
def State.seatHeld (s : State) (x : Reg64) : Run (Nat × Seat) := do
  let (obj, n) ← s.seatOf x
  match s.seatAt obj n with
  | none => s.trap (Trap.mk' .seatNotHeld x)
  | some q => if q.holder = some s.hand.id then pure (obj, q) else s.trap (Trap.mk' .seatNotHeld x)

/-- What a taker of ownership receives (R88, R96): its snapshot is refreshed, and writes of its own task handed on by the
release or the passer happen before its next access. -/
def State.receiveSeat (s : State) (obj : Nat) (q : Seat) : State :=
  let gifts := ([q.released, q.passed].filterMap id).filter (fun g => g.1 == s.hand.task)
  let h := gifts.foldl (fun (h : Hand) g => h.receive g.2 (s.preceding s.hand.task g.2))
    (s.hand.refresh (s.mem.pubFor s.hand) s.mem.tokens.length)
  (s.put h).modSeat obj q.number (fun q => { q with released := none, passed := none })

/-! ## Seat instructions (R330 to R335) -/

/-- seatq (R330). -/
def execSeatq (f : UnG) (s : State) : Host.Outcome State Fault Refusal :=
  guarded s f.g (fun s => do
    let x ← s.src 0 f.a f.ta
    s.dest f.d
    let s ← s.commits
    if s.me.side ≠ .single then s.trap (seatTrap x 3)
    else if objectCount ≤ x.toNat then s.trap (seatTrap x 3)
    else
      let o := s.seatObj x.toNat
      if o.asid ≠ s.hand.asid then s.trap (seatTrap x 3)
      else if seatStorage ≤ s.seatsUsed (x.toNat / objectsPerField) then s.trap (Trap.mk' .seatCapacity x)
      else do
        s.seatTurn
        let q : Seat := ⟨o.next, if o.queue.isEmpty then 1 else 0, some s.hand.id, none, none⟩
        let s := s.putObj x.toNat { o with next := o.next + 1, queue := o.queue ++ [q] }
        let hd := seatHandle x.toNat q.number
        pure (((s.seatDone x.toNat 0 hd.toNat).result f.d (hd.setWidth 64)).retire 4))

/-- seatw (R331): a point of Table 7.10. -/
def execSeatw (f : SeatA) (s : State) : Host.Outcome State Fault Refusal :=
  guarded s f.g (fun s => do
    let x ← s.src 0 f.a f.ta
    let s ← s.commits
    s.unpaired x
    let (obj, q) ← s.seatHeld x
    s.atPoint .seatw
    if q.state ≠ 1 then s.dropGrant.wait .seatw
    else do
      s.seatTurn
      let s := s.receiveSeat obj q
      pure ((s.seatDone obj 1 x.toNat).clearAtPoint.retire 4))

/-- seatr (R332). -/
def execSeatr (f : SeatA) (s : State) : Host.Outcome State Fault Refusal :=
  guarded s f.g (fun s => do
    let x ← s.src 0 f.a f.ta
    let s ← s.commits
    s.unpaired x
    let (obj, q) ← s.seatHeld x
    if q.state ≠ 1 then s.trap (seatTrap x q.state)
    else do
      s.beforeRelease
      s.seatTurn
      let s := s.releaseSeat obj s.hand
      pure ((s.seatDone obj 2 x.toNat).retire 4))

/-- seatf (R332). -/
def execSeatf (f : SeatA) (s : State) : Host.Outcome State Fault Refusal :=
  guarded s f.g (fun s => do
    let x ← s.src 0 f.a f.ta
    let s ← s.commits
    s.unpaired x
    let (obj, q) ← s.seatHeld x
    if q.state = 1 then s.beforeRelease
    s.seatTurn
    let s := s.foldSeat obj q.number s.hand
    pure ((s.seatDone obj 3 x.toNat).retire 4))

/-- Is a hand living: present and not retired (R92)? -/
def Hand.living (h : Hand) : Bool := h.status != .none && h.status != .retired

/-- seatp (R333). What an earlier release gave the passer's seat is not the taker's: it is due only when the seat becomes OWNER in the
inbox (R88 step 3). -/
def execSeatp (f : ABG) (s : State) : Host.Outcome State Fault Refusal :=
  guarded s f.g (fun s => do
    let x ← s.src 0 f.a f.ta
    let t ← s.src 1 f.b f.tb
    let s ← s.commits
    s.unpaired x
    let (obj, q) ← s.seatHeld x
    match s.handOf t.toNat with
    | none => s.trap (seatTrap t q.state)
    | some k =>
      if !k.living ∨ k.asid ≠ s.hand.asid then s.trap (seatTrap t q.state)
      else if inboxSize ≤ k.inbox.length then s.trap (Trap.mk' .seatCapacity t)
      else do
        s.seatTurn
        let given := (s.hand.task, s.clockOf s.hand)
        let s := s.modSeat obj q.number (fun q => { q with holder := none, released := none, passed := some given })
        let s := s.modHand k.id (fun k => { k with inbox := k.inbox ++ [seatHandle obj q.number] })
        pure ((s.seatDone obj 4 x.toNat).retire 4))

/-- seatin (R333): a point of Table 7.10. A collected OWNER is a hand-off; a seat that waits gives nothing (R90). -/
def execSeatin (f : DG) (s : State) : Host.Outcome State Fault Refusal :=
  guarded s f.g (fun s => do
    s.dest f.d
    let s ← s.commits
    s.unpaired 0
    s.atPoint .seatin
    match s.hand.inbox with
    | [] => s.dropGrant.wait .seatin
    | hd :: rest => do
      s.seatTurn
      let me := s.hand.id
      let s := s.put { s.hand with inbox := rest }
      let obj := (((seatName (hd.setWidth 64)).map (·.1)).getD 0)
      let n := BitVec.ofNat 17 hd.toNat
      let s := match s.seatAt obj n with
        | none => s
        | some q =>
          let s := if q.state = 1 then s.receiveSeat obj q else s
          s.modSeat obj n (fun q => { q with holder := some me, passed := none })
      pure (((s.seatDone obj 5 hd.toNat).clearAtPoint.result f.d (hd.setWidth 64)).retire 4))

/-- Exchanging two seats of a queue. -/
def swapSeats (a b : Seat) (l : List Seat) : List Seat :=
  l.map (fun q => if q.number = a.number then b else if q.number = b.number then a else q)

/-- seatx (R334). -/
def execSeatx (f : ABG) (s : State) : Host.Outcome State Fault Refusal :=
  guarded s f.g (fun s => do
    let x ← s.src 0 f.a f.ta
    let y ← s.src 1 f.b f.tb
    let s ← s.commits
    s.unpaired x
    let (obj, q) ← s.seatHeld x
    if q.state = 1 then s.trap (seatTrap x 1)
    else match (seatName y).bind (fun on => if on.1 = obj then s.seatAt obj on.2 else none) with
      | some r =>
        let o := s.seatObj obj
        if o.queue.findIdx (fun z => z.number == r.number) ≤ o.queue.findIdx (fun z => z.number == q.number) then
          s.trap (seatTrap y q.state)
        else do
          s.seatTurn
          let s := s.putObj obj { o with queue := swapSeats q r o.queue }
          pure ((s.seatDone obj 6 x.toNat).retire 4)
      | none => s.trap (seatTrap y q.state))

/-- The status of a seat (R335): POS and STATE. -/
def seatStatus (o : SeatObj) (q : Seat) : Reg64 :=
  let ahead := (o.queue.take (o.queue.findIdx (fun z => z.number == q.number))).filter (fun z => z.state != 2)
  BitVec.ofNat 64 (ahead.length * 2 ^ 32 + q.state)

/-- seatst (R335): a handle that fails the first check reports INVALID. -/
def execSeatst (f : UnG) (s : State) : Host.Outcome State Fault Refusal :=
  guarded s f.g (fun s => do
    let x ← s.src 0 f.a f.ta
    s.dest f.d
    let s ← s.commits
    s.unpaired x
    s.seatTurn
    let obj := ((seatName x).map (·.1)).getD 0
    let v : Reg64 := match s.seatOf x with
      | .error _ => BitVec.ofNat 64 (0xFFFFFFFF * 2 ^ 32 + 3)
      | .ok (obj, n) => match s.seatAt obj n with
        | some q => seatStatus (s.seatObj obj) q
        | none => BitVec.ofNat 64 (0xFFFFFFFF * 2 ^ 32 + 3)
    pure (((s.seatDone obj 7 x.toNat).result f.d v).retire 4))

end Sys2Proof.Machine
end

