-- ==== Sys2Proof/Machine/Fetch.lean ====
section
/-! DEFINITION. Fetching instruction words (R33, R165, R189), repeat frames (R166, R167) and the checks on raw words that
rep, rett and a copy with a follow-on make. Fetches read live memory (log 22). -/

namespace Sys2Proof.Machine

/-! ## Fetching -/

/-- Fetching one word as instruction memory. -/
def State.fetchWord (s : State) (va : Reg64) : Run (State × Word) := do
  let (s, t, leaf) ← s.xlook .fetch va
  match t with
  | .plain k _ =>
    s.readable k 4 2
    pure (s.reached leaf .fetch t, BitVec.ofNat 32 (leNat (s.mem.live.bytes k 4)))
  | _ => s.trap (xfault .fetchFault 0 7 .fetch va.toNat)

/-! ## Raw words -/

/-- A word's major. -/
def majOf (w : Word) : Nat := w.toNat / 2 ^ 25 % 64
/-- A word's C bit. -/
def cOf (w : Word) : Bool := w.getLsbD 31
/-- Field D of a word. -/
def dOf (w : Word) : Nat := w.toNat / 2 ^ 20 % 32
/-- Field A of a word. -/
def aOf (w : Word) : Nat := w.toNat / 2 ^ 15 % 32
/-- Field B of a word. -/
def bOf (w : Word) : Nat := w.toNat / 2 ^ 10 % 32
/-- Field FN of a word. -/
def fnOf (w : Word) : Nat := w.toNat / 32 % 32

/-- May a repeat frame hold the word (R167)? -/
def frameWord (w : Word) : Bool :=
  let m := majOf w
  !cOf w && (decide (1 ≤ m ∧ m ≤ 8) || decide (30 ≤ m ∧ m ≤ 38) || m == 56)

/-- A word with the fields of the frame's masks staggered for replay k (R166). -/
def Frame.stagger (f : Frame) (w : Word) : Word :=
  let by' : Nat := f.k * f.stag
  let put (on : Bool) (sh : Nat) (w : Word) : Word :=
    if on then
      let old := w.toNat / 2 ^ sh % 32
      let new := (old + by') % 32
      BitVec.ofNat 32 (w.toNat - old * 2 ^ sh + new * 2 ^ sh)
    else w
  put f.mb 10 (put f.ma 15 (put f.md 20 w))

/-! ## Frames -/

/-- The word that a hand has to issue next, without the effects of a fetch: a frame's member, staggered, or the word at the PC. -/
def State.nextWord (s : State) (h : Hand) : Option Word :=
  match h.frame with
  | some f => (f.words[f.j]?).map f.stagger
  | none => match s.xlate ⟨h.asid, some h.core, false, .single⟩ .fetch h.pc.toNat with
    | .ok (s, .plain k _) => some (BitVec.ofNat 32 (leNat (s.mem.live.bytes k 4)))
    | _ => none

/-- The rep word of its fields (R166). -/
def repWord (f : RepF) : Word := joinWord ⟨0, 54, f.n1, f.cnt, 0, f.stag, f.md, f.ma, f.mb.setWidth 3 <<< 2⟩

/-- The words after a rep, as the frame captures them, and the first that a frame may not hold. -/
def State.frameCheck (s : State) (rep : Reg64) (n : Nat) : Run (State × List Word × Option Word) :=
  (upFrom 1 n).foldlM (fun (acc : State × List Word × Option Word) j => do
    match acc.2.2 with
    | some _ => pure acc
    | none =>
      let (s, w) ← acc.1.fetchWord (rep + BitVec.ofNat 64 (4 * j))
      pure (s, acc.2.1 ++ [w], if frameWord w then none else some w)) (s, [], none)

/-- REPIDX at a member of a replay. -/
def repIdx (k j : Nat) : Reg64 := BitVec.ofNat 64 (k * 2 ^ 32 + j)

/-- rep (R166, R167): the members are checked, then the count; the frame then runs member by member, the PC at the
rep. With a count of zero the frame is skipped, and the iteration end that its words hold is tested all the same (the model's choice,
log 109). -/
def execRep (f : RepF) (s : State) : Host.Outcome State Fault Refusal :=
  finish (do
    let n := f.n1.toNat + 1
    let (s, words, bad) ← s.frameCheck s.hand.pc n
    match bad with
    | some w => s.trap (Trap.mk' .repeatFrame (w.setWidth 64))
    | none =>
      let count ← s.need f.cnt
      if 65535 < count.toNat then s.trap { Trap.mk' .repeatFrame ((repWord f).setWidth 64) with tidx0 := count }
      else
        let h := s.hand
        let past := h.pc + BitVec.ofNat 64 (4 * (n + 1))
        let h := { h with status := .running, sched := { h.sched with retiredCount := h.sched.retiredCount + 1 } }
        if count = 0 then pure { s with hand := ({ h with pc := past }).iterEnd s.hand.pc.toNat past.toNat }
        else
          let fr : Frame := ⟨n, words, count.toNat, f.stag.toNat, f.md == 1, f.ma == 1, f.mb == 1, 0, 0⟩
          pure { s with hand := { h with frame := some fr, csr := { h.csr with repidx := 0 } } })

/-- Resuming the frame whose rep stands at `tpc` at REPIDX (R176): the words are fetched and the count read again. `leave`
says what else the resumption changes once its checks have passed. A count above 65,535 reports the word alone: R176 gives TVAL and
names no TIDX0, while R167 puts the count there for a rep; the model follows R176 (log 83). -/
def State.resumeFrame (s : State) (tpc : Reg64) (leave : Hand → Hand) : Run State := do
  let (s, w) ← s.fetchWord tpc
  let n := dOf w + 1
  let k := s.hand.csr.repidx.toNat / 2 ^ 32
  let j := s.hand.csr.repidx.toNat % 16
  let bad : Run State := s.trap (Trap.mk' .repeatFrame (w.setWidth 64))
  if majOf w ≠ 54 ∨ cOf w ∨ 16 ≤ dOf w ∨ bOf w ≠ 0 ∨ w.toNat % 4 ≠ 0 ∨ n ≤ j then bad
  else do
    let (s, words, worst) ← s.frameCheck tpc n
    if worst.isSome then s.trap (Trap.mk' .repeatFrame (w.setWidth 64))
    else do
      let count ← s.need (BitVec.ofNat 5 (aOf w))
      if 65535 < count.toNat then s.trap (Trap.mk' .repeatFrame (w.setWidth 64))
      else
        let h := leave s.hand
        let past := tpc + BitVec.ofNat 64 (4 * (n + 1))
        if count.toNat ≤ k then pure { s with hand := { h with frame := none, pc := past, status := .running } }
        else
          let fr : Frame := ⟨n, words, count.toNat, fnOf w, w.getLsbD 4, w.getLsbD 3, w.getLsbD 2, k, j⟩
          pure { s with hand := { h with frame := some fr, pc := tpc, status := .running } }

/-- A frame still to be resumed at REPIDX: its rep word has not been fetched again (R176). -/
def Hand.frameAgain (h : Hand) : Frame :=
  ⟨0, [], 0, 0, false, false, false, h.csr.repidx.toNat / 2 ^ 32, h.csr.repidx.toNat % 16⟩

/-- Leaving handler mode (R176). -/
def Hand.leaveHandler (h : Hand) : Hand :=
  { h with
    csr := { h.csr with tstatus := h.csr.tstatus &&& ~~~(3 : Reg64) }
    sched := { h.sched with retiredCount := h.sched.retiredCount + 1 } }

/-- THE RETURN FROM AN EXCEPTION (R176) by a rett whose guard word is `g`: to TPC, or into the frame whose rep stands there.
A frame whose words cannot be fetched leaves the handler, and the fetch fault is taken in the frame at TPC (R189). -/
def State.rett (s : State) (g : BitVec 3) : Run State := do
  let s ← s.commits
  let c := s.hand.csr
  if !c.hm then s.trap (sysTrap .illegalOpcode 7 0 0 0 g)
  else if c.tpc.toNat % 4 ≠ 0 then s.trap (Trap.mk' .misaligned c.tpc)
  else if !c.tstatus.getLsbD 1 then pure { s with hand := { s.hand.leaveHandler with pc := c.tpc, status := .running } }
  else
    match s.resumeFrame c.tpc Hand.leaveHandler with
    | .error (.trap t s') =>
      if t.cause = .fetchFault then
        .error (.trap t { s' with hand := { s'.hand.leaveHandler with pc := c.tpc, frame := some s'.hand.frameAgain } })
      else .error (.trap t s')
    | r => r

/-! ## The follow-on of a copy (R161, R278) -/

/-- The word after a copy with .m, checked as a follow-on: it must be an mma or mmav (the copy's ILLEGAL-OPCODE), and its
reserved bits zero (RESERVED-FIELD of the follow-on, log 23). `w` is the copy's word. -/
def State.followWord (s : State) (w : Word) : Run (State × Word) := do
  let (s, x) ← s.fetchWord (s.hand.pc + 4)
  let fn := x.toNat / 256 % 4
  if majOf x ≠ 47 ∨ cOf x ∨ 2 ≤ fn then s.trap (Trap.mk' .illegalOpcode (w.setWidth 64))
  else if x.toNat % 8 ≠ 0 ∨ (fn = 0 ∧ x.toNat / 32 % 8 ≠ 0) then s.trap (Trap.mk' .reservedField (x.setWidth 64))
  else pure (s, x)

end Sys2Proof.Machine
end

