-- ==== Sys2Proof/Machine/Matrix.lean ====
section
/-! DEFINITION. The matrix array (R127, R281 to R284): mma, mmav and the steps of a job. -/

namespace Sys2Proof.Machine

/-! ## Issue (R281) -/

/-- What an mma or mmav word names: a VACC block or a TILEACC, its handle, its tiles. -/
structure MmaOp where
  vector : Bool
  handle : Nat
  ta : Nat
  tb : Nat
  block : Nat
  deriving DecidableEq, Repr

/-- The operands of an MMA word (R154, R158). -/
def mmaOp (w : Word) : MmaOp where
  vector := w.toNat / 256 % 4 == 1
  handle := w.toNat / 2 ^ 20 % 32
  ta := w.toNat / 2 ^ 15 % 32 + 32 * (w.toNat / 16 % 2)
  tb := w.toNat / 2 ^ 10 % 32 + 32 * (w.toNat / 8 % 2)
  block := w.toNat / 32 % 8

/-- Is it a plane tile of a BX format with these rows? -/
def Tile.planeOf (t : Tile) (rows : Nat) : Bool := t.plane && decide (7 ≤ t.efmt ∧ t.efmt ≤ 13) && t.rows + 1 == rows

/-- The checks of R281, in order. -/
def State.mmaChecks (s : State) (o : MmaOp) : Run Unit := do
  s.sound 7 0
  let slot := mfind s.hand.handles o.handle
  if (slot.map (·.typ)) ≠ some (if o.vector then 6 else 7) then
    s.trap (Trap.mk' .summaryType ((slot.map Slot.descriptor).getD 0))
  let a := s.tile s.hand.core o.ta
  let b := s.tile s.hand.core o.tb
  if !a.planeOf (if o.vector then 1 else 128) then s.tileTrap o.ta
  if !b.planeOf 128 || b.cols != a.cols then s.tileTrap o.tb
  let k := s.hand.csr.vstart
  if k % 64 ≠ 0 ∨ a.cols + 1 ≤ k then s.trap (Trap.mk' .reservedField (BitVec.ofNat 64 k))

/-- Queueing a job: it starts at KROW, and VSTART clears. -/
def State.issueJob (s : State) (w : Word) (o : MmaOp) (follows : Option Nat) : State :=
  let h := s.hand
  let j : Job := ⟨w, o.handle, o.vector, o.block, o.ta, o.tb, h.csr.vstart, follows, false, false, s.mem.perfCtr⟩
  let h := { h with jobs := h.jobs ++ [j], csr := { h.csr with vstart := 0 } }
  { s with hand := h.stalled (s.throttled h), mem := { s.mem with perfCtr := s.mem.perfCtr + 1 } }

/-- mma and mmav: a hand holds at most four jobs, and a fifth waits (R282). -/
def matrixIssue (w : Word) (s : State) : Host.Outcome State Fault Refusal :=
  finish (do
    let o := mmaOp w
    s.mmaChecks o
    if (s.tile s.hand.core o.ta).state ≠ 2 ∨ (s.tile s.hand.core o.tb).state ≠ 2 then s.tileWait
    else do
      let s ← s.commits
      if 4 ≤ s.hand.jobs.length then s.wait .room
      else pure ((s.issueJob w o none).retire 4))

/-- mma (R281). -/
def execMma (f : MmaF) (s : State) : Host.Outcome State Fault Refusal := matrixIssue (encodeWord (.mma f)) s
/-- mmav (R281). -/
def execMmav (f : MmavF) (s : State) : Host.Outcome State Fault Refusal := matrixIssue (encodeWord (.mmav f)) s

/-! ## Jobs -/

/-- Block `b` of a plane row of K elements whose bytes are `get` (R67). R208's checks give outcomes for a hand's access and for a
copy alone: the matrix array uses a block that would fail them as it stands (the model's choice, log 110). -/
def planeBlock (get : Nat → Byte) (w k b : Nat) : Block :=
  let hd := leNat ((upFrom (w * k / 8 + 4 * b) 4).map get)
  ⟨hd / 2 ^ 12 % 256, hd % 2 ^ 12, (List.range 32).map (fun j =>
    let e := 32 * b + j
    toSigned w (foldUp w (fun a q => a + 2 ^ q * ((get (q * (k / 8) + e / 8)).toNat / 2 ^ (e % 8) % 2)) 0))⟩

/-- Where group g's 64 elements stand in a plane row: offsets and lengths. -/
def groupRuns (w k g : Nat) : List (Nat × Nat) :=
  let n := Nat.min 64 (k - 64 * g)
  (List.range w).map (fun q => (q * (k / 8) + 8 * g, n / 8)) ++ [(w * k / 8 + 8 * g, n / 8)]

/-- The offsets in a plane row that group g's 64 elements occupy. -/
def groupBytes (w k g : Nat) : List Nat := ((groupRuns w k g).map (fun r => upFrom r.1 r.2)).flatten

/-- A job has read group g of two tiles: from a bench with a failed bank each stripe of each run is rebuilt (R64). -/
def State.groupRead (s : State) (core : Nat) (a b : Tile) (g : Nat) : State :=
  if !(s.core core).badBanks.any (fun k => k.1 == 0) then s
  else [a, b].foldl (fun (s : State) t => (List.range (t.rows + 1)).foldl (fun (s : State) r =>
    (groupRuns (t.efmt - 5) (t.cols + 1) g).foldl (fun (s : State) x => s.rebuilds (t.key core (r * t.rowBytes + x.1)) x.2) s) s) s

/-- One group of a job (R281): every cell takes the contributions of its block pairs. -/
def jobGroup (live : Mem) (core : Nat) (a b : Tile) (j : Job) (g : Nat) (slot : Slot) : Slot :=
  let k := a.cols + 1
  let wa := a.efmt - 5
  let wb := b.efmt - 5
  let blocks := (upFrom (2 * g) 2).filter (fun x => decide (32 * x < k))
  let rowOf (t : Tile) (r : Nat) : Nat → Byte := fun o => live.get (t.key core (r * t.rowBytes + o))
  let as' := (List.range (a.rows + 1)).map (fun r => blocks.map (planeBlock (rowOf a r) wa k))
  let bs := (List.range (b.rows + 1)).map (fun r => blocks.map (planeBlock (rowOf b r) wb k))
  (as'.zipIdx).foldl (fun slot ar => (bs.zipIdx).foldl (fun slot bc =>
    (List.zip ar.1 bc.1).foldl (fun (slot : Slot) xy =>
      slot.addTo (if j.vector then 128 * j.block + bc.2 else ar.2 * 128 + bc.2) (contributeBlocks slot.anchor wa wb xy.1 xy.2))
      slot) slot) slot

/-- What stops group g of a job of a hand: a byte of its tiles, the tile table or its slot, that no longer decodes (R74). -/
def State.badInGroup (s : State) (hand core : Nat) (a b : Tile) (g : Nat) : Option Trap :=
  let slot := ((s.badOf hand 7 0).or (s.badOf hand 4 0)).map (fun t => { t with access := 8 })
  if s.mem.bad.isEmpty then slot
  else
    let keys (t : Tile) : List Nat := ((List.range (t.rows + 1)).map (fun r =>
      (groupBytes (t.efmt - 5) (t.cols + 1) g).map (fun o => t.key core (r * t.rowBytes + o)))).flatten
    match (keys a ++ keys b).find? (fun k => (mfind s.mem.bad k).isSome) with
    | some k => some (s.badTrap k 8)
    | none => slot

/-- A hand's oldest job, when it may take the array next (R278, R282, R349). -/
def State.jobReady (s : State) (h : Hand) : Option Job :=
  match h.jobs with
  | [] => none
  | j :: _ =>
    let rivals := (s.allHands.filter (fun k => k.core == h.core && k.status != .saved)).map (·.jobs) |>.flatten
    if j.started || h.status == .saved || rivals.any (fun r => decide (r.issued < j.issued)) || !s.jobOpen h.core j ||
        (s.field (fieldOfCore h.core)).throttle then none
    else some j

/-- MATRIX_JOB_START. -/
def execMatrixJobStart (e : JobEv) (s : State) : Host.Outcome State Fault Refusal :=
  .next (match s.handOf e.hand with
  | none => s
  | some h => match s.jobReady h with
    | none => s
    | some _ => s.modHand e.hand (fun h => { h with jobs := match h.jobs with
      | [] => []
      | j :: l => { j with started := true } :: l }))

/-- What a job's groups from `g` on give, `n` of them: the slot, and where and why they stopped. -/
def State.runJob (s : State) (hand core : Nat) (a b : Tile) (j : Job) (stop : Option Nat) : Nat → Nat → Slot → Slot × Option (Nat × Trap)
  | 0, _, slot => (slot, none)
  | n + 1, g, slot =>
    match s.badInGroup hand core a b g with
    | some t => (slot, some (g, t))
    | none =>
      if stop = some g then (slot, some (g, { Trap.mk' .uncorrectable 0 with access := 8 }))
      else s.runJob hand core a b j stop n (g + 1) (jobGroup s.mem.live core a b j g slot)

/-- The reads of a job's groups from `g` on, `n` of them or up to the one that stopped it. -/
def State.groupsRead (s : State) (core : Nat) (a b : Tile) (g n : Nat) (bad : Option (Nat × Trap)) : State :=
  (upFrom g (((bad.map (·.1)).getD (g + n)) - g)).foldl (fun s g => s.groupRead core a b g) s

/-- The groups of a job. -/
def jobSpan (k k0 : Nat) : Nat := (k + 63) / 64 - k0 / 64

/-- MATRIX_JOB_COMPLETE (R281, R283, R127): its groups reach the slot; each residue mismatch counts against the core, a
third one stops the job at that group's K row, and the hand takes UNCORRECTABLE. -/
def execMatrixJobComplete (e : JobEv) (s : State) : Host.Outcome State Fault Refusal :=
  .next (match s.handOf e.hand with
  | none => s
  | some h => match h.jobs with
    | [] => s
    | j :: rest =>
      if !j.started then s
      else
        let a := s.tile h.core j.ta
        let b := s.tile h.core j.tb
        let s := s.modCore h.core (fun c => { c with residues := c.residues + e.misses })
        match mfind h.handles j.handle with
        | none => s.modHand e.hand (fun h => { h with jobs := rest })
        | some slot =>
          let (slot, bad) := s.runJob h.id h.core a b j e.stop (jobSpan (a.cols + 1) j.k0) (j.k0 / 64) slot
          (s.groupsRead h.core a b (j.k0 / 64) (jobSpan (a.cols + 1) j.k0) bad).modHand e.hand (fun h =>
            let h := { h with jobs := rest, handles := mins h.handles j.handle slot }
            match bad with
            | none => h
            | some (g, t) => { h with csr := { h.csr with vstart := 64 * g }, sched := { h.sched with unrecoverable := some t } }))

/-- The jobs that stand after the running one stopped at K row `k`: they are issued again in order, the first from VSTART, the rest
from 0 (R284). -/
def jobsFrom (k : Nat) : List Job → List Job
  | [] => []
  | j :: l => { j with started := false, k0 := k } :: l.map (fun j => { j with started := false, k0 := 0 })

/-- A hand's jobs stopped at the end of a group, `done` groups after the start of the running one (R284): what they gave so far, and the
K row that follows in VSTART. An error that a group meets stops the job at its own K row, and the hand takes UNCORRECTABLE (R74). -/
def State.stopJob (s : State) (h : Hand) (done : Nat) : State :=
  match h.jobs with
  | [] => s
  | j :: rest =>
    let a := s.tile h.core j.ta
    let b := s.tile h.core j.tb
    let span := jobSpan (a.cols + 1) j.k0
    let n := if j.started then Nat.min done span else 0
    match mfind h.handles j.handle with
    | none => s
    | some slot =>
      let (slot, bad) := s.runJob h.id h.core a b j none n (j.k0 / 64) slot
      let put (h : Hand) (k : Nat) (jobs : List Job) : Hand :=
        { h with handles := mins h.handles j.handle slot, csr := { h.csr with vstart := k }, jobs := jobs }
      (s.groupsRead h.core a b (j.k0 / 64) n bad).modHand h.id (fun h => match bad with
        | some (g, t) =>
          let h := put h (64 * g) rest
          { h with sched := { h.sched with unrecoverable := some t } }
        | none =>
          if n = span then put h 0 (jobsFrom 0 rest)
          else put h (j.k0 + 64 * n) (jobsFrom (j.k0 + 64 * n) (j :: rest)))

end Sys2Proof.Machine
end

