-- ==== Sys2Proof/Machine/Copy.lean ====
section
/-! DEFINITION. Copies (R43, R44, R271 to R278, R422): issue, the engine's positions, completion, deliveries from other
devices. -/

namespace Sys2Proof.Machine

/-! ## Compressed pages (R43, R44) -/

/-- What a page record's payload expands to, before its length is compared. R44 lists neither a RUN payload whose stored length is no
multiple of 6 nor a ZERO payload with stored bytes: here the bytes after the last whole entry are ignored, and the second is undecodable
(the model's choice, log 81). -/
def expandPayload (method param explen : Nat) (pay : List Byte) : Option (List Byte) :=
  match method with
  | 0 => if param = 0 then some pay else none
  | 1 => if param = 0 ∧ pay.isEmpty then some (List.replicate explen 0) else none
  | 2 =>
    if param = 0 ∨ 32 < param then none
    else
      let bits := leNat pay
      some ((List.range (8 * pay.length / param)).map (fun i =>
        leBytes 4 (toSigned param (bits / 2 ^ (i * param) % 2 ^ param) % (2 ^ 32 : Nat)).toNat)).flatten
  | 3 =>
    if param = 0 then
      some ((List.range (pay.length / 6)).map (fun i =>
        (List.replicate (leNat ((pay.drop (6 * i)).take 2)) ((pay.drop (6 * i + 2)).take 4)).flatten)).flatten
    else none
  | _ => none

/-- The 4 KiB that a page record stands for, or the status of a copy that meets it (R44). -/
def expandPage (hd pay : List Byte) : Except Byte (List Byte) :=
  let explen := leNat (hd.take 2)
  let reserved := leNat ((hd.drop 6).take 2) != 0 || leNat ((hd.drop 12).take 4) != 0
  if 4096 < explen ∨ reserved then .error 0x22
  else match expandPayload ((hd.getD 2 0).toNat) ((hd.getD 3 0).toNat) explen pay with
    | none => .error 0x22
    | some l =>
      if l.length ≠ explen then .error 0x22
      else if crc32c l ≠ leNat ((hd.drop 8).take 4) then .error 0x23
      else .ok (l ++ List.replicate (4096 - explen) 0)

/-! ## Placement (R273, R422) -/

/-- Tile bytes of an element or block in row layout. -/
def Tile.slotBytes (t : Tile) : Nat := if t.efmt ≤ 6 then efmtBytes t.efmt else 4 + 4 * (t.efmt - 5)

/-- Slots of a row, or blocks of a plane row. -/
def Tile.rowSlots (t : Tile) : Nat := if t.efmt ≤ 6 then t.cols + 1 else (t.cols + 1) / 32

/-- The offset of element `p` of a stream placed from byte `e9`. -/
def Tile.slotAt (t : Tile) (e9 p : Nat) : Nat :=
  let l := t.rowBytes
  let sl := e9 / l * t.rowSlots + e9 % l / t.slotBytes + p
  sl / t.rowSlots * l + sl % t.rowSlots * t.slotBytes

/-- The size code that a tile's format requires (Table 13.6). -/
def Tile.code (t : Tile) : Nat :=
  match t.efmt with
  | 0 => 0
  | 1 => 1
  | 2 => 2
  | 3 => 3
  | 4 => 2
  | 5 => 1
  | 6 => 1
  | _ => 4

/-- The placement rules for `vol` elements from byte `e9`. -/
def Tile.fits (t : Tile) (e9 vol : Nat) : Bool :=
  let l := t.rowBytes
  e9 % 64 == 0 &&
    (if t.plane then e9 % l == 0 && vol % t.rowSlots == 0 && decide (e9 / l + vol / t.rowSlots ≤ t.rows + 1)
     else (e9 % l) % t.slotBytes == 0 && decide (e9 % l < t.rowSlots * t.slotBytes) &&
       (vol == 0 || decide (t.slotAt e9 (vol - 1) < (t.rows + 1) * l)))

/-- A packed block from a plane row (R67, R207): its header as stored, its mantissas packed. -/
def planePacked (get : Nat → Byte) (w k b : Nat) : List Byte :=
  let blk := planeBlock get w k b
  (upFrom (w * k / 8 + 4 * b) 4).map get ++
    leBytes (4 * w) ((blk.ms.zipIdx).foldl (fun (a : Nat) (mj : Int × Nat) => a + (mj.1 % (2 ^ w : Nat)).toNat * 2 ^ (mj.2 * w)) 0)

/-- The planes and header of a row of packed blocks (R67). -/
def planeRow (w : Nat) (blocks : List (List Byte)) : List Byte :=
  let pays := blocks.map (fun b => leNat (b.drop 4))
  let byteAt (q i : Nat) : Byte := BitVec.ofNat 8 (foldUp 8 (fun a j =>
    let e := 8 * i + j
    a + 2 ^ j * (pays.getD (e / 32) 0 / 2 ^ (e % 32 * w + q) % 2)) 0)
  ((List.range w).map (fun q => (List.range (4 * blocks.length)).map (byteAt q))).flatten ++
    (blocks.map (fun b => b.take 4)).flatten

/-! ## Issue (R271) -/

/-- A copy's two words of register operands, tile and shape. -/
structure CopyOp where
  kind : CopyKind
  tile : Nat
  src : Reg64
  dst : Reg64
  deriving DecidableEq, Repr

/-- Does the command fill a tile; does it read one? -/
def CopyKind.fills : CopyKind → Bool
  | .cpyIn | .cpyInp | .fill => true
  | _ => false
/-- Does the command read a tile? -/
def CopyKind.drains : CopyKind → Bool
  | .cpyOut | .cpyPeer => true
  | _ => false

/-- The checks of R263 and R273 at issue. -/
def State.copyChecks (s : State) (o : CopyOp) (l : List Word) : Run Unit :=
  match recordFaulty l with
  | some v => s.trap (Trap.mk' .reservedField v)
  | none =>
    let t := s.tile s.hand.core o.tile
    if !o.kind.fills && !o.kind.drains then .ok ()
    else if (o.kind = .cpyIn ∧ t.plane) ∨ (o.kind = .cpyInp ∧ !t.plane) ∨ wordAt l 8 ≠ t.code ∨
        !t.fits (wordAt l 9) (recVol l) then s.tileTrap o.tile
    else if o.kind.fills ∧ (t.state = 2 ∨ t.state = 3) then s.tileTrap o.tile
    else .ok ()

/-- An instruction of two words that issue as one completes (R278). -/
def State.retirePair (s : State) : State :=
  let h := s.hand
  let a := h.pc.toNat
  { s with hand := { ({ h with pc := h.pc + 8 }).iterEnd a (a + 8) with
      status := .running, sched := { h.sched with retiredCount := h.sched.retiredCount + 1 } } }

/-- Step 5 and 6 of R271: the number is drawn, the tile moves, the command stands in the chain. -/
def State.issueCopy (s : State) (o : CopyOp) (l : List Word) (followed : Bool) : State :=
  let h := s.hand
  let n := h.csr.cpyseq + 1
  let vol := recVol l
  let s := if vol = 0 then s
    else if o.kind.fills then s.modTile h.core o.tile Tile.accept
    else if o.kind = .cpyOut then s.modTile h.core o.tile (fun t => { t with state := 3 })
    else s
  let fen : SMap Nat := (List.range 7).foldl (fun m a => mput 0 m a (h.ord.fence a 3)) []
  let c : Copy := ⟨h.id, n.toNat, o.kind, h.core, h.task, h.asid, o.tile, (s.tile h.core o.tile).gen, l, o.src, o.dst, followed, 0, [],
    none, h.ord.wseq, fen, s.precFor h 3, [], none⟩
  let s := s.modCore h.core (fun c => { c with chain := c.chain + 1 })
  let s := { s with
    hand := { s.hand with csr := { s.hand.csr with cpyseq := n }, ord := { s.hand.ord with wseq := h.ord.wseq + 1 } }
    copies := s.copies ++ [c] }
  { s with hand := s.hand.stalled (s.throttled s.hand) }

/-- A copy instruction: `w` its word, `m` whether it has a follow-on, `regs` reads its registers. -/
def copyIssue (w : Word) (m : Bool) (g : BitVec 3) (b : Fld5) (tb : Bit) (regs : State → Run CopyOp) (s : State) :
    Host.Outcome State Fault Refusal :=
  finish (do
    let (s, fo) ← (if m then (do
        let (s, x) ← s.followWord w
        pure (s, some x)) else pure (s, none) : Run (State × Option Word))
    let go ← s.guard g
    if !go then pure (if m then s.retirePair else s.retire 4)
    else do
      let o ← regs s
      s.vneed 1 b tb
      let l := s.hand.shape b 12
      s.copyChecks o l
      match fo with
      | some x => s.mmaChecks (mmaOp x)
      | none => pure ()
      if o.kind.drains ∧ (s.tile s.hand.core o.tile).state ≠ 2 then s.tileWait
      else do
        let s ← s.commits
        if Config.chainEntries ≤ (s.core s.hand.core).chain then s.wait .room
        else if fo.isSome ∧ 4 ≤ s.hand.jobs.length then s.wait .room
        else
          let s := s.issueCopy o l fo.isSome
          match fo with
          | none => pure (s.retire 4)
          | some x => pure ((s.issueJob x (mmaOp x) (some s.hand.csr.cpyseq.toNat)).retirePair))

/-- cpy.in. -/
def execCpyIn (f : CpyInF) (s : State) : Host.Outcome State Fault Refusal :=
  copyIssue (encodeWord (.cpyIn f)) (f.k == 1) f.g f.b f.tb (fun s => do
    let a ← s.src 0 f.a f.ta
    pure ⟨.cpyIn, f.d.toNat + 32 * f.j.toNat, a, 0⟩) s

/-- cpy.inp. -/
def execCpyInp (f : CpyInF) (s : State) : Host.Outcome State Fault Refusal :=
  copyIssue (encodeWord (.cpyInp f)) (f.k == 1) f.g f.b f.tb (fun s => do
    let a ← s.src 0 f.a f.ta
    pure ⟨.cpyInp, f.d.toNat + 32 * f.j.toNat, a, 0⟩) s

/-- cpy.out. -/
def execCpyOut (f : CpyOutF) (s : State) : Host.Outcome State Fault Refusal :=
  copyIssue (encodeWord (.cpyOut f)) false f.g f.b f.tb (fun s => do
    let d ← s.need f.d
    pure ⟨.cpyOut, f.a.toNat + 32 * f.j.toNat, 0, d⟩) s

/-- cpy.peer. -/
def execCpyPeer (f : CpyOutF) (s : State) : Host.Outcome State Fault Refusal :=
  copyIssue (encodeWord (.cpyPeer f)) false f.g f.b f.tb (fun s => do
    let d ← s.need f.d
    pure ⟨.cpyPeer, f.a.toNat + 32 * f.j.toNat, 0, d⟩) s

/-- cpy.mem. -/
def execCpyMem (f : RegG) (s : State) : Host.Outcome State Fault Refusal :=
  copyIssue (encodeWord (.cpyMem f)) false f.g f.b f.tb (fun s => do
    let a ← s.src 0 f.a f.ta
    let d ← s.need f.d
    pure ⟨.cpyMem, 0, a, d⟩) s

/-! ## The engine (R274 to R276) -/

/-- Why a position stops a command: a status, an uncorrectable error, or a stack that is still coming up. -/
inductive CopyStop where
  | status (b : Byte)
  | bad (t : Trap)
  | later
  deriving DecidableEq, Repr

/-- A fault on a command's own addresses as a stop (R49). -/
def stopOf (t : Trap) : CopyStop :=
  match t.cause with
  | .uncorrectable => .bad t
  | .translation => .status 0x10
  | .blockCheck => .status 0x15
  | _ => .status 0x11

/-- The size code of a command's record. -/
def Copy.code (c : Copy) : Nat := wordAt c.shape 8
/-- The positions of its sweep. -/
def Copy.vol (c : Copy) : Nat := recVol c.shape

/-- The hand as the engine reads for it: its view, with the fences of the command's issue. -/
def State.copyHand (s : State) (c : Copy) : Hand :=
  let h := (s.handOf c.hand).getD { Hand.empty with task := c.task, ord := { Order.empty with snap := s.mem.pub } }
  { h with ord := { h.ord with fences := c.fen.map (fun kv => (8 * kv.1 + 3, kv.2)) } }

/-- The engine's translation for a command. -/
def State.copyXl (s : State) (c : Copy) (a : Access) (va : Reg64) : Except CopyStop (State × Target) :=
  match s.xlate ⟨c.asid, some c.core, false, ((s.taskOf c.task).map (·.side)).getD .single⟩ a va.toNat with
  | .ok r => .ok r
  | .error (.trap t) => .error (stopOf t)
  | .error .later => .error .later

/-- Plain bytes as the engine reads them. -/
def State.copyRaw (s : State) (c : Copy) (k w : Nat) (sc : Bool) : Except CopyStop (State × List Byte) :=
  if sc then .error (.status 0x11)
  else match (s.uses k w).engineTarget State.chooseFree (s.copyHand c) .copyRead 3 (.plain k false) 0 w with
    | .error t => .error (stopOf t)
    | .ok r => .ok r

/-- A compressed page, expanded and checked whole once per command (R274). -/
def State.copyPage (s : State) (c : Copy) (page record : Nat) : Except CopyStop (State × Copy × List Byte) :=
  match mfind c.pages page with
  | some l => .ok (s, c, l)
  | none => do
    let (s, hd) ← s.copyRaw c record 16 false
    let (s, pay) ← s.copyRaw c (record + 16) (leNat ((hd.drop 4).take 2)) false
    match expandPage hd pay with
    | .error b => .error (.status b)
    | .ok l => pure (s, { c with pages := mins c.pages page l }, l)

/-- `n` bytes at `va` within one page, raw or expanded. -/
def State.copyPiece (s : State) (c : Copy) (va : Reg64) (n : Nat) : Except CopyStop (State × Copy × List Byte) := do
  let (s, t) ← s.copyXl c .copyRead va
  match t with
  | .plain k sc => do
    let (s, l) ← s.copyRaw c k n sc
    pure (s, c, l)
  | .packed r off => do
    let (s, c, l) ← s.copyPage c (va.toNat / 4096) r
    pure (s, c, (l.drop off).take n)
  | .view _ _ _ _ => .error (.status 0x11)

/-- One element of a memory sweep (Table 13.7): its bytes, and the width of its block. `w` is the width that the command's
other side names, when it does. -/
def State.copyRead (s : State) (c : Copy) (w : Option Nat) (va : Reg64) : Except CopyStop (State × Copy × List Byte × Option Nat) :=
  let code := c.code
  if va.toNat % (if code = 4 then 4 else 2 ^ code) ≠ 0 then .error (.status 0x11)
  else do
    let (s', t) ← s.copyXl c .copyRead va
    match t with
    | .view b bw n off =>
      if code = 2 then
        match s'.engineTarget State.chooseFree (s'.copyHand c) .copyRead 3 (.view b bw n off) va 4 with
        | .error t => .error (stopOf t)
        | .ok (s, l) => .ok (s, c, l, none)
      else if code ≠ 4 ∨ n ≠ 32 ∨ va.toNat % 128 ≠ 0 ∨ (w.isSome ∧ w ≠ some bw) then .error (.status 0x11)
      else do
        let (s, l) ← s'.copyRaw c b (blockBytes bw 32) false
        if (readBlock bw 32 l).isNone then .error (.status 0x15) else pure (s, c, l, some bw)
    | _ =>
      if code ≠ 4 then do
        let (s, c, l) ← s.copyPiece c va (2 ^ code)
        pure (s, c, l, none)
      else match w with
        | none => .error (.status 0x11)
        | some bw => do
          let n := 4 + 4 * bw
          let n1 := Nat.min n (4096 - va.toNat % 4096)
          let (s, c, l1) ← s.copyPiece c va n1
          let (s, c, l2) ← (if n1 = n then pure (s, c, []) else s.copyPiece c (va + BitVec.ofNat 64 n1) (n - n1))
          let l := l1 ++ l2
          if (readBlock bw 32 l).isNone then .error (.status 0x15) else pure (s, c, l, some bw)

/-- Where one element goes in memory: keys and bytes, checked before any is written. `w` is the width of a block. -/
def State.copyPlace (s : State) (c : Copy) (w : Option Nat) (va : Reg64) (l : List Byte) : Except CopyStop (State × List (Nat × Byte)) :=
  if va.toNat % (if w.isSome then 4 else l.length) ≠ 0 then .error (.status 0x11)
  else do
    let (s', t) ← s.copyXl c .copyWrite va
    match t with
    | .view b bw n _ =>
      if w ≠ some bw ∨ n ≠ 32 ∨ va.toNat % 128 ≠ 0 then .error (.status 0x11) else pure (s', atAddr b l)
    | .packed _ _ => .error (.status 0x11)
    | .plain k sc =>
      if sc then .error (.status 0x11)
      else
        let n1 := Nat.min l.length (4096 - va.toNat % 4096)
        if n1 = l.length then pure (s', atAddr k l)
        else do
          let (s, t2) ← s'.copyXl c .copyWrite (va + BitVec.ofNat 64 n1)
          match t2 with
          | .plain k2 false => pure (s, atAddr k (l.take n1) ++ atAddr k2 (l.drop n1))
          | _ => .error (.status 0x11)

/-- Which write of a task's log an engine makes (R97, R124): its task, member and place, its class, what is ordered before it, and
whether it is a delivery into a tile (R126). -/
structure EngineWrite where
  task : Nat
  member : Nat
  seq : Nat
  cls : Nat
  fen : SMap Nat
  prec : Clock
  tile : Bool

/-- An engine's bytes enter the log of the issuing hand's task, each with the byte that it replaces, and what reaches memory is noted
as that write (R124). `perform` makes them live. -/
def State.engineWrite (s : State) (w : EngineWrite) (kb : List (Nat × Byte)) (perform : State → State) : State :=
  let n := s.mem.perfCtr
  let key := ((kb.head?).map (·.1)).getD 0
  let ws : List Wr := kb.map (fun x =>
    ⟨x.1, x.2, w.member, w.seq, key, kb.length, w.cls, w.fen, w.prec, n, s.mem.live.get x.1, w.tile⟩)
  let s := s.modTask w.task (fun t => { t with log := t.log ++ ws })
  let s := perform s
  { s with mem := { s.mem with
      perfCtr := n + 1, notes := kb.foldl (fun m x => mins m x.1 ⟨n, none⟩) s.mem.notes } }

/-- The member of a command's hand. -/
def State.copyMember (s : State) (c : Copy) : Nat := ((s.handOf c.hand).map (·.member)).getD 0

/-- A command's writes as its task's log knows them. -/
def State.copyWrite (s : State) (c : Copy) : EngineWrite := ⟨c.task, s.copyMember c, c.seq, 3, c.fen, c.prec, c.kind.fills⟩

/-- A command as the heel's index names it (R60): its number, and the hand that issued it with its phase epoch, which stays until the
command has completed (R100). -/
def State.copyWriter (s : State) (c : Copy) : Writer :=
  ⟨c.task, true, c.n, c.hand, ((s.handOf c.hand).map (·.ord.epoch)).getD 0⟩

/-- The heel images that a writer's store of some bytes needs (R60), where the heel has room (log 18). -/
def State.retainAll (s : State) (w : Writer) (kb : List (Nat × Byte)) : State :=
  kb.foldl (fun (s : State) x => (s.retain w x.1).getD s) s

/-- Publishing bytes that stand in memory already (R99, R124). -/
def State.publish (s : State) (l : List (Nat × Byte)) : State :=
  { s with mem := l.foldl (fun m kb => m.publish kb.1 kb.2) s.mem }

/-- Is a heel image one of a command's? -/
def Writer.keeps (w : Writer) (i : HeelImage) : Bool := i.byCmd && i.writer == w.writer && i.hand == w.hand && i.task == w.task

/-- Freeing the images of a command (R61). -/
def State.freeImages (s : State) (w : Writer) : State :=
  { s with mem := { s.mem with heel := s.mem.heel.filter (fun i => !w.keeps i) } }

/-- An element that reaches memory: a heel image at the command's first write to the line (R60), then live. -/
def State.copyStore (s : State) (c : Copy) (kb : List (Nat × Byte)) : State :=
  (s.retainAll (s.copyWriter c) kb).engineWrite (s.copyWrite c) kb (fun s => s.putLiveAll kb)

/-- Bytes that reach the command's tile, as its entry now stands: where tdef has redefined it, the bytes of a command of an older GEN
land by the new base and layout. The spec does not say by which entry they land; this is the model's choice (log 84). -/
def State.copyLand (s : State) (c : Copy) (o : Nat) (l : List Byte) : State :=
  let t := s.tile c.core c.tile
  s.engineWrite (s.copyWrite c) (atAddr (t.key c.core o) l) (fun s => s.land c.core c.tile c.gen o l)

/-- Element `p` of the command's tile: its packed bytes (R276). -/
def State.tileElem (s : State) (c : Copy) (p : Nat) : Except CopyStop (State × List Byte) :=
  let t := s.tile c.core c.tile
  let e9 := wordAt c.shape 9
  let w := t.efmt - 5
  let (key, n, l) := if t.plane then
      let base := (e9 / t.rowBytes + p / t.rowSlots) * t.rowBytes
      (t.key c.core base, t.rowBytes, planePacked (fun o => s.mem.live.get (t.key c.core (base + o))) w (t.cols + 1) (p % t.rowSlots))
    else
      let o := t.slotAt e9 p
      (t.key c.core o, t.slotBytes, s.mem.live.bytes (t.key c.core o) t.slotBytes)
  match s.badKey key n with
  | some k => .error (.bad (s.badTrap k 5))
  | none => if 7 ≤ t.efmt ∧ (readBlock w 32 l).isNone then .error (.status 0x15) else .ok (s.rebuilds key n, l)

/-- The block width that a destination page names to a cpy.mem (R273). -/
def State.destWidth (s : State) (c : Copy) : Option Nat :=
  match s.copyXl c .copyWrite c.dst with
  | .ok (_, .view _ bw _ _) => some bw
  | _ => none

/-- Some bytes of a remote descriptor, read on the CPY path; a special page makes it unreadable (R45, R277). -/
def State.descPiece (s : State) (c : Copy) (va : Reg64) (n : Nat) : Except CopyStop (State × List Byte) := do
  let (s, t) ← s.copyXl c .copyRead va
  match t with
  | .plain k sc => s.copyRaw c k n sc
  | _ => .error (.status 0x11)

/-- A remote descriptor's bytes (Table 13.9). -/
def State.peerDesc (s : State) (c : Copy) : Except CopyStop (State × List Byte) := do
  let n := Nat.min 32 (4096 - c.dst.toNat % 4096)
  let (s, l) ← s.descPiece c c.dst n
  if n = 32 then pure (s, l)
  else do
    let (s, m) ← s.descPiece c (c.dst + BitVec.ofNat 64 n) (32 - n)
    pure (s, l ++ m)

/-- Has a port that is up a route to a device (R404, R405)? A port whose partner has a pod number leads to that device alone; any other
partner is a switch, which leads to every device of the pod (log 93). -/
def Port.reaches (p : Port) (device : Nat) : Bool := p.up && (p.partner == device || decide (512 ≤ p.partner))

/-- The port that traffic to a device uses: the lowest-numbered with a route to it (R404). -/
def State.portTo (s : State) (device : Nat) : Option Nat := ((s.pod.ports).find? (fun p => p.2.reaches device)).map (·.1)

/-- What the issuing device itself refuses of a descriptor (R277). -/
def peerRefused (d : List Byte) : Bool :=
  let num (o n : Nat) : Nat := leNat ((d.drop o).take n)
  num 6 2 != 0 || num 24 8 != 0 || decide (1 < num 2 1) || decide (511 < num 0 2) || num 16 8 % 8 != 0 ||
    (num 2 1 == 1 && (decide (63 < num 3 1) || decide (143 < num 4 2) || num 8 8 % 64 != 0))

/-- The side of a command's task (R384). -/
def State.peerSide (s : State) (c : Copy) : Side := ((s.taskOf c.task).map (·.side)).getD .single

/-- A cpy.peer begins: a paired hand's is refused (R385), its descriptor is read and judged, and it holds a port (R277, R404). -/
def State.peerOpen (s : State) (c : Copy) : Except CopyStop (State × Copy) :=
  if s.peerSide c ≠ .single then .error (.status 0x11)
  else match s.peerDesc c with
    | .error (.bad t) => .error (.bad t)
    | .error .later => .error .later
    | .error (.status _) => .error (.status 0x11)
    | .ok (s, d) =>
      match s.portTo (leNat (d.take 2)) with
      | none => .error (.status 0x11)
      | some p => if peerRefused d then .error (.status 0x11) else .ok (s, { c with port := some p })

/-- One position of a command: every byte it moves, or the stop. A fill into a failed field's tile stops (R412). -/
def State.copyStep (s : State) (c : Copy) : Except CopyStop (State × Copy) := do
  let t := s.tile c.core c.tile
  let p := c.pos
  let e9 := wordAt c.shape 9
  let done (c : Copy) (l : List Byte) : Copy := { c with pos := p + 1, moved := c.moved ++ l }
  if c.kind.fills && (s.field (fieldOfCore c.core)).state == 6 then .error (.status 0x10)
  else match c.kind with
  | .cpyIn => do
    let (s, c, l, _) ← s.copyRead c (some (t.efmt - 5)) (recAddr c.shape (recBase c.shape c.srcOff) p)
    pure (s.copyLand c (t.slotAt e9 p) l, done c l)
  | .cpyInp => do
    let w := t.efmt - 5
    let (s, c, l, _) ← s.copyRead c (some w) (recAddr c.shape (recBase c.shape c.srcOff) p)
    let c := done c l
    if (p + 1) % t.rowSlots ≠ 0 then pure (s, c)
    else
      let z := 4 + 4 * w
      let row := c.moved.drop (c.moved.length - z * t.rowSlots)
      let bytes := planeRow w ((List.range t.rowSlots).map (fun b => (row.drop (z * b)).take z))
      let o := e9 + p / t.rowSlots * t.rowBytes
      let s := s.copyLand c o bytes
      pure (s.modTile c.core c.tile (fun t => t.count c.gen (o + bytes.length) (t.rowBytes - bytes.length) s.mem.perfCtr), c)
  | .fill => do
    let (s, c, l, _) ← s.copyRead c none (recAddr c.shape (recBase c.shape c.srcOff) p)
    pure (s.copyLand c p l, { c with pos := p + 1 })
  | .cpyOut => do
    let (s, l) ← s.tileElem c p
    let w := if c.code = 4 then some (t.efmt - 5) else none
    let (s, kb) ← s.copyPlace c w (recAddr c.shape (recBase c.shape c.dst) p) l
    pure (s.copyStore c kb, done c l)
  | .cpyPeer => do
    let (s, c) ← if p = 0 then s.peerOpen c else pure (s, c)
    let (s, l) ← s.tileElem c p
    pure (s, done c l)
  | .cpyMem => do
    let dw := if c.code = 4 then s.destWidth c else none
    let (s, c, l, sw) ← s.copyRead c dw (recAddr c.shape (recBase c.shape c.srcOff) p)
    let step := if dw.isSome then 128 else l.length
    let (s, kb) ← s.copyPlace c sw (c.dst + BitVec.ofNat 64 (p * step)) l
    pure (s.copyStore c kb, done c l)

/-! ## Landing and completion -/

/-- The id under which a core's declared fills stand among the commands: no hand has it (R133). -/
def fillHand (core : Nat) : Nat := 0x10000 + core

/-- The command of a hand by its number; of a core's fills of one tile, the oldest. -/
def State.copyOf (s : State) (hand n : Nat) : Option Copy := s.copies.find? (fun c => c.hand == hand && c.n == n)
/-- Replacing a command. -/
def State.setCopy (s : State) (c : Copy) : State :=
  { s with copies := s.copies.map (fun d => if d.hand = c.hand ∧ d.n = c.n ∧ d.gen = c.gen then c else d) }
/-- Taking a command out. -/
def State.dropCopy (s : State) (c : Copy) : State :=
  { s with copies := s.copies.filter (fun d => !(d.hand == c.hand && d.n == c.n && d.gen == c.gen)) }

/-- An error of the command chain or of the tile table that a hand's commands depend on (Table 3.6). -/
def State.chainError (s : State) (hand : Nat) : Option Trap :=
  (s.mem.badHands.find? (fun b => b.1 == hand && (b.2.1 == 7 || b.2.1 == 9))).map (fun b =>
    { Trap.mk' .uncorrectable 0 with struct := b.2.1, unit := b.2.2 })

/-- One position of a command, unless the chain or the table that its hand depends on no longer decodes. -/
def State.copyTry (s : State) (c : Copy) : Except CopyStop (State × Copy) :=
  match s.chainError c.hand with
  | some t => .error (.bad t)
  | none => s.copyStep c

/-- Positions of a command, at most `n` of them, until one stops it. -/
def State.copyRun (s : State) (hand num : Nat) : Nat → State
  | 0 => s
  | n + 1 =>
    match s.copyOf hand num with
    | none => s
    | some c =>
      if c.status.isSome || decide (c.vol ≤ c.pos) then s
      else match s.copyTry c with
        | .ok (s, c) => (s.setCopy c).copyRun hand num n
        | .error (.status b) => s.setCopy { c with status := some b }
        | .error (.bad t) => if c.kind = .fill then (s.countBadAt c.core t).setCopy { c with status := some 0x40 }
          else (s.dropCopy c).engineError hand t
        | .error .later => s

/-- Does the field's throttle hold a command that has not started (Table 17.5)? -/
def State.copyHeld (s : State) (c : Copy) : Bool := c.pos == 0 && c.status.isNone && (s.field (fieldOfCore c.core)).throttle

/-- The largest m such that every command up to m has ended (R272). -/
def cpyDone (ended : List Nat) : Nat → Nat → Nat
  | 0, m => m
  | k + 1, m => if ended.contains (m + 1) then cpyDone ended k (m + 1) else m

/-- Where a command's completion record stands (R272). -/
def State.recordKey (s : State) (c : Copy) : Nat :=
  Config.benchKey c.core (0x77_F000 + 1024 * ((s.handOf c.hand).map (fun h => h.slot)).getD 0 + 16 * (c.n % 64))

/-- The end of a command (R272, R276, R278, Table 3.3): its memory writes are published, its images freed, its record
written, its tile moved, its follow-on released or discarded, CPYDONE advanced. What a command wrote is published as it wrote it, also
where another agent has since written the byte: R124 does not say which of the two then stands (the model's choice, log 118). -/
def State.endCopy (s : State) (c : Copy) (status : Byte) : State :=
  let member := s.copyMember c
  let wrote : List Wr := if c.kind = .cpyOut ∨ c.kind = .cpyMem then
      (((s.taskOf c.task).map (·.log)).getD []).filter (fun w => w.member == member && w.seq == c.seq && w.cls == 3) else []
  let s := (s.publish (wrote.map (fun w => (w.key, w.val)))).freeImages (s.copyWriter c)
  let record := leBytes 8 c.n ++ leBytes 4 (if status = 0 then crc32c c.moved else 0) ++ [status, 0, 0, 0]
  let s := s.putPubAll (atAddr (s.recordKey c) record)
  let s := if c.vol = 0 then s
    else if c.kind.fills then
      (if status = 0 then s else s.modTile c.core c.tile (fun t => if t.gen = c.gen ∧ t.state = 1 then { t with state := 0 } else t))
    else if c.kind = .cpyOut then
      s.modTile c.core c.tile (fun t => if t.state = 3 then { t with state := if status = 0 then 0 else 2 } else t)
    else s
  let s := (s.modCore c.core (fun k => { k with chain := k.chain - 1 })).dropCopy c
  s.modHand c.hand (fun (h : Hand) =>
    let ended := h.csr.cpyEnded ++ [c.n]
    let m := cpyDone ended ended.length h.csr.cpydone.toNat
    { h with
      csr := { h.csr with cpydone := BitVec.ofNat 64 m, cpyEnded := ended.filter (fun k => decide (m < k)) }
      jobs := if status = 0 then h.jobs.map (fun (j : Job) => if j.follows = some c.n then { j with copyEnded := true } else j)
        else h.jobs.filter (fun j => j.follows != some c.n) })

/-- The remote device's answer ends a cpy.peer whose sweep has ended (R277), once `arrive` lets it in. -/
def State.peerAnswered (s : State) (e : CmdEv) (arrive : State → Copy → Option State) : State :=
  match s.copyOf e.hand e.n.toNat with
  | none => s
  | some c =>
    if c.kind = .cpyPeer ∧ c.status.isNone ∧ c.vol ≤ c.pos ∧ c.vol ≠ 0 ∧ !s.copyHeld c ∧ s.peerSide c = .single ∧
        (e.remote = 0 ∨ e.remote = 0x10 ∨ e.remote = 0x11) then ((arrive s c).map (fun s => s.endCopy c e.remote)).getD s
    else s

/-- COPY_COMPLETION: a command whose sweep has ended or stopped ends; a cpy.peer with what the remote device answers, which is an arrival
at its port of Dudel's (R393). -/
def execCopyCompletion (e : CmdEv) (s : State) : Host.Outcome State Fault Refusal :=
  .next (match s.copyOf e.hand e.n.toNat with
  | none => s
  | some c =>
    match c.status with
    | some b => if c.kind = .fill then s else s.endCopy c b
    | none =>
      if c.kind = .fill then s
      else if c.pos < c.vol ∨ s.copyHeld c then s
      else if c.kind = .cpyPeer ∧ s.peerSide c ≠ .single then s.endCopy c 0x11
      else if c.kind ≠ .cpyPeer ∨ c.vol = 0 then s.endCopy c 0
      else s.peerAnswered e (fun s c => s.arrives (256 + c.port.getD 0) 1 (s.recordKey c)))

/-! ## Deliveries from other devices (R277) -/

/-- The address of position `p` of an arriving sweep. -/
def sweepAddr (f : SweepF) (roff : Reg64) (p : Nat) : Reg64 :=
  let i := p % f.d0
  let j := p / f.d0 % f.d1
  let k := p / (f.d0 * f.d1)
  f.base + roff + BitVec.ofInt 64 ((i : Int) * f.s0 + (j : Int) * f.s1 + (k : Int) * f.s2)

/-- The lowest-numbered port that is up. -/
def State.upPort (s : State) : Option Nat := ((s.pod.ports).find? (fun p => p.2.up)).map (·.1)

/-- Where an arriving element goes in memory (KIND 0): by translation in its ASID, where no core owns the bench window. -/
def State.peerPlace (s : State) (asid : BitVec 16) (va : Reg64) (l : List Byte) : Option (State × List (Nat × Byte)) :=
  let block := decide (8 < l.length)
  if va.toNat % (if block then 4 else l.length) ≠ 0 then none
  else
    let one (s : State) (va : Reg64) : Option (State × Target) := match s.xlate ⟨asid, none, false, .single⟩ .copyWrite va.toNat with
      | .ok r => some r
      | .error _ => none
    match one s va with
    | some (s, .plain k false) =>
      let n1 := Nat.min l.length (4096 - va.toNat % 4096)
      if n1 = l.length then some (s, atAddr k l)
      else match one s (va + BitVec.ofNat 64 n1) with
        | some (s, .plain k2 false) => some (s, atAddr k (l.take n1) ++ atAddr k2 (l.drop n1))
        | _ => none
    | some (s, .view b bw n _) =>
      if block && n == 32 && va.toNat % 128 == 0 && blockBytes bw 32 == l.length then some (s, atAddr b l) else none
    | _ => none

/-- An arriving command's writes as the log of its task knows them, when the task has hands here (R124). -/
def peerEngine (f : PeerF) : EngineWrite := ⟨f.task, f.member, f.seq, 3, [], f.prec, f.kind == 1⟩

/-- An arriving command as the heel's index names it (R60): hands of other devices stand above those of this one. -/
def peerWriter (f : PeerF) : Writer := ⟨f.task, true, f.n.toNat, 2 ^ 32 + 2 ^ 20 * f.src + f.member, f.epoch⟩

/-- Does the command that an image was kept for still run? -/
def State.commandRuns (s : State) (i : HeelImage) : Bool :=
  s.copies.any (fun c => (s.copyWriter c).keeps i) || s.arrivals.any (fun a => (peerWriter a.f).keeps i)

/-- Freeing the images of a task that retires (R61): of its hands, and of its commands but for those that still run. -/
def State.freeTask (s : State) (task : Nat) : State :=
  { s with mem := { s.mem with heel := s.mem.heel.filter (fun i => i.task != task || s.commandRuns i) } }

/-- The bytes of an arriving element. -/
def peerElem (f : PeerF) (p : Nat) : List Byte := (f.bytes.drop (p * f.sweep.esize)).take f.sweep.esize
/-- The elements of an arriving command. -/
def peerCount (f : PeerF) : Nat := f.bytes.length / f.sweep.esize

/-- The remote completion word, through the linked path after the data (R125), and what reading it makes visible to the
issuing hand's task. -/
def State.peerWord (s : State) (f : PeerF) (bytes : Mem) : State :=
  if f.cwa = 0 then s
  else match s.xlate ⟨f.asid, none, false, .single⟩ .copyWrite f.cwa.toNat with
    | .ok (s, .plain k _) =>
      let s := s.putPubAll (atAddr k (leBytes 8 f.n.toNat))
      { s with mem := { s.mem with tokens := s.mem.tokens ++ [⟨some f.task, k, f.n, bytes, some (3, f.member, f.seq)⟩] } }
    | _ => s

/-- Bytes of an arriving stream that reach a tile of this device. -/
def State.peerBytes (s : State) (f : PeerF) (gen o : Nat) (l : List Byte) : State :=
  s.engineWrite (peerEngine f) (atAddr ((s.tile f.core f.tile).key f.core o) l) (fun s => s.land f.core f.tile gen o l)

/-- An element of an arriving stream placed in a remote tile from ROFF (R422); a row of planes with its last block (R67). -/
def State.peerLand (s : State) (f : PeerF) (gen p : Nat) : State :=
  let t := s.tile f.core f.tile
  if !t.plane then s.peerBytes f gen (t.slotAt f.roff.toNat p) (peerElem f p)
  else if (p + 1) % t.rowSlots ≠ 0 then s
  else
    let row := planeRow (t.efmt - 5) ((upFrom (p + 1 - t.rowSlots) t.rowSlots).map (peerElem f))
    let o := f.roff.toNat + p / t.rowSlots * t.rowBytes
    let s := s.peerBytes f gen o row
    s.modTile f.core f.tile (fun t => t.count gen (o + row.length) (t.rowBytes - row.length) s.mem.perfCtr)

/-- One position of an arriving copy: it lands, or (none) is refused. A failed field's tiles take nothing (R412). -/
def State.arriveStep (s : State) (a : Arrival) : Option (State × Arrival) :=
  if a.f.kind = 0 then
    (s.peerPlace a.f.asid (sweepAddr a.f.sweep a.f.roff a.pos) (peerElem a.f a.pos)).map (fun r =>
      ((r.1.retainAll (peerWriter a.f) r.2).engineWrite (peerEngine a.f) r.2 (fun s => s.putLiveAll r.2),
        { a with pos := a.pos + 1, wrote := byteMap (a.wrote ++ r.2) }))
  else if (s.field (fieldOfCore a.f.core)).state = 6 then none
  else some (s.peerLand a.f a.gen a.pos, { a with pos := a.pos + 1 })

/-- An arriving copy ends: what it wrote to memory is published and its images are freed (R61, R124), and the completion word follows where
every byte landed (R125). Cut off, it ends with a nonzero status, and the tile of its own fill is EMPTY again (Table 3.3). -/
def State.arriveEnd (s : State) (a : Arrival) (whole : Bool) : State :=
  let s := (s.publish a.wrote).freeImages (peerWriter a.f)
  if whole then s.peerWord a.f a.wrote
  else if a.f.kind = 1 then s.modTile a.f.core a.f.tile (fun t => if t.gen = a.gen ∧ t.state = 1 then { t with state := 0 } else t)
  else s

/-- Does an access of a copy from another device wait for a stack that is coming up (R412)? -/
def State.peerLater (s : State) (f : PeerF) (va : Reg64) : Bool :=
  match s.look ⟨f.asid, none, false, .single⟩ .copyWrite va.toNat with
  | .error .later => true
  | _ => false

/-- Does an arriving copy wait so, with its next position or with its completion word? -/
def State.arriveWaits (s : State) (a : Arrival) : Bool :=
  if peerCount a.f ≤ a.pos then a.f.cwa != 0 && s.peerLater a.f a.f.cwa
  else
    let va := sweepAddr a.f.sweep a.f.roff a.pos
    a.f.kind == 0 && (s.peerLater a.f va || s.peerLater a.f (va + BitVec.ofNat 64 (a.f.sweep.esize - 1)))

/-- Positions of the `i`-th arriving copy, at most `n` of them, until it ends. -/
def State.arriveRun (s : State) (i : Nat) : Nat → State
  | 0 => s
  | n + 1 =>
    match s.arrivals[i]? with
    | none => s
    | some a =>
      if s.arriveWaits a then s
      else if peerCount a.f ≤ a.pos then ({ s with arrivals := s.arrivals.eraseIdx i }).arriveEnd a true
      else match s.arriveStep a with
      | none => ({ s with arrivals := s.arrivals.eraseIdx i }).arriveEnd a false
      | some (s, a) =>
        if peerCount a.f ≤ a.pos ∧ !s.arriveWaits a then ({ s with arrivals := s.arrivals.eraseIdx i }).arriveEnd a true
        else ({ s with arrivals := s.arrivals.set i a }).arriveRun i n

/-- The first flit of an arriving copy: it is refused whole for a KIND 1 whose tile does not take it, or opens the tile's fill and stands
until its bytes have landed (R277, R68). -/
def State.peerArrives (s : State) (f : PeerF) : State :=
  let t := s.tile f.core f.tile
  let refused := f.sweep.esize = 0 ∨ (f.kind ≠ 0 ∧
    (f.kind ≠ 1 ∨ Config.coreCount ≤ f.core ∨ 64 ≤ f.tile ∨ t.state = 2 ∨ t.state = 3 ∨ f.bytes.length % t.slotBytes ≠ 0 ∨
      f.sweep.esize ≠ t.slotBytes ∨ !t.fits f.roff.toNat (f.bytes.length / t.slotBytes) ∨ (s.field (fieldOfCore f.core)).state = 6))
  if refused then s
  else if f.bytes.isEmpty ∧ !(f.cwa != 0 && s.peerLater f f.cwa) then s.peerWord f []
  else
    let s := if f.kind = 1 ∧ !f.bytes.isEmpty then s.modTile f.core f.tile Tile.accept else s
    { s with arrivals := s.arrivals ++ [⟨f, (s.tile f.core f.tile).gen, 0, []⟩] }

/-- Where an arriving copy puts its first byte, as Dudel's entry names it (R393): a bench key of a tile, or the physical address; 0 where
its first position is refused (log 25). -/
def State.recvBuffer (s : State) (f : PeerF) : Nat :=
  if f.kind = 1 then (s.tile f.core f.tile).key f.core f.roff.toNat
  else (((s.peerPlace f.asid (sweepAddr f.sweep f.roff 0) (peerElem f 0)).bind (fun r => r.2.head?)).map (·.1)).getD 0

/-- PEER_DELIVERY (R277) through a port that has a route to the sender, as an arrival of Dudel's (R393). During a machine halt the ports
give no credit for data, so that none arrives (R392). -/
def execPeerDelivery (f : PeerF) (s : State) : Host.Outcome State Fault Refusal :=
  .next (
    if s.pod.halted then s
    else match s.portTo f.src with
      | none => s
      | some p => match s.arrives (256 + p) f.bytes.length (s.recvBuffer f) with
        | none => s
        | some s => s.peerArrives f)

/-- Which arriving copy an event names: 2^32 and its place among them. -/
def State.arrivingAt (s : State) (e : CmdEv) : Option Nat :=
  if 2 ^ 32 ≤ e.hand ∧ e.hand - 2 ^ 32 < s.arrivals.length then some (e.hand - 2 ^ 32) else none

/-- COPY_BYTES_LANDED (R68, R276, R277): the next positions of a command's sweep, or of a copy that is arriving, of which none lands
during a machine halt (R392). -/
def execCopyBytesLanded (e : CmdEv) (s : State) : Host.Outcome State Fault Refusal :=
  .next (match s.arrivingAt e with
  | some i => if s.pod.halted then s else s.arriveRun i e.count
  | none => match s.copyOf e.hand e.n.toNat with
    | none => s
    | some c => if s.copyHeld c then s else s.copyRun e.hand e.n.toNat e.count)

end Sys2Proof.Machine
end

