-- ==== Sys2Proof/Machine/Xchg.lean ====
section
/-! DEFINITION. The exchange network (R70, R285, R286): xchg and the landing of a block. -/

namespace Sys2Proof.Machine

/-- `n` bytes at `va` as an engine reads them for the current hand, byte by byte (R71, R120). -/
def State.engineSpan (s : State) (a : Access) (cls : Nat) (va : Reg64) (n : Nat) : Run (State × List Byte) :=
  (List.range n).foldlM (fun (acc : State × List Byte) i => do
    let v := va + BitVec.ofNat 64 i
    let (s, t, leaf) ← acc.1.xlook a v
    s.performing leaf a t (fun s => match s.engineTarget State.chooseFree s.hand a cls t v 1 with
      | .error t => s.trap t
      | .ok (s, l) => pure (s, acc.2 ++ l))) (s, [])

/-- An exchange descriptor (Table 13.12): XID, SCOPE, N, ME, BROWS; none where R285 refuses it. `node` says that ME is
ignored (R138). -/
def xchgDesc (d : List Byte) (node : Bool) : Option (Nat × Nat × Nat × Nat × Nat) :=
  let num (o n : Nat) : Nat := leNat ((d.drop o).take n)
  let scope := num 4 1
  let n := num 6 2
  let me := num 8 2
  if num 5 1 ≠ 0 ∨ num 12 4 ≠ 0 ∨ n = 0 ∨ Config.coreCount < n ∨ (!node ∧ n ≤ me) ∨ scope < 2 ∨ 4 < scope then none
  else some (num 0 4, scope, n, me, num 10 2)

/-- The tile rules of R285: the first tile that breaks them. -/
def xchgTiles (src dst : Tile) (a d n brows : Nat) : Option Nat :=
  if src.rows + 1 ≠ n * brows then some a
  else if dst.rows + 1 ≠ n * brows ∨ dst.rowBytes ≠ src.rowBytes then some d
  else none

/-- xchg (R285). -/
def execXchg (f : XchgF) (s : State) : Host.Outcome State Fault Refusal :=
  guarded s f.g (fun s => do
    let b ← s.src 1 f.b f.tb
    let d := f.d.toNat + 32 * f.x.toNat
    let a := f.a.toNat + 32 * f.y.toNat
    s.sound 7 0
    let (s, l) ← s.engineSpan .exchange 6 b 16
    match xchgDesc l false with
    | none => s.trap (Trap.mk' .reservedField b)
    | some (xid, scope, n, me, brows) =>
      let c := s.hand.core
      match xchgTiles (s.tile c a) (s.tile c d) a d n brows with
      | some t => s.tileTrap t
      | none =>
        if (s.tile c d).state = 2 ∨ (s.tile c d).state = 3 then s.tileTrap d
        else if (s.tile c a).state ≠ 2 then s.tileWait
        else do
          let s ← s.commits
          let s := s.modTile c d Tile.accept
          let h := s.hand
          let fen : SMap Nat := (List.range 7).foldl (fun m k => mput 0 m k (h.ord.fence k 6)) []
          let x : Xchg := ⟨some h.id, h.task, c, scope, unitOf scope h.dispatchCore, BitVec.ofNat 32 xid, n, me, brows, a, d,
            (s.tile c d).gen, 0, [], false, h.member, h.ord.wseq, fen, s.precFor h 6⟩
          let s := { s with
            hand := { h with ord := { h.ord with wseq := h.ord.wseq + 1 } }
            xchgs := s.xchgs ++ [x] }
          pure (s.retire 4))

/-- Has the command nothing left to do, as a sender and as a receiver? One that an error stopped never has. -/
def Xchg.ended (x : Xchg) : Bool := x.round == x.n && x.landed.length == x.n

/-- The `i`-th command stops at an uncorrectable error and never completes (Table 3.6): its hand takes UNCORRECTABLE; an exchange node has
none, and the error counts at its core (R64). -/
def State.stopXchg (s : State) (i : Nat) (x : Xchg) (t : Trap) : State :=
  let s := { s with xchgs := s.xchgs.set i { x with dead := true } }
  match x.hand with
  | some h => s.engineError h t
  | none => s.countBadAt x.core t

/-- The tile table of a command's hand, where it no longer decodes (R74). -/
def State.xchgTable (s : State) (x : Xchg) : Option Trap := x.hand.bind (fun h => s.badOf h 7 0)

/-- EXCHANGE_BLOCK_LANDING (R286): the next block of the `i`-th command in progress lands in its receiver's destination; an
absent receiver or a block of another size leaves it waiting; a tile that TILE-RESET took discards it (R70). -/
def execExchangeBlockLanding (i : Nat) (s : State) : Host.Outcome State Fault Refusal :=
  .next (match s.xchgs[i]? with
  | none => s
  | some x =>
    let j := (x.me + x.round) % x.n
    let takes (y : Xchg) : Bool := y.task == x.task && y.scope == x.scope && y.unit == x.unit && y.xid == x.xid && y.me == j &&
      !y.landed.contains x.me
    if x.dead || decide (x.n ≤ x.round) then s
    else match s.xchgs.findIdx? takes with
      | none => s
      | some k => match s.xchgs[k]? with
        | none => s
        | some y =>
          let src := s.tile x.core x.src
          let dst := s.tile y.core y.dst
          let size := x.brows * src.rowBytes
          let moved (s : State) : State :=
            let xs := s.xchgs.set k { y with landed := y.landed ++ [x.me] }
            let xs := match xs[i]? with
              | some x => xs.set i { x with round := x.round + 1 }
              | none => xs
            { s with xchgs := xs.filter (fun x => !x.ended) }
          if y.dead then s
          else if let some t := s.xchgTable x then s.stopXchg i x t
          else if let some t := s.xchgTable y then s.stopXchg k y t
          else if dst.gen ≠ y.gen then moved s
          else if size != y.brows * dst.rowBytes || decide (dst.rows + 1 < (x.me + 1) * y.brows) then s
          else
            let key := src.key x.core (j * size)
            match s.badKey key size with
            | some b => s.stopXchg i x (s.badTrap b 9)
            | none =>
              let l := s.mem.live.bytes key size
              let o := x.me * size
              moved ((s.rebuilds key size).engineWrite ⟨x.task, x.member, x.seq, 6, x.fen, x.prec, true⟩ (atAddr (dst.key y.core o) l)
                (fun s => s.land y.core y.dst y.gen o l)))

/-- Abandoning exchanges (R70), those that an error stopped too: each destination still FILLING in the command's fill is EMPTY again, GEN
advanced. -/
def State.abandon (s : State) (which : Xchg → Bool) : State :=
  let gone := s.xchgs.filter (fun x => which x && decide (x.landed.length < x.n ∨ x.round < x.n))
  let s := { s with xchgs := s.xchgs.filter (fun x => !which x) }
  gone.foldl (fun (s : State) x => s.modTile x.core x.dst (fun t =>
    if t.state = 1 ∧ t.gen = x.gen then { t with state := 0, gen := (t.gen + 1) % 8 } else t)) s

end Sys2Proof.Machine
end

