-- ==== Sys2Proof/Machine/Pool.lean ====
section
/-! DEFINITION. The ready pool (R131 to R140, R338 to R345): graphs, placement, dispatch, retirement, completion. -/

namespace Sys2Proof.Machine

/-! ## Reading graphs (R131, R132) -/

/-- The agent that the pool is: it has no bench, and the permission that the submission's kind gives. -/
def poolAgent (asid : BitVec 16) (sys : Bool) : Agent := ⟨asid, none, sys, .single⟩

/-- Bytes as the pool reads them, live; a fault where translation or permission refuses, a wait where a stack is coming up (R412). A page
with a format or compressed pages gives a fault too: R132 names only translation and permission, this is the model's choice (log 85). -/
def State.poolRead (s : State) (asid : BitVec 16) (sys : Bool) (va : Reg64) (n : Nat) : Except NoAddr (State × List Byte) :=
  (piecesOf va 0 n).foldlM (fun (acc : State × List Byte) p => do
    let va := va + BitVec.ofNat 64 p.1
    match ← acc.1.xlate (poolAgent asid sys) .load va.toNat with
    | (s, .plain k _) => pure (s.uses k p.2, acc.2 ++ s.mem.live.bytes k p.2)
    | _ => .error (.trap (xfault .permission 0 7 .load va.toNat))) (s, [])

/-- A declared tile operand of its bytes (Table 7.3). -/
def tileOpOf (r : List Byte) : TileOp :=
  let lo := recField r 0 8
  ⟨BitVec.ofNat 64 (recField r 8 8), decide (2 ^ 63 ≤ lo), lo / 2 ^ 57 % 64, lo % 2 ^ 57⟩

/-- A tile operand without the bits that minor 0 reserves in its DEF, which a record of a higher minor has ignored (R400). -/
def TileOp.ignoring (t : TileOp) (minor : Nat) : TileOp :=
  if minor = 0 then t else { t with defn := t.defn &&& ~~~(BitVec.ofNat 64 (2 ^ 28 - 2 ^ 17)) }

/-- A node record's fields (Table 7.2), the successors still to be read. -/
def nodeOf (r : List Byte) : NodeRec where
  cls := recField r 2 1
  prio := recField r 3 1 % 8
  scope := recField r 4 1
  hands := recField r 5 1
  vprof := recField r 6 1 % 16
  cores := recField r 8 2
  succ := []
  preds := recField r 12 2
  entry := BitVec.ofNat 64 (recField r 16 8)
  xs := (List.range 8).map (fun i => BitVec.ofNat 64 (recField r (24 + 8 * i) 8))
  done := recField r 96 8
  est := recField r 104 4
  gangn := Nat.max 1 (recField r 108 2)
  gangix := recField r 110 2
  tiles := (List.range (recField r 7 1)).map (fun i => (tileOpOf ((r.drop (128 + 16 * i)).take 16)).ignoring (recField r 0 1))

/-- Cores of a scope (R132). -/
def scopeSize (scope : Nat) : Nat :=
  match scope with
  | 1 => 1
  | 2 => 4
  | 3 => 24
  | _ => 144

/-- Does a record set a reserved field (Table 7.2, Table 3.2)? -/
def reservedSet (r : List Byte) : Bool :=
  recField r 3 1 / 8 != 0 || recField r 6 1 / 16 != 0 || recField r 14 2 != 0 || recField r 112 16 != 0 ||
    (nodeOf r).tiles.any (fun t => t.defn.toNat / 2 ^ 17 % 2 ^ 11 != 0)

/-- Does a record break R132, its successors aside? `paired` adds R384's scope rule, `spawned` R180's. Where its minor version is a
higher one, what minor 0 leaves reserved is ignored (R400). STATE and GEN of a tile's DEF are zero (Table 7.3). -/
def recordBad (r : List Byte) (paired spawned : Bool) : Bool :=
  let n := nodeOf r
  recField r 1 1 != 1 || (recField r 0 1 == 0 && reservedSet r) ||
  n.tiles.any (fun t => t.defn.toNat / 2 ^ 62 != 0 || t.defn.toNat / 2 ^ 28 % 8 != 0) ||
  decide (2 < n.cls) || n.scope == 0 || decide (5 < n.scope) || n.hands == 0 || decide (4 < n.hands) || decide (4 < n.vprof) ||
  decide (8 < recField r 7 1) || (r.drop (128 + 16 * recField r 7 1)).any (· != 0) ||
  n.cores == 0 || decide (scopeSize n.scope < n.cores) || decide (4096 < recField r 10 2) || decide (16383 < n.preds) ||
  n.entry.toNat % 4 != 0 || n.done % 8 != 0 || decide (n.gangn ≤ n.gangix) ||
  (n.cls == 1 && (n.cores != 1 || n.hands != 1 || recField r 7 1 != 0)) ||
  (n.cls == 2 && (n.entry != 0 || recField r 7 1 != 0)) ||
  (paired && decide (3 < n.scope)) || (spawned && decide (1 < n.gangn))

/-- Reading one record and its successor list, none while a stack that it stands in is coming up (R412): the list, which counts for PREDS
also where the record fails, and its fields, or STATUS 1 or 2 of Table 17.2. An unreadable record, and one with more successors than R131
allows, has no list that is known. -/
def State.readNode (s : State) (asid : BitVec 16) (sys paired spawned : Bool) (va : Reg64) (count : Nat) :
    Option (State × Option (List Nat) × Except Nat NodeRec) :=
  match s.poolRead asid sys va 256 with
  | .error .later => none
  | .error _ => some (s, none, .error 2)
  | .ok (s, r) =>
    let bad := recordBad r paired spawned
    let n := recField r 10 2
    if 4096 < n then some (s, none, .error 1)
    else match s.poolRead asid sys (BitVec.ofNat 64 (recField r 88 8)) (2 * n) with
    | .error .later => none
    | .error _ => some (s, none, .error (if bad then 1 else 2))
    | .ok (s, l) =>
      let succ := (List.range n).map (fun i => recField l (2 * i) 2)
      some (s, some succ, if bad || succ.any (fun k => decide (count ≤ k)) then .error 1 else .ok { nodeOf r with succ := succ })

/-- Does a node's PREDS differ from the times that it appears in all successor lists (R132)? Where a list is not known, the record that
should give it fails, and another node fails here only where the lists that are known name it too often. -/
def predsBad (lists : List (Option (List Nat))) (j preds : Nat) : Bool :=
  let n := ((lists.filterMap id).flatten.filter (· == j)).length
  if lists.all Option.isSome then n != preds else decide (preds < n)

/-- Reading a graph whole, none while a stack that it stands in is coming up: its nodes, or the first failing node and its STATUS. A
spawn's records are read at x[A] as it stands, also where that is no multiple of 64: R131 aligns them, and neither it nor R180 says what
spawn then does (log 85). -/
def State.readGraph (s : State) (g : Graph) : State × Option (Except (Nat × Nat) (List NodeRec)) :=
  let spawned := match g.origin with
    | .queue _ => false
    | .spawn _ => true
  let read := (List.range g.count).foldlM (fun (acc : State × List (Option (List Nat)) × List (Except Nat NodeRec)) j =>
    (acc.1.readNode g.asid g.sys g.paired spawned (BitVec.ofNat 64 (g.addr + 256 * j)) g.count).map (fun r =>
      (r.1, acc.2.1 ++ [r.2.1], acc.2.2 ++ [r.2.2]))) (s, [], [])
  match read with
  | none => (s, none)
  | some (s, lists, rs) =>
    let verdict (rj : Except Nat NodeRec × Nat) : Option (Nat × Nat) := match rj.1 with
      | .error st => some (rj.2, st)
      | .ok n => if predsBad lists rj.2 n.preds then some (rj.2, 1) else none
    match rs.zipIdx.findSome? verdict with
    | some e => (s, some (.error e))
    | none => (s, some (.ok (rs.filterMap (fun r => match r with
      | .ok n => some n
      | .error _ => none))))

/-! ## Entries (R339, R340, R342) -/

/-- The next submission number (R339): modulo 2^48. -/
def State.nextSub (s : State) : State × Nat :=
  ({ s with pool := { s.pool with submissions := (s.pool.submissions + 1) % 2 ^ 48 } }, s.pool.submissions)

/-- Is there room for a graph (R340)? -/
def State.poolRoom (s : State) (n : Nat) : Bool := decide (s.pool.nodes.length + n ≤ Config.poolEntries)

/-- TASKID of a node (Table 8.10). -/
def Node.taskid (n : Node) : Reg64 := BitVec.ofNat 64 (n.subno % 2 ^ 48 * 65536 + n.index)

/-- The other devices of a node's gang, by the list that GANG-SET gave (R406). -/
def Node.peers (n : Node) : List Nat :=
  if n.record.gangn ≤ 1 then []
  else (n.gang.zipIdx.filter (fun di => di.2 != n.record.gangix && decide (di.2 < n.record.gangn))).map (·.1)

/-- The acceptances that this device sends for a node it has accepted (R367, R406). -/
def Node.acceptances (n : Node) : List PodMsg := n.peers.map (fun d => .accept d n.taskid n.record.gangix)

/-- The copy of the pool's entries in f1, which every admission and dispatch updates (R413). -/
def State.copyPool (s : State) : State := { s with poolCopy := s.pool.nodes }

/-- Admitting a checked graph (R340, R342): its nodes in ascending number. The acceptance of a gang node goes to the gang's other
devices (R367). -/
def State.admitGraph (s : State) (g : Graph) : State :=
  let base := s.pool.nodeSeq
  let ns : List Node := g.nodes.zipIdx.map (fun (r, j) =>
    ⟨g.subno, j, base + 1 + j, r, g.asid, g.sys, g.paired, g.gang, r.preds,
      if r.preds = 0 then .ready else .waiting, [], [], 0, 0, 0, false, [], decide (1 < r.gangn), false⟩)
  ({ s with
    pool := { s.pool with
      nodeSeq := base + ns.length, nodes := s.pool.nodes ++ ns, graphs := s.pool.graphs.filter (fun x => x.subno != g.subno) }
    pod := { s.pod with sent := s.pod.sent ++ (ns.map Node.acceptances).flatten } }).copyPool

/-- Replacing a node entry. -/
def State.setNode (s : State) (n : Node) : State :=
  { s with pool := { s.pool with nodes := s.pool.nodes.map (fun m => if m.nseq = n.nseq then n else m) } }
/-- A node entry by its node sequence number. -/
def State.nodeOf (s : State) (nseq : Nat) : Option Node := s.pool.nodes.find? (fun n => n.nseq == nseq)

/-! ## Placement (R343, R344) -/

/-- Does a hand run in a slot of a core? -/
def Hand.runsIn (h : Hand) (c sl : Nat) : Bool := h.living && h.status != .saved && h.core == c && h.slot == sl

/-- Slots of a core in which no hand runs (R365). -/
def State.emptySlots (s : State) (c : Nat) : List Nat :=
  (List.range 4).filter (fun sl => !s.allHands.any (fun h => h.runsIn c sl))

/-- Free hand slots of a core (R134): no hand runs there, and no living hand holds the HANDID. -/
def State.freeSlots (s : State) (c : Nat) : List Nat :=
  (s.emptySlots c).filter (fun sl => !s.allHands.any (fun h => h.living && h.id == 4 * c + sl))

/-- Slots of a core that nodes being filled will take. -/
def State.promised (s : State) (c : Nat) : Nat :=
  s.pool.nodes.foldl (fun a n => match n.state with
    | .filling cs _ => if cs.contains c && n.record.cls == 0 then a + n.record.hands else a
    | _ => a) 0

/-- Does a core take new hands at all (R363, R383, R412)? -/
def State.coreServes (s : State) (c : Nat) : Bool :=
  let f := s.field (fieldOfCore c)
  f.state == 5 && !(s.core c).offline && !(s.core c).excluded && !f.excludedQuads.contains (c / 4)

/-- Is a core eligible for a node (R344)? -/
def State.eligible (s : State) (n : Node) (c : Nat) : Bool :=
  s.coreServes c && (n.record.cls != 0 || decide (n.record.hands + s.promised c ≤ (s.freeSlots c).length)) &&
    n.record.tiles.all (fun t => (s.tile c t.tile).state == 0)

/-- Cores of a list in a field. -/
def inField (cs : List Nat) (f : Nat) : Nat := (cs.filter (fun c => fieldOfCore c == f)).length

/-- The power test of R344 on the fields that the cores touch; a victim's draw counts as gone (R345). -/
def State.powerOk (s : State) (cs : List Nat) (est : Nat) (skip : Option Node) : Bool :=
  est == 0 || (distinct (cs.map fieldOfCore)).all (fun f =>
    let fl := s.field f
    let gone := (skip.map (fun v => inField (v.cores ++ v.coresB) f * v.record.est)).getD 0
    let placed := fl.recentNow ++ fl.recentOld ++ fl.recentOlder
    let recent := (placed.filter (fun x => some x.1 != skip.map (·.nseq))).foldl (fun a x => a + x.2) 0
    decide (fl.fdraw - gone + recent + inField cs f * est ≤ fl.flim))

/-- The candidates of Table 17.3. -/
def candidates (scope : Nat) : List (List Nat) :=
  match scope with
  | 1 => (List.range 144).map (fun c => [c])
  | 2 => (List.range 36).map (fun q => upFrom (4 * q) 4)
  | 3 => (List.range 6).map (fun f => upFrom (24 * f) 24)
  | _ => [List.range 144]

/-- A placement of a node of class 0 or 2 (R344), and for a paired node of its side B (R384). -/
def State.place (s : State) (n : Node) (skip : Option Node) : Option (List Nat × List Nat) :=
  let k := n.record.cores
  let a := (candidates n.record.scope).findSome? (fun cs =>
    let el := cs.filter (s.eligible n)
    if el.length < k then none
    else if s.powerOk (el.take k) n.record.est skip then some (el.take k) else none)
  match a with
  | none => none
  | some cs =>
    if !n.paired then some (cs, [])
    else
      let fa := fieldOfCore (cs.headD 0)
      ((List.range 6).filter (· != fa)).findSome? (fun f =>
        let cb := cs.map (fun c => c % Config.coresPerField + Config.coresPerField * f)
        if cb.all (s.eligible n) && s.powerOk cb n.record.est skip then some (cs, cb) else none)

/-- The placement that a log forces on a node (R394): the recorded cores, once each of them is eligible, whatever other core or the power
test would say. Side A of a paired node is in the lower of its two fields: Table 17.3 goes through the fields upward, and where side B's
place passes, so does the same place as a candidate for side A. -/
def State.placeForced (s : State) (n : Node) (cores : List Nat) : Option (List Nat × List Nat) :=
  let fa := fieldOfCore (cores.headD 0)
  if cores.isEmpty || !cores.all (s.eligible n) then none
  else if n.paired then some (cores.partition (fun c => fieldOfCore c == fa))
  else some (cores, [])

/-- The cores a saved hand looks at, in order (R363, R365). -/
def Hand.resumeOrder (h : Hand) : List Nat :=
  let f := fieldOfCore h.core
  let all := upFrom (Config.coresPerField * f) Config.coresPerField ++ List.range Config.coreCount
  if h.sched.migrate then all.filter (fun c => c / 4 != h.core / 4) else h.core :: all

/-- The core and slot a saved hand would take now. -/
def State.resumeAt (s : State) (h : Hand) : Option (Nat × Nat) :=
  h.resumeOrder.findSome? (fun c => if s.coreServes c then ((s.emptySlots c).head?).map (fun sl => (c, sl)) else none)

/-- Must a node of a priority wait for a saved hand to resume first (R345, R363)? -/
def State.savedFirst (s : State) (prio : Nat) : Bool :=
  s.allHands.any (fun h => h.status == .saved && (h.sched.migrate || decide (prio ≤ h.prio)) && (s.resumeAt h).isSome)

/-- The lowest-numbered idle system core (R344). -/
def State.idleSystemCore (s : State) : Option Nat :=
  if s.pod.halted then none else (List.range 32).find? (fun c => !s.pool.threads.any (fun t => t.core == c))

/-- The pool works while f0, or its copy in f1, is up (R412, R413). -/
def State.poolUp (s : State) : Bool :=
  (s.field 0).state == 5 || (s.mem.ticketInF1 && (s.field 1).state == 5)

/-- The ready node of a class and priority with the lowest node sequence. -/
def State.oldestReady (s : State) (prio cls : Nat) : Option Node :=
  (s.pool.nodes.filter (fun n => n.state == .ready && n.record.prio == prio && n.record.cls == cls)).foldl (fun b n => match b with
    | none => some n
    | some m => if n.nseq < m.nseq then some n else some m) none

/-- Where a node goes: its cores and side B's. -/
def State.target' (s : State) (n : Node) : Option (List Nat × List Nat) :=
  if n.record.cls = 1 then (s.idleSystemCore).map (fun c => ([c], []))
  else if s.savedFirst n.record.prio then none else s.place n none

/-- One selection (R343): the node to dispatch and its cores. A node that cannot be placed blocks its class at its priority
and below. -/
def State.select (s : State) : Option (Node × List Nat × List Nat) :=
  let step (acc : List Nat × Option (Node × List Nat × List Nat)) (pc : Nat × Nat) : List Nat × Option (Node × List Nat × List Nat) :=
    if acc.2.isSome || acc.1.contains pc.2 then acc
    else match s.oldestReady pc.1 pc.2 with
      | none => acc
      | some n => match s.target' n with
        | some (a, b) => (acc.1, some (n, a, b))
        | none => (acc.1 ++ [pc.2], none)
  (((List.range 8).map (fun p => (List.range 3).map (fun c => (7 - p, c)))).flatten.foldl step ([], none)).2

/-! ## Completion words (R135, R140) -/

/-- The next completion number (R140). -/
def State.nextDone (s : State) : State × Nat :=
  ({ s with pool := { s.pool with completions := s.pool.completions + 1 } }, s.pool.completions)

/-- Writing DONE (R140): published; a fault is reported and nothing is written. DONE on a page with a format or compressed pages is refused
so too, as PERMISSION: R140 names translation and permission faults, and no rule has a row for such a write (the model's choice,
log 85). -/
def State.writeDone (s : State) (n : Node) (v : Reg64) : State :=
  if n.record.done = 0 then s
  else
    let va : Reg64 := BitVec.ofNat 64 n.record.done
    let fail (s : State) (t : Trap) : State :=
      s.post (fun k => ⟨{ t with access := 11, tval := va }, 0, 0xFFFF, n.asid, k, n.taskid, 0, 0⟩) false
    match s.look (poolAgent n.asid n.sys) (.record true) n.record.done with
    | .ok (s, .plain k sc, leaf) => (s.reached leaf (.record true) (.plain k sc)).putPubAll (atAddr k (leBytes 8 v.toNat))
    | .ok (s, _, _) => fail s (xfault .permission 0 7 (.record true) n.record.done)
    | .error (.trap t) => fail s t
    | .error .later => s

/-- Does DONE stand in a stack that is still coming up, so that the node's completion waits (R412)? -/
def State.doneLater (s : State) (n : Node) : Bool :=
  n.record.done != 0 && (match s.look (poolAgent n.asid n.sys) (.record true) n.record.done with
    | .error .later => true
    | _ => false)

/-- The completion number of a node that did not complete: bit 63 set (R135, Table 18.3). -/
def failedDone (v : Nat) : Reg64 := BitVec.ofNat 64 (2 ^ 63 + v % 2 ^ 63)

/-- Taking a node's entry out. -/
def State.dropNode (s : State) (n : Node) : State :=
  { s with pool := { s.pool with nodes := s.pool.nodes.filter (fun m => m.nseq != n.nseq) } }

/-- The declared tiles of a node on some cores return to EMPTY, their fills taken back (R135). -/
def State.emptyTiles (s : State) (n : Node) (cs : List Nat) : State :=
  let mine (d : Copy) : Bool := d.kind == .fill && cs.contains d.core && n.record.tiles.any (fun t => t.tile == d.tile)
  let s := { s with copies := s.copies.filter (fun d => !mine d) }
  cs.foldl (fun (s : State) k => n.record.tiles.foldl (fun (s : State) t =>
    s.modTile k t.tile (fun e => { e with state := 0 })) s) s

/-- A node fails instead of being dispatched (R135), once its completion word can be written: its tiles return to EMPTY. -/
def State.failNode (s : State) (n : Node) (c : Cause) : State :=
  if s.doneLater n then s else
  let s := s.emptyTiles n (n.cores ++ n.coresB)
  let s := s.postEvent c (BitVec.ofNat 64 n.index) 0 0 n.taskid
  let (s, v) := s.nextDone
  (s.writeDone n (failedDone v)).dropNode n

/-! ## Dispatch (R133, R134, R136, R137) -/

/-- Does a node's set of declared tiles break R133? -/
def tilesClash (l : List TileOp) : Bool :=
  let area (t : TileOp) : Nat × Nat := let e := tileOfWord t.defn 0; (64 * e.base, 64 * e.base + e.size)
  l.zipIdx.any (fun (t, i) => !tileDefOk t.defn || t.defn.toNat / 2 ^ 28 % 8 != 0 ||
    (l.drop (i + 1)).any (fun u => u.tile == t.tile ||
      (decide ((area t).1 < (area u).2) && decide ((area u).1 < (area t).2))))

/-- One declared fill as a command (R133): byte by byte, unchanged. -/
def fillCopy (asid : BitVec 16) (core gen : Nat) (t : TileOp) (size rank : Nat) : Copy :=
  let sh : List Word := [0, 0, BitVec.ofNat 32 size, 1, 1, 1, 0, 0, 0, 0]
  ⟨fillHand core, t.tile, .fill, core, 0, asid, t.tile, gen, sh, BitVec.ofNat 64 (t.src + if t.percore then rank * size else 0), 0,
    false, 0, [], none, 0, [], [], [], none⟩

/-- Opening the declared fills of a node on the cores of one side. -/
def State.openFills (s : State) (n : Node) (cs : List Nat) : State :=
  cs.zipIdx.foldl (fun (s : State) (cr : Nat × Nat) => n.record.tiles.foldl (fun (s : State) (t : TileOp) =>
    let s := s.modTile cr.1 t.tile (fun e => (tileOfWord t.defn e.gen).accept)
    let e := s.tile cr.1 t.tile
    { s with copies := s.copies ++ [fillCopy n.asid cr.1 e.gen t e.size cr.2] }) s) s

/-- The quantum of a priority (R347). -/
def quantum (prio : Nat) : Int := (prio + 1) * 4096

/-- The serial of a new holder of a HANDID (Table 7.4, R105). -/
def State.newSerial (s : State) (id : Nat) : BitVec 16 :=
  match mfind s.serials id with
  | none => 0
  | some k => BitVec.ofNat 16 (k + 1)

/-- A new hand of a node (Table 7.4), with its first snapshot (R96, R180). -/
def State.newHand (s : State) (n : Node) (task core slot member : Nat) : Hand :=
  let id := 4 * core + slot
  let h : Hand := { Hand.empty with
    status := .running
    id := id, core := core, slot := slot, dispatchCore := core, task := task, asid := n.asid, taskid := n.taskid
    member := member, prio := n.record.prio
    x := n.record.xs.zipIdx.foldl (fun (x : Vector Reg64 32) (v : Reg64 × Nat) => x.setIfInBounds (v.2 + 1) v.1) Hand.empty.x
    pc := n.record.entry
    csr := { Csrs.empty with vprof := n.record.vprof }
    ord := { Order.empty with serial := s.newSerial id }
    sched := { Sched.empty with deficit := quantum n.record.prio } }
  { h with ord := { h.ord with snap := s.mem.pubFor h, known := s.mem.tokens.length } }

/-- The hands of one side, none of which starts before all exist. -/
def State.createHands (s : State) (n : Node) (cs : List Nat) (side : Side) : State × Nat :=
  let tid := s.pool.taskSeq
  let h := n.record.hands
  let hs : List Hand := (cs.zipIdx.map (fun (c, rc) => ((s.freeSlots c).take h).zipIdx.map (fun (sl, rh) =>
    s.newHand n tid c sl (n.record.gangix * n.record.cores * h + rc * h + rh)))).flatten
  let t : Task := ⟨tid, n.taskid, n.asid, side, cs, hs.map (fun h => (h.member, h.id)), n.record.gangn, n.record.gangix, [], [], []⟩
  ({ s with others := s.others ++ hs, tasks := s.tasks ++ [t], pool := { s.pool with taskSeq := tid + 1 } }, tid)

/-- Counting a placement in recent(f) (R344). -/
def State.notePlaced (s : State) (n : Node) (cs : List Nat) : State :=
  (distinct (cs.map fieldOfCore)).foldl (fun (s : State) f =>
    s.modField f (fun fl => { fl with recentNow := fl.recentNow ++ [(n.nseq, inField cs f * n.record.est)] })) s

/-- What a dispatch enters in the log (R393, log 99): three bytes of the node sequence, and every core that the node has, a bit each; of a
class 1 node, its system core. -/
def Node.placement (n : Node) : List Byte :=
  leBytes 3 n.nseq ++ leBytes 18 (if n.record.cls = 1 then n.cores.headD 0 else (n.cores ++ n.coresB).foldl (fun m c => m + 2 ^ c) 0)

/-- Recording a dispatch (R393); its stamp is the whole node sequence. -/
def State.noteDispatch (s : State) (n : Node) : State := s.dudelOp 7 0 (BitVec.ofNat 64 n.nseq) n.placement

/-- Creating a node's hands on the cores it holds (R134). -/
def State.startHands (s : State) (n : Node) : State :=
  let (s, ta) := s.createHands n n.cores (if n.paired then .a else .single)
  let (s, tb) := if n.paired then s.createHands n n.coresB .b else (s, 0)
  (s.setNode { n with state := .running, task := ta, taskB := tb }).noteDispatch n

/-- The exchange of a class 2 node on the cores of one side (R138): a task of its own, a member on each core, its destination tiles
FILLING. -/
def State.exchangeOn (s : State) (cs : List Nat) (xid scope nn brows a d : Nat) : State × Nat :=
  let tid := s.pool.taskSeq
  let s := { s with pool := { s.pool with taskSeq := tid + 1 } }
  (cs.zipIdx.foldl (fun (s : State) (cr : Nat × Nat) =>
    let s := s.modTile cr.1 d Tile.accept
    { s with xchgs := s.xchgs ++ [⟨none, tid, cr.1, scope, unitOf scope cr.1, BitVec.ofNat 32 xid, nn, cr.2, brows, a, d,
      (s.tile cr.1 d).gen, 0, [], false, cr.2, 0, [], []⟩] }) s, tid)

/-- Starting a class 2 node (R138): one member for each core, when its source tiles are READY; a paired one on both sides (R384). -/
def State.startExchange (s : State) (n : Node) : State :=
  let a := (n.record.xs.getD 1 0).toNat
  let d := (n.record.xs.getD 2 0).toNat
  match s.poolRead n.asid n.sys (n.record.xs.getD 0 0) 16 with
  | .error .later => s
  | .error _ => s.failNode n .translation
  | .ok (s, l) => match xchgDesc l true with
    | none => s.failNode n .reservedField
    | some (xid, scope, nn, _, brows) =>
      let cs := n.cores ++ n.coresB
      if 63 < a ∨ 63 < d ∨ cs.any (fun c => (xchgTiles (s.tile c a) (s.tile c d) a d nn brows).isSome ||
          (s.tile c d).state == 2 || (s.tile c d).state == 3) then s.failNode n .tileState
      else if cs.any (fun c => (s.tile c a).state != 2) then s
      else
        let (s, ta) := s.exchangeOn n.cores xid scope nn brows a d
        let (s, tb) := if n.paired then s.exchangeOn n.coresB xid scope nn brows a d else (s, 0)
        (s.setNode { n with state := .running, task := ta, taskB := tb }).noteDispatch n

/-- The thread of a class 1 node at its start (R395): a0 to a7 hold X1 to X8, ra the exit stub, sp the top of its stack. -/
def Node.thread (n : Node) (core : Nat) : Thread where
  core := core
  node := n.nseq
  asid := n.asid
  pc := n.record.entry
  x :=
    let x := (Vector.replicate 32 (0 : Reg64)).setIfInBounds 1 Config.exitStub |>.setIfInBounds 2 (Config.stackTop n.nseq &&& ~~~(15 : Reg64))
    n.record.xs.zipIdx.foldl (fun (x : Vector Reg64 32) v => x.setIfInBounds (10 + v.2) v.1) x
  f := Vector.replicate 32 0
  fcsr := 0
  cause := none

/-- A system core holds nothing reserved (log 88). -/
def State.unreserve (s : State) (core : Nat) : State := { s with mem := { s.mem with reserved := mdel s.mem.reserved core } }

/-- Starting a node whose cores are chosen and whose tiles are filled; it stays where room or a source tile lacks. -/
def State.startNode (s : State) (n : Node) : State :=
  if n.record.cls = 1 then
    let core := n.cores.headD 0
    (({ s.unreserve core with pool := { s.pool with threads := s.pool.threads ++ [n.thread core] } }).setNode
      { n with state := .running }).noteDispatch n
  else if n.record.cls = 2 then s.startExchange n
  else if (n.cores ++ n.coresB).all (fun c => decide (n.record.hands ≤ (s.freeSlots c).length)) then s.startHands n
  else s

/-- The node that a dispatch in the log names. -/
def State.forcedNode (s : State) (l : List Byte) : Option Node := s.pool.nodes.find? (fun n => n.nseq % 2 ^ 24 == leNat (l.take 3))

/-- The selection that a log forces (R394): the recorded node, once it is ready, on the recorded cores. -/
def State.selectForced (s : State) (l : List Byte) : Option (Node × List Nat × List Nat) :=
  let on := leNat ((l.drop 3).take 18)
  match s.forcedNode l with
  | none => none
  | some n =>
    if n.state ≠ .ready then none
    else if n.record.cls = 1 then (if s.pool.threads.any (fun t => t.core == on) then none else some (n, [on], []))
    else (s.placeForced n ((List.range Config.coreCount).filter on.testBit)).map (fun p => (n, p))

/-- The selection of a step: R343's, or in replay the recorded one. -/
def State.selected (s : State) : Option (Node × List Nat × List Nat) :=
  match s.forced 7 0 with
  | none => s.select
  | some l => s.selectForced l

/-- May a node start now: any may, but in replay only the one that the log records next (R394)? -/
def State.startsNow (s : State) (n : Node) : Bool :=
  match s.forced 7 0 with
  | none => true
  | some l => leNat (l.take 3) == n.nseq % 2 ^ 24

/-- NODE_DISPATCH (R134, R343): a node whose fills have ended starts; otherwise one selection is made, and the chosen node
starts, or its declared fills begin. -/
def execNodeDispatch (s : State) : Host.Outcome State Fault Refusal :=
  .next (
    if !s.poolUp || !s.replayTurn 7 0 then s
    else
      let due (n : Node) : Bool := match n.state with
        | .filling _ [] => true
        | _ => false
      let tried := s.pool.nodes.filter (fun n => due n && s.startsNow n)
      let s' := tried.foldl (fun (s : State) n => s.startNode n) s
      if s' ≠ s then s'.copyPool
      else match s.selected with
        | none => s
        | some (n, a, b) =>
          let n := { n with cores := a, coresB := b, state := .filling (a ++ b) [], blocked := false }
          let before := s
          let s := if n.record.cls = 1 then s else s.notePlaced n (a ++ b)
          if tilesClash n.record.tiles then (if s.doneLater n then before else ((s.setNode n).failNode n .tileState).copyPool)
          else if n.record.tiles.isEmpty then ((s.setNode n).startNode n).copyPool
          else
            let left := ((a ++ b).map (fun c => n.record.tiles.map (fun t => (c, t.tile)))).flatten
            (((s.openFills n a).openFills n b).setNode { n with state := .filling (a ++ b) left }).copyPool)

/-- The cause that a fill's status names (R135). -/
def statusCause (b : Byte) : Cause :=
  if b = 0x10 then .translation else if b = 0x15 then .blockCheck else if b = 0x22 then .expandLength
  else if b = 0x23 then .checksum else if b = 0x40 then .uncorrectable else .permission

/-- A fill of a cancelled node ends as any command does (R70, log 100): its tile is EMPTY again where it failed (Table 3.3). -/
def State.orphanEnds (s : State) (c : Copy) : State :=
  if c.status.isNone then s
  else s.modTile c.core c.tile (fun t => if t.gen = c.gen ∧ t.state = 1 then { t with state := 0 } else t)

/-- DECLARED_FILL (R133, R135): the fill of core `a`'s tile `b` ends. -/
def execDeclaredFill (e : PairEv) (s : State) : Host.Outcome State Fault Refusal :=
  .next (match s.copyOf (fillHand e.a) e.b with
  | none => s
  | some c =>
    if c.status.isNone && decide (c.pos < c.vol) then s
    else
      let mine (n : Node) : Bool := match n.state with
        | .filling _ l => l.contains (e.a, e.b)
        | _ => false
      let before := s
      let s := s.dropCopy c
      if (s.copyOf (fillHand e.a) e.b).isSome then s.orphanEnds c
      else match s.pool.nodes.find? mine with
      | none => s.orphanEnds c
      | some n => match c.status with
        | some st => if s.doneLater n then before else s.failNode n (statusCause st)
        | none => s.setNode { n with state := match n.state with
            | .filling cs l => .filling cs (l.filter (fun x => x != (e.a, e.b)))
            | st => st })

/-! ## Retirement (R139) -/

/-- Changing every hand. -/
def State.mapHands (s : State) (f : Hand → Hand) : State :=
  { s with hand := if s.hand.status = .none then s.hand else f s.hand, others := s.others.map f }

/-- The id of a hand that has retired: no HANDID, so that its slot's next holder is told apart. -/
def retiredId (task id : Nat) : Nat := 0x1000000 + 1024 * task + id

/-- What the device keeps for a hand when it retires (R139): its seats fold, its links and its unit are free, its commands and exchanges run
on, and the next holder of its HANDID has a serial above its own (R105). -/
def State.leaveHand (s : State) (h : Hand) : State :=
  let s := s.foldAll { h with status := .retired }
  let rid := retiredId h.task h.id
  let s := { s with
    serials := mins s.serials h.id (h.ord.serial + 1).toNat
    mem := { s.mem with
      tags := s.mem.tags.filter (fun kt => kt.2.hand != h.id)
      heel := s.mem.heel.map (fun (i : HeelImage) => if i.byCmd ∧ i.hand = h.id then { i with hand := rid } else i) }
    copies := s.copies.map (fun (c : Copy) => if c.hand = h.id then { c with hand := rid } else c)
    xchgs := s.xchgs.map (fun (x : Xchg) => if x.hand = some h.id then { x with hand := some rid } else x) }
  s.modCore h.core (fun (c : Core) => if c.granted = some h.slot ∧ h.status ≠ HandStatus.saved then { c with granted := none } else c)

/-- A retired hand (R139): its streams are unbound, its slots free (those of a side of a pair stand for the signature, R386), its serial
moves on, its pins are released. -/
def Hand.over (h : Hand) (side : Side) : Hand :=
  { h with
    status := .retired, id := retiredId h.task h.id, streams := Vector.replicate 4 none, inbox := []
    handles := if side = Side.single then [] else h.handles
    ord := { h.ord with serial := h.ord.serial + 1, pins := [] } }

/-- The side of a task (R384). -/
def State.sideOf (s : State) (task : Nat) : Side := ((s.taskOf task).map (·.side)).getD .single

/-- A hand retires (R139). -/
def State.retireHand (s : State) (h : Hand) : State := (s.leaveHand h).modHand h.id (fun g => g.over (s.sideOf h.task))

/-! ## Completion (R99, R140) -/

/-- Publishing a task (R99): every byte it wrote holds the survivor, device-wide; its images are freed (R61), and those of a command that an
error stopped (R74). -/
def State.publishTask (s : State) (t : Task) : State :=
  let keys := distinct ((t.log.filter (fun w => w.perf != 0 && !w.tile)).map (·.key))
  (keys.foldl (fun (s : State) k => match survivor (t.log.filter (fun w => w.key == k && w.perf != 0)) with
    | some w =>
      let s := s.putLive k w.val
      { s with mem := s.mem.publish k w.val }
    | none => s) s).freeTask t.id

/-- Taking a task and its retired hands out; it stays while a command of it has not ended (R70). -/
def State.dropTask (s : State) (id : Nat) : State :=
  if s.copies.any (fun c => c.task == id) || s.allHands.any (fun h => h.task == id && !h.jobs.isEmpty) then s
  else
    let s := { s with tasks := s.tasks.filter (fun t => t.id != id), others := s.others.filter (fun h => h.task != id) }
    if s.hand.task = id then { s with hand := Hand.empty } else s

/-- A node completes (R140): DONE, then the successors' counts. -/
def State.completeNode (s : State) (n : Node) : State :=
  let (s, v) := s.nextDone
  let s := (s.writeDone n (BitVec.ofNat 64 v)).dropNode n
  let s := { s with pool := { s.pool with nodes := s.pool.nodes.map (fun (m : Node) =>
    let k := (n.record.succ.filter (· == m.index)).length
    if m.subno = n.subno ∧ 0 < k then
      { m with preds := m.preds - k, state := if m.state = NodeState.waiting ∧ m.preds ≤ k then NodeState.ready else m.state }
    else m) } }
  (s.dropTask n.task).dropTask n.taskB

/-- Have all hands of a task retired? A node that the pool's copy in f1 brings back has none left (R413). -/
def State.taskOver (s : State) (id : Nat) : Bool := (s.allHands.filter (fun h => h.task == id)).all (fun h => h.status == .retired)

/-- NODE_COMPLETE, once the completion word can be written: a running node whose hands have retired, or whose destination tiles are READY;
a node whose gang aborted before it had hands (R367). -/
def execNodeComplete (e : Nat) (s : State) : Host.Outcome State Fault Refusal :=
  .next (match s.nodeOf e with
  | none => s
  | some n =>
    if s.doneLater n then s
    else if n.state = .done then (if n.preds = 0 then s.completeNode n else s)
    else if n.state ≠ .running then s
    else if n.record.cls = 0 ∧ !n.paired ∧ s.taskOver n.task then
      let s := ((s.taskOf n.task).map s.publishTask).getD s
      s.completeNode n
    else if n.record.cls = 2 ∧ (n.cores ++ n.coresB).all (fun c => (s.tile c (n.record.xs.getD 2 0).toNat).state == 2) then s.completeNode n
    else if n.record.cls = 1 ∧ !s.pool.threads.any (fun t => t.node == n.nseq) then s.completeNode n
    else s)

/-- Has a thread returned through ra, which holds the exit stub's address, or called the runtime's exit (R395)? -/
def Thread.ended (t : Thread) : Bool := t.pc == Config.exitStub || t.pc == Config.runtimeExit

/-- SYSTEM_THREAD_EXIT: the thread on system core `e` is over (R395). -/
def execSystemThreadExit (e : Nat) (s : State) : Host.Outcome State Fault Refusal :=
  .next (
    if s.pod.halted then s
    else match s.pool.threads.find? (fun t => t.core == e) with
    | none => s
    | some t =>
      if !t.ended ∨ ((s.nodeOf t.node).map s.doneLater).getD false then s
      else
        let s := { s with pool := { s.pool with threads := s.pool.threads.filter (fun x => x.core != e) } }
        match s.nodeOf t.node with
        | none => s
        | some n => s.completeNode n)

/-! ## Paired tasks (R384 to R387) -/

/-- Shadow leaves below a table: the view address and the shadow record of each, over `levels` levels down to 0. -/
def State.shadowLeaves (s : State) : List Nat → Nat → Nat → List (Nat × Nat)
  | [], _, _ => []
  | lv :: rest, table, va =>
    (List.range 512).foldl (fun acc i =>
      let e := s.live64 (table + 8 * i)
      if !attrBit e 0 then acc
      else
        let va := va + i * 2 ^ (12 + 9 * lv)
        if attrBit e 3 || attrBit e 4 then (if lv = 0 && attrBit e 6 && (leafFault 0 e).isNone then acc ++ [(va, attrFrame e * 64)]
          else acc)
        else if e.toNat / 2 ^ 52 ≠ 0 ∨ e.toNat % 4096 ≠ 1 then acc
        else acc ++ s.shadowLeaves rest (e.toNat / 4096 * 4096) va) []

/-- The shadow pages of an ASID. -/
def State.shadowsOf (s : State) (asid : BitVec 16) : List (Nat × Nat) :=
  match mfind s.asids asid.toNat with
  | none => []
  | some d => s.shadowLeaves [4, 3, 2, 1, 0] d.root 0

/-- Dirty bit of a side (Table 2.10). -/
def shadowDirty (r : Nat) (b : Bool) : Bool := r / 2 ^ (if b then 121 else 120) % 2 == 1

/-- The summary records of a side's hands, in (MEMBER, handle) order. -/
def State.sideRecords (s : State) (task : Nat) : List Byte :=
  let hs := s.allHands.filter (fun h => h.task == task)
  let hs := hs.foldl (fun l h => insertBy (fun a b => decide (b.member ≤ a.member)) h l) []
  (hs.map (fun h => (h.handles.map (fun ks => ks.2.serialise)).flatten)).flatten

/-- The signature of a side (R386). -/
def State.signature (s : State) (asid : BitVec 16) (task : Nat) (b : Bool) : BitVec 256 :=
  (s.shadowsOf asid).foldl (fun sig vr =>
    let r := s.shadowRec vr.2
    if shadowDirty r b then
      sig ^^^ sha3Num (leBytes 8 vr.1 ++ s.mem.live.bytes (shadowFrame r (if b then 2 else 1) * 4096) 4096)
    else sig) (sha3Num (s.sideRecords task))

/-- A shadow record after the outcome: LIVE and SHA exchanged where side A is committed, both dirty bits clear (R387). -/
def shadowSettled (r : Nat) (commit : Bool) : Nat :=
  let a := shadowDirty r false
  let b := shadowDirty r true
  let r := r - (if a then 2 ^ 120 else 0) - (if b then 2 ^ 121 else 0)
  if commit && a then
    r - shadowFrame r 0 - shadowFrame r 1 * 2 ^ 40 + shadowFrame r 1 + shadowFrame r 0 * 2 ^ 40
  else r

/-- The frames that a signature reads (R57). -/
def State.signed (s : State) (asid : BitVec 16) (b : Bool) : State :=
  (s.shadowsOf asid).foldl (fun (s : State) vr =>
    let r := s.shadowRec vr.2
    let s := s.uses vr.2 16
    if shadowDirty r b then s.uses (shadowFrame r (if b then 2 else 1) * 4096) 4096 else s) s

/-- PAIR_COMMIT (R387): equal signatures commit side A; unequal ones dispatch the node again once, then end it. A paired node of class 1 or
2 has no hands that halt and sign (R386): it runs and completes as one that is not paired (the model's choice, log 122). -/
def execPairCommit (e : Nat) (s : State) : Host.Outcome State Fault Refusal :=
  .next (match s.nodeOf e with
  | none => s
  | some n =>
    if n.state ≠ .running ∨ !n.paired ∨ n.record.cls ≠ 0 ∨ !s.taskOver n.task ∨ !s.taskOver n.taskB ∨ s.doneLater n then s
    else
      let ok := s.signature n.asid n.task false == s.signature n.asid n.taskB true
      let pages := s.shadowsOf n.asid
      let s := (s.signed n.asid false).signed n.asid true
      let s := pages.foldl (fun (s : State) vr =>
        let r := s.shadowRec vr.2
        if shadowDirty r false || shadowDirty r true then s.putPubAll (atAddr vr.2 (leBytes 16 (shadowSettled r ok))) else s) s
      if ok then
        let s := { s with cached := s.cached.filter (fun c => !(c.asid == n.asid && pages.any (fun vr => vr.1 / 4096 == c.page))) }
        let s := ((s.taskOf n.task).map s.publishTask).getD s
        let s := ((s.taskOf n.taskB).map s.publishTask).getD s
        s.completeNode n
      else
        let s := s.postEvent .pairMismatch (BitVec.ofNat 64 (n.mismatches + 1)) 0 0 n.taskid
        let s := (s.freeTask n.task).freeTask n.taskB
        let s := (s.dropTask n.task).dropTask n.taskB
        if n.mismatches = 0 then s.setNode { n with state := .ready, mismatches := 1, cores := [], coresB := [], task := 0, taskB := 0 }
        else
          let (s, v) := s.nextDone
          (s.writeDone n (failedDone v)).dropNode n)

/-! ## Cancellation (Table 18.3) -/

/-- Every hand of a task stops (CANCEL): its commands run to their end, its exchanges are abandoned (R70), nothing is
published. -/
def State.cancelTask (s : State) (id : Nat) : State :=
  let hs := s.allHands.filter (fun h => h.task == id && h.living)
  let s := hs.foldl (fun (s : State) h =>
    let s := s.leaveHand h
    { s with faults := { s.faults with pending := s.faults.pending.filter (fun r => r.hand != h.id) } }) s
  let side := s.sideOf id
  let s := s.mapHands (fun h => if h.task = id ∧ h.living then h.over side else h)
  let s := s.abandon (fun x => x.task == id)
  let s := { s.freeTask id with
    regions := s.regions.map (fun (kr : Nat × Region) => (kr.1, { kr.2 with areas := kr.2.areas.filter (fun a =>
      !hs.any (fun h => h.asid.toNat == kr.1 && h.sched.savedArea == some a)) })) }
  s.dropTask id

/-- A node is cancelled: its tasks, its thread; its completion word has bit 63. The spec does not say what becomes of declared fills under
way: here they run to their end, as R70 has a task's commands do (the model's choice, log 100). -/
def State.cancelNode (s : State) (n : Node) : State :=
  let s := if n.state = .running ∧ n.record.cls ≠ 1 then (s.cancelTask n.task).cancelTask n.taskB else s
  let s := { s with pool := { s.pool with threads := s.pool.threads.filter (fun t => t.node != n.nseq) } }
  let (s, v) := s.nextDone
  (s.writeDone n (failedDone v)).dropNode n

/-! ## Starvation (R345) -/

/-- The node that is pre-empted for a blocked one: of the running nodes of lower priority whose draw would let it be placed,
the lowest priority, then the highest node sequence. -/
def State.victimFor (s : State) (n : Node) : Option Node :=
  (s.pool.nodes.filter (fun v => v.state == .running && v.record.cls == 0 && decide (v.record.prio < n.record.prio) &&
    (s.place n (some v)).isSome)).foldl (fun b v => match b with
    | none => some v
    | some w => if v.record.prio < w.record.prio ∨ (v.record.prio = w.record.prio ∧ w.nseq < v.nseq) then some v else some w) none

/-- Asking every hand of a task to give way. -/
def State.requestTask (s : State) (id : Nat) : State :=
  let ask (h : Hand) : Hand := if h.task = id ∧ h.living ∧ h.status ≠ .saved then { h with sched := { h.sched with preempt :=
    true } } else h
  { s with hand := ask s.hand, others := s.others.map ask }

/-- PREEMPTION_REQUEST (R345): for blocked node `a` the victim is `b`. That it has been blocked for 2^20 cycles is the
environment's word. -/
def execPreemptionRequest (e : PairEv) (s : State) : Host.Outcome State Fault Refusal :=
  .next (match s.nodeOf e.a with
  | none => s
  | some n =>
    if n.state ≠ .ready ∨ n.record.cls = 1 ∨ (s.place n none).isSome then s
    else match s.victimFor n with
      | none => s
      | some v => if v.nseq = e.b then (s.requestTask v.task).requestTask v.taskB else s)

/-- R178's second step: a ready node of at least the hand's priority lacks only the power that the hand's node draws. -/
def State.powerWanted (s : State) : Bool :=
  match s.pool.nodes.find? (fun v => v.state == .running && (v.task == s.hand.task || v.taskB == s.hand.task)) with
  | none => false
  | some v => s.pool.nodes.any (fun n => n.state == .ready && n.record.cls != 1 && decide (s.hand.prio ≤ n.record.prio) &&
      (s.place n none).isNone && (s.place n (some v)).isSome)

end Sys2Proof.Machine
end

