-- ==== Sys2Proof/Machine/Sys.lean ====
section
/-! DEFINITION. System instructions (R173 to R180): traps, CSRs (R169 to R171), halt, yield, rett, spawn, nop. -/

namespace Sys2Proof.Machine

/-- A SYS instruction: its guard, then the commit point that precedes its act (R173). -/
def sysInstr (g : BitVec 3) (s : State) (body : State → Run State) : Host.Outcome State Fault Refusal :=
  guarded s g (fun s => do
    let s ← s.commits
    body s)

/-- trap (R175). -/
def execTrap (f : CodeG) (s : State) : Host.Outcome State Fault Refusal :=
  sysInstr f.g s (fun s => s.trap (Trap.mk' .softwareTrap (f.b.setWidth 64)))

/-- brk (R175). -/
def execBrk (f : CodeG) (s : State) : Host.Outcome State Fault Refusal :=
  sysInstr f.g s (fun s => s.trap (Trap.mk' .breakpoint (f.b.setWidth 64)))

/-! ## CSRs -/

/-- VCHK (Table 8.10): SPV and SPARED are the core's. -/
def State.vchk (s : State) : Reg64 :=
  let c := s.core s.hand.core
  BitVec.ofNat 64 (s.hand.csr.mismatch * 2 ^ 32 + s.hand.csr.active * 2 ^ 16 + (if c.spv then 16 + c.spared else 0))

/-- An XIDX register. -/
def Csrs.xidxAt (c : Csrs) (k : Nat) : Reg64 := c.xidx.toArray.getD k 0

/-- A CSR's value (Table 8.9); none for a number outside the table. -/
def State.readCsr (s : State) (n : Nat) : Option Reg64 :=
  let h := s.hand
  let c := h.csr
  match n with
  | 0x000 => some (BitVec.ofNat 64 c.vl)
  | 0x001 => some h.vtypeWord
  | 0x002 => some (BitVec.ofNat 64 c.vprof)
  | 0x003 => some (BitVec.ofNat 64 c.vstart)
  | 0x004 => some c.stripno
  | 0x005 => some c.ordbase
  | 0x006 => some s.vchk
  | 0x010 => some (c.fpcr.setWidth 64)
  | 0x011 => some c.fstat
  | 0x012 => some (c.xidxAt 0)
  | 0x013 => some (c.xidxAt 1)
  | 0x014 => some (c.xidxAt 2)
  | 0x015 => some (c.xidxAt 3)
  | 0x016 => some (c.xidxAt 4)
  | 0x020 => some (BitVec.ofNat 64 h.id)
  | 0x021 => some (BitVec.ofNat 64 h.member)
  | 0x022 => some h.taskid
  | 0x023 => some c.cyc
  | 0x024 => some c.wdog
  | 0x030 => some c.tvec
  | 0x031 => some c.tpc
  | 0x032 => some c.tcause
  | 0x033 => some c.tval
  | 0x034 => some c.tidx0
  | 0x035 => some c.tidx1
  | 0x036 => some c.tidx2
  | 0x037 => some c.tstatus
  | 0x040 => some (BitVec.ofNat 64 h.loops.length)
  | 0x050 => some c.repidx
  | 0x058 => some c.cpyseq
  | 0x059 => some c.cpydone
  | 0x060 => some (BitVec.ofNat 64 (s.field 0).flim)
  | 0x061 => some (BitVec.ofNat 64 (s.field 1).flim)
  | 0x062 => some (BitVec.ofNat 64 (s.field 2).flim)
  | 0x063 => some (BitVec.ofNat 64 (s.field 3).flim)
  | 0x064 => some (BitVec.ofNat 64 (s.field 4).flim)
  | 0x065 => some (BitVec.ofNat 64 (s.field 5).flim)
  | 0x068 => some (BitVec.ofNat 64 (s.field 0).fdraw)
  | 0x069 => some (BitVec.ofNat 64 (s.field 1).fdraw)
  | 0x06A => some (BitVec.ofNat 64 (s.field 2).fdraw)
  | 0x06B => some (BitVec.ofNat 64 (s.field 3).fdraw)
  | 0x06C => some (BitVec.ofNat 64 (s.field 4).fdraw)
  | 0x06D => some (BitVec.ofNat 64 (s.field 5).fdraw)
  | 0x070 => some c.srecbase
  | 0x071 => some c.srecctl
  | _ => none

/-- Bits of a read-write CSR that Table 8.10 lists; the others are written as zero (R174). -/
def csrMask (n : Nat) : Reg64 :=
  match n with
  | 0x003 => 0x3FFF
  | 0x010 => 0x3
  | 0x011 => 0x1FF
  | 0x030 => 0x01FF_FFFF_FFFF_FFFC
  | 0x031 => 0x01FF_FFFF_FFFF_FFFF
  | 0x032 => 0xFFFF
  | 0x037 => 0xF
  | 0x050 => 0xFFFF_FFFF_0000_000F
  | 0x070 => 0x01FF_FFFF_FFFF_FFC0
  | 0x071 => 0xFFFF_FFFF_0000_FF07
  | _ => BitVec.allOnes 64

/-- Writing a CSR (R174); none where the write raises RESERVED-FIELD. -/
def Csrs.write (c : Csrs) (n : Nat) (x : Reg64) : Option Csrs :=
  let v := x &&& csrMask n
  match n with
  | 0x002 => if 4 < x.toNat then none else some { c with vprof := x.toNat }
  | 0x003 => some { c with vstart := v.toNat }
  | 0x005 => some { c with ordbase := v, orun := 0, onext := 0 }
  | 0x010 => some { c with fpcr := v.setWidth 2 }
  | 0x011 => some { c with fstat := v }
  | 0x012 => some { c with xidx := c.xidx.setIfInBounds 0 v }
  | 0x013 => some { c with xidx := c.xidx.setIfInBounds 1 v }
  | 0x014 => some { c with xidx := c.xidx.setIfInBounds 2 v }
  | 0x015 => some { c with xidx := c.xidx.setIfInBounds 3 v }
  | 0x016 => some { c with xidx := c.xidx.setIfInBounds 4 v }
  | 0x024 => some { c with wdog := v }
  | 0x030 => some { c with tvec := v }
  | 0x031 => some { c with tpc := v }
  | 0x032 => some { c with tcause := v }
  | 0x033 => some { c with tval := v }
  | 0x034 => some { c with tidx0 := v }
  | 0x035 => some { c with tidx1 := v }
  | 0x036 => some { c with tidx2 := v }
  | 0x037 => some { c with tstatus := v }
  | 0x050 => some { c with repidx := v }
  | 0x070 => some { c with srecbase := v }
  | 0x071 => if srecEn v ∧ (srecLog v < 4 ∨ 20 < srecLog v) then none else some { c with srecctl := v }
  | _ => none

/-- Is it FSTAT or an XIDX, whose accesses wait for the flags of earlier instructions (R84)? -/
def flagCsr (n : Nat) : Bool := decide (0x011 ≤ n ∧ n ≤ 0x016)

/-- The number that A and B name. -/
def csrNum (f : DABG) : Nat := f.a.toNat * 32 + f.b.toNat

/-- Strip records that a csrr of SRECCTL shows become visible to the hand's own loads (R389). -/
def State.seeRecords (s : State) : State :=
  let mine := (((s.taskOf s.hand.task).map (·.records)).getD []).filter (fun r => r.1 == s.hand.member)
  let snap := mine.foldl (fun m r => m.putAll (atAddr r.2.1 r.2.2)) s.hand.ord.snap
  let s := s.put { s.hand with ord := { s.hand.ord with snap := snap } }
  s.modTask s.hand.task (fun t => { t with records := t.records.filter (fun r => r.1 != s.hand.member) })

/-- Reading a CSR as csrr and csrx do: CYC moves on to the count at issue (R174). -/
def State.csrValue (s : State) (n : Nat) (bad : Trap) : Run (State × Reg64) :=
  let s := if n = 0x023 then s.tick else if n = 0x071 then s.seeRecords else s
  match s.readCsr n with
  | some v => .ok (s, v)
  | none => s.trap bad

/-- csrr (R171). -/
def execCsrr (f : DABG) (s : State) : Host.Outcome State Fault Refusal :=
  sysInstr f.g s (fun s => do
    s.dest f.d
    if flagCsr (csrNum f) && !s.hand.flagsQuiet then s.wait .register
    else do
      let (s, v) ← s.csrValue (csrNum f) (sysTrap .reservedField 1 f.d f.a f.b f.g)
      pure ((s.setX f.d v).retire 4))

/-- The write of csrw and csrx. -/
def State.csrWrite (s : State) (n : Nat) (v : Reg64) (bad : Trap) : Run State :=
  match s.hand.csr.write n v with
  | some c => .ok (s.put { s.hand with csr := c })
  | none => s.trap bad

/-- csrw (R171). -/
def execCsrw (f : DABG) (s : State) : Host.Outcome State Fault Refusal :=
  sysInstr f.g s (fun s => do
    let v ← s.need f.d
    if csrNum f = 0x011 && !s.hand.flagsQuiet then s.wait .register
    else do
      let s ← s.csrWrite (csrNum f) v (sysTrap .reservedField 2 f.d f.a f.b f.g)
      pure (s.retire 4))

/-- csrx (R171): one action. -/
def execCsrx (f : DABG) (s : State) : Host.Outcome State Fault Refusal :=
  sysInstr f.g s (fun s => do
    let v ← s.need f.d
    let bad := sysTrap .reservedField 3 f.d f.a f.b f.g
    if flagCsr (csrNum f) && !s.hand.flagsQuiet then s.wait .register
    else match s.hand.csr.write (csrNum f) v with
      | none => s.trap bad
      | some _ => do
        let (s, old) ← s.csrValue (csrNum f) bad
        let s ← s.csrWrite (csrNum f) v bad
        pure ((s.setX f.d old).retire 4))

/-! ## halt, yield, rett (R176 to R178) -/

/-- Held stores performed, as room allows; the wait is a heel stall, counted once in the field that lacks room (R62, R177). -/
def State.heldDone (s : State) : Run State :=
  match s.performAllHeld s.hand with
  | .ok s => .ok s
  | .error f => (s.heelStall f).wait .heel

/-- Has every earlier instruction of the hand completed (R177)? -/
def State.allDone (s : State) : Bool := s.hand.producers.isEmpty && s.commandsDone

/-- halt (R177, R139): it never returns. The wait in which its link serial wraps is counted in the record that it closes (R105). A recorded
watchpoint stops the hand at the strip's close (R390). The folds of its retirement
are operations of their objects' seat orders, and wait in replay for their turn (R327, R394). -/
def execHalt (f : GF) (s : State) : Host.Outcome State Fault Refusal :=
  sysInstr f.g s (fun s => do
    if !s.hand.sched.skipStop && s.hand.watched then s.wait .stop
    else if !s.allDone then s.wait .halt
    else do
      let s ← s.heldDone
      if !(s.foldsOf s.hand).isEmpty then s.seatTurn
      let s ← (s.put (s.hand.stalled (s.hand.ord.serial == 0xFFFF))).closeRecord true
      pure (s.retireHand s.hand))

/-- yield (R178): a request that lands stands after it. With no deficit left the hand gives the vector unit up (Table 17.7). -/
def execYield (f : GF) (s : State) : Host.Outcome State Fault Refusal :=
  sysInstr f.g s (fun s => do
    if s.hand.sched.gangAbort.isSome then s.atPoint .after
    let want := s.powerWanted
    let sc := s.hand.sched
    let s := s.put { s.hand with sched := { sc with deficit := 0, preempt := sc.preempt || want } }
    (s.clearAtPoint.dropGrant.retire 4).afterPoint)

/-- rett (R176). -/
def execRett (f : GF) (s : State) : Host.Outcome State Fault Refusal :=
  guarded s f.g (fun s => s.rett f.g)

/-- nop (R179). -/
def execNop (s : State) : Host.Outcome State Fault Refusal := .next (s.retire 4)

/-! ## spawn (R180) -/

/-- The bytes of the hand's own performed stores, the later over the earlier. -/
def State.ownStores (s : State) : SMap Byte :=
  let log := (((s.taskOf s.hand.task).map (·.log)).getD []).filter (fun w =>
    w.member == s.hand.member && w.perf != 0 && !engineClass w.cls)
  byteMap (log.map (fun w => (w.key, w.val)))

/-- A spawned graph's hands see the spawner's stores as if published to them, until something later is published there (R180). -/
def State.give (s : State) (subno : Nat) : State :=
  { s with mem := { s.mem with gifts := mins s.mem.gifts subno s.ownStores } }

/-- spawn: the graph stands for the pool to read; x[D] is empty until it has. A paired hand is refused (R385), its spawn draws a
number all the same (R339). -/
def execSpawn (f : RegG) (s : State) : Host.Outcome State Fault Refusal :=
  sysInstr f.g s (fun s => do
    let a ← s.src 0 f.a f.ta
    let b ← s.src 1 f.b f.tb
    s.dest f.d
    if s.me.side ≠ .single then pure ((s.nextSub.1.setX f.d (BitVec.ofNat 64 (2 ^ 63 + 0xFFFF))).retire 4)
    else do
      let s ← s.heldDone
      let (s, n) := s.nextSub
      let g : Graph := ⟨n, .spawn s.hand.id, s.hand.asid, false, false, [], a.toNat, b.toNat, [], none⟩
      let s := s.give n
      let s := { s with pool := { s.pool with graphs := s.pool.graphs ++ [g] } }
      let h := s.hand
      let d : Dest := if f.d = 0 then .memory else .scalar f.d.toNat
      let h := { h with producers := h.producers ++ [⟨d, none, some n, [], false, []⟩] }
      pure ((s.put h).retire 4))

/-- The value that fills the spawner's register (R180). -/
def spawnStatus (g : Graph) (r : Except (Nat × Nat) (List NodeRec)) : Reg64 :=
  if g.count = 0 ∨ Config.poolEntries < g.count then BitVec.ofNat 64 (2 ^ 63 + 0xFFFF)
  else match r with
    | .ok _ => BitVec.ofNat 64 (g.subno % 2 ^ 48)
    | .error (j, 1) => BitVec.ofNat 64 (2 ^ 63 + j)
    | .error (j, _) => BitVec.ofNat 64 (2 ^ 63 + 2 ^ 62 + j)

/-- Filling the register of a spawn, if it has one: nothing where a debugger's write took the producer away (R366). -/
def Hand.fillSpawn (h : Hand) (n : Nat) (v : Reg64) : Hand :=
  h.producers.foldl (fun (h : Hand) p => match p.spawn, p.dest with
    | some k, .scalar r =>
      if k = n then { h with x := h.x.setIfInBounds r v, producers := h.producers.filter (fun q => q.spawn != some n) } else h
    | some k, _ => if k = n then { h with producers := h.producers.filter (fun q => q.spawn != some n) } else h
    | none, _ => h) h

/-- A spawned graph that the pool refuses leaves, with what its hands would have seen. -/
def State.dropGraph (s : State) (n : Nat) : State :=
  { s with
    pool := { s.pool with graphs := s.pool.graphs.filter (fun x => x.subno != n) }
    mem := { s.mem with gifts := mdel s.mem.gifts n } }

/-- SPAWN_RESULT (R180): the pool reads submission `e` of a hand once, and admits it when it has room. -/
def execSpawnResult (e : Nat) (s : State) : Host.Outcome State Fault Refusal :=
  .next (match s.pool.graphs.find? (fun g => g.subno == e) with
  | none => s
  | some g => match g.origin with
    | .queue _ => s
    | .spawn id =>
      if !s.poolUp then s
      else if g.count = 0 ∨ Config.poolEntries < g.count then
        (s.dropGraph e).modHand id (fun h => h.fillSpawn e (spawnStatus g (.ok [])))
      else match (if g.status.isSome then (s, some (.ok g.nodes)) else s.readGraph g) with
        | (_, none) => s
        | (s, some (.error w)) => (s.dropGraph e).modHand id (fun h => h.fillSpawn e (spawnStatus g (.error w)))
        | (s, some (.ok ns)) =>
          let g := { g with nodes := ns, status := some 0 }
          if s.poolRoom ns.length then (s.admitGraph g).modHand id (fun h => h.fillSpawn e (spawnStatus g (.ok ns)))
          else { s with pool := { s.pool with graphs := s.pool.graphs.map (fun x => if x.subno = e then g else x) } })

end Sys2Proof.Machine
end

