-- ==== Sys2Proof/Machine/EvEngine.lean ====
section
/-! DEFINITION. Data that arrive: outstanding loads (R83, R217), acknowledgements of stores (R100). -/

namespace Sys2Proof.Machine

/-- The state in which the hand of an id is the current one; the current hand of before takes its place in the list. -/
def State.focus (s : State) (id : Nat) : State :=
  if s.hand.id = id ∧ s.hand.status ≠ .none then s
  else match s.others.find? (fun h => h.id == id && h.status != .none) with
    | none => s
    | some h =>
      if s.hand.status = .none then { s with hand := h, others := s.others.filter (fun g => g.id != id) }
      else { s with hand := h, others := s.others.map (fun g => if g.id = id then s.hand else g) }

/-- What a step does for one hand, done with that hand as the current one, which the hand of before is again after it. -/
def State.asHand (s : State) (id : Nat) (f : State → State) : State :=
  let old := s.hand
  let s := f (s.focus id)
  if old.status = .none then s else s.focus old.id

/-- LOAD_LANDING: the data of the hand's `idx`-th outstanding producer land, once those that it waits for have (R83, R237). A spawn's
result comes from the pool. -/
def execLoadLanding (e : EntryEv) (s : State) : Host.Outcome State Fault Refusal :=
  .next (s.modHand e.hand (fun h => match h.producers[e.idx]? with
    | none => h
    | some p => if p.spawn.isSome || !h.mayLand e.idx then h else { h with producers := h.producers.eraseIdx e.idx }))

/-- STORE_ACKNOWLEDGED (R100): one acknowledgement returns. -/
def execStoreAcknowledged (e : EntryEv) (s : State) : Host.Outcome State Fault Refusal :=
  .next (s.modHand e.hand (fun h => { h with ord := { h.ord with acks := h.ord.acks.eraseIdx e.idx } }))

end Sys2Proof.Machine
end

