-- ==== Sys2Proof/Machine/EvPool.lean ====
section
/-! DEFINITION. The pool's steps without a word: submission records (R338 to R341), admission (R340), the landing of
pre-emptions and the context save area (R364), resumption (R365), watchdogs (R353), clearing of failing cores (R363). -/

namespace Sys2Proof.Machine

/-! ## Submission -/

/-- Where a submission queue's next record stands, and where its next status goes. -/
def Queue.recordSlot (k : Queue) : Nat := k.rbase + 32 * (k.accepted % 2 ^ k.log2n)
/-- Where a queue's next status record goes. -/
def Queue.statusSlot (k : Queue) : Nat := k.sbase + 16 * (k.statused % 2 ^ k.log2n)

/-- Does the stack of a queue's next status record come up still (R412)? -/
def State.statusLater (s : State) (q : Nat) : Bool := (s.memUp (s.queue q).statusSlot 16).isNone

/-- A status record of a submission queue (Table 17.2). -/
def State.postStatus (s : State) (q subno status node : Nat) : State :=
  let r := s.queue q
  let l := leBytes 6 subno ++ [BitVec.ofNat 8 status, 0] ++ leBytes 2 node ++ leBytes 6 0
  (s.physWrite r.statusSlot l).modQueue q (fun r => { r with statused := r.statused + 1 })

/-- Does a graph of the queue wait for room (R340)? -/
def Graph.ofQueue (g : Graph) (q : Nat) : Bool := g.origin == .queue q

/-- The graph that a submission record names, and whether the record breaks Table 17.1. -/
def graphOf (r : List Byte) (q : Nat) (k : Queue) (subno : Nat) : Graph × Bool :=
  (⟨subno, .queue q, k.asid, true, k.mode.getLsbD 0, k.gang, recField r 0 8, recField r 8 2, [], none⟩,
    recField r 0 8 % 64 != 0 || recField r 8 2 == 0 || decide (Config.poolEntries < recField r 8 2) || recField r 10 6 != 0 ||
      recField r 24 8 != 0)

/-- SUBMISSION_RECORD (R338): the pool reads the next record of queue `e`, as its ring stands published, once no stack that the record, its
status or the graph stands in is coming up (R412); a record in a stack that is gone is never read (the model's choice, log 113). A graph
that passes holds the queue's head until it is admitted. -/
def execSubmissionRecord (e : Nat) (s : State) : Host.Outcome State Fault Refusal :=
  .next (
    let k := s.queue e
    if e < 2 ∨ 65 < e ∨ !s.poolUp ∨ s.boot ≠ .running ∨ !k.en ∨ k.tail ≤ k.accepted ∨ s.pool.graphs.any (fun g => g.ofQueue e) ∨
      s.memUp k.recordSlot 32 ≠ some true ∨ s.statusLater e then s
    else
      let r := s.mem.pub.bytes k.recordSlot 32
      let before := s
      let (s, n) := (s.uses k.recordSlot 32).nextSub
      let s := s.modQueue e (fun k => { k with accepted := k.accepted + 1, gang := [] })
      let (g, bad) := graphOf r e k n
      if bad then s.postStatus e n 3 0xFFFF
      else match s.readGraph g with
        | (_, none) => before
        | (s, some (.error (j, st))) => s.postStatus e n st j
        | (s, some (.ok ns)) => { s with pool := { s.pool with graphs := s.pool.graphs ++ [{ g with nodes := ns, status := some 0 }] } })

/-- The queues in the order in which heads that wait for room are served (R340). -/
def serveOrder (last : Nat) : List Nat :=
  let all := upFrom 2 64
  all.filter (fun q => decide (last < q)) ++ all.filter (fun q => decide (q ≤ last))

/-- GRAPH_ADMIT (R340): the first waiting head, in the order of service, that finds room, and whose status can be written. -/
def execGraphAdmit (s : State) : Host.Outcome State Fault Refusal :=
  .next (
    let fits (q : Nat) : Option (Nat × Graph) :=
      (s.pool.graphs.find? (fun g => g.ofQueue q && g.status.isSome && s.poolRoom g.nodes.length && !s.statusLater q)).map (fun g => (q, g))
    if !s.poolUp then s
    else match (serveOrder s.pool.lastQueue).findSome? fits with
      | none => s
      | some (q, g) =>
        let s := (s.postStatus q g.subno 0 0).admitGraph g
        { s with pool := { s.pool with lastQueue := q } })

/-! ## The context save area (Tables 18.5, 18.6) -/

/-- A part of an area, cut or filled with zeros to its size. -/
def part (n : Nat) (l : List Byte) : List Byte := l.take n ++ List.replicate (n - l.length) 0

/-- Held stores by granule, in program order: address, byte mask, data. -/
def heldGranules (l : List Buffered) : List (Nat × Nat × SMap Byte) :=
  l.foldl (fun acc b =>
    let g := b.key / 64 * 64
    let o := b.key % 64
    match acc.reverse with
    | (a, m, d) :: rest =>
      if a = g ∧ m / 2 ^ o % 2 = 0 then rest.reverse ++ [(a, m + 2 ^ o, mins d o b.val)] else acc ++ [(g, 2 ^ o, [(o, b.val)])]
    | [] => [(g, 2 ^ o, [(o, b.val)])]) []

/-- The bytes of held stores (Table 18.5). -/
def heldBytes (l : List Buffered) : List Byte :=
  ((heldGranules l).map (fun e => leBytes 8 e.1 ++ leBytes 8 e.2.1 ++ (List.range 64).map (fun o => mget 0 e.2.2 o))).flatten

/-- The summary part: each record on a 16-byte boundary. -/
def slotsPart (m : SMap Slot) : List Byte :=
  m.foldl (fun l ks => l ++ List.replicate ((16 - l.length % 16) % 16) 0 ++ ks.2.serialise) []

/-- A bound stream as Table 18.5 lays it out. -/
def streamPart (t : Option Stream) : List Byte :=
  match t with
  | none => List.replicate 128 0
  | some t =>
    part 44 ((t.shape.map (fun w => leBytes 4 w.toNat)).flatten) ++ leBytes 4 t.chain.toNat ++
      [BitVec.ofNat 8 t.tile, 1, BitVec.ofNat 8 (t.chain.toNat / 2 ^ 32 % 4)] ++ leBytes 5 0 ++ leBytes 8 t.pos.toNat ++
      List.replicate 64 0

/-- The CSRs in Table 18.5's order. -/
def savedCsrs : List Nat :=
  [0x000, 0x001, 0x002, 0x003, 0x004, 0x005, 0x006, 0x010, 0x011, 0x012, 0x013, 0x014, 0x015, 0x016, 0x023, 0x024, 0x030, 0x031,
    0x032, 0x033, 0x034, 0x035, 0x036, 0x037, 0x050, 0x058, 0x059, 0x070, 0x071]

/-- The header (Table 18.6). -/
def State.areaHeader (s : State) (resume sumLen held total : Nat) : List Byte :=
  let h := s.hand
  let inst := (h.arrived.map (fun a => (a.scope, a.number + 1))).getD (0, 0)
  let inst := if resume = 2 then inst else (0, 0)
  let counts := (List.range 4).foldl (fun a i => a + ((h.lq.toArray.getD i []).length) * 16 ^ i) 0
  let slots := h.handles.foldl (fun a ks => a + 2 ^ ks.1) 0
  part 256 ([0, 1, BitVec.ofNat 8 resume, BitVec.ofNat 8 h.loops.length] ++ leBytes 2 h.id ++ leBytes 2 h.asid.toNat ++
    leBytes 4 h.member ++ leBytes 4 h.ord.serial.toNat ++ leBytes 8 h.taskid.toNat ++ leBytes 8 h.pc.toNat ++
    leBytes 8 h.bound.toNat ++ leBytes 8 h.csr.orun.toNat ++ leBytes 8 h.csr.onext.toNat ++ leBytes 2 counts ++
    [BitVec.ofNat 8 h.inbox.length, BitVec.ofNat 8 h.jobs.length] ++ leBytes 4 slots ++ leBytes 8 inst.1 ++ leBytes 8 inst.2 ++
    leBytes 8 sumLen ++ leBytes 4 held ++ leBytes 4 0 ++ leBytes 8 total ++ leBytes 8 h.sched.retiredCount)

/-- The current hand's area. -/
def State.areaBytes (s : State) (resume : Nat) : List Byte :=
  let h := s.hand
  let sums := slotsPart h.handles
  let held := h.strip.ssb.filter (·.held)
  let tail := sums ++ heldBytes held
  s.areaHeader resume sums.length (heldGranules held).length (18112 + tail.length) ++
    ((upFrom 0 32).map (fun r => leBytes 8 (h.getX (BitVec.ofNat 5 r)).toNat)).flatten ++
    part 192 ((h.loops.reverse.map (fun t => leBytes 8 t.start.toNat ++ leBytes 8 t.stop.toNat ++ leBytes 8 t.count.toNat ++
      leBytes 8 t.index.toNat)).flatten) ++
    (h.streams.toList.map streamPart).flatten ++
    (h.lq.toList.map (fun q => part 32 ((q.map (fun w => leBytes 4 w.toNat)).flatten))).flatten ++
    part 256 ((savedCsrs.map (fun n => leBytes 8 ((s.readCsr n).getD 0).toNat)).flatten) ++
    ((upFrom 0 4096).map (fun k => leBytes 4 (mget 0 h.dealer k).toNat)).flatten ++
    part 64 ((h.inbox.map (fun w => leBytes 4 w.toNat)).flatten) ++
    part 64 ((h.jobs.map (fun j => leBytes 4 j.word.toNat ++ leBytes 2 j.k0 ++ [1] ++ List.replicate 9 0)).flatten) ++
    tail

/-- The area's length, before it is written. -/
def Hand.areaLength (h : Hand) : Nat :=
  18112 + (slotsPart h.handles).length + 80 * (heldGranules (h.strip.ssb.filter (·.held))).length

/-- The lowest 64-byte-aligned place of a region where `n` bytes fit among the areas in use (R364). -/
def Region.fit (r : Region) (n : Nat) : Option Nat :=
  let starts := r.base :: r.areas.map (fun a => (a.1 + a.2 + 63) / 64 * 64)
  let ok (p : Nat) : Bool := decide (r.base ≤ p ∧ p + n ≤ r.base + r.size) &&
    r.areas.all (fun a => decide (p + n ≤ a.1 ∨ a.1 + a.2 ≤ p))
  (starts.filter ok).foldl (fun b p => match b with
    | none => some p
    | some q => some (Nat.min p q)) none

/-! ## Landing (R150, R364) -/

/-- Does a wait stand at a point where a request can land (Table 7.10)? Not where one that has landed would rewind again (Table 7.11). -/
def Hand.lands (h : Hand) (w : Wait) : Bool :=
  h.frame.isNone && !(h.wouldRewind w && h.sched.landed.isSome) && (match w with
    | .opening | .phend | .seatw | .seatin | .twait | .live | .point | .rewound | .after => true
    | .tileGate => h.csr.stripno == 0 || h.strip.prot
    | _ => false)

/-- Step 1 of R364: the rewind of a fourth-row landing or the commit of another; RESUME; the strip record closes. The request has landed
then, whatever comes before the save (Table 7.11). A buffer that would drain and no longer decodes makes the strip retry first (R74). -/
def State.landAt (s : State) (w : Wait) : State :=
  let resume := match w with
    | .phend => if s.hand.arrived.isSome then 2 else 1
    | .seatw | .seatin | .twait | .live => 1
    | _ => 0
  let back := decide (w = .point ∨ w = .tileGate)
  let keeps := back || decide (w = .rewound)
  match if keeps then none else s.badDrain with
  | some t => (s.countBad t).retried
  | none =>
    let s' := if back && s.hand.strip.prot then s.rewind else s
    match s'.closeRecord true with
    | .ok s' =>
      let s' := if keeps then s' else s'.commit
      { s'.dropGrant with hand := { s'.hand with
          status := .waiting (.save resume), convoy := none, sched := { s'.hand.sched with landed := some resume } } }
    | .error _ => s

/-- Step 2 of R364: scalars full, copies and exchanges complete. -/
def State.saveReady (s : State) : Bool :=
  !s.hand.producers.any (fun p => match p.dest with
    | .scalar _ => true
    | _ => false) && s.completeBefore 3 && s.completeBefore 6

/-- Steps 3 to 5 of R364, once the region has room: the running job stops at an open group, the serial advances, what streams have read
ahead is discarded, the area is written with CYC's count; the slot is free. A job that meets an error there is not saved: the hand takes
it first (R74). While the area's stack is coming up the save waits (R412), and so it does where that stack is gone (log 113). -/
def State.saveHand (s : State) (resume : Nat) : State :=
  if !s.saveReady then s
  else match mfind s.regions s.hand.asid.toNat with
    | none => s
    | some r => match r.fit s.hand.areaLength with
      | none => s
      | some a =>
        if s.memUp a s.hand.areaLength ≠ some true then s else
        let span := ((s.hand.jobs.head?).map (fun j => jobSpan ((s.tile s.hand.core j.ta).cols + 1) j.k0)).getD 0
        let (s, n) := s.choose (span + 1)
        let s := s.stopJob s.hand n
        if s.hand.sched.unrecoverable.isSome then { s with hand := { s.hand with status := .running } }
        else
          let s := s.dropGrant.advanceSerial.tick
          let l := s.areaBytes resume
          let s := s.putPubAll (atAddr a l)
          let s := { s with regions := mins s.regions s.hand.asid.toNat { r with areas := r.areas ++ [(a, l.length)] } }
          let s := if s.hand.sched.migrate then s.modCore s.hand.core (fun (c : Core) => { c with excluded := true }) else s
          let h := s.hand.clearStripLocal
          { s with hand := { h with
              status := .saved, streams := h.streams.map (Option.map Stream.afresh)
              sched := { h.sched with preempt := false, landed := none, savedArea := some (a, l.length) } } }

/-- PREEMPTION_LANDING: a held request lands where hand `e` stands, or the landed hand's context is saved. -/
def execPreemptionLanding (e : Nat) (s : State) : Host.Outcome State Fault Refusal :=
  .next (match s.handOf e with
  | none => s
  | some h => match h.status with
    | .waiting (.save r) => s.asHand e (fun s => s.saveHand r)
    | .waiting w => if h.sched.preempt && h.lands w then s.asHand e (fun s => s.landAt w) else s
    | _ => s)

/-! ## Resumption (R365) -/

/-- A saved hand on its new core: the area's bytes are free, the streams have nothing read ahead, the jobs are issued again in order from
their K rows. The strip record counts it as stall where a throttle keeps them back (R349). -/
def State.resumeOn (s : State) (core slot : Nat) : State :=
  let h := s.hand
  let area := h.sched.savedArea
  let n := s.mem.perfCtr
  let jobs := h.jobs.zipIdx.map (fun (j, i) =>
    { j with started := false, follows := some (j.follows.getD 0), copyEnded := true, issued := n + i })
  let back : Hand := { h with
    status := .running, core := core, slot := slot, jobs := jobs, streams := h.streams.map (Option.map Stream.afresh)
    csr := { h.csr with vstart := if jobs.isEmpty then h.csr.vstart else 0 }
    sched := { h.sched with migrate := false, savedArea := none, deficit := quantum h.prio } }
  let s := { s with
    regions := s.regions.map (fun (kr : Nat × Region) => if kr.1 = h.asid.toNat
      then (kr.1, { kr.2 with areas := kr.2.areas.filter (fun a => some a != area) }) else kr)
    mem := { s.mem with perfCtr := n + jobs.length }
    hand := back.stalled (s.throttled back) }
  s.advanceSerial

/-- Does a saved hand stand aside for a ready node of higher priority (R343, R345; log 77): one that can be placed now, or one that the
power test keeps back only until the draw of the hand's node is gone from what is measured? A hand that migrates does not (R363). -/
def State.standsAside (s : State) (h : Hand) : Bool :=
  let awaited (v n : Node) : Bool := n.state == .ready && n.record.cls != 1 && decide (h.prio < n.record.prio) &&
    (s.place n none).isNone && (s.place n (some v)).isSome
  !h.sched.migrate && (((s.select).map (fun p => decide (h.prio < p.1.record.prio))).getD false ||
    s.pool.nodes.any (fun v => v.state == .running && (v.task == h.task || v.taskB == h.task) && s.pool.nodes.any (awaited v)))

/-- HAND_RESUME: the pool resumes saved hand `e` on the core and slot of R363 or R365. -/
def execHandResume (e : Nat) (s : State) : Host.Outcome State Fault Refusal :=
  .next (match s.handOf e with
  | none => s
  | some h =>
    if h.status ≠ .saved ∨ !s.poolUp ∨ s.standsAside h then s
    else match s.resumeAt h with
      | none => s
      | some (c, sl) => s.asHand e (fun s => s.resumeOn c sl))

/-! ## Watchdogs, failing cores -/

/-- Is the instruction that a hand has to issue next a vsetl or a vsetlq: a point before it (Table 7.10)? -/
def State.opensNext (s : State) (h : Hand) : Bool :=
  match s.nextWord h with
  | none => false
  | some w => majOf w == 29 && !cOf w && (decVset (splitWord w)).toOption.isSome

/-- Does the hand stand at a pre-emption point (R353): in a wait at one, after one, or before an opening? -/
def State.atRest (s : State) (h : Hand) : Bool :=
  match h.status with
  | .waiting (.save _) => true
  | .waiting .stop => true
  | .waiting w => h.lands w
  | .running => h.frame.isNone && (h.sched.point || s.opensNext h)
  | .suspended _ => h.frame.isNone && (h.sched.point || s.opensNext h)
  | _ => false

/-- Does the hand's time run (Table 17.6), a suspension included, and has its watchdog not spoken for this wait already? -/
def State.dogRuns (s : State) (h : Hand) : Bool :=
  match h.status with
  | .running => true
  | .waiting _ => true
  | .suspended n => !s.faults.pending.any (fun r => r.seq == n && r.trap.cause == .watchdog)
  | _ => false

/-- WATCHDOG (R353): CYC has reached `cycles`, at or above the limit. A hand that another record has suspended is suspended by this one
from here on; the first awaits no answer any more (log 48). -/
def execWatchdog (e : DogEv) (s : State) : Host.Outcome State Fault Refusal :=
  .next (match s.handOf e.hand with
  | none => s
  | some h =>
    if !s.dogRuns h ∨ h.csr.wdog = 0 ∨ e.cycles.toNat < h.csr.wdog.toNat ∨ e.cycles.toNat < h.csr.cyc.toNat then s
    else s.asHand e.hand (fun s =>
      let h := s.hand
      let rest := s.atRest h
      let s := { s with hand := { h with csr := { h.csr with cyc := e.cycles } } }
      s.toSystem (Trap.mk' .watchdog e.cycles) (rest || h.strip.prot)))

/-- FAILING_CORE_CLEAR (R363). -/
def execFailingCoreClear (e : Nat) (s : State) : Host.Outcome State Fault Refusal :=
  .next (s.modCore e (fun c => { c with excluded := false }))

end Sys2Proof.Machine
end

