-- ==== Sys2Proof/Machine/RvDecode.lean ====
section
/-! DEFINITION. The instructions of RV64GC that an application core runs in user mode (R395), and their decoding. The set is published
elsewhere: every encoding and meaning here is PRESUMED, taken from the RISC-V unprivileged specification (log 88). -/

namespace Sys2Proof.Machine

/-- The second operand of an integer operation. -/
inductive RvSrc where
  | reg (r : Fld5)
  | imm (v : Reg64)
  deriving DecidableEq, Repr

/-- Conditions of a branch. -/
inductive RvCond where
  | eq | ne | lt | ge | ltu | geu
  deriving DecidableEq, Repr

/-- Integer operations of RV64I and M. -/
inductive RvAlu where
  | add | sub | sll | slt | sltu | xor | srl | sra | or | and
  | mul | mulh | mulhsu | mulhu | div | divu | rem | remu
  deriving DecidableEq, Repr

/-- Atomic operations of A. -/
inductive RvAmo where
  | swap | add | xor | and | or | min | max | minu | maxu
  deriving DecidableEq, Repr

/-- What a CSR instruction does to its register. -/
inductive RvCsrOp where
  | write | set | clear
  deriving DecidableEq, Repr

/-- Floating-point operations of two sources. -/
inductive RvFloat where
  | add | sub | mul | div | sgnj | sgnjn | sgnjx | min | max
  deriving DecidableEq, Repr

/-- Floating-point comparisons. -/
inductive RvCmp where
  | le | lt | eq
  deriving DecidableEq, Repr

/-- Integer formats of conversions: words and doublewords, signed or not. -/
inductive RvInt where
  | w | wu | l | lu
  deriving DecidableEq, Repr

/-- An instruction of RV64GC in user mode. `double` names the D form of a floating-point instruction. -/
inductive RvInstr where
  | lui (rd : Fld5) (imm : Reg64)
  | auipc (rd : Fld5) (imm : Reg64)
  | jal (rd : Fld5) (off : Reg64)
  | jalr (rd rs1 : Fld5) (off : Reg64)
  | branch (c : RvCond) (rs1 rs2 : Fld5) (off : Reg64)
  | load (bytes : Nat) (signed : Bool) (rd rs1 : Fld5) (off : Reg64)
  | loadF (double : Bool) (rd rs1 : Fld5) (off : Reg64)
  | store (bytes : Nat) (rs1 rs2 : Fld5) (off : Reg64)
  | storeF (double : Bool) (rs1 rs2 : Fld5) (off : Reg64)
  | alu (op : RvAlu) (word : Bool) (rd rs1 : Fld5) (src : RvSrc)
  | fence
  | ecall
  | ebreak
  | csr (op : RvCsrOp) (n : Nat) (rd : Fld5) (src : RvSrc)
  | lr (bytes : Nat) (rd rs1 : Fld5)
  | sc (bytes : Nat) (rd rs1 rs2 : Fld5)
  | amo (op : RvAmo) (bytes : Nat) (rd rs1 rs2 : Fld5)
  | fma (double negProduct negAddend : Bool) (rd rs1 rs2 rs3 : Fld5) (rm : Nat)
  | float (op : RvFloat) (double : Bool) (rd rs1 rs2 : Fld5) (rm : Nat)
  | fsqrt (double : Bool) (rd rs1 : Fld5) (rm : Nat)
  | fcmp (op : RvCmp) (double : Bool) (rd rs1 rs2 : Fld5)
  | fclass (double : Bool) (rd rs1 : Fld5)
  | toInt (double : Bool) (kind : RvInt) (rd rs1 : Fld5) (rm : Nat)
  | ofInt (double : Bool) (kind : RvInt) (rd rs1 : Fld5) (rm : Nat)
  | widen (rd rs1 : Fld5)
  | narrow (rd rs1 : Fld5) (rm : Nat)
  | moveToX (double : Bool) (rd rs1 : Fld5)
  | moveOfX (double : Bool) (rd rs1 : Fld5)
  deriving DecidableEq, Repr

/-! ## Fields -/

/-- Bits hi down to lo of an instruction. -/
def rvBits (w hi lo : Nat) : Nat := w / 2 ^ lo % 2 ^ (hi + 1 - lo)

/-- A register number at bit `lo`. -/
def rvReg (w lo : Nat) : Fld5 := BitVec.ofNat 5 (rvBits w (lo + 4) lo)

/-- A register number of three bits at bit `lo`: x8 to x15, f8 to f15. -/
def rvReg' (w lo : Nat) : Fld5 := BitVec.ofNat 5 (8 + rvBits w (lo + 2) lo)

/-- A number of `n` bits extended by its sign. -/
def rvSext (n v : Nat) : Reg64 := (BitVec.ofNat n v).signExtend 64

/-- Pieces of an immediate: for each, its high and low bit in the instruction and the place of its low bit in the immediate. -/
def rvImm (w : Nat) (l : List (Nat × Nat × Nat)) : Nat := l.foldl (fun n p => n + rvBits w p.1 p.2.1 * 2 ^ p.2.2) 0

/-- The immediate of an I form. -/
def rvImmI (w : Nat) : Reg64 := rvSext 12 (rvBits w 31 20)
/-- The immediate of an S form. -/
def rvImmS (w : Nat) : Reg64 := rvSext 12 (rvImm w [(31, 25, 5), (11, 7, 0)])
/-- The immediate of a B form. -/
def rvImmB (w : Nat) : Reg64 := rvSext 13 (rvImm w [(31, 31, 12), (7, 7, 11), (30, 25, 5), (11, 8, 1)])
/-- The immediate of a U form. -/
def rvImmU (w : Nat) : Reg64 := rvSext 32 (rvImm w [(31, 12, 12)])
/-- The immediate of a J form. -/
def rvImmJ (w : Nat) : Reg64 := rvSext 21 (rvImm w [(31, 31, 20), (19, 12, 12), (20, 20, 11), (30, 21, 1)])

/-! ## Instructions of 32 bits -/

/-- A branch's condition. -/
def rvCond : Nat → Option RvCond
  | 0 => some .eq
  | 1 => some .ne
  | 4 => some .lt
  | 5 => some .ge
  | 6 => some .ltu
  | 7 => some .geu
  | _ => none

/-- The operation of an OP form, by funct7 and funct3. -/
def rvOp : Nat → Nat → Option RvAlu
  | 0, 0 => some .add
  | 32, 0 => some .sub
  | 0, 1 => some .sll
  | 0, 2 => some .slt
  | 0, 3 => some .sltu
  | 0, 4 => some .xor
  | 0, 5 => some .srl
  | 32, 5 => some .sra
  | 0, 6 => some .or
  | 0, 7 => some .and
  | 1, 0 => some .mul
  | 1, 1 => some .mulh
  | 1, 2 => some .mulhsu
  | 1, 3 => some .mulhu
  | 1, 4 => some .div
  | 1, 5 => some .divu
  | 1, 6 => some .rem
  | 1, 7 => some .remu
  | _, _ => none

/-- Has an operation a form on words? -/
def RvAlu.onWords : RvAlu → Bool
  | .add | .sub | .sll | .srl | .sra | .mul | .div | .divu | .rem | .remu => true
  | _ => false

/-- The operation of an OP-IMM form and its immediate; a shift of doublewords has six bits of it, one of words five. -/
def rvOpImm (w : Nat) (word : Bool) : Option (RvAlu × Reg64) :=
  let top := if word then 25 else 26
  let sh := BitVec.ofNat 64 (rvBits w (top - 1) 20)
  let high := rvBits w 31 top * 2 ^ (top - 25)
  match rvBits w 14 12 with
  | 0 => some (.add, rvImmI w)
  | 1 => if high = 0 then some (.sll, sh) else none
  | 2 => if word then none else some (.slt, rvImmI w)
  | 3 => if word then none else some (.sltu, rvImmI w)
  | 4 => if word then none else some (.xor, rvImmI w)
  | 5 => if high = 0 then some (.srl, sh) else if high = 32 then some (.sra, sh) else none
  | 6 => if word then none else some (.or, rvImmI w)
  | _ => if word then none else some (.and, rvImmI w)

/-- The operation of an AMO, by funct5. -/
def rvAmo : Nat → Option RvAmo
  | 0 => some .add
  | 1 => some .swap
  | 4 => some .xor
  | 8 => some .or
  | 12 => some .and
  | 16 => some .min
  | 20 => some .max
  | 24 => some .minu
  | 28 => some .maxu
  | _ => none

/-- The integer format of a conversion. -/
def rvInt : Nat → Option RvInt
  | 0 => some .w
  | 1 => some .wu
  | 2 => some .l
  | 3 => some .lu
  | _ => none

/-- An OP-FP form, by funct5, of single or double format. -/
def rvOpFp (w : Nat) (double : Bool) : Option RvInstr :=
  let rd := rvReg w 7
  let a := rvReg w 15
  let b := rvReg w 20
  let rm := rvBits w 14 12
  let sub := rvBits w 24 20
  let two (op : RvFloat) : Option RvInstr := some (.float op double rd a b rm)
  match rvBits w 31 27 with
  | 0 => two .add
  | 1 => two .sub
  | 2 => two .mul
  | 3 => two .div
  | 4 => match rm with
    | 0 => some (.float .sgnj double rd a b 0)
    | 1 => some (.float .sgnjn double rd a b 0)
    | 2 => some (.float .sgnjx double rd a b 0)
    | _ => none
  | 5 => match rm with
    | 0 => some (.float .min double rd a b 0)
    | 1 => some (.float .max double rd a b 0)
    | _ => none
  | 8 =>
    if double then (if sub = 0 then some (.widen rd a) else none)
    else if sub = 1 then some (.narrow rd a rm) else none
  | 11 => if sub = 0 then some (.fsqrt double rd a rm) else none
  | 20 => match rm with
    | 0 => some (.fcmp .le double rd a b)
    | 1 => some (.fcmp .lt double rd a b)
    | 2 => some (.fcmp .eq double rd a b)
    | _ => none
  | 24 => (rvInt sub).map (fun i => .toInt double i rd a rm)
  | 26 => (rvInt sub).map (fun i => .ofInt double i rd a rm)
  | 28 =>
    if sub ≠ 0 then none
    else if rm = 0 then some (.moveToX double rd a)
    else if rm = 1 then some (.fclass double rd a) else none
  | 30 => if sub = 0 ∧ rm = 0 then some (.moveOfX double rd a) else none
  | _ => none

/-- A SYSTEM form: ECALL, EBREAK, and the CSR instructions, of which CSRRS and CSRRC with x0 or 0 write nothing. The privileged ones are
none of user mode's. -/
def rvSystem (w : Nat) : Option RvInstr :=
  let rd := rvReg w 7
  let rs1 := rvReg w 15
  let n := rvBits w 31 20
  let imm := RvSrc.imm (BitVec.ofNat 64 (rvBits w 19 15))
  match rvBits w 14 12 with
  | 0 => if w = 0x00000073 then some .ecall else if w = 0x00100073 then some .ebreak else none
  | 1 => some (.csr .write n rd (.reg rs1))
  | 2 => some (.csr .set n rd (.reg rs1))
  | 3 => some (.csr .clear n rd (.reg rs1))
  | 5 => some (.csr .write n rd imm)
  | 6 => some (.csr .set n rd imm)
  | 7 => some (.csr .clear n rd imm)
  | _ => none

/-- An AMO form: word or doubleword; aq and rl order nothing that this model's one order does not. -/
def rvAtomic (w : Nat) : Option RvInstr :=
  let rd := rvReg w 7
  let rs1 := rvReg w 15
  let rs2 := rvReg w 20
  let n := if rvBits w 14 12 = 2 then 4 else 8
  if rvBits w 14 12 ≠ 2 ∧ rvBits w 14 12 ≠ 3 then none
  else match rvBits w 31 27 with
    | 2 => if rs2 = 0 then some (.lr n rd rs1) else none
    | 3 => some (.sc n rd rs1 rs2)
    | f => (rvAmo f).map (fun op => .amo op n rd rs1 rs2)

/-- The number of bytes and the sign of an integer load, by funct3. -/
def rvLoad : Nat → Option (Nat × Bool)
  | 0 => some (1, true)
  | 1 => some (2, true)
  | 2 => some (4, true)
  | 3 => some (8, true)
  | 4 => some (1, false)
  | 5 => some (2, false)
  | 6 => some (4, false)
  | _ => none

/-- An instruction of 32 bits, by its major opcode; none where the encoding is none of RV64G in user mode. -/
def rvDecode32 (w : Nat) : Option RvInstr :=
  let rd := rvReg w 7
  let rs1 := rvReg w 15
  let rs2 := rvReg w 20
  let f3 := rvBits w 14 12
  let fused (negProduct negAddend : Bool) : Option RvInstr :=
    let f := rvBits w 26 25
    if 2 ≤ f then none else some (.fma (f == 1) negProduct negAddend rd rs1 rs2 (rvReg w 27) f3)
  match rvBits w 6 0 with
  | 0x37 => some (.lui rd (rvImmU w))
  | 0x17 => some (.auipc rd (rvImmU w))
  | 0x6F => some (.jal rd (rvImmJ w))
  | 0x67 => if f3 = 0 then some (.jalr rd rs1 (rvImmI w)) else none
  | 0x63 => (rvCond f3).map (fun c => .branch c rs1 rs2 (rvImmB w))
  | 0x03 => (rvLoad f3).map (fun l => .load l.1 l.2 rd rs1 (rvImmI w))
  | 0x23 => if f3 < 4 then some (.store (2 ^ f3) rs1 rs2 (rvImmS w)) else none
  | 0x13 => (rvOpImm w false).map (fun o => .alu o.1 false rd rs1 (.imm o.2))
  | 0x1B => (rvOpImm w true).map (fun o => .alu o.1 true rd rs1 (.imm o.2))
  | 0x33 => (rvOp (rvBits w 31 25) f3).map (fun o => .alu o false rd rs1 (.reg rs2))
  | 0x3B => (rvOp (rvBits w 31 25) f3).bind (fun o => if o.onWords then some (.alu o true rd rs1 (.reg rs2)) else none)
  | 0x0F => if f3 < 2 then some .fence else none
  | 0x73 => rvSystem w
  | 0x2F => rvAtomic w
  | 0x07 => if f3 = 2 ∨ f3 = 3 then some (.loadF (f3 == 3) rd rs1 (rvImmI w)) else none
  | 0x27 => if f3 = 2 ∨ f3 = 3 then some (.storeF (f3 == 3) rs1 rs2 (rvImmS w)) else none
  | 0x43 => fused false false
  | 0x47 => fused false true
  | 0x4B => fused true false
  | 0x4F => fused true true
  | 0x53 => if rvBits w 26 25 < 2 then rvOpFp w (rvBits w 26 25 == 1) else none
  | _ => none

/-! ## Instructions of 16 bits -/

/-- Quadrant 0: loads and stores at x8 to x15, and the address of a stack slot. -/
def rvQuadrant0 (w : Nat) : Option RvInstr :=
  let rd := rvReg' w 2
  let rs1 := rvReg' w 7
  let word := BitVec.ofNat 64 (rvImm w [(12, 10, 3), (6, 6, 2), (5, 5, 6)])
  let dbl := BitVec.ofNat 64 (rvImm w [(12, 10, 3), (6, 5, 6)])
  match rvBits w 15 13 with
  | 0 =>
    let n := rvImm w [(12, 11, 4), (10, 7, 6), (6, 6, 2), (5, 5, 3)]
    if n = 0 then none else some (.alu .add false rd 2 (.imm (BitVec.ofNat 64 n)))
  | 1 => some (.loadF true rd rs1 dbl)
  | 2 => some (.load 4 true rd rs1 word)
  | 3 => some (.load 8 true rd rs1 dbl)
  | 5 => some (.storeF true rs1 rd dbl)
  | 6 => some (.store 4 rs1 rd word)
  | 7 => some (.store 8 rs1 rd dbl)
  | _ => none

/-- The arithmetic forms of quadrant 1. -/
def rvArith1 (w : Nat) : Option RvInstr :=
  let rd := rvReg' w 7
  let n := rvImm w [(12, 12, 5), (6, 2, 0)]
  let two (op : RvAlu) (word : Bool) : Option RvInstr := some (.alu op word rd rd (.reg (rvReg' w 2)))
  match rvBits w 11 10 with
  | 0 => some (.alu .srl false rd rd (.imm (BitVec.ofNat 64 n)))
  | 1 => some (.alu .sra false rd rd (.imm (BitVec.ofNat 64 n)))
  | 2 => some (.alu .and false rd rd (.imm (rvSext 6 n)))
  | _ => match rvBits w 12 12 * 4 + rvBits w 6 5 with
    | 0 => two .sub false
    | 1 => two .xor false
    | 2 => two .or false
    | 3 => two .and false
    | 4 => two .sub true
    | 5 => two .add true
    | _ => none

/-- Quadrant 1: arithmetic, jumps and branches. -/
def rvQuadrant1 (w : Nat) : Option RvInstr :=
  let rd := rvReg w 7
  let n := rvSext 6 (rvImm w [(12, 12, 5), (6, 2, 0)])
  let dest := rvSext 9 (rvImm w [(12, 12, 8), (11, 10, 3), (6, 5, 6), (4, 3, 1), (2, 2, 5)])
  match rvBits w 15 13 with
  | 0 => some (.alu .add false rd rd (.imm n))
  | 1 => if rd = 0 then none else some (.alu .add true rd rd (.imm n))
  | 2 => some (.alu .add false rd 0 (.imm n))
  | 3 =>
    if n = 0 then none
    else if rd = 2 then some (.alu .add false 2 2 (.imm (rvSext 10 (rvImm w [(12, 12, 9), (6, 6, 4), (5, 5, 6), (4, 3, 7), (2, 2, 5)]))))
    else some (.lui rd (n <<< 12))
  | 4 => rvArith1 w
  | 5 => some (.jal 0 (rvSext 12 (rvImm w
      [(12, 12, 11), (11, 11, 4), (10, 9, 8), (8, 8, 10), (7, 7, 6), (6, 6, 7), (5, 3, 1), (2, 2, 5)])))
  | 6 => some (.branch .eq (rvReg' w 7) 0 dest)
  | _ => some (.branch .ne (rvReg' w 7) 0 dest)

/-- Quadrant 2: loads and stores at the stack pointer, moves, jumps through a register. -/
def rvQuadrant2 (w : Nat) : Option RvInstr :=
  let rd := rvReg w 7
  let rs2 := rvReg w 2
  let dbl := BitVec.ofNat 64 (rvImm w [(12, 12, 5), (6, 5, 3), (4, 2, 6)])
  let dblTo := BitVec.ofNat 64 (rvImm w [(12, 10, 3), (9, 7, 6)])
  match rvBits w 15 13 with
  | 0 => some (.alu .sll false rd rd (.imm (BitVec.ofNat 64 (rvImm w [(12, 12, 5), (6, 2, 0)]))))
  | 1 => some (.loadF true rd 2 dbl)
  | 2 => if rd = 0 then none else some (.load 4 true rd 2 (BitVec.ofNat 64 (rvImm w [(12, 12, 5), (6, 4, 2), (3, 2, 6)])))
  | 3 => if rd = 0 then none else some (.load 8 true rd 2 dbl)
  | 4 =>
    if rvBits w 12 12 = 0 then
      if rs2 ≠ 0 then some (.alu .add false rd 0 (.reg rs2))
      else if rd = 0 then none else some (.jalr 0 rd 0)
    else if rs2 ≠ 0 then some (.alu .add false rd rd (.reg rs2))
    else if rd = 0 then some .ebreak else some (.jalr 1 rd 0)
  | 5 => some (.storeF true 2 rs2 dblTo)
  | 6 => some (.store 4 2 rs2 (BitVec.ofNat 64 (rvImm w [(12, 9, 2), (8, 7, 6)])))
  | _ => some (.store 8 2 rs2 dblTo)

/-- Is the instruction whose first 16 bits these are one of 32 bits? Longer ones are none of RV64GC's. -/
def rvLong (half : Nat) : Bool := half % 4 == 3

/-- The instruction of some bits: a word where its two lowest bits are 3, else a halfword. -/
def rvDecode (w : Nat) : Option RvInstr :=
  match w % 4 with
  | 0 => rvQuadrant0 w
  | 1 => rvQuadrant1 w
  | 2 => rvQuadrant2 w
  | _ => rvDecode32 w

end Sys2Proof.Machine
end

