-- ==== Sys2Proof/Machine/Rv.lean ====
section
/-! DEFINITION. What an instruction of RV64GC does to a class 1 node's thread (R395), which runs it in user mode on a system core. What it
computes is PRESUMED, taken from the RISC-V unprivileged specification; what it reads and writes in memory goes through the device's walkers
and is published as R128 has it (log 88). -/

namespace Sys2Proof.Machine

/-! ## Registers -/

/-- An integer register of a thread; x0 reads zero. -/
def Thread.getX (t : Thread) (r : Fld5) : Reg64 := if r = 0 then 0 else t.x.get r.toFin
/-- Writing an integer register of a thread; x0 keeps zero. -/
def Thread.setX (t : Thread) (r : Fld5) (v : Reg64) : Thread := if r = 0 then t else { t with x := t.x.set r.toNat v r.isLt }
/-- A floating-point register's bits. -/
def Thread.getF (t : Thread) (r : Fld5) : Reg64 := t.f.get r.toFin
/-- The second operand of an integer operation. -/
def Thread.src (t : Thread) : RvSrc → Reg64
  | .reg r => t.getX r
  | .imm v => v

/-- The format of a floating-point instruction. -/
def rvFmt (double : Bool) : Fmt := if double then ⟨11, 52⟩ else f32

/-- A narrow float in a register of 64 bits, boxed by ones. -/
def rvBox (double : Bool) (v : Nat) : Reg64 := BitVec.ofNat 64 (if double then v else v % 2 ^ 32 + (2 ^ 64 - 2 ^ 32))

/-- A floating-point operand: what is not boxed as a narrow float must be reads as the default NaN. -/
def Thread.operand (t : Thread) (double : Bool) (r : Fld5) : Nat :=
  let v := (t.getF r).toNat
  if double then v else if v / 2 ^ 32 = 2 ^ 32 - 1 then v % 2 ^ 32 else f32.nan

/-- Writing a floating-point register. -/
def Thread.setF (t : Thread) (double : Bool) (r : Fld5) (v : Nat) : Thread := { t with f := t.f.set r.toNat (rvBox double v) r.isLt }

/-- Flags of an operation as fflags has them: NX, UF, OF, DZ, NV from bit 0 up. -/
def rvFlags (fl : Nat) : BitVec 8 :=
  let bit (mask v : Nat) : Nat := if fl / mask % 2 = 1 then v else 0
  BitVec.ofNat 8 (bit fNX 1 + bit fUF 2 + bit fOF 4 + bit fDZ 8 + bit fNV 16)

/-- Flags are raised. -/
def Thread.raise (t : Thread) (fl : Nat) : Thread := { t with fcsr := t.fcsr ||| rvFlags fl }

/-- A float result and its flags. -/
def Thread.putF (t : Thread) (double : Bool) (r : Fld5) (v : Nat × Nat) : Thread := (t.setF double r v.1).raise v.2

/-- The rounding mode of an instruction, or, for 7, that of frm; none where it is reserved. -/
def Thread.rounding (t : Thread) (rm : Nat) : Option Nat :=
  let m := if rm = 7 then t.fcsr.toNat / 32 else rm
  if m ≤ 4 then some m else none

/-! ## Integer operations -/

/-- An integer operation at a width. A quotient by zero is all ones and leaves the dividend as the remainder. -/
def rvAlu {w : Nat} (op : RvAlu) (a b : BitVec w) : BitVec w :=
  let sh := b.toNat % w
  match op with
  | .add => a + b
  | .sub => a - b
  | .sll => a <<< sh
  | .slt => if a.slt b then 1 else 0
  | .sltu => if a.ult b then 1 else 0
  | .xor => a ^^^ b
  | .srl => a >>> sh
  | .sra => a.sshiftRight sh
  | .or => a ||| b
  | .and => a &&& b
  | .mul => a * b
  | .mulh => BitVec.ofInt w (a.toInt * b.toInt / 2 ^ w)
  | .mulhsu => BitVec.ofInt w (a.toInt * b.toNat / 2 ^ w)
  | .mulhu => BitVec.ofNat w (a.toNat * b.toNat / 2 ^ w)
  | .div => if b = 0 then BitVec.allOnes w else a.sdiv b
  | .divu => if b = 0 then BitVec.allOnes w else a / b
  | .rem => if b = 0 then a else a.srem b
  | .remu => if b = 0 then a else a % b

/-- An operation on doublewords, or on words with its result extended by its sign. -/
def rvInteger (op : RvAlu) (word : Bool) (a b : Reg64) : Reg64 :=
  if word then (rvAlu op (a.setWidth 32) (b.setWidth 32)).signExtend 64 else rvAlu op a b

/-- Does a branch go? -/
def RvCond.holds (c : RvCond) (a b : Reg64) : Bool :=
  match c with
  | .eq => a == b
  | .ne => a != b
  | .lt => a.slt b
  | .ge => !a.slt b
  | .ltu => a.ult b
  | .geu => !a.ult b

/-- What an atomic operation leaves in memory, at a width. -/
def rvAtomicOp {w : Nat} (op : RvAmo) (old v : BitVec w) : BitVec w :=
  match op with
  | .swap => v
  | .add => old + v
  | .xor => old ^^^ v
  | .and => old &&& v
  | .or => old ||| v
  | .min => if v.slt old then v else old
  | .max => if old.slt v then v else old
  | .minu => if v.ult old then v else old
  | .maxu => if old.ult v then v else old

/-- Bytes of memory in an integer register: extended by their sign, or by zeros. -/
def rvExtend (signed : Bool) (l : List Byte) : Reg64 :=
  if signed then rvSext (8 * l.length) (leNat l) else BitVec.ofNat 64 (leNat l)

/-! ## Floating-point operations -/

/-- A floating-point operation of two sources in a mode: result and flags. -/
def rvFloat (op : RvFloat) (double : Bool) (m a b : Nat) : Nat × Nat :=
  let f := rvFmt double
  let x := f.value a
  let y := f.value b
  let signed (neg : Bool) : Nat × Nat := (a % f.sign + (if neg then f.sign else 0), 0)
  match op with
  | .add => f.addV m false x y
  | .sub => f.addV m false x y.negate
  | .mul => f.mul m false x y
  | .div => f.div m false x y
  | .sgnj => signed (b / f.sign == 1)
  | .sgnjn => signed (b / f.sign != 1)
  | .sgnjx => signed (a / f.sign != b / f.sign)
  | .min => f.minmax false false a b
  | .max => f.minmax false true a b

/-- A comparison: false for a NaN, which raises NV where it signals or where the comparison is one of order. -/
def rvCompare (op : RvCmp) (x y : FVal) : Bool × Nat :=
  let nan := x.isNan || y.isNan
  match op with
  | .eq => (x.eqV y, sigNV [x, y])
  | .lt => (x.ltV y, if nan then fNV else 0)
  | .le => (x.ltV y || x.eqV y, if nan then fNV else 0)

/-- The least and the greatest number of an integer format. -/
def RvInt.range : RvInt → Int × Int
  | .w => (-2 ^ 31, 2 ^ 31 - 1)
  | .wu => (0, 2 ^ 32 - 1)
  | .l => (-2 ^ 63, 2 ^ 63 - 1)
  | .lu => (0, 2 ^ 64 - 1)

/-- A float as an integer, rounded and clamped; a NaN gives the greatest. -/
def RvInt.ofFloat (i : RvInt) (m : Nat) : FVal → Int × Nat
  | .nan _ => (i.range.2, fNV)
  | v => v.toIntClamped m i.range.1 i.range.2

/-- An integer in a register: words extended by their sign, unsigned ones too. -/
def RvInt.put (i : RvInt) (v : Int) : Reg64 :=
  match i with
  | .w | .wu => (BitVec.ofInt 32 v).signExtend 64
  | .l | .lu => BitVec.ofInt 64 v

/-- A register's integer. -/
def RvInt.get (i : RvInt) (v : Reg64) : Int :=
  match i with
  | .w => (v.setWidth 32).toInt
  | .wu => (v.setWidth 32).toNat
  | .l => v.toInt
  | .lu => v.toNat

/-! ## What stops an instruction -/

/-- Exception numbers: of an instruction that is none, and of those that stop to call the operating system. -/
def rvIllegal : Nat := 2
/-- EBREAK. -/
def rvBreakpoint : Nat := 3
/-- ECALL in user mode. -/
def rvCall : Nat := 8
/-- A load-reserved at an address not of its size; any other misaligned load is made in bytes. -/
def rvLoadMisaligned : Nat := 4
/-- A store-conditional or an AMO at an address not of its size. -/
def rvStoreMisaligned : Nat := 6
/-- A fetch, load or store that the device's walkers refuse, as a page fault. -/
def rvFetchFault : Nat := 12
/-- Of a load. -/
def rvLoadFault : Nat := 13
/-- Of a store. -/
def rvStoreFault : Nat := 15

/-- What keeps an instruction from completing: an exception of some number, or a stack that is still coming up (R412). -/
inductive RvStop where
  | exception (n : Nat)
  | later
  deriving DecidableEq, Repr

/-! ## Memory -/

/-- The pieces of a system core's access by virtual address: the state with their leaves marked, and the keys of its bytes (R49). Table 2.8
has no row for a system core on a page with a format or compressed pages; here the access faults (the model's choice, log 102). -/
def State.sysReach (s : State) (asid : BitVec 16) (act : Access) (va : Reg64) (n : Nat) : Except NoAddr (State × List Nat) :=
  (piecesOf va 0 n).foldlM (fun (acc : State × List Nat) p => do
    let at' := (va + BitVec.ofNat 64 p.1).toNat
    match ← acc.1.xlate (poolAgent asid true) act at' with
    | (s, .plain k _) => pure (s.uses k p.2, acc.2 ++ upFrom k p.2)
    | _ => .error (.trap (xfault .permission 0 7 act at'))) (s, [])

/-- A byte of memory as the system die reads it (R128): published, which is as it stood before a running task stored to it, and what an
engine's command has written once that has completed (R124). -/
def State.sysByte (s : State) (a : Nat) : Byte := s.mem.pub.get a

/-- A thread's access (R395): in its ASID, a refusal being an exception of the number given. -/
def State.threadReach (s : State) (t : Thread) (act : Access) (fault : Nat) (va : Reg64) (n : Nat) : Except RvStop (State × List Nat) :=
  match s.sysReach t.asid act va n with
  | .ok r => .ok r
  | .error .later => .error .later
  | .error (.trap _) => .error (.exception fault)

/-- What a thread loads. -/
def State.threadLoad (s : State) (t : Thread) (va : Reg64) (n : Nat) : Except RvStop (State × List Byte) :=
  (s.threadReach t .load rvLoadFault va n).map (fun r => (r.1, r.2.map r.1.sysByte))

/-- What a thread stores: published as it performs (R128). -/
def State.threadStore (s : State) (t : Thread) (va : Reg64) (l : List Byte) : Except RvStop State :=
  (s.threadReach t .store rvStoreFault va l.length).map (fun r => r.1.putPubAll (r.2.zip l))

/-- Is an address one of `n` bytes' size? -/
def rvAligned (va : Reg64) (n : Nat) : Bool := va.toNat % n == 0

/-- LR: what it loads is reserved until a byte of it is published anew. -/
def State.loadReserved (s : State) (t : Thread) (n : Nat) (va : Reg64) : Except RvStop (State × Reg64) := do
  if !rvAligned va n then .error (.exception rvLoadMisaligned)
  let (s, keys) ← s.threadReach t .load rvLoadFault va n
  pure ({ s with mem := { s.mem with reserved := mins s.mem.reserved t.core (keys.headD 0, n) } }, rvExtend true (keys.map s.sysByte))

/-- SC: it stores where what it names stands reserved, and gives 0; else it gives 1. Nothing stays reserved. -/
def State.storeConditional (s : State) (t : Thread) (n : Nat) (va v : Reg64) : Except RvStop (State × Reg64) := do
  if !rvAligned va n then .error (.exception rvStoreMisaligned)
  let (u, keys) ← s.threadReach t .store rvStoreFault va n
  if mfind s.mem.reserved t.core = some (keys.headD 0, n) then
    pure ((u.putPubAll (keys.zip (leBytes n v.toNat))).unreserve t.core, 0)
  else pure (s.unreserve t.core, 1)

/-- AMO: one access that loads and stores. -/
def State.atomic (s : State) (t : Thread) (op : RvAmo) (n : Nat) (va v : Reg64) : Except RvStop (State × Reg64) := do
  if !rvAligned va n then .error (.exception rvStoreMisaligned)
  let (s, keys) ← s.threadReach t .store rvStoreFault va n
  let old := leNat (keys.map s.sysByte)
  let new := (rvAtomicOp op (BitVec.ofNat (8 * n) old) (BitVec.ofNat (8 * n) v.toNat)).toNat
  pure (s.putPubAll (keys.zip (leBytes n new)), rvSext (8 * n) old)

/-! ## Instructions -/

/-- A CSR of user mode: fflags, frm, fcsr. The counters are none of RV64GC's. -/
def Thread.csr (t : Thread) (n : Nat) : Option Reg64 :=
  let v := t.fcsr.setWidth 64
  match n with
  | 1 => some (v &&& 31)
  | 2 => some (v >>> 5)
  | 3 => some v
  | _ => none

/-- Writing a CSR of user mode. -/
def Thread.setCsr (t : Thread) (n : Nat) (v : Reg64) : Thread :=
  let b := v.setWidth 8
  match n with
  | 1 => { t with fcsr := (t.fcsr &&& 0xE0) ||| (b &&& 31) }
  | 2 => { t with fcsr := (t.fcsr &&& 31) ||| (b <<< 5) }
  | _ => { t with fcsr := b }

/-- A CSR instruction: the register takes what the CSR held. -/
def Thread.csrOp (t : Thread) (op : RvCsrOp) (n : Nat) (rd : Fld5) (v : Reg64) : Option Thread :=
  (t.csr n).map (fun old =>
    (t.setCsr n (match op with
      | .write => v
      | .set => old ||| v
      | .clear => old &&& ~~~v)).setX rd old)

/-- A floating-point instruction, none where its rounding mode is reserved; `t` stands behind it. -/
def Thread.floating (t : Thread) (i : RvInstr) : Option Thread :=
  match i with
  | .fma double negProduct negAddend rd a b c rm =>
    let f := rvFmt double
    let v (neg : Bool) (r : Fld5) : FVal := let x := f.value (t.operand double r); if neg then x.negate else x
    (t.rounding rm).map (fun m => t.putF double rd (f.fma m false (v negProduct a) (v false b) (v negAddend c)))
  | .float op double rd a b rm =>
    (t.rounding rm).map (fun m => t.putF double rd (rvFloat op double m (t.operand double a) (t.operand double b)))
  | .fsqrt double rd a rm => (t.rounding rm).map (fun m =>
    t.putF double rd ((rvFmt double).sqrt m false ((rvFmt double).value (t.operand double a))))
  | .fcmp op double rd a b =>
    let r := rvCompare op ((rvFmt double).value (t.operand double a)) ((rvFmt double).value (t.operand double b))
    some ((t.setX rd (if r.1 then 1 else 0)).raise r.2)
  | .fclass double rd a => some (t.setX rd (BitVec.ofNat 64 ((rvFmt double).classOf false (t.operand double a))))
  | .toInt double kind rd a rm => (t.rounding rm).map (fun m =>
      let r := kind.ofFloat m ((rvFmt double).value (t.operand double a))
      (t.setX rd (kind.put r.1)).raise r.2)
  | .ofInt double kind rd a rm => (t.rounding rm).map (fun m =>
    t.putF double rd ((rvFmt double).roundInt m false false (kind.get (t.getX a)) 0))
  | .widen rd a => some (t.putF true rd ((rvFmt true).roundV 0 false (f32.value (t.operand false a))))
  | .narrow rd a rm => (t.rounding rm).map (fun m => t.putF false rd (f32.roundV m false ((rvFmt true).value (t.operand true a))))
  | .moveToX double rd a => some (t.setX rd (if double then t.getF a else ((t.getF a).setWidth 32).signExtend 64))
  | .moveOfX double rd a => some (t.setF double rd (t.getX a).toNat)
  | _ => some t

/-- An instruction of `len` bytes at a thread's pc: the device's state and the thread behind it. -/
def State.threadExec (s : State) (t : Thread) (i : RvInstr) (len : Nat) : Except RvStop (State × Thread) :=
  let next := { t with pc := t.pc + BitVec.ofNat 64 len }
  let value (rd : Fld5) (r : State × Reg64) : State × Thread := (r.1, next.setX rd r.2)
  match i with
  | .lui rd imm => .ok (s, next.setX rd imm)
  | .auipc rd imm => .ok (s, next.setX rd (t.pc + imm))
  | .jal rd off => .ok (s, { next.setX rd next.pc with pc := t.pc + off })
  | .jalr rd rs1 off => .ok (s, { next.setX rd next.pc with pc := (t.getX rs1 + off) &&& ~~~1 })
  | .branch c rs1 rs2 off => .ok (s, if c.holds (t.getX rs1) (t.getX rs2) then { t with pc := t.pc + off } else next)
  | .load n signed rd rs1 off => (s.threadLoad t (t.getX rs1 + off) n).map (fun r => value rd (r.1, rvExtend signed r.2))
  | .loadF double rd rs1 off =>
    (s.threadLoad t (t.getX rs1 + off) (if double then 8 else 4)).map (fun r => (r.1, next.setF double rd (leNat r.2)))
  | .store n rs1 rs2 off => (s.threadStore t (t.getX rs1 + off) (leBytes n (t.getX rs2).toNat)).map (fun u => (u, next))
  | .storeF double rs1 rs2 off =>
    (s.threadStore t (t.getX rs1 + off) (leBytes (if double then 8 else 4) (t.getF rs2).toNat)).map (fun u => (u, next))
  | .alu op word rd rs1 b => .ok (s, next.setX rd (rvInteger op word (t.getX rs1) (t.src b)))
  | .fence => .ok (s, next)
  | .ecall => .error (.exception rvCall)
  | .ebreak => .error (.exception rvBreakpoint)
  | .csr op n rd b => match next.csrOp op n rd (t.src b) with
    | some u => .ok (s, u)
    | none => .error (.exception rvIllegal)
  | .lr n rd rs1 => (s.loadReserved t n (t.getX rs1)).map (value rd)
  | .sc n rd rs1 rs2 => (s.storeConditional t n (t.getX rs1) (t.getX rs2)).map (value rd)
  | .amo op n rd rs1 rs2 => (s.atomic t op n (t.getX rs1) (t.getX rs2)).map (value rd)
  | i => match next.floating i with
    | some u => .ok (s, u)
    | none => .error (.exception rvIllegal)

/-- A thread is as given. -/
def State.setThread (s : State) (t : Thread) : State :=
  { s with pool := { s.pool with threads := s.pool.threads.map (fun x => if x.core = t.core then t else x) } }

/-- The instruction at a thread's pc: its bits and its length. -/
def State.threadFetch (s : State) (t : Thread) : Except RvStop (State × Nat × Nat) := do
  let get (s : State) (va : Reg64) : Except RvStop (State × Nat) :=
    (s.threadReach t .fetch rvFetchFault va 2).map (fun r => (r.1, leNat (r.2.map r.1.sysByte)))
  let (s, low) ← get s t.pc
  if rvLong low then
    let (s, high) ← get s (t.pc + 2)
    pure (s, low + 2 ^ 16 * high, 4)
  else pure (s, low, 2)

/-- A thread runs the instruction at its pc. One that raises an exception leaves the thread before it: the operating system, which the
exception reaches, is none of the device's (log 88). -/
def State.threadStep (s : State) (t : Thread) : State :=
  let stopped (s : State) (n : Nat) : State := (s.unreserve t.core).setThread { t with cause := some n }
  match s.threadFetch t with
  | .error .later => s
  | .error (.exception n) => stopped s n
  | .ok (u, w, len) => match rvDecode w with
    | none => stopped u rvIllegal
    | some i => match u.threadExec t i len with
      | .ok (v, t) => v.setThread t
      | .error .later => s
      | .error (.exception n) => stopped u n

end Sys2Proof.Machine
end

