-- ==== Sys2Proof/Machine/EvHost.lean ====
section
/-! DEFINITION. What the system cores do: queue registers (R399, R400), the control commands of Table 23.3 (R401), memory
accesses (R128), endpoints' requests (R397). -/

namespace Sys2Proof.Machine

/-! ## Queue registers -/

/-- A ring of `n` records of `z` bytes at a base, aligned and within HBM4E outside the heel areas. -/
def ringOk (base align z n : Nat) : Bool := base % align == 0 && mappable base && mappable (base + z * n - 1)

/-- Record size of a queue's request ring (R338, R360, R401). -/
def recordSize (q : Nat) : Nat := if q < 2 then 64 else 32

/-- Does a register block enable (R399)? Queue 1 uses no status ring. -/
def queueSound (e : QueueEv) : Bool :=
  let n := 2 ^ e.log2n.toNat
  decide (4 ≤ e.log2n.toNat ∧ e.log2n.toNat ≤ 16) && !e.resv && decide (e.mode.toNat < 2) &&
    ringOk e.rbase.toNat 64 (recordSize e.q) n && (e.q == 1 || ringOk e.sbase.toNat 16 16 n)

/-- QUEUE_ENABLE (R399, R400): the block as the host wrote it, then EN = 1. An enabled queue ignores it; during a machine halt the
system cores, which write it, have stopped (R392). -/
def execQueueEnable (e : QueueEv) (s : State) : Host.Outcome State Fault Refusal :=
  .next (
    if 65 < e.q ∨ s.boot ≠ .running ∨ s.pod.halted ∨ (s.queue e.q).en then s
    else
      let s := s.modQueue e.q (fun k => { k with
        rbase := e.rbase.toNat, sbase := e.sbase.toNat, log2n := e.log2n.toNat, asid := e.asid, mode := e.mode, vmaj := e.vmaj, vmin :=
          e.vmin })
      if !queueSound e then s
      else if e.vmaj ≠ 1 then s.modQueue e.q (fun k => { k with vmaj := 0xFF })
      else
        let s := s.modQueue e.q (fun k => { k with en := true, vmin := 0 })
        if e.q = 1 then s.flushFaults s.faults.waiting.length else s)

/-- TAIL (R399): a write that goes back, or above ACCEPTED + 2^LOG2N, is ignored. Room in the fault ring is filled at once. During a
machine halt the system cores have stopped; the control queue's tail alone is then written, by the debug interface that asks for
the resumption (R392, log 89). -/
def execTail (e : TailEv) (s : State) : Host.Outcome State Fault Refusal :=
  .next (
    let k := s.queue e.q
    if 65 < e.q ∨ (s.pod.halted ∧ e.q ≠ 0) ∨ e.tail.toNat < k.tail ∨ k.accepted + 2 ^ k.log2n < e.tail.toNat then s
    else
      let s := s.modQueue e.q (fun k => { k with tail := e.tail.toNat })
      if e.q = 1 then s.flushFaults s.faults.waiting.length else s)

/-- A little-endian number with another byte at place `i`. -/
def setByte (v i : Nat) (b : Byte) : Nat := v - v / 256 ^ i % 256 * 256 ^ i + b.toNat * 256 ^ i

/-- First byte of the inbound windows' registers: the spec names no address (log 24). -/
def windowRegs : Nat := 0xF0_0002_0000

/-- REGISTER_WRITE: a byte of a register block that is not enabled (R399), or of an inbound window (R397): 32 bytes for each, base,
limit, write enable. Any other byte has no effect. -/
def execRegisterWrite (e : RegWriteEv) (s : State) : Host.Outcome State Fault Refusal :=
  .next (
    let o := e.addr - 0xF0_0000_0000
    let q := o / 64
    let i := o % 64
    if s.pod.halted ∨ e.addr < 0xF0_0000_0000 then s
    else if q ≤ 65 then
      if (s.queue q).en then s
      else if i < 8 then s.modQueue q (fun k => { k with rbase := setByte k.rbase i e.val })
      else if i < 16 then s.modQueue q (fun k => { k with sbase := setByte k.sbase (i - 8) e.val })
      else if i = 16 then s.modQueue q (fun k => { k with log2n := e.val.toNat })
      else if i = 18 ∨ i = 19 then s.modQueue q (fun k => { k with asid := BitVec.ofNat 16 (setByte k.asid.toNat (i - 18) e.val) })
      else if i = 20 then s.modQueue q (fun k => { k with mode := e.val })
      else if i = 21 then s.modQueue q (fun k => { k with vmaj := e.val })
      else if i = 22 then s.modQueue q (fun k => { k with vmin := e.val })
      else s
    else if windowRegs ≤ e.addr ∧ e.addr < windowRegs + 32 * 80 then
      let j := (e.addr - windowRegs) / 32
      let b := (e.addr - windowRegs) % 32
      let w := mget ⟨0, 0, false⟩ s.pod.windows j
      let w := if b < 8 then { w with base := setByte w.base b e.val }
        else if b < 16 then { w with limit := setByte w.limit (b - 8) e.val }
        else if b = 16 then { w with we := e.val.getLsbD 0 } else w
      { s with pod := { s.pod with windows := mput ⟨0, 0, false⟩ s.pod.windows j w } }
    else s)

/-! ## Control records (R401) -/

/-- A status record of the control queue. -/
def State.ctlStatus (s : State) (seq : Reg64) (status result : Nat) : State :=
  let k := s.queue 0
  let l := leBytes 8 seq.toNat ++ [BitVec.ofNat 8 status] ++ leBytes 7 result
  (s.physWrite k.statusSlot l).modQueue 0 (fun k => { k with statused := k.statused + 1 })

/-- Has the control queue a record to read? Not while the record's stack, or that of its status, is coming up (R412); one in a stack that
is gone is never read (the model's choice, log 113). -/
def State.ctlReady (s : State) : Bool :=
  let k := s.queue 0
  s.boot == .running && k.en && decide (k.accepted < k.tail) && s.memUp k.slot64 64 == some true && !s.statusLater 0

/-- The control record at the queue's head, as its ring stands published. -/
def State.ctlRecord (s : State) : List Byte :=
  let k := s.queue 0
  s.mem.pub.bytes k.slot64 64

/-- OPC of the record at the head. -/
def State.ctlOpc (s : State) : Nat := recField s.ctlRecord 0 2
/-- SEQ of the record at the head. -/
def State.ctlSeqOf (s : State) : Reg64 := BitVec.ofNat 64 (recField s.ctlRecord 8 8)

/-- Is an OPC one of Table 23.3? -/
def opcKnown (n : Nat) : Bool := decide (1 ≤ n ∧ n ≤ 16)

/-- Is the record at the head the one of a command (R401): its OPC, its SEQ, and a reserved byte set where bytes 2 to 7 are not zero?
Where the arguments stand among bytes 16 to 63 the spec does not say, so that they come with the command (log 90). -/
def State.offers (s : State) (opc : Nat) (c : Ctl) : Bool :=
  s.ctlReady && s.ctlOpc == opc && s.ctlSeqOf == c.seq && (c.resv || recField s.ctlRecord 2 6 == 0)

/-- A control record: SEQ, an OPC that Table 23.3 lacks and the reserved bytes, an action or function that its command does not have, then
the command, which gives its STATUS (none: the status record follows later). A command that answers a status other than 0 must have left
the state as it was. -/
def State.control (s : State) (opc : Nat) (c : Ctl) (body : State → State × Option Nat) : State :=
  if !s.ctlReady || (opcKnown s.ctlOpc && !s.offers opc c) then s
  else
    let known := opcKnown s.ctlOpc
    let seq := s.ctlSeqOf
    let s := (s.uses (s.queue 0).slot64 64).modQueue 0 (fun k => { k with accepted := k.accepted + 1 })
    if seq ≠ s.ctlSeq + 1 then s.ctlStatus seq 3 0
    else
      let s := { s with ctlSeq := seq }
      if !known || c.resv then s.ctlStatus seq 1 0
      else if c.unknown && (opc == 6 || opc == 9) then s.ctlStatus seq 2 0
      else match body s with
        | (s, some st) => s.ctlStatus seq st 0
        | (s, none) => s

/-- A command with one test: its effect with STATUS 0, or the status it is refused with. -/
def State.command (s : State) (opc : Nat) (c : Ctl) (refuse : State → Option Nat) (act : State → State) :
    Host.Outcome State Fault Refusal :=
  .next (s.control opc c (fun s => match refuse s with
    | some st => (s, some st)
    | none => (act s, some 0)))

/-! ## ASIDs (R30 to R32, R39) -/

/-- A range entry's bytes (Table 2.3). -/
def rangeOf (l : List Byte) : Range := ⟨recField l 0 8, recField l 8 8, recField l 16 8, BitVec.ofNat 64 (recField l 24 8)⟩

/-- Attribute bits that a range entry may set (R31). -/
def rangeAttrs : Reg64 := BitVec.ofNat 64 (0x3F + 0xF00 + 7 * 2 ^ 55)

/-- The limits of R32 on an entry with V = 1. -/
def Range.sound (r : Range) : Bool :=
  let fmt := attrFmt r.attr
  let geom := attrGeom r.attr
  r.base % 4096 == 0 && r.limit % 4096 == 0 && decide (r.base < r.limit ∧ r.limit ≤ Config.benchWindow) &&
    decide (r.offset < 2 ^ 52) && r.offset % (if fmt = 0 then 4096 else 64) == 0 && r.attr &&& ~~~rangeAttrs == 0 &&
    decide (fmt < 8 ∧ geom < 2) && !(fmt == 0 && geom != 0) && !(fmt != 0 && attrBit r.attr 5)

/-- A descriptor's bytes (Table 2.2): the ASID and the descriptor, none where R32 rejects it. A ROOT with bits 11:0 or 63:52 set is
rejected too: Table 2.2 makes it a 4 KiB-aligned physical address, R32's list does not name it, and this is the model's choice
(log 86). -/
def asidDesc (l : List Byte) : Option (Nat × AsidDesc) :=
  let root := recField l 0 8
  let ranges := (List.range 16).map (fun i => rangeOf ((l.drop (64 + 32 * i)).take 32))
  if root % 4096 ≠ 0 ∨ 2 ^ 52 ≤ root ∨ recField l 10 54 ≠ 0 ∨ recField l 576 448 ≠ 0 ∨
      ranges.any (fun r => attrBit r.attr 0 && !r.sound) then none
  else some (recField l 8 2, ⟨root, ranges⟩)

/-- Does a hand of an ASID still hold stores that a translation of some pages placed, and that have not performed (R39)? -/
def State.lingering (s : State) (asid : BitVec 16) (takes : Nat → Bool) : Bool :=
  s.allHands.any (fun h => h.asid == asid && h.strip.ssb.any (fun b => (b.page.map takes).getD false))

/-- Does a range of virtual addresses, or all of them, take a page in? -/
def invTakes (e : InvF) (page : Nat) : Bool :=
  e.whole || decide (e.base.toNat < 4096 * (page + 1) ∧ 4096 * page < e.limit.toNat)

/-- The descriptor at an address, none where ASID-LOAD refuses it; in a stack that is gone it is none (the model's choice, log 113). It is
read live: the spec does not say that it is read as a system core reads memory; this is the model's choice (log 86). -/
def State.descAt (s : State) (a : Nat) : Option (Nat × AsidDesc) :=
  if a % 1024 ≠ 0 ∨ s.memUp a 1024 ≠ some true then none else asidDesc (s.mem.live.bytes a 1024)

/-- ASID-LOAD. Translations cached under the old descriptor are dropped, once every store that they placed has performed (R39); it waits
while the descriptor's stack is coming up (R412). -/
def execAsidLoad (e : CtlArg) (s : State) : Host.Outcome State Fault Refusal :=
  if s.offers 1 e.c && e.v.toNat % 1024 == 0 && (s.memUp e.v.toNat 1024).isNone then .next s
  else if s.offers 1 e.c && ((s.descAt e.v.toNat).map (fun d => s.lingering (BitVec.ofNat 16 d.1) (fun _ => true))).getD false then .next s
  else .next (s.control 1 e.c (fun s => match s.descAt e.v.toNat with
    | none => (s, some 2)
    | some (a, d) => ({ s.uses e.v.toNat 1024 with asids := mins s.asids a d, cached := s.cached.filter (fun c => c.asid.toNat != a) },
      some 0)))

/-- INVALIDATE (R39): performed once no store that a dropped translation placed is still to be performed. -/
def execInvalidate (e : InvF) (s : State) : Host.Outcome State Fault Refusal :=
  if s.offers 2 e.c && s.lingering e.asid (invTakes e) then .next s
  else s.command 2 e.c (fun _ => if !e.whole && !decide (e.base.toNat < e.limit.toNat ∧ e.limit.toNat ≤ 2 ^ 57) then some 2 else none)
    (fun s => { s with cached := s.cached.filter (fun c => !(c.asid == e.asid && invTakes e c.page)) })

/-! ## Regions, objects, limits -/

/-- A region of HBM4E outside the heel areas, its base 64-byte aligned. -/
def regionOk (base size : Nat) : Bool :=
  base % 64 == 0 && mappable base && decide (base % Config.stackBytes + size ≤ Config.stackUsable)

/-- CTX-REGION: areas in use stay where they are. -/
def execCtxRegion (e : RegionF) (s : State) : Host.Outcome State Fault Refusal :=
  s.command 3 e.c (fun _ => if regionOk e.base.toNat e.size.toNat then none else some 2)
    (fun s =>
      let old := (mfind s.regions e.asid.toNat).map (·.areas)
      { s with regions := mins s.regions e.asid.toNat ⟨e.base.toNat, e.size.toNat, old.getD []⟩ })

/-- OBJ-OWNER (R324): the numbers that the objects give go on. -/
def execObjOwner (e : OwnerF) (s : State) : Host.Outcome State Fault Refusal :=
  let ids := upFrom e.first (e.last + 1 - e.first)
  s.command 4 e.c (fun s =>
      if e.last < e.first ∨ objectCount ≤ e.last then some 2
      else if s.seats.any (fun ko => decide (e.first ≤ ko.1 ∧ ko.1 ≤ e.last) && !ko.2.queue.isEmpty) then some 4 else none)
    (fun s => ids.foldl (fun (s : State) o => s.putObj o { s.seatObj o with asid := e.asid, queue := [] }) s)

/-- SET-FLIM (R351): field `a`, `b` mA. -/
def execSetFlim (e : Ctl2) (s : State) : Host.Outcome State Fault Refusal :=
  s.command 5 e.c (fun s =>
      let limit (f : Nat) : Nat := if f = e.a then e.b else (s.field f).flimNext.getD (s.field f).flim
      if 6 ≤ e.a ∨ e.b < 100000 ∨ 6000000 < (List.range 6).foldl (fun t f => t + limit f) 0 then some 2 else none)
    (fun s => s.modField e.a (fun f => { f with flimNext := some e.b }))

/-- SET-TIMEOUT: gang launch `a`, reduction `b`. -/
def execSetTimeout (e : Ctl2) (s : State) : Host.Outcome State Fault Refusal :=
  let ok (n : Nat) : Bool := decide (2 ^ 16 ≤ n ∧ n ≤ 2 ^ 40)
  s.command 7 e.c (fun _ => if ok e.a && ok e.b then none else some 2)
    (fun s => { s with pod := { s.pod with launchTimeout := e.a, reduceTimeout := e.b } })

/-! ## RESOLVE (R361, Table 18.3) -/

/-- The record of a SEQ that awaits an answer, and its suspended hand: one that still waits for room in the ring awaits none yet
(R399). -/
def State.awaiting (s : State) (seq : Nat) : Option (FaultRec × Hand) :=
  match s.faults.pending.find? (fun r => r.seq == seq && !s.faults.waiting.any (fun w => w.seq == seq)) with
  | none => none
  | some r => match s.allHands.find? (fun h => h.status == .suspended seq) with
    | none => none
    | some h => some (r, h)

/-- The record is answered. -/
def State.answered (s : State) (seq : Nat) : State :=
  { s with faults := { s.faults with pending := s.faults.pending.filter (fun r => r.seq != seq) } }

/-- A suspended hand goes on (R361); the frame in which it stopped is resumed as rett resumes one (R176). One whose request had landed
waits for its save again (Table 7.11). -/
def Hand.resumed (h : Hand) : Hand :=
  { h with
    status := match h.sched.landed with
      | some r => .waiting (.save r)
      | none => .running
    frame := h.frame.map (fun _ => h.frameAgain) }

/-- RESUME: refused for a record with FLAGS bit 0 clear. -/
def execResume (e : CtlArg) (s : State) : Host.Outcome State Fault Refusal :=
  .next (s.control 6 e.c (fun s => match s.awaiting e.v.toNat with
    | none => (s, some 4)
    | some (r, h) =>
      if r.flags % 2 = 0 then (s, some 4)
      else ((s.answered e.v.toNat).modHand h.id Hand.resumed, some 0)))

/-- FORWARD of a record to its hand, which is current: R358 of its values, or the record posted again. -/
def State.forward (s : State) (r : FaultRec) : State :=
  let h := s.hand
  if h.csr.tvec = 0 ∨ h.csr.hm then
    let s := s.post (fun n => { r with seq := n }) true
    { s with hand := { s.hand with status := .suspended s.faults.seq } }
  else s.inHand r.trap h.pc (decide (r.flags / 4 % 2 = 1))

/-- FORWARD. A WATCHDOG record that is not resumable can only be cancelled (R353). -/
def execForward (e : CtlArg) (s : State) : Host.Outcome State Fault Refusal :=
  .next (s.control 6 e.c (fun s => match s.awaiting e.v.toNat with
    | none => (s, some 4)
    | some (r, h) => if r.flags % 2 = 0 ∧ r.trap.cause = .watchdog then (s, some 4)
      else ((s.answered e.v.toNat).asHand h.id (fun s => s.forward r), some 0)))

/-- Cancelling the node that a task runs, or the task alone. -/
def State.cancelOf (s : State) (task : Nat) : State :=
  match s.pool.nodes.find? (fun n => n.state == .running && (n.task == task || n.taskB == task)) with
  | some n => s.cancelNode n
  | none => s.cancelTask task

/-- Does a node's completion word stand in a stack that is coming up, of the node that a task runs or of a submission's nodes (R412)? -/
def State.cancelLater (s : State) (which : Node → Bool) : Bool := s.pool.nodes.any (fun n => which n && s.doneLater n)

/-- CANCEL. -/
def execCancel (e : CtlArg) (s : State) : Host.Outcome State Fault Refusal :=
  if s.offers 6 e.c && s.cancelLater (fun n => ((s.awaiting e.v.toNat).map (fun rh => n.state == .running &&
      (n.task == rh.2.task || n.taskB == rh.2.task))).getD false) then .next s
  else .next (s.control 6 e.c (fun s => match s.awaiting e.v.toNat with
    | none => (s, some 4)
    | some (_, h) => ((s.answered e.v.toNat).cancelOf h.task, some 0)))

/-- CANCEL-GRAPH of submission `n`: a graph that waits for room is accepted, its status given, and cancelled with the rest. -/
def State.cancelGraph (s : State) (n : Nat) : State :=
  let s := match s.pool.graphs.find? (fun g => g.subno == n && g.status.isSome) with
    | none => s
    | some g => match g.origin with
      | .queue q => (s.postStatus q n 0 0).admitGraph g
      | .spawn id => (s.admitGraph g).modHand id (fun h => h.fillSpawn n (spawnStatus g (.ok g.nodes)))
  (s.pool.nodes.filter (fun m => m.subno == n)).foldl (fun (s : State) m => s.cancelNode m) s

/-- CANCEL-GRAPH (R354): it waits while a completion word, that of a node of a graph which waits for room too, stands in a stack that is
coming up (R412). -/
def execCancelGraph (e : CtlArg) (s : State) : Host.Outcome State Fault Refusal :=
  let n := e.v.toNat
  let all := ((s.pool.graphs.find? (fun g => g.subno == n && g.status.isSome)).map s.admitGraph).getD s
  if s.offers 8 e.c && all.cancelLater (fun m => m.subno == n) then .next s else
  s.command 8 e.c (fun s => if s.pool.nodes.any (fun m => m.subno == n) || s.pool.graphs.any (fun g => g.subno == n && g.status.isSome)
      then none else some 2)
    (fun s => s.cancelGraph n)

/-! ## DEBUG (R390, R392) -/

/-- Does a hand of the id live, and is the index one of four? -/
def State.debugOk (s : State) (hand idx : Nat) : Bool := decide (idx < 4) && ((s.handOf hand).map Hand.living).getD false

/-- A strip breakpoint. -/
def execStripBreakpoint (e : BreakF) (s : State) : Host.Outcome State Fault Refusal :=
  s.command 9 e.c (fun s => if s.debugOk e.hand e.idx then none else some 2)
    (fun s => s.modHand e.hand (fun h => { h with sched := { h.sched with breaks := mins h.sched.breaks e.idx ⟨e.addr, e.strip⟩ } }))

/-- A watchpoint. -/
def execWatchpoint (e : WatchF) (s : State) : Host.Outcome State Fault Refusal :=
  s.command 9 e.c (fun s => if s.debugOk e.hand e.idx then none else some 2)
    (fun s => s.modHand e.hand (fun h => { h with sched := { h.sched with
      watches := mins h.sched.watches e.idx ⟨e.base, e.size, e.onRead, e.onWrite, none⟩ } }))

/-- Machine halt of the task whose TASKID is given. -/
def execMachineHalt (e : CtlArg) (s : State) : Host.Outcome State Fault Refusal :=
  s.command 9 e.c (fun s => if s.tasks.any (fun t => t.taskid == e.v) then none else some 2)
    (fun s =>
      let s := s.mapHands (fun h => if h.taskid = e.v ∧ h.living then { h with sched := { h.sched with stopWanted := true } } else h)
      { s with pod := { s.pod with halted := true, haltedTask := e.v } })

/-- Machine resume: the buffered writes, in arrival order, once no stack that they go to is coming up (R412), then the hands that the halt
stopped. -/
def execMachineResume (e : CtlArg) (s : State) : Host.Outcome State Fault Refusal :=
  if s.offers 9 e.c && s.pod.inbound.any (fun w => s.memUp w.1 w.2.length == none) then .next s else
  s.command 9 e.c (fun _ => none)
    (fun s =>
      let s := s.pod.inbound.foldl (fun (s : State) w => s.physWrite w.1 w.2) s
      let s := { s with pod := { s.pod with halted := false, haltedTask := 0, inbound := [] } }
      s.mapHands (fun h => if !h.sched.stopWanted then h else { h with
        status := if h.status = .stopped ∨ h.status = .waiting .stop then .running else h.status
        sched := { h.sched with stopWanted := false } }))

/-- DUDEL-REGION: taken up at the next reset. -/
def execDudelRegion (e : RegionF) (s : State) : Host.Outcome State Fault Refusal :=
  s.command 10 e.c (fun _ => if regionOk e.base.toNat e.size.toNat then none else some 2)
    (fun s => { s with dudel := { s.dudel with next := some (e.base.toNat, e.size.toNat) } })

/-! ## The pod -/

/-- GANG-SET. -/
def execGangSet (e : GangF) (s : State) : Host.Outcome State Fault Refusal :=
  s.command 11 e.c (fun _ => if e.queue < 2 ∨ 65 < e.queue ∨ e.devices.any (fun d => decide (511 < d)) then some 2 else none)
    (fun s => s.modQueue e.queue (fun k => { k with gang := e.devices }))

/-- DEVICE-NUMBER. -/
def execDeviceNumber (e : CtlArg) (s : State) : Host.Outcome State Fault Refusal :=
  s.command 12 e.c (fun s => if s.firstUp then some 4 else if 511 < e.v.toNat then some 2 else none)
    (fun s => { s with pod := { s.pod with devNumber := some e.v.toNat } })

/-- REDUCE (R407). -/
def execReduce (e : ReduceF) (s : State) : Host.Outcome State Fault Refusal :=
  s.command 13 e.c (fun _ => if 4095 < e.group ∨ !mappable e.src.toNat ∨ (e.dst ≠ 0 ∧ !mappable e.dst.toNat) ∨ !mappable e.cw.toNat
      then some 2 else none)
    (fun s => { s with pod := { s.pod with switchOps := s.pod.switchOps ++
      [⟨false, e.group, e.member, e.c.seq, e.src.toNat, 0, e.dst.toNat, e.cw.toNat⟩] } })

/-- MCAST (R408): its status record, which names the negative members, follows the acknowledgement. -/
def execMcast (e : McastF) (s : State) : Host.Outcome State Fault Refusal :=
  .next (s.control 14 e.c (fun s =>
    if 4095 < e.group ∨ 2 ^ 26 < e.size ∨ !mappable e.src.toNat ∨ !mappable e.cw.toNat then (s, some 2)
    else ({ s with pod := { s.pod with switchOps := s.pod.switchOps ++
      [⟨true, e.group, 0, e.c.seq, e.src.toNat, e.size, e.dstOff.toNat, e.cw.toNat⟩] } }, none)))

/-! ## ATTEST, TILE-RESET -/

/-- The seed of the identity key (R403): SHA3-256 of the fused secret and M0. -/
def State.identitySeed (s : State) : BitVec 256 := sha3Num (Config.fusedSecret ++ leBytes 32 (s.measured.toArray.getD 0 0).toNat)

/-- The public identity key, and the second signature that certifies it, by a key of the fused secret alone (R403). -/
def State.identityKey (s : State) : List Byte × List Byte :=
  let k := Config.mldsaPublic s.identitySeed
  (k, Config.mldsaSign (Config.certifierSeed Config.fusedSecret) (sha3Num k))

/-- What an attestation signs (R403): nonce, measurements, serial, security version, the versions of R400's six interfaces. -/
def State.attestBody (s : State) (nonce : BitVec 256) : List Byte :=
  leBytes 32 nonce.toNat ++ (s.measured.toList.map (fun m => leBytes 32 m.toNat)).flatten ++
    leBytes 8 Config.deviceSerial.toNat ++ leBytes 4 Config.fusedVersion.toNat ++ (List.replicate 6 [(0 : Byte), 1]).flatten

/-- ATTEST: the record, with the identity key's signature over its digest. It waits while the record's stack is coming up (R412); one that
would stand in a stack that is gone is refused (the model's choice, log 113). -/
def execAttest (e : AttestF) (s : State) : Host.Outcome State Fault Refusal :=
  let n := (s.attestBody e.nonce).length + 2420
  if s.offers 15 e.c && (s.memUp e.addr.toNat n).isNone then .next s
  else s.command 15 e.c (fun s => if s.memUp e.addr.toNat n = some true then none else some 2)
    (fun s =>
      let b := s.attestBody e.nonce
      s.putPubAll (atAddr e.addr.toNat (b ++ (Config.mldsaSign s.identitySeed (sha3Num b)).take 2420)))

/-- TILE-RESET (R70): core `a`, mask `b`. It waits for engine reads under way. -/
def execTileReset (e : Ctl2) (s : State) : Host.Outcome State Fault Refusal :=
  let named := (List.range 64).filter (fun t => e.b.testBit t)
  if s.offers 16 e.c && named.any (fun t => s.engineReads e.a t) then .next s
  else s.command 16 e.c (fun _ => if Config.coreCount ≤ e.a ∨ 2 ^ 64 ≤ e.b then some 2 else none)
    (fun s => named.foldl (fun (s : State) t => s.modTile e.a t (fun k => { k with state := 0, gen := (k.gen + 1) % 8 })) s)

/-! ## Accesses from the system die -/

/-- Bytes of memory as the system die reads them. -/
def State.sysBytes (s : State) (a n : Nat) : List Byte := (upFrom a n).map s.sysByte

/-- A queue's register block (Table 23.2). -/
def Queue.block (k : Queue) : List Byte :=
  leBytes 8 k.rbase ++ leBytes 8 k.sbase ++ leBytes 1 k.log2n ++ [if k.en then 1 else 0] ++ leBytes 2 k.asid.toNat ++
    [k.mode, k.vmaj, k.vmin, 0] ++ leBytes 8 k.tail ++ leBytes 8 k.accepted ++ leBytes 8 k.statused ++ List.replicate 16 0

/-- A field's power register (Table 23.4). -/
def Field.power (f : Field) : Nat :=
  f.active * 2 ^ 24 + f.stk.toNat * 2 ^ 22 + (if f.spqv then 2 ^ 21 else 0) + f.spq * 2 ^ 18 + f.state

/-- An inbound window's registers (log 24). -/
def Window.block (w : Window) : List Byte :=
  leBytes 8 w.base ++ leBytes 8 w.limit ++ [if w.we then 1 else 0] ++ List.replicate 15 0

/-- A byte of the register space above HBM4E (Table 23.1): queue registers, field power registers, inbound windows; zero elsewhere. -/
def State.registerByte (s : State) (a : Nat) : Byte :=
  let o := a - 0xF0_0000_0000
  if o < 64 * 66 then ((s.queue (o / 64)).block).getD (o % 64) 0
  else if 0x1_0000 ≤ o ∧ o < 0x1_0180 then (leBytes 64 (s.field ((o - 0x1_0000) / 64)).power).getD (o % 64) 0
  else if windowRegs ≤ a ∧ a < windowRegs + 32 * 80 then
    ((mget ⟨0, 0, false⟩ s.pod.windows ((a - windowRegs) / 32)).block).getD ((a - windowRegs) % 32) 0
  else 0

/-- What a system core reads at a physical address (Table 23.1): memory, registers, or what an endpoint answers in a root port's window;
none where nothing answers. -/
def State.physRead (s : State) (a n : Nat) (answer : List Byte) : Option (List Byte) :=
  if s.memUp a n = some true then some (s.sysBytes a n)
  else if 0xF0_0000_0000 ≤ a ∧ a + n ≤ 0xF1_0000_0000 then some ((upFrom a n).map s.registerByte)
  else if 0xF1_0000_0000 ≤ a ∧ a + n ≤ 0xFB_0000_0000 then some (answer.take n)
  else none

/-- What an RV64GC load puts into its register: an integer extended by its sign or by zeros, a narrow float boxed by ones. -/
def sysLoadValue (e : SysAccF) (l : List Byte) : Reg64 :=
  let w := 8 * l.length
  let v := leNat l
  BitVec.ofNat 64 (if 64 ≤ w then v else if e.float || (e.signed && v.testBit (w - 1)) then v + (2 ^ 64 - 2 ^ w) else v)

/-- What a system core's load or fetch returned reaches the core. What the operating system loads on the core of a thread, on the thread's
behalf, fills the register that the load names (R395, log 88). -/
def State.sysGet (s : State) (e : SysAccF) (l : List Byte) : State :=
  let fill (t : Thread) : Thread :=
    if t.core ≠ e.core ∨ e.fetch then t
    else if e.float then { t with f := t.f.set e.reg.toNat (sysLoadValue e l) e.reg.isLt }
    else t.setX e.reg (sysLoadValue e l)
  { s with
    pod := { s.pod with sysLoaded := mins s.pod.sysLoaded e.core l }
    pool := { s.pool with threads := s.pool.threads.map fill } }

/-- A fetch on the core of a thread (R395): the thread runs the instruction at its pc, where the fetch is; one that an exception has stopped
goes on where the operating system sends it (log 88). A thread that is over fetches nothing. -/
def State.threadFetches (s : State) (t : Thread) (va : Reg64) : State :=
  if t.pc ≠ va ∧ t.cause.isNone then s
  else
    let t := { t with pc := va, cause := none }
    if t.ended then s.setThread t else s.threadStep t

/-- The thread that a system core's access is an instruction of, if it is one. -/
def State.fetchingThread (s : State) (e : SysAccF) : Option Thread :=
  if e.fetch && e.data.isNone then s.pool.threads.find? (fun t => t.core == e.core) else none

/-- SYSTEM_CORE_ACCESS (R128): a store is published as it performs; a load or fetch returns what the system die sees. A core that runs a
class 1 node's thread reaches memory in the node's ASID alone, and a fetch there runs the thread's instruction (R395). An access that
faults has no effect on the device. -/
def execSystemCoreAccess (e : SysAccF) (s : State) : Host.Outcome State Fault Refusal :=
  .next (
    if 32 ≤ e.core ∨ s.pod.halted ∨ s.boot ≠ .running ∨ s.pool.threads.any (fun t => t.core == e.core && e.asid != some t.asid) then s
    else if let some t := s.fetchingThread e then s.threadFetches t e.addr
    else match e.asid, e.data with
      | none, some l => s.physWrite e.addr.toNat l
      | none, none => ((s.physRead e.addr.toNat e.len e.answer).map ((s.uses e.addr.toNat e.len).sysGet e)).getD s
      | some a, some l =>
        ((s.sysReach a .store e.addr l.length).toOption.map (fun r => r.1.putPubAll (r.2.zip l))).getD s
      | some a, none =>
        ((s.sysReach a (if e.fetch then .fetch else .load) e.addr e.len).toOption.map (fun r => r.1.sysGet e (r.2.map r.1.sysByte))).getD s)

/-- Does an inbound window of the port take the request (R397)? -/
def State.windowFor (s : State) (port a n : Nat) (write : Bool) : Bool :=
  s.pod.windows.any (fun kw => kw.1 / 8 == port && decide (kw.2.base ≤ a ∧ a + n ≤ kw.2.limit) && (!write || kw.2.we))

/-- How the last request on a root port completed. -/
def State.answer (s : State) (port : Nat) (c : Completion) : State :=
  { s with pod := { s.pod with answers := mins s.pod.answers port c } }

/-- An endpoint's write (R397, R392): published, or buffered during a machine halt while the buffer has room. -/
def State.inboundWrite (s : State) (e : InboundF) (l : List Byte) : State :=
  let full := decide (Config.haltBuffer < s.pod.inbound.foldl (fun t w => t + w.2.length) 0 + l.length)
  if s.pod.halted && full then s
  else match s.arrives e.port l.length e.addr with
    | none => s
    | some s =>
      if s.pod.halted then ({ s with pod := { s.pod with inbound := s.pod.inbound ++ [(e.addr, l)] } }).answer e.port .written
      else (s.physWrite e.addr l).answer e.port .written

/-- INBOUND_REQUEST (R397): a read returns published bytes, during a machine halt too, which holds inbound writes alone (R392, R398).
Outside every window, and where no memory serves the address (log 103), it is an Unsupported Request; while a stack is coming up it waits
(R412). -/
def execInboundRequest (e : InboundF) (s : State) : Host.Outcome State Fault Refusal :=
  .next (
    let n := (e.data.map List.length).getD e.len
    if 10 ≤ e.port ∨ s.boot ≠ .running then s
    else if !s.windowFor e.port e.addr n e.data.isSome || s.memUp e.addr n == some false then s.answer e.port .unsupported
    else if s.memUp e.addr n == none then s
    else match e.data with
      | none => (s.uses e.addr n).answer e.port (.data (s.sysBytes e.addr n))
      | some l => s.inboundWrite e l)

/-- A value that a system core draws (R393): recorded, and returned to the core. In replay the log gives it instead (R394). -/
def State.drawEntropy (s : State) (core : Nat) (value : List Byte) : State :=
  if s.dudel.replay ∨ s.pod.halted ∨ 32 ≤ core then s
  else
    let n := s.freeCtr
    let s := ({ s with freeCtr := n + 1 }).record ⟨2, BitVec.ofNat 16 (0x8000 + core), Config.freeCycles n, value.take 21⟩
    { s with pod := { s.pod with sysLoaded := mins s.pod.sysLoaded core (value.take 21) } }

end Sys2Proof.Machine
end

