-- ==== Sys2Proof/Machine/EvReliab.lean ====
section
/-! DEFINITION. Reset and bring-up (R402, R410 to R413), power windows (R349), failing banks, slices, stacks, clusters, cores, quads and
fields (R56, R64, R65, R381 to R383). -/

namespace Sys2Proof.Machine

/-! ## Power (R349, R351) -/

/-- A field at the end of a window in which it drew `d`: Table 17.5, then the limit that the next window has. -/
def Field.window (f : Field) (d : Nat) : Field :=
  let low := if d * 100 < 85 * f.flim then Nat.min 8 (f.lowWindows + 1) else 0
  let active := if 95 * f.flim < d * 100 ∧ 4 < f.active then f.active - 4
    else if low = 8 ∧ f.active < 16 then f.active + 4 else f.active
  { f with
    fdraw := d, lowWindows := low, active := active
    throttle := if d ≤ f.flim then false else if f.active = 4 then true else f.throttle
    recentOlder := f.recentOld, recentOld := f.recentNow, recentNow := []
    flim := f.flimNext.getD f.flim, flimNext := none }

/-- POWER_WINDOW: a field counts its windows while it is online. Jobs and commands that its throttle holds count as stall (R349). -/
def execPowerWindow (e : WinEv) (s : State) : Host.Outcome State Fault Refusal :=
  .next (
    if 6 ≤ e.field ∨ (s.field e.field).state ≠ 5 then s
    else
      let s := s.modField e.field (fun f => f.window e.draw.toNat)
      s.mapHands (fun h => if h.living then h.stalled (s.throttled h) else h))

/-! ## What a lost unit takes with it -/

/-- Nodes whose tiles are being filled on cores of a kind wait again to be placed. Table 3.3 has no such event: here the node's tiles are
EMPTY on all its cores, with GEN as it was (the model's choice, log 104). -/
def State.unplace (s : State) (which : Nat → Bool) : State :=
  s.pool.nodes.foldl (fun (s : State) n => match n.state with
    | .filling cs _ =>
      if cs.any which then (s.emptyTiles n cs).setNode { n with state := .ready, cores := [], coresB := [] } else s
    | _ => s) s

/-- Dropping the link tags and pins of lines (R58, R59). -/
def State.dropTags (s : State) (which : Nat → Bool) : State :=
  (s.mem.tags.filter (fun kt => which kt.1)).foldl (fun (s : State) kt => s.clearTag kt.1) s

/-- Removing the contents of memory at keys, and the performed writes that gave them. -/
def State.forgetBytes (s : State) (which : Nat → Bool) : State :=
  { s with
    tasks := s.tasks.map (fun t => { t with log := t.log.filter (fun w => !(w.perf != 0 && which w.key)) })
    mem := { s.mem with
      live := s.mem.live.filter (fun c => !which c.1), pub := s.mem.pub.filter (fun c => !which c.1)
      notes := s.mem.notes.filter (fun k => !which k.1), bad := s.mem.bad.filter (fun k => !which k.1) } }

/-- An entry of the pool as its copy in f1 gives it back (R413): a fill that has ended since is not awaited again, and what the gang has
said meanwhile stands (log 105). -/
def Node.restored (s : State) (m : Node) : Node :=
  let m := match m.state with
    | .filling cs l => { m with state := .filling cs (l.filter (fun ct => (s.copyOf (fillHand ct.1) ct.2).isSome)) }
    | _ => m
  match s.nodeOf m.nseq with
  | none => m
  | some n => { m with heard := n.heard, gangOpen := n.gangOpen, gangOver := n.gangOver, state := if n.state = .done then .done
    else m.state }

/-- With f0 lost, the pool goes on from its copy in f1, and the SC ticket counter 2^32 above (R413). -/
def State.switchToF1 (s : State) : State :=
  { s with
    pool := { s.pool with nodes := s.poolCopy.map (Node.restored s) }
    mem := { s.mem with ticket := s.mem.ticket + 2 ^ 32, ticketInF1 := true } }

/-- The trap that a hand takes when the hardware it runs on is gone. -/
def lostTrap : Trap := Trap.mk' .uncorrectable 0

/-- A field lost in service (R412, R413): no stack of it is online, FIELD-LOST, its hands take UNCORRECTABLE, its seats and cached links
are gone; with f0 the pool's copy in f1 takes over, and tickets go on 2^32 above. -/
def State.loseField (s : State) (f : Nat) : State :=
  let s := if f = 0 ∧ !s.mem.ticketInF1 then s.switchToF1 else s
  let s := s.modField f (fun k => { k with state := 6, stk := 0 })
  let s := s.postEvent .fieldLost (BitVec.ofNat 64 f) 0 0 0
  let s := s.mapHands (fun h => if fieldOfCore h.core = f ∧ h.living ∧ h.status ≠ .saved then
    { h with sched := { h.sched with unrecoverable := some lostTrap } } else h)
  let s := s.dropTags (fun l => homeField (l * 128) == f)
  let s := s.unplace (fun c => fieldOfCore c == f)
  (s.seats.filter (fun ko => ko.1 / objectsPerField == f)).foldl (fun (s : State) ko => s.putObj ko.1 { ko.2 with queue := [] }) s

/-- FIELD_LOST. -/
def execFieldLost (e : Nat) (s : State) : Host.Outcome State Fault Refusal :=
  .next (if 6 ≤ e ∨ (s.field e).state ≠ 5 then s else s.loseField e)

/-- Adjacent fields (R57). -/
def adjacent (a b : Nat) : Bool :=
  decide (a < 6 ∧ b < 6) && ((a / 3 == b / 3 && (a + 1 == b || b + 1 == a)) || a + 3 == b || b + 3 == a)

/-- CROSSING_LOST (R410): the later field goes offline. -/
def execCrossingLost (e : PairEv) (s : State) : Host.Outcome State Fault Refusal :=
  .next (
    let f := Nat.max e.a e.b
    if !adjacent e.a e.b ∨ (s.field f).state ≠ 5 ∨ (s.field (Nat.min e.a e.b)).state ≠ 5 then s
    else (s.postEvent .crossingLost (BitVec.ofNat 64 f) 0 0 0).loseField f)

/-- STACK_OFFLINE (R56): the stack's contents, links and heel images are lost. Which images those are the spec does not say: here
those of the stack's lines; the images of every other line stay, wherever the heel area holds them (the model's choice, log 87). -/
def execStackOffline (e : Nat) (s : State) : Host.Outcome State Fault Refusal :=
  .next (
    let f := s.field (e / 2)
    if 12 ≤ e ∨ f.state ≠ 5 ∨ !f.stk.getLsbD (e % 2) then s
    else
      let mine (k : Nat) : Bool := k / Config.stackBytes == e
      let s := s.modField (e / 2) (fun f => { f with stk := f.stk &&& ~~~(BitVec.ofNat 2 (2 ^ (e % 2))) })
      let s := (s.dropTags (fun l => mine (l * 128))).forgetBytes mine
      let s := { s with mem := { s.mem with heel := s.mem.heel.filter (fun i => !mine (i.line * 128)) } }
      s.postEvent .stackOffline (BitVec.ofNat 64 e) 0 0 0)

/-! ## Banks, slices, clusters, cores, quads -/

/-- Is a line held in a slice of a field's cache (R65), its own or a retired one's that the slice holds now? -/
def State.heldIn (s : State) (f sl line : Nat) : Bool := homeField (line * 128) == f && (s.cacheSet line).1 == sl

/-- The records of step 2 of R65: each line of a slice whose cached data cannot be decoded, with its bank. -/
def State.reportLines (s : State) (f sl : Nat) : State :=
  let lost := s.mem.bad.filter (fun k => k.2.1 == 2 && s.heldIn f sl (k.1 / 128))
  (distinct (lost.map (·.1 / 128))).foldl (fun (s : State) line =>
    let bank := ((lost.find? (fun k => k.1 / 128 == line)).map (·.2.2)).getD 0
    (s.postEvent .uncorrectable (BitVec.ofNat 64 (128 * line)) bank 2 0).modField f
      (fun k => { k with uncorrectable := k.uncorrectable + 1 })) s

/-- A slice retires (R65): lines that cannot be decoded are reported, the links of all that it holds break, a record names it; a
field without slices is lost. -/
def State.retireSlice (s : State) (f sl : Nat) : State :=
  let held := s.heldIn f sl
  let s := (s.reportLines f sl).dropTags held
  let s := s.modField f (fun k => { k with slicesOut := addOnce k.slicesOut sl })
  let s := s.postEvent .cacheSliceRetired (BitVec.ofNat 64 f) sl 0 0
  if (s.field f).slicesOut.length = 16 then s.loseField f else s

/-- BANK_FAIL (R64): the bank is failed from now on; a slice's second one retires the slice. -/
def execBankFail (e : BankEv) (s : State) : Host.Outcome State Fault Refusal :=
  .next (
    if 32 ≤ e.bank then s
    else if e.kind < 4 ∧ e.unit < Config.coreCount then
      s.modCore e.unit (fun c => if c.badBanks.contains (e.kind, e.bank) then c else { c with badBanks := c.badBanks ++ [(e.kind,
        e.bank)] })
    else if e.kind = 4 ∧ e.unit < 96 then
      let f := e.unit / 16
      let sl := e.unit % 16
      let k := s.field f
      if k.badSlices.contains (sl, e.bank) || k.slicesOut.contains sl then s
      else
        let s := s.modField f (fun k => { k with badSlices := k.badSlices ++ [(sl, e.bank)] })
        if 2 ≤ ((s.field f).badSlices.filter (fun b => b.1 == sl)).length then s.retireSlice f sl else s
    else s)

/-- The stripes of a core's bench that no longer decode (R63). -/
def State.badStripes (s : State) (c : Nat) : List Nat :=
  distinct ((s.mem.bad.filter (fun k => isBench k.1 && (k.1 - Config.benchKey 0 0) / 0x80_0000 == c)).map (fun k => placeOf k.1 / 30))

/-- PATROL_SCRUB (R64): every stripe of core `e`'s bench is read and what can be corrected is, which shows in no value. A stripe that no
longer decodes is an uncorrectable read and stays so; with a bank failed, every other one is rebuilt. -/
def execPatrolScrub (e : Nat) (s : State) : Host.Outcome State Fault Refusal :=
  .next (
    if Config.coreCount ≤ e then s
    else
      let n := (s.badStripes e).length
      let failed := (s.core e).badBanks.any (fun b => b.1 == 0)
      s.modCore e (fun c => { c with
        uncorrectable := c.uncorrectable + n
        rebuilds := c.rebuilds + if failed then Config.benchHole / 30 - n else 0 }))

/-- Does a hand run on a quad (counted over the device)? -/
def State.quadBusy (s : State) (q : Nat) : Bool := s.allHands.any (fun h => h.living && h.status != .saved && h.core / 4 == q)

/-- Steps 1 and 2 of R383: nothing more is placed on the quad, its hands are asked to give way. -/
def State.vacateQuad (s : State) (q : Nat) : State :=
  let s := s.modField (q / 6) (fun f => { f with excludedQuads := addOnce f.excludedQuads q })
  let s := s.unplace (fun c => c / 4 == q)
  s.mapHands (fun h => if h.core / 4 = q ∧ h.living ∧ h.status ≠ .saved then { h with sched := { h.sched with preempt := true } } else h)

/-- Steps 3 and 4 of R383, once no hand runs there: the spare takes the logical ids over, with nothing in its tiles and benches, or
the ids go offline; the record names the quad that retires, 6 for the spare. A spare that has retired itself serves no quad any more
(Table 23.4), and takes over no other. -/
def State.retireQuad (s : State) (q : Nat) : State :=
  let f := q / 6
  let k := s.field f
  let cores := upFrom (4 * q) 4
  let onSpare := k.spqv && k.spq == q % 6
  let s := s.forgetBytes (fun key => isBench key && (key - Config.benchKey 0 0) / 0x80_0000 / 4 == q)
  let s := if k.spqv || k.spareOut then
      let s := cores.foldl (fun (s : State) c => s.modCore c (fun _ => { Core.atReset with offline := true })) s
      if onSpare then s.modField f (fun k => { k with spqv := false, spq := 0, spareOut := true }) else s
    else
      let s := cores.foldl (fun (s : State) c => s.modCore c (fun _ => Core.atReset)) s
      s.modField f (fun k => { k with spqv := true, spq := q % 6, excludedQuads := k.excludedQuads.filter (· != q) })
  s.postEvent .quadRetired (BitVec.ofNat 64 f) (if onSpare then 6 else q % 6) 0 0

/-- CORE_RETIRE (R382, R383) of core `e`: it starts when the core has 8 residue mismatches or two failed banks, or its quad is already
being vacated; it ends once no hand runs on the quad. -/
def execCoreRetire (e : Nat) (s : State) : Host.Outcome State Fault Refusal :=
  .next (
    let c := s.core e
    let q := e / 4
    if Config.coreCount ≤ e ∨ c.offline then s
    else if (s.field (q / 6)).excludedQuads.contains q then (if s.quadBusy q then s else s.retireQuad q)
    else if 8 ≤ c.residues ∨ 2 ≤ c.badBanks.length then s.vacateQuad q
    else s)

/-- CLUSTER_MISMATCH_LIMIT (R381): cluster `b` of core `a` is marked for the next opening; a second one, with the spare taken, retires
the core. -/
def execClusterMismatchLimit (e : PairEv) (s : State) : Host.Outcome State Fault Refusal :=
  .next (
    let c := s.core e.a
    if Config.coreCount ≤ e.a ∨ mget 0 c.clusters e.b < 4 ∨ c.retiring.contains e.b ∨ (c.spv ∧ c.spared = e.b) then s
    else if c.spv || !c.retiring.isEmpty then s.vacateQuad (e.a / 4)
    else s.modCore e.a (fun c => { c with retiring := [e.b] }))

/-! ## Reset (R402) -/

/-- The measurement registers after the stages of a boot: stage i in register i (mod 8). -/
def measure (ds : List (BitVec 256)) : Vector (BitVec 256) 8 :=
  ds.zipIdx.foldl (fun m (d, i) => m.setIfInBounds (i % 8) (sha3Num (leBytes 32 (m.toArray.getD (i % 8) 0).toNat ++ leBytes 32 d.toNat)))
    (Vector.replicate 8 0)

/-- Dudel at reset (R393, R394): the region assigned before takes effect; a log to replay is kept. -/
def Dudel.restart (d : Dudel) (record replay : Bool) : Dudel where
  on := record && !replay
  replay := replay
  region := match d.next with
    | some r => some r
    | none => d.region
  next := none
  log := if replay then d.log else []
  truncated := false
  pos := 0
  done := 0

/-- The boot image against entry 1 of a log (R394). -/
def Dudel.bootAgrees (d : Dudel) (digest : BitVec 256) : Bool :=
  match d.log.find? (fun e => e.kind == 1) with
  | none => true
  | some e => e.payload.take 21 == (leBytes 32 digest.toNat).take 21

/-- What is signed and measured of an image: SHA3-256 of its header and body (R402). -/
def imageDigest (i : Image) : BitVec 256 := sha3Num (i.header ++ i.body)

/-- Does an image pass the checks of R402 that every stage has, under a key? -/
def imageOk (key : List Byte) (i : Image) : Bool :=
  i.signature.length == 2420 && Config.mldsaVerify key (imageDigest i) i.signature && decide (Config.fusedVersion.toNat ≤ i.version)

/-- The later stages that are accepted, each under the key that the image before it carries, up to the first that is not (R402, log 92). -/
def laterStages (key : List Byte) : List Image → List Image
  | [] => []
  | i :: l => if imageOk key i then i :: laterStages i.key l else []

/-- Does the boot ROM accept the first stage, against the fused digest? -/
def firstOk (i : Image) : Bool := i.key.length == 1312 && sha3Num i.key == Config.fusedKeyDigest && imageOk i.key i

/-- The stages that are accepted, and so measured and run. -/
def bootStages : List Image → List Image
  | [] => []
  | i :: l => if firstOk i then i :: laterStages i.key l else []

/-- The device as the boot ROM leaves it. A first stage refused keeps it in the ROM; f0 ramps once the firmware runs (R411), be a later
stage refused or not (log 92). -/
def State.boot' (s : State) (e : BootEv) : State :=
  let d := s.dudel.restart e.record e.replay
  let s := { State.reset with agenda := s.agenda, freeCtr := s.freeCtr, dudel := d }
  let stages := bootStages e.images
  if stages.isEmpty then { s with boot := .refused }
  else
    let digests := stages.map imageDigest
    let s := { s with boot := .running, measured := measure digests }
    let s := s.modField 0 (fun f => { f with state := 1 })
    let first := digests.headD 0
    if e.replay then
      if d.bootAgrees first then s
      else ({ s with pod := { s.pod with halted := true } }).postEvent .dudelDiverge 0 0 0 0
    else s.record ⟨1, 0, 0, (leBytes 32 first.toNat).take 21⟩

/-- RESET. -/
def execReset (e : BootEv) (s : State) : Host.Outcome State Fault Refusal := .next (s.boot' e)

/-! ## Bring-up (R411) -/

/-- The next field starts its ramp. -/
def State.startField (s : State) (f : Nat) : State :=
  if 6 ≤ f ∨ (s.field f).state ≠ 0 then s else s.modField f (fun k => { k with state := 1 })

/-- Fault records that waited for a stack that was coming up (R412) go on. -/
def State.faultsOn (s : State) : State := s.flushFaults s.faults.waiting.length

/-- A step of a field's bring-up from state `from'`: it passes to the next state, or fails and bring-up goes on. -/
def State.bringUp (s : State) (e : FieldEv) (from' : Nat) (pass : State → State) : State :=
  if 6 ≤ e.field ∨ s.boot ≠ .running ∨ (s.field e.field).state ≠ from' then s
  else if e.ok then pass (s.modField e.field (fun f => { f with state := from' + 1 }))
  else ((s.modField e.field (fun f => { f with state := 6 })).startField (e.field + 1)).faultsOn

/-- POWER_RAMP ends. -/
def execPowerRamp (e : FieldEv) (s : State) : Host.Outcome State Fault Refusal := .next (s.bringUp e 1 id)
/-- CLOCK_LOCK. -/
def execClockLock (e : FieldEv) (s : State) : Host.Outcome State Fault Refusal := .next (s.bringUp e 2 id)
/-- CROSSING_CALIBRATION: the next field may ramp. -/
def execCrossingCalibration (e : FieldEv) (s : State) : Host.Outcome State Fault Refusal :=
  .next (s.bringUp e 3 (fun s => (s.modField e.field (fun f => { f with calibrated := true })).startField (e.field + 1)))
/-- HBM_TRAINING: the field is online with the stacks that trained. Its first window begins, with the limit that a SET-FLIM
before it gave (R349, R351). -/
def execHbmTraining (e : FieldEv) (s : State) : Host.Outcome State Fault Refusal :=
  .next (s.bringUp e 4 (fun s =>
    (s.modField e.field (fun f => { f with stk := e.stk, flim := f.flimNext.getD f.flim, flimNext := none })).faultsOn))

end Sys2Proof.Machine
end

