-- ==== Sys2Proof/Machine/EvFabric.lean ====
section
/-! DEFINITION. Vuxon and the pod: training (R404), gang launches (R367), reductions and multicasts (R368, R407, R408), replayed arrivals
(R394). -/

namespace Sys2Proof.Machine

/-! ## Ports (R404) -/

/-- LINK_TRAINING: a partner of another major version leaves the port down. -/
def execLinkTraining (e : TrainF) (s : State) : Host.Outcome State Fault Refusal :=
  .next (
    if 24 ≤ e.port ∨ s.pod.devNumber.isNone ∨ ((mfind s.pod.ports e.port).map (·.up)).getD false then s
    else if e.major ≠ 1 then s.postEvent .linkVersion (BitVec.ofNat 64 (e.port + 256 * e.major.toNat)) 0 0 0
    else { s with firstUp := true, pod := { s.pod with ports := mins s.pod.ports e.port ⟨true, e.number⟩ } })

/-- LINK_DOWN: commands in flight on the port end with status 0x11 (R404), and copies that arrive from a device that no port leads to any
more end where they are. -/
def execLinkDown (e : Nat) (s : State) : Host.Outcome State Fault Refusal :=
  .next (match mfind s.pod.ports e with
  | none => s
  | some p =>
    if !p.up then s
    else
      let stop (c : Copy) : Copy := if c.port = some e ∧ c.status.isNone then { c with status := some 0x11 } else c
      let s := { s with pod := { s.pod with ports := mins s.pod.ports e { p with up := false } }, copies := s.copies.map stop }
      let s := (s.arrivals.filter (fun a => s.portTo a.f.src == none)).foldl (fun s a => s.arriveEnd a false) s
      let s := { s with arrivals := s.arrivals.filter (fun a => s.portTo a.f.src != none) }
      s.postEvent .linkDown (BitVec.ofNat 64 e) e 0 0)

/-! ## Gang launches (R367) -/

/-- The devices of a node's gang that have not been heard, by GANGIX, lowest first. -/
def Node.unheard (n : Node) : List Nat := (List.range n.record.gangn).filter (fun i => i != n.record.gangix && !n.heard.contains i)

/-- The port by which GANGIX `ix` of a node's gang reaches this device: of its device, else the lowest that is up (log 25). -/
def State.gangPort (s : State) (n : Node) (ix : Nat) : Nat := 256 + (((n.gang[ix]?).bind s.portTo).or s.upPort).getD 0

/-- GANGIX `ix` has accepted a gang node: one that stands in the pool and whose gang still waits for some, once `arrive` lets the message
in. -/
def State.gangAccepted (s : State) (e : GangEv) (arrive : State → Node → Option State) : State :=
  match s.nodeOf e.node with
  | none => s
  | some n =>
    if !n.gangOpen ∨ n.record.gangn ≤ e.ix ∨ e.ix = n.record.gangix then s
    else
      let m := { n with heard := addOnce n.heard e.ix }
      ((arrive s n).map (fun s => s.setNode { m with gangOpen := !m.unheard.isEmpty })).getD s

/-- GANG_ACCEPTANCE from GANGIX `ix`: the node stands in the pool from this device's own acceptance on. The message is an arrival of
Dudel's, without a buffer (R393). -/
def execGangAcceptance (e : GangEv) (s : State) : Host.Outcome State Fault Refusal :=
  .next (s.gangAccepted e (fun s n => s.arrives (s.gangPort n e.ix) 0 0))

/-- The gang aborts on this device, which says so to every other device of the gang with the GANGIX that was not heard: each hand of the
node takes GANG-ABORT at its next point; a node that has no hands yet gets none, and completes as if they had retired (R140; log 91). -/
def State.abortGang (s : State) (n : Node) (ix : Nat) : State :=
  let n := { n with gangOpen := false, gangOver := true }
  let s := { s with pod := { s.pod with sent := s.pod.sent ++ n.peers.map (fun d => PodMsg.abort d n.taskid ix) } }
  if n.state = .running then
    (s.setNode n).mapHands (fun h => if (h.task = n.task ∨ h.task = n.taskB) ∧ h.living then
      { h with sched := { h.sched with gangAbort := some ix } } else h)
  else (s.emptyTiles n (n.cores ++ n.coresB)).setNode { n with state := .done, cores := [], coresB := [] }

/-- GANG_LAUNCH_TIMEOUT: acceptances lack, the lowest of them from `ix`; no time-out counts during a machine halt (R392). -/
def execGangLaunchTimeout (e : GangEv) (s : State) : Host.Outcome State Fault Refusal :=
  .next (match s.nodeOf e.node with
  | none => s
  | some n => if !n.gangOpen ∨ s.pod.halted ∨ n.unheard.head? ≠ some e.ix then s else s.abortGang n e.ix)

/-- Another device's abort of a gang, with the GANGIX that it names, once `arrive` lets the message in. -/
def State.gangAborted (s : State) (e : GangEv) (arrive : State → Option State) : State :=
  match s.nodeOf e.node with
  | none => s
  | some n => if n.record.gangn ≤ 1 ∨ n.gangOver then s else ((arrive s).map (fun s => s.abortGang n e.ix)).getD s

/-- GANG_ABORT: another device's abort, by the lowest port that is up (log 25), as an arrival of Dudel's (R393). -/
def execGangAbort (e : GangEv) (s : State) : Host.Outcome State Fault Refusal :=
  .next (s.gangAborted e (fun s => s.arrives (256 + s.upPort.getD 0) 0 0))

/-! ## The switch (R368, R407, R408) -/

/-- Writing a completion word after the bytes that a linked read of it makes visible (R111); in a stack that is gone it is lost
(log 113). -/
def State.switchWord (s : State) (op : SwitchOp) (v : Reg64) (bytes : Mem) : State :=
  if s.memUp op.cw 8 ≠ some true then s else
  let s := s.putPubAll (atAddr op.cw (leBytes 8 v.toNat))
  { s with mem := { s.mem with tokens := s.mem.tokens ++ [⟨none, op.cw, v, bytes, none⟩] } }

/-- The `i`-th operation leaves. -/
def State.dropSwitchOp (s : State) (i : Nat) : State := { s with pod := { s.pod with switchOps := s.pod.switchOps.eraseIdx i } }

/-- A failing completion value: bit 63, a code, the sequence number's low half, a member. -/
def switchFail (code : Nat) (seq : Reg64) (member : Nat) : Reg64 :=
  BitVec.ofNat 64 (2 ^ 63 + code * 2 ^ 48 + seq.toNat % 2 ^ 32 * 2 ^ 16 + member % 2 ^ 16)

/-- Bytes of a serialised record of types 4 to 7 (R302). -/
def reduceSize (typ : Nat) : Nat := if typ < 6 then 16416 else 16 + 16 * cellCount typ + cellCount typ / 8

/-- May a member's own record take part in a reduction (R407)? -/
def reducible (r : List Byte) : Bool :=
  decide (4 ≤ recField r 0 1 ∧ recField r 0 1 ≤ 7) && (recordFault r).isNone

/-- Does another member's record agree with one (R407): bytes 0 to 7, and the size? -/
def agrees (own r : List Byte) : Bool := r.length == own.length && r.take 8 == own.take 8 && (recordFault r).isNone

/-- The exact sum of the members' records (R407, R213, R215): no order of arrival changes it. -/
def reduced (own : List Byte) (others : List (List Byte)) : List Byte :=
  (others.foldl (fun (a : Slot) r => (a.merge (deserialise r)).1) (deserialise own)).serialise

/-- Nothing is written but the word, with the abort value that names a failing member (R368). -/
def State.abortReduction (s : State) (id : Nat) (op : SwitchOp) (seq : Reg64) (member : Nat) : State :=
  (s.dropSwitchOp id).switchWord op (switchFail 0x43 seq member) []

/-- Where this device writes a multicast: at its group mapping's base and the destination offset, none where it writes nothing. -/
def SwitchOp.landing (op : SwitchOp) (base : Option Nat) : Option Nat := base.map (· + op.dst)

/-- Bytes of an operation's source on this device: of a reduction its record, of a multicast the region. -/
def State.switchSpan (s : State) (op : SwitchOp) : Nat := if op.isMcast then op.size else reduceSize (s.mem.pub.get op.src).toNat

/-- What an answer of the switch brings: the bytes that it writes, the completion value, and the bytes that a linked read of the sequence
number shows (R111). Of a reduction, every contribution having arrived, the sum; a member whose record disagrees fails it (R368): this one
where its own record is none, else the one that the switch names. Of a multicast, of whose members `count` were negative, `member` the
lowest, the region where this device takes it. Where the source stands in a stack that is gone, this device's record is none, and a
multicast has nothing to send and fails as to `member` (the model's choice, log 113). -/
def State.switchResult (s : State) (e : SwitchEv) (op : SwitchOp) : List (Nat × Byte) × Reg64 × Mem :=
  if s.memUp op.src (s.switchSpan op) = some false then ([], if op.isMcast then switchFail 0x11 e.seq e.member
    else switchFail 0x43 e.seq op.member, [])
  else if op.isMcast then
    let kb := ((op.landing e.base).map (fun a => atAddr a (s.mem.pub.bytes op.src op.size))).getD []
    if e.count = 0 then (kb, e.seq, byteMap kb) else (kb, switchFail 0x11 e.seq e.member, [])
  else
    let own := s.mem.pub.bytes op.src (reduceSize (s.mem.pub.get op.src).toNat)
    if !reducible own then ([], switchFail 0x43 e.seq op.member, [])
    else if !e.others.all (agrees own) then ([], switchFail 0x43 e.seq e.member, [])
    else
      let kb := if op.dst = 0 then [] else atAddr op.dst (reduced own e.others)
      (kb, e.seq, byteMap kb)

/-- Do consecutive bytes stand in memory (R56, R412)? None of them always do. -/
def State.bytesUp (s : State) (kb : List (Nat × Byte)) : Option Bool :=
  match kb with
  | [] => some true
  | x :: _ => s.memUp x.1 kb.length

/-- An answer of the switch takes effect: its bytes, then the completion word, then of a multicast the command's status record with the
count. What it writes to a stack that is gone is lost (log 113). -/
def State.switchEnd (s : State) (e : SwitchEv) (op : SwitchOp) : State :=
  let (kb, v, seen) := s.switchResult e op
  let s := (s.dropSwitchOp e.id).uses op.src (s.switchSpan op)
  let s := (if s.bytesUp kb = some true then s.putPubAll kb else s).switchWord op v seen
  if op.isMcast then s.ctlStatus op.ctlSeq 0 e.count else s

/-- Length and address of what an answer of the switch brings, as Dudel's entry names them (R393): of its bytes, or of the completion word
where there are none (log 25). -/
def State.switchBuffer (s : State) (e : SwitchEv) (op : SwitchOp) : Nat × Nat :=
  let kb := (s.switchResult e op).1
  if kb.isEmpty then (8, op.cw) else (kb.length, (kb.map (·.1)).headD 0)

/-- Does a stack that an answer of the switch needs come up still (R412)? -/
def State.switchLater (s : State) (e : SwitchEv) (op : SwitchOp) : Bool :=
  (s.memUp op.src (s.switchSpan op)).isNone || (s.bytesUp (s.switchResult e op).1).isNone || (s.memUp op.cw 8).isNone ||
    (op.isMcast && s.statusLater 0)

/-- An answer of the switch arrives, by the lowest port that is up: none during a machine halt, which withholds credits for data (R392),
nor while a stack that it needs is coming up (R412). -/
def State.switchAnswer (s : State) (mcast : Bool) (e : SwitchEv) : State :=
  match s.pod.switchOps[e.id]? with
  | none => s
  | some op =>
    let b := s.switchBuffer e op
    if op.isMcast != mcast || s.pod.halted || !((s.switchResult e op).1.all (fun x => mappable x.1)) ||
        s.switchLater e op then s
    else match s.arrives (256 + s.upPort.getD 0) b.1 b.2 with
      | none => s
      | some s => s.switchEnd e op

/-- REDUCTION_COMPLETE (R407). -/
def execReductionComplete (e : SwitchEv) (s : State) : Host.Outcome State Fault Refusal := .next (s.switchAnswer false e)

/-- A reduction fails, once `arrive` lets the switch's word in and the completion word can be written. -/
def State.reductionFails (s : State) (e : SwitchEv) (arrive : State → SwitchOp → Option State) : State :=
  match s.pod.switchOps[e.id]? with
  | none => s
  | some op =>
    if op.isMcast ∨ s.pod.halted ∨ (s.memUp op.cw 8).isNone then s
    else ((arrive s op).map (fun s => s.abortReduction e.id op e.seq e.member)).getD s

/-- REDUCTION_TIMEOUT: a participant fails or the time passes; nothing is written but the word (R368), which the switch sends as an arrival
of Dudel's (R393). -/
def execReductionTimeout (e : SwitchEv) (s : State) : Host.Outcome State Fault Refusal :=
  .next (s.reductionFails e (fun s op => s.arrives (256 + s.upPort.getD 0) 8 op.cw))

/-- MCAST_ACK (R408). -/
def execMcastAck (e : SwitchEv) (s : State) : Host.Outcome State Fault Refusal := .next (s.switchAnswer true e)

/-! ## Replay (R394) -/

/-- The place in the log of the next arrival or entropy value, and the entry. -/
def Dudel.nextDelivery (d : Dudel) : Option (Nat × DudelEntry) :=
  ((d.log.zipIdx.filter (fun x => x.1.kind == 2 || x.1.kind == 3))[d.pos]?).map (fun x => (x.2, x.1))

/-- Length and address of what a delivery brings; of plain data, the address that the entry names. -/
def State.brings (s : State) (what : Arriving) (named : Nat) : Option (Nat × Nat) :=
  match what with
  | .data l => some (l.length, named)
  | .copy f => some (f.bytes.length, s.recvBuffer f)
  | .answer e => (s.copyOf e.hand e.n.toNat).map (fun c => (1, s.recordKey c))
  | .switch w => (s.pod.switchOps[w.id]?).map (s.switchBuffer w)
  | .timeout w => (s.pod.switchOps[w.id]?).map (fun op => (8, op.cw))
  | .accept _ | .abort _ => some (0, 0)

/-- What an arrival does: data go to the address that its entry names; a copy from another device opens; the messages that answer this
device's own have their effect. -/
def State.takesIn (s : State) (what : Arriving) (named : Nat) : State :=
  match what with
  | .data l => s.physWrite named l
  | .copy f => s.peerArrives f
  | .answer e => s.peerAnswered e (fun s _ => some s)
  | .switch w => ((s.pod.switchOps[w.id]?).map (s.switchEnd w)).getD s
  | .timeout w => s.reductionFails w (fun s _ => some s)
  | .accept e => s.gangAccepted e (fun s _ => some s)
  | .abort e => s.gangAborted e some

/-- What an entry of the log delivers: an entropy value to its system core, or an arrival. -/
def State.deliverEntry (s : State) (e : ReplayEv) : State :=
  if e.kind = 2 then { s with pod := { s.pod with sysLoaded := mins s.pod.sysLoaded (e.source.toNat % 0x8000) e.payload } }
  else s.takesIn e.what (leNat ((e.payload.drop 6).take 8))

/-- REPLAY_DELIVERY: the next arrival or entropy value of the log is delivered; what reached the stamped count and is no such entry, or
brings other data than it names, makes the device diverge. The data of an arrival stand in no log (log 25). -/
def execReplayDelivery (e : ReplayEv) (s : State) : Host.Outcome State Fault Refusal :=
  .next (
    if !s.dudel.replay ∨ s.pod.halted then s
    else match s.dudel.nextDelivery with
      | none => s
      | some (j, x) =>
        let len := leNat ((e.payload.drop 2).take 4)
        let named := leNat ((e.payload.drop 6).take 8)
        if x = ⟨e.kind, e.source, e.stamp, e.payload⟩ ∧ (e.kind = 2 ∨ s.brings e.what named = some (len, named)) then
          ({ s with dudel := { s.dudel with pos := s.dudel.pos + 1 } }).deliverEntry e
        else s.diverge (32 * j))

end Sys2Proof.Machine
end

