-- ==== Sys2Proof/Machine/EvDebug.lean ====
section
/-! DEFINITION. Debugger stops, writes and restarts (R366, R390 to R392). -/

namespace Sys2Proof.Machine

/-- A record of BREAKPOINT that the hand's suspension awaits (R175, R390), and that no longer waits for room in the ring (R399). -/
def State.brkRecord (s : State) (h : Hand) : Option Nat :=
  (s.faults.pending.find? (fun r => h.status == .suspended r.seq && r.trap.cause == .breakpoint &&
    !s.faults.waiting.any (fun w => w.seq == r.seq))).map (·.seq)

/-- The current hand stops; its strip record closes with PRE (R388). -/
def State.stopHand (s : State) : State :=
  match s.closeRecord true with
  | .ok s => { s.dropGrant with hand := { s.hand with status := .stopped } }
  | .error _ => s

/-- DEBUGGER_STOP: a hand that waits for it stops where it stands; a brk that went to the system fault queue is taken. -/
def execDebuggerStop (e : Nat) (s : State) : Host.Outcome State Fault Refusal :=
  .next (match s.handOf e with
  | none => s
  | some h =>
    if h.status = .waiting .stop then s.asHand e State.stopHand
    else match s.brkRecord h with
      | none => s
      | some n => (s.answered n).asHand e State.stopHand)

/-- A vector register's bytes replaced from an offset. -/
def Hand.pokeV (h : Hand) (r : Fld5) (off : Nat) (l : List Byte) : Hand :=
  { h with v := l.zipIdx.foldl (fun m bi => mput 0 m (r.toNat * 4096 + off + bi.2) bi.1) h.v }

/-- Is a vector register part of what a producer fills? -/
def Producer.covers (p : Producer) (r : Nat) : Bool :=
  match p.dest with
  | .vector q n => decide (q ≤ r ∧ r < q + n)
  | _ => false

/-- The bytes of register `r` in one picture of the vector file, put in place of those in another. -/
def withReg (m from' : SMap Byte) (r : Nat) : SMap Byte :=
  m.filter (fun kb => decide (kb.1 < 4096 * r)) ++ from'.filter (fun kb => kb.1 / 4096 == r) ++
    m.filter (fun kb => decide (4096 * (r + 1) ≤ kb.1))

/-- A register as it stood before the `i`-th producer issued: in the file, or in what the next producer that fills it replaced. -/
def Hand.restoreReg (h : Hand) (i : Nat) (was : SMap Byte) (r : Nat) : Hand :=
  match (h.producers.drop (i + 1)).findIdx? (fun p => p.covers r) with
  | none => { h with v := withReg h.v was r }
  | some j => { h with producers := h.producers.modify (i + 1 + j) (fun p => { p with was := withReg p.was was r }) }

/-- Has a later instruction that is still outstanding taken the data of the `i`-th producer as its source? -/
def Hand.readBy (h : Hand) (i : Nat) (p : Producer) : Bool := (h.producers.drop (i + 1)).any (fun q => q.srcs.any p.dest.meets)

/-- The `i`-th producer's data are discarded, of a vector group in every element group (R366). Data that a later instruction has read
have arrived in all element groups, so nothing of them is discarded (the model's choice, log 111). -/
def Hand.discard (h : Hand) (i : Nat) : Hand :=
  match h.producers[i]? with
  | none => h
  | some p =>
    let regs := match p.dest with
      | .vector r n => if h.readBy i p then [] else upFrom r n
      | _ => []
    let h := regs.foldl (fun (h : Hand) r => h.restoreReg i p.was r) h
    { h with producers := h.producers.eraseIdx i }

/-- Discarding the data of the producers of a kind, the latest first. -/
def Hand.discardAll (h : Hand) (which : Producer → Bool) : Hand :=
  (h.producers.zipIdx.filter (fun pi => which pi.1)).foldr (fun pi (h : Hand) => h.discard pi.2) h

/-- What a debugger's write does (R366): it fills the register, and an outstanding producer's data are discarded. A CSR is written
under R174; a write that it refuses has no effect. -/
def Hand.poke (h : Hand) (t : DbgTarget) : Hand :=
  match t with
  | .scalar r v => (h.discardAll (fun p => p.dest == .scalar r.toNat)).setX r v
  | .vector r off l =>
    if 4096 < off + l.length then h
    else (h.discardAll (fun p => p.covers r.toNat)).pokeV r off l
  | .csr n v => match h.csr.write n.toNat v with
    | some c => { h with csr := c }
    | none => h

/-- DEBUGGER_WRITE: only to a stopped hand. -/
def execDebuggerWrite (e : DbgWrite) (s : State) : Host.Outcome State Fault Refusal :=
  .next (s.modHand e.hand (fun h => if h.status = .stopped then h.poke e.target else h))

/-- DEBUGGER_RESTART: the hand goes on at the point where it stopped, and passes that stop. -/
def execDebuggerRestart (e : Nat) (s : State) : Host.Outcome State Fault Refusal :=
  .next (s.modHand e (fun h => if h.status = .stopped then { h with status := .running, sched := { h.sched with skipStop := true } }
    else h))

end Sys2Proof.Machine
end

