-- ==== Sys2Proof/Machine/ScalarMem.lean ====
section
/-! DEFINITION. Scalar loads and stores (R219, R220). -/

namespace Sys2Proof.Machine

/-- The address of a scalar access (Table 11.1). -/
def scalarAddr (a : Reg64) (imm : BitVec 11) : Reg64 := a + imm.signExtend 64

/-- A scalar load (R217, R219): x[D] is empty until the data land. -/
def scalarLoad (w : Nat) (ext : Nat → Reg64) (f : ImmG) (s : State) : Host.Outcome State Fault Refusal :=
  guarded s f.g (fun s => do
    let a ← s.src 0 f.a f.ta
    s.dest f.d
    let va := scalarAddr a f.imm
    s.aligned .load va w
    let (s, v) ← s.readElem .load 0 va w 0
    let s := s.setX f.d (ext v)
    pure (({ s with hand := s.hand.produce (.scalar f.d.toNat) (some 0) }).retire 4))

/-- A scalar store (R219): the data register is waited for. -/
def scalarStore (w : Nat) (f : ImmG) (s : State) : Host.Outcome State Fault Refusal :=
  guarded s f.g (fun s => do
    let a ← s.src 0 f.a f.ta
    let v ← s.need f.d
    let va := scalarAddr a f.imm
    s.aligned .store va w
    let s ← s.writeElem 0 va w 0 v.toNat
    pure (s.retire 4))

/-- Sign extension of `w` bytes. -/
def extS (w v : Nat) : Reg64 := BitVec.ofInt 64 (toSigned (8 * w) v)
/-- Zero extension. -/
def extZ (v : Nat) : Reg64 := BitVec.ofNat 64 v

/-- ldb (R219). -/
def execLdb (f : ImmG) (s : State) : Host.Outcome State Fault Refusal := scalarLoad 1 (extS 1) f s

/-- ldh (R219). -/
def execLdh (f : ImmG) (s : State) : Host.Outcome State Fault Refusal := scalarLoad 2 (extS 2) f s

/-- ldw (R219). -/
def execLdw (f : ImmG) (s : State) : Host.Outcome State Fault Refusal := scalarLoad 4 (extS 4) f s

/-- ldd (R219). -/
def execLdd (f : ImmG) (s : State) : Host.Outcome State Fault Refusal := scalarLoad 8 extZ f s

/-- ldbn (R219). -/
def execLdbn (f : ImmG) (s : State) : Host.Outcome State Fault Refusal := scalarLoad 1 extZ f s

/-- ldhn (R219). -/
def execLdhn (f : ImmG) (s : State) : Host.Outcome State Fault Refusal := scalarLoad 2 extZ f s

/-- ldwn (R219). -/
def execLdwn (f : ImmG) (s : State) : Host.Outcome State Fault Refusal := scalarLoad 4 extZ f s

/-- stb (R219). -/
def execStb (f : ImmG) (s : State) : Host.Outcome State Fault Refusal := scalarStore 1 f s

/-- sth (R219). -/
def execSth (f : ImmG) (s : State) : Host.Outcome State Fault Refusal := scalarStore 2 f s

/-- stw (R219). -/
def execStw (f : ImmG) (s : State) : Host.Outcome State Fault Refusal := scalarStore 4 f s

/-- std (R219). -/
def execStd (f : ImmG) (s : State) : Host.Outcome State Fault Refusal := scalarStore 8 f s

end Sys2Proof.Machine
end

