-- ==== Sys2Proof/Machine/Salu.lean ====
section
/-! DEFINITION. The scalar ALU (R181, R182), the immediates, shifts and constants (R183 to R186). -/

namespace Sys2Proof.Machine

/-! ## Shared forms -/

/-- `op xD, xA, xB` (R172, R181). -/
def alu2 (op : Reg64 → Reg64 → Reg64) (f : RegG) (s : State) : Host.Outcome State Fault Refusal :=
  guarded s f.g (fun s => do
    let a ← s.src 0 f.a f.ta
    let b ← s.src 1 f.b f.tb
    s.dest f.d
    pure ((s.setX f.d (op a b)).retire 4))

/-- `op xD, xA` (R172, R181). -/
def alu1 (op : Reg64 → Reg64) (f : UnG) (s : State) : Host.Outcome State Fault Refusal :=
  guarded s f.g (fun s => do
    let a ← s.src 0 f.a f.ta
    s.dest f.d
    pure ((s.setX f.d (op a)).retire 4))

/-- `op xD, xA, imm` with the immediate sign-extended (R183). -/
def aluImm (op : Reg64 → Reg64 → Reg64) (f : ImmG) (s : State) : Host.Outcome State Fault Refusal :=
  guarded s f.g (fun s => do
    let a ← s.src 0 f.a f.ta
    s.dest f.d
    pure ((s.setX f.d (op a (f.imm.signExtend 64))).retire 4))

/-- `op xD, xA, amount` (R184). -/
def aluShift (op : Reg64 → Nat → Reg64) (f : ShG) (s : State) : Host.Outcome State Fault Refusal :=
  guarded s f.g (fun s => do
    let a ← s.src 0 f.a f.ta
    s.dest f.d
    pure ((s.setX f.d (op a f.sh.toNat)).retire 4))

/-! ## Results (Table 9.2) -/

/-- The amount of a shift by a register: bits 5:0. -/
def amount (b : Reg64) : Nat := b.toNat % 64
/-- One or zero. -/
def boolReg (p : Bool) : Reg64 := if p then 1 else 0
/-- The high half of the signed product. -/
def mulHigh (a b : Reg64) : Reg64 := BitVec.ofInt 64 (a.toInt * b.toInt / 2 ^ 64)
/-- The high half of the unsigned product. -/
def mulHighN (a b : Reg64) : Reg64 := BitVec.ofNat 64 (a.toNat * b.toNat / 2 ^ 64)
/-- The signed quotient (R182). -/
def quot (a b : Reg64) : Reg64 := if b = 0 then BitVec.allOnes 64 else a.sdiv b
/-- The unsigned quotient (R182). -/
def quotN (a b : Reg64) : Reg64 := if b = 0 then BitVec.allOnes 64 else a.udiv b
/-- The signed remainder (R182). -/
def remd (a b : Reg64) : Reg64 := if b = 0 then a else a.srem b
/-- The unsigned remainder (R182). -/
def remdN (a b : Reg64) : Reg64 := if b = 0 then a else a.umod b
/-- Leading zeros among the low `w` bits. -/
def leadZeros (w v : Nat) : Nat := if v = 0 then w else w - 1 - v.log2
/-- Set bits among the low `w` bits. -/
def popCount (w v : Nat) : Nat := ((List.range w).filter (fun i => v.testBit i)).length
/-- Trailing zeros among the low `w` bits. -/
def trailZeros (w v : Nat) : Nat := ((List.range w).takeWhile (fun i => !v.testBit i)).length
/-- A 32-bit result sign-extended. -/
def word32 (v : Reg64) : Reg64 := (v.setWidth 32).signExtend 64

/-! ## The instructions -/

/-- add (R181). -/
def execAdd (f : RegG) (s : State) : Host.Outcome State Fault Refusal :=
  alu2 (fun a b => a + b) f s

/-- sub (R181). -/
def execSub (f : RegG) (s : State) : Host.Outcome State Fault Refusal :=
  alu2 (fun a b => a - b) f s

/-- and (R181). -/
def execAnd (f : RegG) (s : State) : Host.Outcome State Fault Refusal :=
  alu2 (fun a b => a &&& b) f s

/-- or (R181). -/
def execOr (f : RegG) (s : State) : Host.Outcome State Fault Refusal :=
  alu2 (fun a b => a ||| b) f s

/-- xor (R181). -/
def execXor (f : RegG) (s : State) : Host.Outcome State Fault Refusal :=
  alu2 (fun a b => a ^^^ b) f s

/-- andn (R181). -/
def execAndn (f : RegG) (s : State) : Host.Outcome State Fault Refusal :=
  alu2 (fun a b => a &&& ~~~b) f s

/-- sll (R181). -/
def execSll (f : RegG) (s : State) : Host.Outcome State Fault Refusal :=
  alu2 (fun a b => a <<< amount b) f s

/-- srl (R181). -/
def execSrl (f : RegG) (s : State) : Host.Outcome State Fault Refusal :=
  alu2 (fun a b => a >>> amount b) f s

/-- sra (R181). -/
def execSra (f : RegG) (s : State) : Host.Outcome State Fault Refusal :=
  alu2 (fun a b => a.sshiftRight (amount b)) f s

/-- rotl (R181). -/
def execRotl (f : RegG) (s : State) : Host.Outcome State Fault Refusal :=
  alu2 (fun a b => a.rotateLeft (amount b)) f s

/-- rotr (R181). -/
def execRotr (f : RegG) (s : State) : Host.Outcome State Fault Refusal :=
  alu2 (fun a b => a.rotateRight (amount b)) f s

/-- mul (R181). -/
def execMul (f : RegG) (s : State) : Host.Outcome State Fault Refusal :=
  alu2 (fun a b => a * b) f s

/-- mulh (R181). -/
def execMulh (f : RegG) (s : State) : Host.Outcome State Fault Refusal :=
  alu2 (mulHigh) f s

/-- mulhn (R181). -/
def execMulhn (f : RegG) (s : State) : Host.Outcome State Fault Refusal :=
  alu2 (mulHighN) f s

/-- div (R182). -/
def execDiv (f : RegG) (s : State) : Host.Outcome State Fault Refusal :=
  alu2 (quot) f s

/-- divn (R182). -/
def execDivn (f : RegG) (s : State) : Host.Outcome State Fault Refusal :=
  alu2 (quotN) f s

/-- rem (R182). -/
def execRem (f : RegG) (s : State) : Host.Outcome State Fault Refusal :=
  alu2 (remd) f s

/-- remn (R182). -/
def execRemn (f : RegG) (s : State) : Host.Outcome State Fault Refusal :=
  alu2 (remdN) f s

/-- slt (R181). -/
def execSlt (f : RegG) (s : State) : Host.Outcome State Fault Refusal :=
  alu2 (fun a b => boolReg (a.slt b)) f s

/-- sltn (R181). -/
def execSltn (f : RegG) (s : State) : Host.Outcome State Fault Refusal :=
  alu2 (fun a b => boolReg (a.ult b)) f s

/-- min (R181). -/
def execMin (f : RegG) (s : State) : Host.Outcome State Fault Refusal :=
  alu2 (fun a b => if b.slt a then b else a) f s

/-- max (R181). -/
def execMax (f : RegG) (s : State) : Host.Outcome State Fault Refusal :=
  alu2 (fun a b => if a.slt b then b else a) f s

/-- minn (R181). -/
def execMinn (f : RegG) (s : State) : Host.Outcome State Fault Refusal :=
  alu2 (fun a b => if b.ult a then b else a) f s

/-- maxn (R181). -/
def execMaxn (f : RegG) (s : State) : Host.Outcome State Fault Refusal :=
  alu2 (fun a b => if a.ult b then b else a) f s

/-- clz (R181). -/
def execClz (f : UnG) (s : State) : Host.Outcome State Fault Refusal :=
  alu1 (fun a => BitVec.ofNat 64 (leadZeros 64 a.toNat)) f s

/-- ctz (R181). -/
def execCtz (f : UnG) (s : State) : Host.Outcome State Fault Refusal :=
  alu1 (fun a => BitVec.ofNat 64 (trailZeros 64 a.toNat)) f s

/-- popc (R181). -/
def execPopc (f : UnG) (s : State) : Host.Outcome State Fault Refusal :=
  alu1 (fun a => BitVec.ofNat 64 (popCount 64 a.toNat)) f s

/-- addw (R181). -/
def execAddw (f : RegG) (s : State) : Host.Outcome State Fault Refusal :=
  alu2 (fun a b => word32 (a + b)) f s

/-- subw (R181). -/
def execSubw (f : RegG) (s : State) : Host.Outcome State Fault Refusal :=
  alu2 (fun a b => word32 (a - b)) f s

/-- sextb (R181). -/
def execSextb (f : UnG) (s : State) : Host.Outcome State Fault Refusal :=
  alu1 (fun a => (a.setWidth 8).signExtend 64) f s

/-- sexth (R181). -/
def execSexth (f : UnG) (s : State) : Host.Outcome State Fault Refusal :=
  alu1 (fun a => (a.setWidth 16).signExtend 64) f s

/-- sextw (R181). -/
def execSextw (f : UnG) (s : State) : Host.Outcome State Fault Refusal :=
  alu1 (fun a => (a.setWidth 32).signExtend 64) f s

/-- addi (R183). -/
def execAddi (f : ImmG) (s : State) : Host.Outcome State Fault Refusal :=
  aluImm (fun a i => a + i) f s

/-- andi (R183). -/
def execAndi (f : ImmG) (s : State) : Host.Outcome State Fault Refusal :=
  aluImm (fun a i => a &&& i) f s

/-- ori (R183). -/
def execOri (f : ImmG) (s : State) : Host.Outcome State Fault Refusal :=
  aluImm (fun a i => a ||| i) f s

/-- xori (R183). -/
def execXori (f : ImmG) (s : State) : Host.Outcome State Fault Refusal :=
  aluImm (fun a i => a ^^^ i) f s

/-- slti (R183). -/
def execSlti (f : ImmG) (s : State) : Host.Outcome State Fault Refusal :=
  aluImm (fun a i => boolReg (a.slt i)) f s

/-- sltni (R183). -/
def execSltni (f : ImmG) (s : State) : Host.Outcome State Fault Refusal :=
  aluImm (fun a i => boolReg (a.ult i)) f s

/-- slli (R184). -/
def execSlli (f : ShG) (s : State) : Host.Outcome State Fault Refusal :=
  aluShift (fun a n => a <<< n) f s

/-- srli (R184). -/
def execSrli (f : ShG) (s : State) : Host.Outcome State Fault Refusal :=
  aluShift (fun a n => a >>> n) f s

/-- srai (R184). -/
def execSrai (f : ShG) (s : State) : Host.Outcome State Fault Refusal :=
  aluShift (fun a n => a.sshiftRight n) f s

/-- An IMM20 sign-extended and shifted left by 12 (R185). -/
def imm20Value (i : BitVec 20) : Reg64 := i.signExtend 64 <<< 12

/-- lui (R185): no guard, no trap bit. -/
def execLui (f : UF) (s : State) : Host.Outcome State Fault Refusal :=
  finish (do
    s.dest f.d
    pure ((s.setX f.d (imm20Value f.imm)).retire 4))

/-- adpc (R185): relative to the word's own address. -/
def execAdpc (f : UF) (s : State) : Host.Outcome State Fault Refusal :=
  finish (do
    s.dest f.d
    pure ((s.setX f.d (s.hand.pc + imm20Value f.imm)).retire 4))

/-- A guarded literal: guarded-off, the literal is consumed all the same (R165, R168). -/
def literal (f : LitF) (s : State) (v : State → Run Reg64) : Host.Outcome State Fault Refusal :=
  finish (do
    let go ← s.guard f.g
    if go then do
      s.dest f.d
      let r ← v s
      pure ((s.setX f.d r).retire 8)
    else pure (s.retire 8))

/-- lit (R165, R186). -/
def execLit (f : LitF) (s : State) : Host.Outcome State Fault Refusal :=
  literal f s (fun _ => .ok (f.lit.signExtend 64))

/-- lith (R165, R186): x[D] is its own source. -/
def execLith (f : LitF) (s : State) : Host.Outcome State Fault Refusal :=
  literal f s (fun s => do
    let d ← s.need f.d
    pure (f.lit.setWidth 64 <<< 32 ||| (d.setWidth 32).setWidth 64))

end Sys2Proof.Machine
end

