-- ==== Sys2Proof/Machine/VInt.lean ====
section
/-! DEFINITION. Integer vector instructions: VINT and VIMM (R243, R244). -/

namespace Sys2Proof.Machine

/-! ## Shared forms -/

/-- `op vD, vA, vB` for each active element, with D's old element as third operand: value and flags. -/
def vbin (i : Instr) (op : Hand → Nat → Nat → Nat → Nat × Nat) (beats : Hand → Nat) (f : VReg) (s : State) :
    Host.Outcome State Fault Refusal :=
  vop i s (fun s => s.srcs2 f) (fun s =>
    let h := s.hand
    pure ((s.each f.d (h.actives f.m) (fun e => op h (h.elem f.a e) (h.elem f.b e) (h.elem f.d e))).charge .arith
      (beats h * h.groups)))

/-- `op vD, vA`. -/
def vuna (i : Instr) (op : Hand → Nat → Nat × Nat) (beats : Hand → Nat) (f : VUn) (s : State) :
    Host.Outcome State Fault Refusal :=
  vop i s (fun s => s.srcs1 f) (fun s =>
    let h := s.hand
    pure ((s.each f.d (h.actives f.m) (fun e => op h (h.elem f.a e))).charge .arith (beats h * h.groups)))

/-- One beat for each element group. -/
def one (_ : Hand) : Nat := 1
/-- vmul, vmulh, vmulhn at SEW 64 take four (Table 12.12). -/
def mulBeats (h : Hand) : Nat := if h.csr.sew = 3 then 4 else 1
/-- A result without flags. -/
def plain (v : Nat) : Nat × Nat := (v, 0)

/-! ## Element results (Table 12.4) -/

/-- Shift left by b mod SEW. -/
def Hand.shl (h : Hand) (a b : Nat) : Nat := a * 2 ^ (b % h.sewBits) % 2 ^ h.sewBits
/-- Shift right logical. -/
def Hand.shr (h : Hand) (a b : Nat) : Nat := a / 2 ^ (b % h.sewBits)
/-- Shift right arithmetic. -/
def Hand.sar (h : Hand) (a b : Nat) : Nat := h.wrap (h.sel a / (2 ^ (b % h.sewBits) : Nat))
/-- Clamping to the I range; SAT when it clamps. -/
def Hand.clampI (h : Hand) (v : Int) : Nat × Nat :=
  let hi : Int := 2 ^ (h.sewBits - 1) - 1
  let lo : Int := -2 ^ (h.sewBits - 1)
  if hi < v then (h.wrap hi, fSAT) else if v < lo then (h.wrap lo, fSAT) else (h.wrap v, 0)
/-- Clamping to the N range. -/
def Hand.clampN (h : Hand) (v : Int) : Nat × Nat :=
  if (2 ^ h.sewBits : Nat) ≤ v then (2 ^ h.sewBits - 1, fSAT) else if v < 0 then (0, fSAT) else (v.toNat, 0)
/-- The wrapping increment. -/
def vincwOf (a b : Nat) : Nat := if b ≤ a then 0 else a + 1
/-- The bounded add. -/
def Hand.vaddbOf (h : Hand) (a b d : Nat) : Nat := if d + a ≤ b ∧ d + a < 2 ^ h.sewBits then d + a else d

/-! ## VINT -/

/-- vadd (R243). -/
def execVadd (f : VReg) (s : State) : Host.Outcome State Fault Refusal :=
  vbin (.vadd f) (fun h a b _ => plain (h.wrap ((a : Int) + b))) one f s

/-- vsub (R243). -/
def execVsub (f : VReg) (s : State) : Host.Outcome State Fault Refusal :=
  vbin (.vsub f) (fun h a b _ => plain (h.wrap ((a : Int) - b))) one f s

/-- vand (R243). -/
def execVand (f : VReg) (s : State) : Host.Outcome State Fault Refusal := vbin (.vand f) (fun _ a b _ => plain (a &&& b)) one f s

/-- vor (R243). -/
def execVor (f : VReg) (s : State) : Host.Outcome State Fault Refusal := vbin (.vor f) (fun _ a b _ => plain (a ||| b)) one f s

/-- vxor (R243). -/
def execVxor (f : VReg) (s : State) : Host.Outcome State Fault Refusal := vbin (.vxor f) (fun _ a b _ => plain (a ^^^ b)) one f s

/-- vsll (R243). -/
def execVsll (f : VReg) (s : State) : Host.Outcome State Fault Refusal := vbin (.vsll f) (fun h a b _ => plain (h.shl a b)) one f s

/-- vsrl (R243). -/
def execVsrl (f : VReg) (s : State) : Host.Outcome State Fault Refusal := vbin (.vsrl f) (fun h a b _ => plain (h.shr a b)) one f s

/-- vsra (R243). -/
def execVsra (f : VReg) (s : State) : Host.Outcome State Fault Refusal := vbin (.vsra f) (fun h a b _ => plain (h.sar a b)) one f s

/-- vmul (R243). -/
def execVmul (f : VReg) (s : State) : Host.Outcome State Fault Refusal :=
  vbin (.vmul f) (fun h a b _ => plain (a * b % 2 ^ h.sewBits)) mulBeats f s

/-- vmulh (R243). -/
def execVmulh (f : VReg) (s : State) : Host.Outcome State Fault Refusal :=
  vbin (.vmulh f) (fun h a b _ => plain (h.wrap (h.sel a * h.sel b / (2 ^ h.sewBits : Nat)))) mulBeats f s

/-- vmulhn (R243). -/
def execVmulhn (f : VReg) (s : State) : Host.Outcome State Fault Refusal :=
  vbin (.vmulhn f) (fun h a b _ => plain (a * b / 2 ^ h.sewBits)) mulBeats f s

/-- vmin (R243). -/
def execVmin (f : VReg) (s : State) : Host.Outcome State Fault Refusal :=
  vbin (.vmin f) (fun h a b _ => plain (if h.sel b < h.sel a then b else a)) one f s

/-- vmax (R243). -/
def execVmax (f : VReg) (s : State) : Host.Outcome State Fault Refusal :=
  vbin (.vmax f) (fun h a b _ => plain (if h.sel a < h.sel b then b else a)) one f s

/-- vminn (R243). -/
def execVminn (f : VReg) (s : State) : Host.Outcome State Fault Refusal := vbin (.vminn f) (fun _ a b _ => plain (Nat.min a b)) one f s

/-- vmaxn (R243). -/
def execVmaxn (f : VReg) (s : State) : Host.Outcome State Fault Refusal := vbin (.vmaxn f) (fun _ a b _ => plain (Nat.max a b)) one f s

/-- vsadd (R243). -/
def execVsadd (f : VReg) (s : State) : Host.Outcome State Fault Refusal :=
  vbin (.vsadd f) (fun h a b _ => h.clampI (h.sel a + h.sel b)) one f s

/-- vsaddn (R243). -/
def execVsaddn (f : VReg) (s : State) : Host.Outcome State Fault Refusal :=
  vbin (.vsaddn f) (fun h a b _ => h.clampN ((a : Int) + b)) one f s

/-- vssub (R243). -/
def execVssub (f : VReg) (s : State) : Host.Outcome State Fault Refusal :=
  vbin (.vssub f) (fun h a b _ => h.clampI (h.sel a - h.sel b)) one f s

/-- vssubn (R243). -/
def execVssubn (f : VReg) (s : State) : Host.Outcome State Fault Refusal :=
  vbin (.vssubn f) (fun h a b _ => h.clampN ((a : Int) - b)) one f s

/-- vincw (R243). -/
def execVincw (f : VReg) (s : State) : Host.Outcome State Fault Refusal := vbin (.vincw f) (fun _ a b _ => plain (vincwOf a b)) one f s

/-- vaddb (R243). -/
def execVaddb (f : VReg) (s : State) : Host.Outcome State Fault Refusal := vbin (.vaddb f) (fun h a b d => plain (h.vaddbOf a b d)) one f s

/-- vabs (R243). -/
def execVabs (f : VUn) (s : State) : Host.Outcome State Fault Refusal := vuna (.vabs f) (fun h a => plain (h.wrap (h.sel a).natAbs)) one f s

/-- vclz (R243). -/
def execVclz (f : VUn) (s : State) : Host.Outcome State Fault Refusal := vuna (.vclz f) (fun h a => plain (leadZeros h.sewBits a)) one f s

/-- vpopc (R243). -/
def execVpopc (f : VUn) (s : State) : Host.Outcome State Fault Refusal := vuna (.vpopc f) (fun h a => plain (popCount h.sewBits a)) one f s

/-- vmov (R243). -/
def execVmov (f : VUn) (s : State) : Host.Outcome State Fault Refusal := vuna (.vmov f) (fun _ a => plain a) one f s

/-- vsel (R243): M selects, and every element below VL is written. -/
def execVsel (f : VReg) (s : State) : Host.Outcome State Fault Refusal :=
  vop (.vsel f) s (fun s => s.srcs2 f) (fun s =>
    let h := s.hand
    pure ((s.each f.d h.elems (fun e => plain (if h.activeAt f.m e then h.elem f.a e else h.elem f.b e))).charge .arith h.groups))

/-! ## VIMM (R244) -/

/-- The immediate, taken to SEW bits. -/
def Hand.imm8 (h : Hand) (i : BitVec 8) : Nat := h.wrap i.toInt

/-- The word of a VIMM instruction. -/
def vimmWord (c : Bit) (d a : Fld5) (imm : BitVec 8) (sub : BitVec 4) (m : BitVec 3) : Word :=
  (c ++ 56#6 ++ d ++ a ++ imm ++ sub ++ m).cast (by decide)

/-- `op vD, vA, imm`. -/
def vimm (sub : BitVec 4) (op : Hand → Nat → Nat → Nat) (f : VImm) (s : State) : Host.Outcome State Fault Refusal :=
  vopOf (shImm f) (flVec f.d 1 f.m) false (vimmWord f.c f.d f.a f.imm sub f.m) s (fun s => s.vsrc 0 f.a s.hand.grpN 0) (fun s =>
    let h := s.hand
    pure ((s.each f.d (h.actives f.m) (fun e => plain (op h (h.elem f.a e) (h.imm8 f.imm)))).charge .arith h.groups))

/-- A shift by an immediate. -/
def vimmShift (sub : BitVec 4) (op : Hand → Nat → Nat → Nat) (f : VShImm) (s : State) : Host.Outcome State Fault Refusal :=
  vopOf (shShImm f) (flVec f.d 1 f.m) false (vimmWord f.c f.d f.a (0#2 ++ f.sh) sub f.m) s (fun s => s.vsrc 0 f.a s.hand.grpN 0) (fun s =>
    let h := s.hand
    pure ((s.each f.d (h.actives f.m) (fun e => plain (op h (h.elem f.a e) f.sh.toNat))).charge .arith h.groups))

/-- vaddi (R244). -/
def execVaddi (f : VImm) (s : State) : Host.Outcome State Fault Refusal := vimm 0 (fun h a b => h.wrap ((a : Int) + b)) f s

/-- vandi (R244). -/
def execVandi (f : VImm) (s : State) : Host.Outcome State Fault Refusal := vimm 1 (fun _ a b => a &&& b) f s

/-- vori (R244). -/
def execVori (f : VImm) (s : State) : Host.Outcome State Fault Refusal := vimm 2 (fun _ a b => a ||| b) f s

/-- vxori (R244). -/
def execVxori (f : VImm) (s : State) : Host.Outcome State Fault Refusal := vimm 3 (fun _ a b => a ^^^ b) f s

/-- vmini (R244). -/
def execVmini (f : VImm) (s : State) : Host.Outcome State Fault Refusal := vimm 7 (fun h a b => if h.sel b < h.sel a then b else a) f s

/-- vmaxi (R244). -/
def execVmaxi (f : VImm) (s : State) : Host.Outcome State Fault Refusal := vimm 8 (fun h a b => if h.sel a < h.sel b then b else a) f s

/-- vslli (R244). -/
def execVslli (f : VShImm) (s : State) : Host.Outcome State Fault Refusal := vimmShift 4 (Hand.shl) f s

/-- vsrli (R244). -/
def execVsrli (f : VShImm) (s : State) : Host.Outcome State Fault Refusal := vimmShift 5 (Hand.shr) f s

/-- vsrai (R244). -/
def execVsrai (f : VShImm) (s : State) : Host.Outcome State Fault Refusal := vimmShift 6 (Hand.sar) f s

/-- vceqi (R244): a compare into a predicate. -/
def execVceqi (f : VImm) (s : State) : Host.Outcome State Fault Refusal :=
  vopOf (some ⟨anySew, true, [(f.a, 1)], none, []⟩) (flPred f.d [f.m.toNat]) false (vimmWord f.c f.d f.a f.imm 9 f.m) s
    (fun s => s.vsrc 0 f.a s.hand.grpN 0) (fun s =>
    let h := s.hand
    pure ((s.put (h.putPred f.d ((h.actives f.m).filter (fun e => h.elem f.a e == h.imm8 f.imm)))).charge .arith h.groups))

end Sys2Proof.Machine
end

