-- ==== Sys2Proof/Machine/VFloat.lean ====
section
/-! DEFINITION. Float vector instructions (R245 to R247) and the widening family (R248). -/

namespace Sys2Proof.Machine

/-! ## VFLT -/

/-- A float operation on values. -/
def vfbin (i : Instr) (op : Hand → FVal → FVal → FVal → Nat × Nat) (beats : Nat) (f : VReg) (s : State) :
    Host.Outcome State Fault Refusal :=
  vbin i (fun h a b d => op h (h.fval a) (h.fval b) (h.fval d)) (fun _ => beats) f s

/-- A unary one. -/
def vfuna (i : Instr) (op : Hand → FVal → Nat × Nat) (beats : Nat) (f : VUn) (s : State) :
    Host.Outcome State Fault Refusal :=
  vuna i (fun h a => op h (h.fval a)) (fun _ => beats) f s

/-- A magnitude with a sign; a NaN is the default NaN (R202). -/
def Hand.signed (h : Hand) (neg : Bool) (a : FVal) : Nat × Nat :=
  match a with
  | .nan s => (h.fmt.nan, if s then fNV else 0)
  | a => (h.fmt.roundV 0 false (if a.neg == neg then a else a.negate))

/-- vfadd (R245). -/
def execVfadd (f : VReg) (s : State) : Host.Outcome State Fault Refusal :=
  vfbin (.vfadd f) (fun h a b _ => h.fmt.addV h.mode h.csr.fz a b) 1 f s

/-- vfsub (R245). -/
def execVfsub (f : VReg) (s : State) : Host.Outcome State Fault Refusal :=
  vfbin (.vfsub f) (fun h a b _ => h.fmt.addV h.mode h.csr.fz a b.negate) 1 f s

/-- vfmul (R245). -/
def execVfmul (f : VReg) (s : State) : Host.Outcome State Fault Refusal :=
  vfbin (.vfmul f) (fun h a b _ => h.fmt.mul h.mode h.csr.fz a b) 1 f s

/-- vfdiv (R245). -/
def execVfdiv (f : VReg) (s : State) : Host.Outcome State Fault Refusal :=
  vfbin (.vfdiv f) (fun h a b _ => h.fmt.div h.mode h.csr.fz a b) 4 f s

/-- vfsqrt (R201). -/
def execVfsqrt (f : VUn) (s : State) : Host.Outcome State Fault Refusal := vfuna (.vfsqrt f) (fun h a => h.fmt.sqrt h.mode h.csr.fz a) 4 f s

/-- vfrsqrt (R201). -/
def execVfrsqrt (f : VUn) (s : State) : Host.Outcome State Fault Refusal :=
  vfuna (.vfrsqrt f) (fun h a => h.fmt.rsqrt h.mode h.csr.fz a) 4 f s

/-- vfexp2 (R201). -/
def execVfexp2 (f : VUn) (s : State) : Host.Outcome State Fault Refusal := vfuna (.vfexp2 f) (fun h a => h.fmt.exp2 h.mode h.csr.fz a) 4 f s

/-- vflog2 (R201). -/
def execVflog2 (f : VUn) (s : State) : Host.Outcome State Fault Refusal := vfuna (.vflog2 f) (fun h a => h.fmt.log2 h.mode h.csr.fz a) 4 f s

/-- vfmin (R246). -/
def execVfmin (f : VReg) (s : State) : Host.Outcome State Fault Refusal :=
  vbin (.vfmin f) (fun h a b _ => h.fmt.minmax h.csr.fz false a b) one f s

/-- vfmax (R246). -/
def execVfmax (f : VReg) (s : State) : Host.Outcome State Fault Refusal :=
  vbin (.vfmax f) (fun h a b _ => h.fmt.minmax h.csr.fz true a b) one f s

/-- vfabs (R245). -/
def execVfabs (f : VUn) (s : State) : Host.Outcome State Fault Refusal := vfuna (.vfabs f) (fun h a => h.signed false a) 1 f s

/-- vfneg (R245). -/
def execVfneg (f : VUn) (s : State) : Host.Outcome State Fault Refusal := vfuna (.vfneg f) (fun h a => h.signed (!a.neg) a) 1 f s

/-- vfsgn (R245): the sign bit of b as encoded; a signalling b raises NV. -/
def execVfsgn (f : VReg) (s : State) : Host.Outcome State Fault Refusal :=
  vbin (.vfsgn f) (fun h a b _ =>
    let (v, fl) := h.signed (decide (b / h.fmt.sign % 2 = 1)) (h.fval a)
    (v, Nat.lor fl (sigNV [h.fval b]))) one f s

/-- vfclass (R247). -/
def execVfclass (f : VUn) (s : State) : Host.Outcome State Fault Refusal :=
  vuna (.vfclass f) (fun h a => plain (h.fmt.classOf h.csr.fz a)) one f s

/-- vfma (R245). -/
def execVfma (f : VReg) (s : State) : Host.Outcome State Fault Refusal :=
  vfbin (.vfma f) (fun h a b d => h.fmt.fma h.mode h.csr.fz a b d) 1 f s

/-- vfms (R245). -/
def execVfms (f : VReg) (s : State) : Host.Outcome State Fault Refusal :=
  vfbin (.vfms f) (fun h a b d => h.fmt.fma h.mode h.csr.fz a b d.negate) 1 f s

/-- vfnma (R245). -/
def execVfnma (f : VReg) (s : State) : Host.Outcome State Fault Refusal :=
  vfbin (.vfnma f) (fun h a b d => h.fmt.fma h.mode h.csr.fz a.negate b d) 1 f s

/-! ## VWIDE (R248) -/

/-- A widening instruction: a, b of SEW bits as I and N, and d of 2·SEW bits; the result modulo 2^(2·SEW). -/
def vwide (i : Instr) (op : Hand → Nat → Nat → Nat → Int) (f : VReg) (s : State) : Host.Outcome State Fault Refusal :=
  vop i s (fun s => s.srcs2 f) (fun s =>
    let h := s.hand
    let w := 2 * h.sewBytes
    let r (e : Nat) : Nat :=
      (op h (h.elem f.a e) (h.elem f.b e) (h.getVN f.d.toNat (e * w) w) % (2 ^ (8 * w) : Nat)).toNat
    let h' := ((h.actives f.m).map (fun e => (e, r e))).foldl (fun (g : Hand) ev => g.setVN f.d.toNat (ev.1 * w) w ev.2) h
    pure ((s.put h').charge .arith (2 * h.groups)))

/-- vwmac (R248). -/
def execVwmac (f : VReg) (s : State) : Host.Outcome State Fault Refusal := vwide (.vwmac f) (fun h a b d => d + h.sel a * h.sel b) f s

/-- vwmacn (R248). -/
def execVwmacn (f : VReg) (s : State) : Host.Outcome State Fault Refusal := vwide (.vwmacn f) (fun _ a b d => (d + a * b : Nat)) f s

/-- vwmacsn (R248). -/
def execVwmacsn (f : VReg) (s : State) : Host.Outcome State Fault Refusal := vwide (.vwmacsn f) (fun h a b d => d + h.sel a * b) f s

/-- vwmul (R248). -/
def execVwmul (f : VReg) (s : State) : Host.Outcome State Fault Refusal := vwide (.vwmul f) (fun h a b _ => h.sel a * h.sel b) f s

/-- vwmuln (R248). -/
def execVwmuln (f : VReg) (s : State) : Host.Outcome State Fault Refusal := vwide (.vwmuln f) (fun _ a b _ => (a * b : Nat)) f s

/-- vwadd (R248). -/
def execVwadd (f : VReg) (s : State) : Host.Outcome State Fault Refusal := vwide (.vwadd f) (fun h a b _ => h.sel a + h.sel b) f s

/-- vwaddn (R248). -/
def execVwaddn (f : VReg) (s : State) : Host.Outcome State Fault Refusal := vwide (.vwaddn f) (fun _ a b _ => (a + b : Nat)) f s

end Sys2Proof.Machine
end

