-- ==== Sys2Proof/Machine/VPerm.lean ====
section
/-! DEFINITION. Compares (R249), predicates (R250), permutes (R251 to R253). -/

namespace Sys2Proof.Machine

/-! ## VCMP -/

/-- An integer compare into a predicate (R239, R249). -/
def vcmp (i : Instr) (c : Hand → Nat → Nat → Bool) (f : VReg) (s : State) : Host.Outcome State Fault Refusal :=
  vop i s (fun s => s.srcs2 f) (fun s =>
    let h := s.hand
    pure ((s.put (h.putPred f.d ((h.actives f.m).filter (fun e => c h (h.elem f.a e) (h.elem f.b e))))).charge .arith h.groups))

/-- A float compare; `quiet` raises NV for a signalling NaN alone. -/
def vfcmp (i : Instr) (quiet : Bool) (c : FVal → FVal → Bool) (f : VReg) (s : State) : Host.Outcome State Fault Refusal :=
  vop i s (fun s => s.srcs2 f) (fun s =>
    let h := s.hand
    let es := h.actives f.m
    let va (e : Nat) : FVal := h.fval (h.elem f.a e)
    let vb (e : Nat) : FVal := h.fval (h.elem f.b e)
    let fl := es.filter (fun e => if quiet then (va e).isSig || (vb e).isSig else (va e).isNan || (vb e).isNan)
    let s := s.put (h.putPred f.d (es.filter (fun e => c (va e) (vb e))))
    pure ((s.raise (fl.map (fun e => (e, fNV)))).charge .arith h.groups))

/-- vceq (R249). -/
def execVceq (f : VReg) (s : State) : Host.Outcome State Fault Refusal := vcmp (.vceq f) (fun _ a b => a == b) f s

/-- vcne (R249). -/
def execVcne (f : VReg) (s : State) : Host.Outcome State Fault Refusal := vcmp (.vcne f) (fun _ a b => a != b) f s

/-- vclt (R249). -/
def execVclt (f : VReg) (s : State) : Host.Outcome State Fault Refusal := vcmp (.vclt f) (fun h a b => decide (h.sel a < h.sel b)) f s

/-- vcle (R249). -/
def execVcle (f : VReg) (s : State) : Host.Outcome State Fault Refusal := vcmp (.vcle f) (fun h a b => decide (h.sel a ≤ h.sel b)) f s

/-- vcltn (R249). -/
def execVcltn (f : VReg) (s : State) : Host.Outcome State Fault Refusal := vcmp (.vcltn f) (fun _ a b => decide (a < b)) f s

/-- vclen (R249). -/
def execVclen (f : VReg) (s : State) : Host.Outcome State Fault Refusal := vcmp (.vclen f) (fun _ a b => decide (a ≤ b)) f s

/-- vfceq (R249). -/
def execVfceq (f : VReg) (s : State) : Host.Outcome State Fault Refusal := vfcmp (.vfceq f) true FVal.eqV f s

/-- vfclt (R249). -/
def execVfclt (f : VReg) (s : State) : Host.Outcome State Fault Refusal := vfcmp (.vfclt f) false FVal.ltV f s

/-- vfcle (R249). -/
def execVfcle (f : VReg) (s : State) : Host.Outcome State Fault Refusal := vfcmp (.vfcle f) false (fun a b => a.ltV b || a.eqV b) f s

/-- vfcun (R249). -/
def execVfcun (f : VReg) (s : State) : Host.Outcome State Fault Refusal := vfcmp (.vfcun f) true (fun a b => a.isNan || b.isNan) f s

/-! ## VMASK (R250) -/

/-- Beats of VMASK: one per 1,024 positions. -/
def Hand.predBeats (h : Hand) : Nat := (h.csr.vl + 1023) / 1024

/-- Does p[A] hold a position? p0 holds every one, those at and above 1,024 too (R239). -/
def Hand.pbit (h : Hand) (a : Fld5) (e : Nat) : Bool := a == 0 || (h.getP a.toNat).getLsbD e

/-- A predicate from predicates, at active positions. -/
def vpred (i : Instr) (d : Fld5) (m : BitVec 3) (c : Hand → Nat → Bool) (s : State) : Host.Outcome State Fault Refusal :=
  vop i s (fun _ => .ok ()) (fun s =>
    let h := s.hand
    pure ((s.put (h.putPred d ((h.actives m).filter (c h)))).charge .perm h.predBeats))

/-- A scalar from a predicate: of the active positions that p[A] holds. -/
def vpscal (i : Instr) (v : List Nat → Reg64) (f : PUn) (s : State) : Host.Outcome State Fault Refusal :=
  vop i s (fun s => s.dest f.d) (fun s =>
    let h := s.hand
    pure ((s.result f.d (v ((h.actives f.m).filter (h.pbit f.a)))).charge .perm h.predBeats))

/-- pand (R250). -/
def execPand (f : PReg) (s : State) : Host.Outcome State Fault Refusal :=
  vpred (.pand f) f.d f.m (fun h e => h.pbit f.a e && h.pbit f.b e) s

/-- por (R250). -/
def execPor (f : PReg) (s : State) : Host.Outcome State Fault Refusal := vpred (.por f) f.d f.m (fun h e => h.pbit f.a e || h.pbit f.b e) s

/-- pxor (R250). -/
def execPxor (f : PReg) (s : State) : Host.Outcome State Fault Refusal :=
  vpred (.pxor f) f.d f.m (fun h e => h.pbit f.a e != h.pbit f.b e) s

/-- pandn (R250). -/
def execPandn (f : PReg) (s : State) : Host.Outcome State Fault Refusal :=
  vpred (.pandn f) f.d f.m (fun h e => h.pbit f.a e && !h.pbit f.b e) s

/-- pnot (R250). -/
def execPnot (f : PUn) (s : State) : Host.Outcome State Fault Refusal := vpred (.pnot f) f.d f.m (fun h e => !h.pbit f.a e) s

/-- pset (R250). -/
def execPset (f : VZero) (s : State) : Host.Outcome State Fault Refusal := vpred (.pset f) f.d f.m (fun _ _ => true) s

/-- ppopc (R250). -/
def execPpopc (f : PUn) (s : State) : Host.Outcome State Fault Refusal :=
  vpscal (.ppopc f) (fun l => BitVec.ofNat 64 l.length) f s

/-- pfirst (R250): −1 when there is none. -/
def execPfirst (f : PUn) (s : State) : Host.Outcome State Fault Refusal :=
  vpscal (.pfirst f) (fun l => match l with
    | [] => BitVec.allOnes 64
    | e :: _ => BitVec.ofNat 64 e) f s

/-- pmvx (R250). -/
def execPmvx (f : PUn) (s : State) : Host.Outcome State Fault Refusal :=
  vpscal (.pmvx f) (fun l => (l.filter (· < 64)).foldl (fun (v : Reg64) e => v ||| BitVec.ofNat 64 (2 ^ e)) 0) f s

/-- vpopq (R250): waits while the queue holds eight entries (R144). -/
def execVpopq (f : PUn) (s : State) : Host.Outcome State Fault Refusal :=
  vop (.vpopq f) s
    (fun s => if 8 ≤ (s.hand.lq.toArray.getD f.d.toNat []).length then s.wait .room else .ok ()) (fun s =>
    let h := s.hand
    let n : Word := BitVec.ofNat 32 ((h.actives f.m).filter (h.pbit f.a)).length
    let h' := { h with lq := h.lq.setIfInBounds f.d.toNat (h.lq.toArray.getD f.d.toNat [] ++ [n]) }
    pure ((s.put h').charge .perm h.predBeats))

/-! ## VPERM (R251) -/

/-- Element i of a source; a position at or above VL reads as zero. -/
def Hand.permElem (h : Hand) (a : Fld5) (i : Nat) : Nat := if i < h.csr.vl then h.elem a i else 0

/-- Moves (source, destination) of elements, written, and their beats. -/
def State.moves (s : State) (d a : Fld5) (l : List (Nat × Nat)) : State :=
  let h := s.hand
  (s.put (h.setElems d (l.map (fun sd => (sd.2, h.permElem a sd.1))))).charge .perm (h.permBeats (l.filter (fun sd => sd.1 < h.csr.vl)))

/-- The sources of a permute with a scalar in B. -/
def State.srcsX (s : State) (f : VReg) : Run Unit := do
  s.vsrc 0 f.a s.hand.grpN f.ta
  let _ ← s.src 1 f.b f.tb

/-- A permute by x[B]: for each active e, its source position. -/
def vpermX (i : Instr) (from' : Nat → Nat → Option Nat) (f : VReg) (s : State) : Host.Outcome State Fault Refusal :=
  vop i s (fun s => s.srcsX f) (fun s =>
    let h := s.hand
    let x := (h.getX f.b).toNat
    pure (s.moves f.d f.a ((h.actives f.m).filterMap (fun e => (from' x e).map (fun i => (i, e))))))

/-- vperm (R251). -/
def execVperm (f : VReg) (s : State) : Host.Outcome State Fault Refusal :=
  vop (.vperm f) s (fun s => s.srcs2 f) (fun s =>
    let h := s.hand
    pure (s.moves f.d f.a ((h.actives f.m).map (fun e => (h.elem f.b e, e)))))

/-- vslup (R251): elements below s are unchanged. -/
def execVslup (f : VReg) (s : State) : Host.Outcome State Fault Refusal :=
  vpermX (.vslup f) (fun x e => if x ≤ e then some (e - x) else none) f s

/-- vsldn (R251). -/
def execVsldn (f : VReg) (s : State) : Host.Outcome State Fault Refusal :=
  vpermX (.vsldn f) (fun x e => some (e + x)) f s

/-- vbcast (R251). -/
def execVbcast (f : VReg) (s : State) : Host.Outcome State Fault Refusal := vpermX (.vbcast f) (fun x _ => some x) f s

/-- vrshp (R252). -/
def execVrshp (f : VReg) (s : State) : Host.Outcome State Fault Refusal :=
  vop (.vrshp f) s (fun s => do
    s.srcsX f
    let l := (s.hand.getX f.b).toNat
    if s.hand.csr.vl ≠ 0 ∧ (l = 0 ∨ s.hand.csr.vl % l ≠ 0) then s.trap (Trap.mk' .reservedField (s.hand.getX f.b)) else .ok ())
    (fun s =>
    let h := s.hand
    let l := (h.getX f.b).toNat
    let rows := h.csr.vl / l
    pure (s.moves f.d f.a ((h.actives f.m).map (fun e => (e % rows * l + e / rows, e)))))

/-- vcomp (R251): every position below VL is written. -/
def execVcomp (f : VUn) (s : State) : Host.Outcome State Fault Refusal :=
  vop (.vcomp f) s (fun s => s.srcs1 f) (fun s =>
    let h := s.hand
    let l := h.actives f.m
    let s := s.moves f.d f.a l.zipIdx
    pure (s.put (s.hand.setElems f.d ((h.elems.drop l.length).map (fun e => (e, 0))))))

/-- vexpd (R251). -/
def execVexpd (f : VUn) (s : State) : Host.Outcome State Fault Refusal :=
  vop (.vexpd f) s (fun s => s.srcs1 f) (fun s =>
    pure (s.moves f.d f.a ((s.hand.actives f.m).zipIdx.map (fun ek => (ek.2, ek.1)))))

/-- Positions in ascending key order, the lower position first among equals (R253). -/
def sortPositions (key : Nat → Nat) (l : List Nat) : List Nat :=
  l.foldl (fun acc e => insertBy (fun a b => decide (key a ≤ key b)) e acc) []

/-- vsortk (R253): keys to the group vD, payloads to vD + GRP. -/
def execVsortk (f : VReg) (s : State) : Host.Outcome State Fault Refusal :=
  vop (.vsortk f) s (fun s => do
    s.vsrc 0 f.a s.hand.grpN f.ta
    if f.b = 0 then pure () else s.vsrc 1 f.b s.hand.grpN f.tb) (fun s =>
    let h := s.hand
    let order := sortPositions (h.elem f.a) (h.actives f.m)
    let pay (e : Nat) : Nat := if f.b = 0 then e % 2 ^ h.sewBits else h.elem f.b e
    let zeros := (h.elems.drop order.length).map (fun e => (e, 0))
    let d2 : Fld5 := f.d + BitVec.ofNat 5 h.grpN
    let h' := (h.setElems f.d (order.zipIdx.map (fun ek => (ek.2, h.elem f.a ek.1)) ++ zeros)).setElems d2
      (order.zipIdx.map (fun ek => (ek.2, pay ek.1)) ++ zeros)
    let p := ceilLog2 h.csr.vl
    pure ((s.put h').charge .perm (h.permBeats order.zipIdx * (p * (p + 1) / 2))))

end Sys2Proof.Machine
end

