-- ==== Sys2Proof/Machine/VRed.lean ====
section
/-! DEFINITION. Reductions (R204, R254, R255), conversions (R256 to R258), moves (R259). -/

namespace Sys2Proof.Machine

/-! ## VRED -/

/-- Beats of a reduction (Table 12.12): none in a strip of VL = 0 (R348). -/
def Hand.redBeats (h : Hand) (tree : Nat) : Nat := if h.csr.vl = 0 then 0 else h.groups + 8 + tree

/-- A reduction of the active elements' bits into x[D] (R254). -/
def vred (i : Instr) (v : Hand → List Nat → Reg64) (f : VUn) (s : State) : Host.Outcome State Fault Refusal :=
  vop i s (fun s => do
    s.srcs1 f
    s.dest f.d) (fun s =>
    let h := s.hand
    pure ((s.result f.d (v h ((h.actives f.m).map (h.elem f.a)))).charge .perm (h.redBeats 0)))

/-- A result of SEW bits, sign-extended. -/
def Hand.sextR (h : Hand) (v : Int) : Reg64 := BitVec.ofInt 64 (toSigned h.sewBits (h.wrap v))

/-- The greatest I value of SEW. -/
def Hand.topI (h : Hand) : Int := 2 ^ (h.sewBits - 1) - 1

/-- vredadd (R254). -/
def execVredadd (f : VUn) (s : State) : Host.Outcome State Fault Refusal :=
  vred (.vredadd f) (fun h l => h.sextR (l.foldl (· + ·) 0 : Nat)) f s

/-- vredmin (R254). -/
def execVredmin (f : VUn) (s : State) : Host.Outcome State Fault Refusal :=
  vred (.vredmin f) (fun h l => h.sextR ((l.map h.sel).foldl min h.topI)) f s

/-- vredmax (R254). -/
def execVredmax (f : VUn) (s : State) : Host.Outcome State Fault Refusal :=
  vred (.vredmax f) (fun h l => h.sextR ((l.map h.sel).foldl max (-h.topI - 1))) f s

/-- vredminn (R254). -/
def execVredminn (f : VUn) (s : State) : Host.Outcome State Fault Refusal :=
  vred (.vredminn f) (fun h l => BitVec.ofNat 64 (l.foldl Nat.min (2 ^ h.sewBits - 1))) f s

/-- vredmaxn (R254). -/
def execVredmaxn (f : VUn) (s : State) : Host.Outcome State Fault Refusal :=
  vred (.vredmaxn f) (fun _ l => BitVec.ofNat 64 (l.foldl Nat.max 0)) f s

/-- vredand (R254). -/
def execVredand (f : VUn) (s : State) : Host.Outcome State Fault Refusal :=
  vred (.vredand f) (fun h l => BitVec.ofNat 64 (l.foldl Nat.land (2 ^ h.sewBits - 1))) f s

/-- vredor (R254). -/
def execVredor (f : VUn) (s : State) : Host.Outcome State Fault Refusal :=
  vred (.vredor f) (fun _ l => BitVec.ofNat 64 (l.foldl Nat.lor 0)) f s

/-- One level of the tree of R204: values with the lowest active position beneath them, and the flags raised. -/
def treeLevel (h : Hand) : List (Option (FVal × Nat)) → List (Option (FVal × Nat)) × List (Nat × Nat)
  | [] => ([], [])
  | [a] => ([a], [])
  | a :: b :: l =>
    let (r, fl) := treeLevel h l
    match a, b with
    | none, b => (b :: r, fl)
    | a, none => (a :: r, fl)
    | some (x, p), some (y, _) =>
      let (v, g) := h.fmt.addV h.mode h.csr.fz x y
      (some (h.fmt.value v, p) :: r, if g = 0 then fl else (p, g) :: fl)

/-- The tree's levels. -/
def treeSum (h : Hand) : Nat → List (Option (FVal × Nat)) → List (Nat × Nat) → Option (FVal × Nat) × List (Nat × Nat)
  | 0, t, fl => ((t.head?).join, fl)
  | n + 1, t, fl =>
    if t.length ≤ 1 then ((t.head?).join, fl)
    else
      let (t', g) := treeLevel h t
      treeSum h n t' (fl ++ g)

/-- The root of the tree of R204 over the active elements, as bits, and the flags raised; a signalling NaN that alone reaches
the root raises NV (R202). -/
def Hand.treeRed (h : Hand) (f : VUn) : Nat × List (Nat × Nat) :=
  let leaf (e : Nat) : Option (FVal × Nat) := if h.activeAt f.m e then some (h.fval (h.elem f.a e), e) else none
  let (root, fl) := treeSum h 17 (h.elems.map leaf) []
  match root with
  | none => (0, fl)
  | some (x, p) =>
    let (r, g) := h.fmt.roundV 0 false x
    (r, if g = 0 then fl else fl ++ [(p, g)])

/-- The least or greatest active element (R255), as bits, and the flags raised. -/
def Hand.selRed (h : Hand) (isMax : Bool) (f : VUn) : Nat × List (Nat × Nat) :=
  let es := h.actives f.m
  let bits := es.map (h.elem f.a)
  (match bits with
    | [] => h.fmt.inf + (if isMax then h.fmt.sign else 0)
    | b :: _ => bits.foldl (fun x y => (h.fmt.minmax h.csr.fz isMax x y).1) b,
   (es.filter (fun e => (h.fval (h.elem f.a e)).isSig)).map (fun e => (e, fNV)))

/-- A float reduction into x[D]. -/
def vfred (i : Instr) (v : Hand → Nat × List (Nat × Nat)) (beats : Hand → Nat) (f : VUn) (s : State) :
    Host.Outcome State Fault Refusal :=
  vop i s (fun s => do
    s.srcs1 f
    s.dest f.d) (fun s =>
    let h := s.hand
    let (r, fl) := v h
    pure (((s.result f.d (BitVec.ofNat 64 r)).raise fl).charge .perm (h.redBeats (beats h))))

/-- vfredadd (R204). -/
def execVfredadd (f : VUn) (s : State) : Host.Outcome State Fault Refusal :=
  vfred (.vfredadd f) (fun h => h.treeRed f) (fun h => 2 * ceilLog2 h.csr.vl) f s

/-- vfredmin (R255). -/
def execVfredmin (f : VUn) (s : State) : Host.Outcome State Fault Refusal :=
  vfred (.vfredmin f) (fun h => h.selRed false f) (fun _ => 0) f s

/-- vfredmax (R255). -/
def execVfredmax (f : VUn) (s : State) : Host.Outcome State Fault Refusal := vfred (.vfredmax f) (fun h => h.selRed true f) (fun _ => 0) f s

/-! ## VCVT -/

/-- vcvtfi (R256). -/
def execVcvtfi (f : VUn) (s : State) : Host.Outcome State Fault Refusal :=
  vuna (.vcvtfi f) (fun h a =>
    let (v, fl) := (h.fval a).toIntClamped h.mode (-h.topI - 1) h.topI
    (h.wrap v, fl)) one f s

/-- vcvtfn (R256). -/
def execVcvtfn (f : VUn) (s : State) : Host.Outcome State Fault Refusal :=
  vuna (.vcvtfn f) (fun h a =>
    let (v, fl) := (h.fval a).toIntClamped h.mode 0 (2 ^ h.sewBits - 1 : Nat)
    (h.wrap v, fl)) one f s

/-- vcvtif (R256). -/
def execVcvtif (f : VUn) (s : State) : Host.Outcome State Fault Refusal :=
  vuna (.vcvtif f) (fun h a => h.fmt.roundInt h.mode h.csr.fz false (h.sel a) 0) one f s

/-- vcvtnf (R256). -/
def execVcvtnf (f : VUn) (s : State) : Host.Outcome State Fault Refusal :=
  vuna (.vcvtnf f) (fun h a => h.fmt.roundInt h.mode h.csr.fz false (a : Nat) 0) one f s

/-- vcvtff (R257): B = 0 narrows F32 elements of a group of 2·GRP, B = 1 widens into one. -/
def execVcvtff (f : VCode) (s : State) : Host.Outcome State Fault Refusal :=
  vop (.vcvtff f) s
    (fun s => s.vsrc 0 f.a (if f.b = 0 then 2 * s.hand.grpN else s.hand.grpN) f.ta) (fun s =>
    let h := s.hand
    let es := h.actives f.m
    if f.b = 0 then
      pure ((s.each f.d es (fun e => h.fmt16.roundV h.mode h.csr.fz (f32.input h.csr.fz (h.getVN f.a.toNat (4 * e) 4)))).charge
        .arith h.groups)
    else
      let rs := es.map (fun e => (e, f32.roundV h.mode h.csr.fz (h.fmt16.input h.csr.fz (h.elem f.a e))))
      let h' := rs.foldl (fun (g : Hand) r => g.setVN f.d.toNat (4 * r.1) 4 r.2.1) h
      pure (((s.put h').raise ((rs.filter (fun r => r.2.2 != 0)).map (fun r => (r.1, r.2.2)))).charge .arith h.groups))

/-- VL must be whole blocks (R258). -/
def State.wholeBlocks (s : State) : Run Unit :=
  if s.hand.csr.vl % 32 = 0 then .ok () else s.trap (Trap.mk' .formatAlign (BitVec.ofNat 64 s.hand.csr.vl))

/-- vquant (R258). -/
def execVquant (f : VCode) (s : State) : Host.Outcome State Fault Refusal :=
  vop (.vquant f) s (fun s => do
    s.vsrc 0 f.a s.hand.grpN f.ta
    s.wholeBlocks) (fun s =>
    let h := s.hand
    let w := f.b.toNat
    let blk (b : Nat) : Block × List Nat :=
      encodeBlock w h.csr.fz ((upFrom (32 * b) 32).map (fun e => if h.activeAt f.m e then h.elem f.a e else 0))
    let bs := (List.range (h.csr.vl / 32)).map (fun b => (b, blk b))
    let h' := bs.foldl (fun (g : Hand) bb =>
      (atAddr (bb.1 * blockBytes w 32) (bb.2.1.bytes w)).foldl (fun (g : Hand) ob => g.setVB f.d.toNat ob.1 ob.2) g) h
    let fl := (bs.map (fun bb => bb.2.2.zipIdx.filterMap (fun fj =>
      if fj.1 = 0 then none else some (32 * bb.1 + fj.2, fj.1)))).flatten
    pure (((s.put h').raise fl).charge .arith h.groups))

/-- The bytes of block b of a packed group. -/
def Hand.packed (h : Hand) (a : Fld5) (w b : Nat) : List Byte :=
  (upFrom (b * blockBytes w 32) (blockBytes w 32)).map (h.getVB a.toNat)

/-- vdequant (R258): BLOCK-CHECK writes no element. -/
def execVdequant (f : VCode) (s : State) : Host.Outcome State Fault Refusal :=
  vop (.vdequant f) s (fun s => do
    s.vsrc 0 f.a s.hand.grpN f.ta
    s.wholeBlocks
    match (List.range (s.hand.csr.vl / 32)).find? (fun b => (readBlock f.b.toNat 32 (s.hand.packed f.a f.b.toNat b)).isNone) with
    | some b => s.trap ((Trap.mk' .blockCheck (BitVec.ofNat 64 s.hand.csr.vl)).at' (32 * b))
    | none => .ok ()) (fun s =>
    let h := s.hand
    let w := f.b.toNat
    let value (e : Nat) : Nat := match readBlock w 32 (h.packed f.a w (e / 32)) with
      | some b => b.value w (e % 32)
      | none => 0
    pure ((s.each f.d (h.actives f.m) (fun e => plain (value e))).charge .arith h.groups))

/-! ## VMOVX -/

/-- vsplat (R259). -/
def execVsplat (f : VUn) (s : State) : Host.Outcome State Fault Refusal :=
  vop (.vsplat f) s (fun s => do
    let _ ← s.src 0 f.a f.ta) (fun s =>
    let h := s.hand
    pure ((s.each f.d (h.actives f.m) (fun _ => plain (h.getX f.a).toNat)).charge .perm h.groups))

/-- vins (R259). -/
def execVins (f : VReg) (s : State) : Host.Outcome State Fault Refusal :=
  vop (.vins f) s (fun s => do
    let _ ← s.src 0 f.a f.ta
    let _ ← s.src 1 f.b f.tb) (fun s =>
    let h := s.hand
    let i := (h.getX f.b).toNat
    pure ((s.each f.d (if h.activeAt f.m i then [i] else []) (fun _ => plain (h.getX f.a).toNat)).charge .perm h.groups))

/-- vext (R259). -/
def execVext (f : VReg) (s : State) : Host.Outcome State Fault Refusal :=
  vop (.vext f) s (fun s => do
    s.vsrc 0 f.a s.hand.grpN f.ta
    let _ ← s.src 1 f.b f.tb
    s.dest f.d) (fun s =>
    let h := s.hand
    let i := (h.getX f.b).toNat
    pure ((s.result f.d (if h.activeAt f.m i then BitVec.ofInt 64 (h.sel (h.elem f.a i)) else 0)).charge .perm h.groups))

/-- viota (R259): M names the counted predicate. -/
def execViota (f : VZero) (s : State) : Host.Outcome State Fault Refusal :=
  vop (.viota f) s (fun _ => .ok ()) (fun s =>
    let h := s.hand
    let p := h.getP f.m.toNat
    let below (e : Nat) : Nat := if f.m = 0 then e else ((List.range e).filter (fun j => p.getLsbD j)).length
    pure ((s.each f.d h.elems (fun e => plain (below e))).charge .perm h.groups))

/-- vord (R259). -/
def execVord (f : VZero) (s : State) : Host.Outcome State Fault Refusal :=
  vop (.vord f) s (fun _ => .ok ()) (fun s =>
    let h := s.hand
    pure ((s.each f.d (h.actives f.m) (fun e => plain (h.ordinal e).toNat)).charge .perm h.groups))

end Sys2Proof.Machine
end

