-- ==== Sys2Proof/Machine/Dispatch.lean ====
section
/-! DEFINITION. One arm per instruction and per step of the device without a word: a direct call of its meaning. -/

namespace Sys2Proof.Machine

/-- What an instruction does. -/
def exec (i : Instr) (s : State) : Host.Outcome State Fault Refusal :=
  match i with
  | .add f => Sys2Proof.Machine.execAdd f s
  | .sub f => Sys2Proof.Machine.execSub f s
  | .and f => Sys2Proof.Machine.execAnd f s
  | .or f => Sys2Proof.Machine.execOr f s
  | .xor f => Sys2Proof.Machine.execXor f s
  | .andn f => Sys2Proof.Machine.execAndn f s
  | .sll f => Sys2Proof.Machine.execSll f s
  | .srl f => Sys2Proof.Machine.execSrl f s
  | .sra f => Sys2Proof.Machine.execSra f s
  | .rotl f => Sys2Proof.Machine.execRotl f s
  | .rotr f => Sys2Proof.Machine.execRotr f s
  | .mul f => Sys2Proof.Machine.execMul f s
  | .mulh f => Sys2Proof.Machine.execMulh f s
  | .mulhn f => Sys2Proof.Machine.execMulhn f s
  | .div f => Sys2Proof.Machine.execDiv f s
  | .divn f => Sys2Proof.Machine.execDivn f s
  | .rem f => Sys2Proof.Machine.execRem f s
  | .remn f => Sys2Proof.Machine.execRemn f s
  | .slt f => Sys2Proof.Machine.execSlt f s
  | .sltn f => Sys2Proof.Machine.execSltn f s
  | .min f => Sys2Proof.Machine.execMin f s
  | .max f => Sys2Proof.Machine.execMax f s
  | .minn f => Sys2Proof.Machine.execMinn f s
  | .maxn f => Sys2Proof.Machine.execMaxn f s
  | .clz f => Sys2Proof.Machine.execClz f s
  | .ctz f => Sys2Proof.Machine.execCtz f s
  | .popc f => Sys2Proof.Machine.execPopc f s
  | .addw f => Sys2Proof.Machine.execAddw f s
  | .subw f => Sys2Proof.Machine.execSubw f s
  | .sextb f => Sys2Proof.Machine.execSextb f s
  | .sexth f => Sys2Proof.Machine.execSexth f s
  | .sextw f => Sys2Proof.Machine.execSextw f s
  | .addi f => Sys2Proof.Machine.execAddi f s
  | .andi f => Sys2Proof.Machine.execAndi f s
  | .ori f => Sys2Proof.Machine.execOri f s
  | .xori f => Sys2Proof.Machine.execXori f s
  | .slti f => Sys2Proof.Machine.execSlti f s
  | .sltni f => Sys2Proof.Machine.execSltni f s
  | .slli f => Sys2Proof.Machine.execSlli f s
  | .srli f => Sys2Proof.Machine.execSrli f s
  | .srai f => Sys2Proof.Machine.execSrai f s
  | .lui f => Sys2Proof.Machine.execLui f s
  | .adpc f => Sys2Proof.Machine.execAdpc f s
  | .lit f => Sys2Proof.Machine.execLit f s
  | .lith f => Sys2Proof.Machine.execLith f s
  | .ldb f => Sys2Proof.Machine.execLdb f s
  | .ldh f => Sys2Proof.Machine.execLdh f s
  | .ldw f => Sys2Proof.Machine.execLdw f s
  | .ldd f => Sys2Proof.Machine.execLdd f s
  | .ldbn f => Sys2Proof.Machine.execLdbn f s
  | .ldhn f => Sys2Proof.Machine.execLdhn f s
  | .ldwn f => Sys2Proof.Machine.execLdwn f s
  | .stb f => Sys2Proof.Machine.execStb f s
  | .sth f => Sys2Proof.Machine.execSth f s
  | .stw f => Sys2Proof.Machine.execStw f s
  | .std f => Sys2Proof.Machine.execStd f s
  | .beq f => Sys2Proof.Machine.execBeq f s
  | .bne f => Sys2Proof.Machine.execBne f s
  | .blt f => Sys2Proof.Machine.execBlt f s
  | .bge f => Sys2Proof.Machine.execBge f s
  | .bltn f => Sys2Proof.Machine.execBltn f s
  | .bgen f => Sys2Proof.Machine.execBgen f s
  | .jmp f => Sys2Proof.Machine.execJmp f s
  | .jal f => Sys2Proof.Machine.execJal f s
  | .jalr f => Sys2Proof.Machine.execJalr f s
  | .loop f => Sys2Proof.Machine.execLoop f s
  | .vloop f => Sys2Proof.Machine.execVloop f s
  | .vsetl f => Sys2Proof.Machine.execVsetl f s
  | .vsetlq f => Sys2Proof.Machine.execVsetlq f s
  | .vadd f => Sys2Proof.Machine.execVadd f s
  | .vsub f => Sys2Proof.Machine.execVsub f s
  | .vand f => Sys2Proof.Machine.execVand f s
  | .vor f => Sys2Proof.Machine.execVor f s
  | .vxor f => Sys2Proof.Machine.execVxor f s
  | .vsll f => Sys2Proof.Machine.execVsll f s
  | .vsrl f => Sys2Proof.Machine.execVsrl f s
  | .vsra f => Sys2Proof.Machine.execVsra f s
  | .vmul f => Sys2Proof.Machine.execVmul f s
  | .vmulh f => Sys2Proof.Machine.execVmulh f s
  | .vmulhn f => Sys2Proof.Machine.execVmulhn f s
  | .vmin f => Sys2Proof.Machine.execVmin f s
  | .vmax f => Sys2Proof.Machine.execVmax f s
  | .vminn f => Sys2Proof.Machine.execVminn f s
  | .vmaxn f => Sys2Proof.Machine.execVmaxn f s
  | .vsadd f => Sys2Proof.Machine.execVsadd f s
  | .vsaddn f => Sys2Proof.Machine.execVsaddn f s
  | .vssub f => Sys2Proof.Machine.execVssub f s
  | .vssubn f => Sys2Proof.Machine.execVssubn f s
  | .vincw f => Sys2Proof.Machine.execVincw f s
  | .vaddb f => Sys2Proof.Machine.execVaddb f s
  | .vabs f => Sys2Proof.Machine.execVabs f s
  | .vclz f => Sys2Proof.Machine.execVclz f s
  | .vpopc f => Sys2Proof.Machine.execVpopc f s
  | .vsel f => Sys2Proof.Machine.execVsel f s
  | .vmov f => Sys2Proof.Machine.execVmov f s
  | .vmovStream f => Sys2Proof.Machine.execVmovStream f s
  | .vfadd f => Sys2Proof.Machine.execVfadd f s
  | .vfsub f => Sys2Proof.Machine.execVfsub f s
  | .vfmul f => Sys2Proof.Machine.execVfmul f s
  | .vfdiv f => Sys2Proof.Machine.execVfdiv f s
  | .vfsqrt f => Sys2Proof.Machine.execVfsqrt f s
  | .vfrsqrt f => Sys2Proof.Machine.execVfrsqrt f s
  | .vfexp2 f => Sys2Proof.Machine.execVfexp2 f s
  | .vflog2 f => Sys2Proof.Machine.execVflog2 f s
  | .vfmin f => Sys2Proof.Machine.execVfmin f s
  | .vfmax f => Sys2Proof.Machine.execVfmax f s
  | .vfabs f => Sys2Proof.Machine.execVfabs f s
  | .vfneg f => Sys2Proof.Machine.execVfneg f s
  | .vfsgn f => Sys2Proof.Machine.execVfsgn f s
  | .vfclass f => Sys2Proof.Machine.execVfclass f s
  | .vfma f => Sys2Proof.Machine.execVfma f s
  | .vfms f => Sys2Proof.Machine.execVfms f s
  | .vfnma f => Sys2Proof.Machine.execVfnma f s
  | .vwmac f => Sys2Proof.Machine.execVwmac f s
  | .vwmacn f => Sys2Proof.Machine.execVwmacn f s
  | .vwmacsn f => Sys2Proof.Machine.execVwmacsn f s
  | .vwmul f => Sys2Proof.Machine.execVwmul f s
  | .vwmuln f => Sys2Proof.Machine.execVwmuln f s
  | .vwadd f => Sys2Proof.Machine.execVwadd f s
  | .vwaddn f => Sys2Proof.Machine.execVwaddn f s
  | .vceq f => Sys2Proof.Machine.execVceq f s
  | .vcne f => Sys2Proof.Machine.execVcne f s
  | .vclt f => Sys2Proof.Machine.execVclt f s
  | .vcle f => Sys2Proof.Machine.execVcle f s
  | .vcltn f => Sys2Proof.Machine.execVcltn f s
  | .vclen f => Sys2Proof.Machine.execVclen f s
  | .vfceq f => Sys2Proof.Machine.execVfceq f s
  | .vfclt f => Sys2Proof.Machine.execVfclt f s
  | .vfcle f => Sys2Proof.Machine.execVfcle f s
  | .vfcun f => Sys2Proof.Machine.execVfcun f s
  | .pand f => Sys2Proof.Machine.execPand f s
  | .por f => Sys2Proof.Machine.execPor f s
  | .pxor f => Sys2Proof.Machine.execPxor f s
  | .pandn f => Sys2Proof.Machine.execPandn f s
  | .pnot f => Sys2Proof.Machine.execPnot f s
  | .pset f => Sys2Proof.Machine.execPset f s
  | .ppopc f => Sys2Proof.Machine.execPpopc f s
  | .pfirst f => Sys2Proof.Machine.execPfirst f s
  | .pmvx f => Sys2Proof.Machine.execPmvx f s
  | .vpopq f => Sys2Proof.Machine.execVpopq f s
  | .vperm f => Sys2Proof.Machine.execVperm f s
  | .vslup f => Sys2Proof.Machine.execVslup f s
  | .vsldn f => Sys2Proof.Machine.execVsldn f s
  | .vbcast f => Sys2Proof.Machine.execVbcast f s
  | .vrshp f => Sys2Proof.Machine.execVrshp f s
  | .vcomp f => Sys2Proof.Machine.execVcomp f s
  | .vexpd f => Sys2Proof.Machine.execVexpd f s
  | .vsortk f => Sys2Proof.Machine.execVsortk f s
  | .vredadd f => Sys2Proof.Machine.execVredadd f s
  | .vredmin f => Sys2Proof.Machine.execVredmin f s
  | .vredmax f => Sys2Proof.Machine.execVredmax f s
  | .vredminn f => Sys2Proof.Machine.execVredminn f s
  | .vredmaxn f => Sys2Proof.Machine.execVredmaxn f s
  | .vfredadd f => Sys2Proof.Machine.execVfredadd f s
  | .vfredmin f => Sys2Proof.Machine.execVfredmin f s
  | .vfredmax f => Sys2Proof.Machine.execVfredmax f s
  | .vredand f => Sys2Proof.Machine.execVredand f s
  | .vredor f => Sys2Proof.Machine.execVredor f s
  | .vcvtfi f => Sys2Proof.Machine.execVcvtfi f s
  | .vcvtfn f => Sys2Proof.Machine.execVcvtfn f s
  | .vcvtif f => Sys2Proof.Machine.execVcvtif f s
  | .vcvtnf f => Sys2Proof.Machine.execVcvtnf f s
  | .vcvtff f => Sys2Proof.Machine.execVcvtff f s
  | .vquant f => Sys2Proof.Machine.execVquant f s
  | .vdequant f => Sys2Proof.Machine.execVdequant f s
  | .vsplat f => Sys2Proof.Machine.execVsplat f s
  | .vins f => Sys2Proof.Machine.execVins f s
  | .vext f => Sys2Proof.Machine.execVext f s
  | .viota f => Sys2Proof.Machine.execViota f s
  | .vord f => Sys2Proof.Machine.execVord f s
  | .vld f => Sys2Proof.Machine.execVld f s
  | .vlds f => Sys2Proof.Machine.execVlds f s
  | .vldx f => Sys2Proof.Machine.execVldx f s
  | .vldw f => Sys2Proof.Machine.execVldw f s
  | .vldsq f => Sys2Proof.Machine.execVldsq f s
  | .vgl f => Sys2Proof.Machine.execVgl f s
  | .vldb f => Sys2Proof.Machine.execVldb f s
  | .vst f => Sys2Proof.Machine.execVst f s
  | .vsts f => Sys2Proof.Machine.execVsts f s
  | .vstx f => Sys2Proof.Machine.execVstx f s
  | .vstw f => Sys2Proof.Machine.execVstw f s
  | .vstsq f => Sys2Proof.Machine.execVstsq f s
  | .vstb f => Sys2Proof.Machine.execVstb f s
  | .vsc f => Sys2Proof.Machine.execVsc f s
  | .fenceSv f => Sys2Proof.Machine.execFenceSv f s
  | .fenceVs f => Sys2Proof.Machine.execFenceVs f s
  | .fenceVv f => Sys2Proof.Machine.execFenceVv f s
  | .xfence f => Sys2Proof.Machine.execXfence f s
  | .phend f => Sys2Proof.Machine.execPhend f s
  | .phaseEndComplete e => Sys2Proof.Machine.execPhaseEndComplete e s
  | .phase f => Sys2Proof.Machine.execPhase f s
  | .waitge f => Sys2Proof.Machine.execWaitge f s
  | .waitne f => Sys2Proof.Machine.execWaitne f s
  | .unlink f => Sys2Proof.Machine.execUnlink f s
  | .lace f => Sys2Proof.Machine.execLace f s
  | .sunbind f => Sys2Proof.Machine.execSunbind f s
  | .spos f => Sys2Proof.Machine.execSpos f s
  | .sadv f => Sys2Proof.Machine.execSadv f s
  | .stabl f => Sys2Proof.Machine.execStabl f s
  | .cpyIn f => Sys2Proof.Machine.execCpyIn f s
  | .cpyInp f => Sys2Proof.Machine.execCpyInp f s
  | .cpyOut f => Sys2Proof.Machine.execCpyOut f s
  | .cpyPeer f => Sys2Proof.Machine.execCpyPeer f s
  | .cpyMem f => Sys2Proof.Machine.execCpyMem f s
  | .copyCompletion e => Sys2Proof.Machine.execCopyCompletion e s
  | .peerDelivery e => Sys2Proof.Machine.execPeerDelivery e s
  | .tdef f => Sys2Proof.Machine.execTdef f s
  | .tfree f => Sys2Proof.Machine.execTfree f s
  | .twait f => Sys2Proof.Machine.execTwait f s
  | .tstat f => Sys2Proof.Machine.execTstat f s
  | .tready f => Sys2Proof.Machine.execTready f s
  | .mma f => Sys2Proof.Machine.execMma f s
  | .mmav f => Sys2Proof.Machine.execMmav f s
  | .matrixJobStart e => Sys2Proof.Machine.execMatrixJobStart e s
  | .matrixJobComplete e => Sys2Proof.Machine.execMatrixJobComplete e s
  | .xchg f => Sys2Proof.Machine.execXchg f s
  | .exchangeBlockLanding e => Sys2Proof.Machine.execExchangeBlockLanding e s
  | .sdecl f => Sys2Proof.Machine.execSdecl f s
  | .sclr f => Sys2Proof.Machine.execSclr f s
  | .sfree f => Sys2Proof.Machine.execSfree f s
  | .ssave f => Sys2Proof.Machine.execSsave f s
  | .sload f => Sys2Proof.Machine.execSload f s
  | .smrg f => Sys2Proof.Machine.execSmrg f s
  | .smrgm f => Sys2Proof.Machine.execSmrgm f s
  | .stype f => Sys2Proof.Machine.execStype f s
  | .supdMom f => Sys2Proof.Machine.execSupdMom f s
  | .supdRes f => Sys2Proof.Machine.execSupdRes f s
  | .supdTopk f => Sys2Proof.Machine.execSupdTopk f s
  | .supdQh f => Sys2Proof.Machine.execSupdQh f s
  | .supdCms f => Sys2Proof.Machine.execSupdCms f s
  | .supdVacc f => Sys2Proof.Machine.execSupdVacc f s
  | .supdVaccm f => Sys2Proof.Machine.execSupdVaccm f s
  | .sqMom f => Sys2Proof.Machine.execSqMom f s
  | .sqRes f => Sys2Proof.Machine.execSqRes f s
  | .sqResn f => Sys2Proof.Machine.execSqResn f s
  | .sqTopk f => Sys2Proof.Machine.execSqTopk f s
  | .sqQh f => Sys2Proof.Machine.execSqQh f s
  | .sqCms f => Sys2Proof.Machine.execSqCms f s
  | .sqVacc f => Sys2Proof.Machine.execSqVacc f s
  | .sqTile f => Sys2Proof.Machine.execSqTile f s
  | .sqFlags f => Sys2Proof.Machine.execSqFlags f s
  | .qdeal f => Sys2Proof.Machine.execQdeal f s
  | .qdealf f => Sys2Proof.Machine.execQdealf f s
  | .qtab f => Sys2Proof.Machine.execQtab f s
  | .qseed f => Sys2Proof.Machine.execQseed f s
  | .seatq f => Sys2Proof.Machine.execSeatq f s
  | .seatw f => Sys2Proof.Machine.execSeatw f s
  | .seatr f => Sys2Proof.Machine.execSeatr f s
  | .seatf f => Sys2Proof.Machine.execSeatf f s
  | .seatp f => Sys2Proof.Machine.execSeatp f s
  | .seatin f => Sys2Proof.Machine.execSeatin f s
  | .seatx f => Sys2Proof.Machine.execSeatx f s
  | .seatst f => Sys2Proof.Machine.execSeatst f s
  | .rep f => Sys2Proof.Machine.execRep f s
  | .trap f => Sys2Proof.Machine.execTrap f s
  | .csrr f => Sys2Proof.Machine.execCsrr f s
  | .csrw f => Sys2Proof.Machine.execCsrw f s
  | .csrx f => Sys2Proof.Machine.execCsrx f s
  | .halt f => Sys2Proof.Machine.execHalt f s
  | .yield f => Sys2Proof.Machine.execYield f s
  | .brk f => Sys2Proof.Machine.execBrk f s
  | .rett f => Sys2Proof.Machine.execRett f s
  | .lbrk f => Sys2Proof.Machine.execLbrk f s
  | .spawn f => Sys2Proof.Machine.execSpawn f s
  | .spawnResult e => Sys2Proof.Machine.execSpawnResult e s
  | .nop => Sys2Proof.Machine.execNop s
  | .vaddi f => Sys2Proof.Machine.execVaddi f s
  | .vandi f => Sys2Proof.Machine.execVandi f s
  | .vori f => Sys2Proof.Machine.execVori f s
  | .vxori f => Sys2Proof.Machine.execVxori f s
  | .vslli f => Sys2Proof.Machine.execVslli f s
  | .vsrli f => Sys2Proof.Machine.execVsrli f s
  | .vsrai f => Sys2Proof.Machine.execVsrai f s
  | .vmini f => Sys2Proof.Machine.execVmini f s
  | .vmaxi f => Sys2Proof.Machine.execVmaxi f s
  | .vceqi f => Sys2Proof.Machine.execVceqi f s
  | .loadLanding e => Sys2Proof.Machine.execLoadLanding e s
  | .preemptionRequest e => Sys2Proof.Machine.execPreemptionRequest e s
  | .preemptionLanding e => Sys2Proof.Machine.execPreemptionLanding e s
  | .handResume e => Sys2Proof.Machine.execHandResume e s
  | .watchdog e => Sys2Proof.Machine.execWatchdog e s
  | .submissionRecord e => Sys2Proof.Machine.execSubmissionRecord e s
  | .graphAdmit => Sys2Proof.Machine.execGraphAdmit s
  | .nodeDispatch => Sys2Proof.Machine.execNodeDispatch s
  | .declaredFill e => Sys2Proof.Machine.execDeclaredFill e s
  | .nodeComplete e => Sys2Proof.Machine.execNodeComplete e s
  | .systemThreadExit e => Sys2Proof.Machine.execSystemThreadExit e s
  | .pairCommit e => Sys2Proof.Machine.execPairCommit e s
  | .powerWindow e => Sys2Proof.Machine.execPowerWindow e s
  | .bankFail e => Sys2Proof.Machine.execBankFail e s
  | .patrolScrub e => Sys2Proof.Machine.execPatrolScrub e s
  | .stackOffline e => Sys2Proof.Machine.execStackOffline e s
  | .clusterMismatchLimit e => Sys2Proof.Machine.execClusterMismatchLimit e s
  | .coreRetire e => Sys2Proof.Machine.execCoreRetire e s
  | .reset e => Sys2Proof.Machine.execReset e s
  | .powerRamp e => Sys2Proof.Machine.execPowerRamp e s
  | .clockLock e => Sys2Proof.Machine.execClockLock e s
  | .crossingCalibration e => Sys2Proof.Machine.execCrossingCalibration e s
  | .hbmTraining e => Sys2Proof.Machine.execHbmTraining e s
  | .crossingLost e => Sys2Proof.Machine.execCrossingLost e s
  | .fieldLost e => Sys2Proof.Machine.execFieldLost e s
  | .queueEnable e => Sys2Proof.Machine.execQueueEnable e s
  | .tail e => Sys2Proof.Machine.execTail e s
  | .registerWrite e => Sys2Proof.Machine.execRegisterWrite e s
  | .asidLoad e => Sys2Proof.Machine.execAsidLoad e s
  | .invalidate e => Sys2Proof.Machine.execInvalidate e s
  | .ctxRegion e => Sys2Proof.Machine.execCtxRegion e s
  | .objOwner e => Sys2Proof.Machine.execObjOwner e s
  | .setFlim e => Sys2Proof.Machine.execSetFlim e s
  | .resume e => Sys2Proof.Machine.execResume e s
  | .forward e => Sys2Proof.Machine.execForward e s
  | .cancel e => Sys2Proof.Machine.execCancel e s
  | .setTimeout e => Sys2Proof.Machine.execSetTimeout e s
  | .cancelGraph e => Sys2Proof.Machine.execCancelGraph e s
  | .stripBreakpoint e => Sys2Proof.Machine.execStripBreakpoint e s
  | .watchpoint e => Sys2Proof.Machine.execWatchpoint e s
  | .machineHalt e => Sys2Proof.Machine.execMachineHalt e s
  | .machineResume e => Sys2Proof.Machine.execMachineResume e s
  | .dudelRegion e => Sys2Proof.Machine.execDudelRegion e s
  | .gangSet e => Sys2Proof.Machine.execGangSet e s
  | .deviceNumber e => Sys2Proof.Machine.execDeviceNumber e s
  | .reduce e => Sys2Proof.Machine.execReduce e s
  | .mcast e => Sys2Proof.Machine.execMcast e s
  | .attest e => Sys2Proof.Machine.execAttest e s
  | .tileReset e => Sys2Proof.Machine.execTileReset e s
  | .debuggerStop e => Sys2Proof.Machine.execDebuggerStop e s
  | .debuggerWrite e => Sys2Proof.Machine.execDebuggerWrite e s
  | .debuggerRestart e => Sys2Proof.Machine.execDebuggerRestart e s
  | .inboundRequest e => Sys2Proof.Machine.execInboundRequest e s
  | .linkTraining e => Sys2Proof.Machine.execLinkTraining e s
  | .linkDown e => Sys2Proof.Machine.execLinkDown e s
  | .gangAcceptance e => Sys2Proof.Machine.execGangAcceptance e s
  | .gangLaunchTimeout e => Sys2Proof.Machine.execGangLaunchTimeout e s
  | .gangAbort e => Sys2Proof.Machine.execGangAbort e s
  | .reductionComplete e => Sys2Proof.Machine.execReductionComplete e s
  | .reductionTimeout e => Sys2Proof.Machine.execReductionTimeout e s
  | .mcastAck e => Sys2Proof.Machine.execMcastAck e s
  | .replayDelivery e => Sys2Proof.Machine.execReplayDelivery e s
  | .storeAcknowledged e => Sys2Proof.Machine.execStoreAcknowledged e s
  | .copyBytesLanded e => Sys2Proof.Machine.execCopyBytesLanded e s
  | .failingCoreClear e => Sys2Proof.Machine.execFailingCoreClear e s
  | .systemCoreAccess e => Sys2Proof.Machine.execSystemCoreAccess e s

end Sys2Proof.Machine
end

