-- ==== Sys2Proof/Machine/Issue.lean ====
section
/-! DEFINITION. How a hand issues: the fetch, the checks of R164 in their order, repeat frames (R166), convoys (R162, R163), the vector
sequencer (R346, R347), and the points that an instruction ends at (Table 7.10); who moves next; how a test places an instruction. -/

namespace Sys2Proof.Machine

/-! ## The fate of a word (R164) -/

/-- The word with other B and TB fields. -/
def withB (w : Word) (b : Fld5) (tb : Bit) : Word := joinWord { splitWord w with b := b, tb := tb }

/-- Has the instruction of a word with a reserved field set no function at this SEW (R241)? Its function is found with B and TB at
values that decode. -/
noncomputable def sewUnfit (w : Word) (h : Hand) : Bool :=
  let unfit (w : Word) : Bool := match decodeWords w 0 with
    | .ok i => ((vshape i).map (fun v => !v.sews.contains h.csr.sew.toNat)).getD false
    | .error _ => false
  let w := joinWord { splitWord w with c := 0 }
  unfit (withB w (splitWord w).b 0) || unfit (withB w 0 0) || unfit (withB w 2 0)

/-- An encoding fault of a word. -/
def wordTrap (c : Cause) (w : Word) : Trap := Trap.mk' c (w.setWidth 64)

/-- R164's checks up to the fields of the word: the instruction, or the trap. -/
noncomputable def early (w lit : Word) (h : Hand) : Except Trap Instr :=
  match decodeWords w lit with
  | .error .zero => .error (Trap.mk' .zeroWord 0)
  | .error .illegal => .error (wordTrap .illegalOpcode w)
  | .error .truncated => .error (wordTrap .illegalOpcode w)
  | .error .reserved => .error (wordTrap (if sewUnfit w h then .illegalOpcode else .reservedField) w)
  | .ok i => match encFault i h with
    | some .illegalOpcode => .error (wordTrap .illegalOpcode w)
    | some .reservedField => .error (wordTrap .reservedField w)
    | _ => .ok i

/-- R164's last checks: groups. -/
def late (i : Instr) (w : Word) (h : Hand) : Option Trap :=
  match encFault i h with
  | some c => if c = .groupAlign ∨ c = .groupOverlap then some (wordTrap c w) else none
  | none => none

/-- All of R164 for a word that stands alone. -/
noncomputable def fate (w lit : Word) (h : Hand) : Except Trap Instr :=
  match early w lit h with
  | .error t => .error t
  | .ok i => match late i w h with
    | some t => .error t
    | none => .ok i

/-- Does a word belong to the convoy set (Table 8.4)? -/
def vectorWord (w : Word) : Bool := convoyMajor (w.extractLsb' 25 6)

/-- The pipe of a word of the convoy set (Table 8.4). -/
def pipeOf (w : Word) : Pipe :=
  let m := majOf w
  if m = 35 ∨ m = 34 ∨ m = 36 ∨ m = 38 then .perm else if m = 39 ∨ m = 40 ∨ m = 41 then .mem else if m = 50 ∨ m = 52 then .summ else .arith

/-- Is the word a qtab or a qseed (R319)? -/
noncomputable def dealBind (w : Word) : Bool :=
  match decodeWords w 0 with
  | .ok (.qtab _) => true
  | .ok (.qseed _) => true
  | _ => false

/-! ## One instruction -/

/-- Was a guarded instruction of hand `h` executed (R168)? -/
def Hand.guardOn (h : Hand) (g : BitVec 3) : Bool := g == 0 || h.getX (g.setWidth 5) != 0

/-- Does the instruction end at a point of the fourth row of Table 7.10: a taken backward branch, by its offset (R187), which every jmp is
(R188), or an iteration end (R191), which changes the loop stack as no instruction but loop and lbrk does? -/
def endsAtPoint (i : Instr) (a b : Hand) : Bool :=
  let iteration := b.loops != a.loops
  match i with
  | .beq f | .bne f | .blt f | .bge f | .bltn f | .bgen f => (f.off.sle 0 && b.pc == target12 a.pc f.off) || iteration
  | .vloop f => (f.off.sle 0 && b.pc == target12 a.pc f.off && b.csr.stripno == a.csr.stripno) || iteration
  | .jalr _ => decide (b.pc.toNat ≤ a.pc.toNat) || iteration
  | .jmp f => a.guardOn f.g || iteration
  | .loop _ => false
  | .lbrk f => if a.guardOn f.g then b.loops != a.loops.drop 1 else iteration
  | _ => iteration

/-- A hand after an instruction that it issued as `a`: `point` says whether it ended at a point where a request can land (R150, R353), the
fourth row's or a vloop's fall-through; the stop that a restart had to pass is behind it (R391). -/
def State.issued (s : State) (i : Instr) (a : Hand) : State :=
  let ends := endsAtPoint i a s.hand
  let fell := match i with
    | .vloop _ => s.hand.csr.stripno != a.csr.stripno
    | _ => false
  let point := fell || (ends && (s.hand.csr.stripno == 0 || s.hand.strip.prot))
  let s := { s with hand := { s.hand with sched := { s.hand.sched with point := point, skipStop := false } } }
  if s.hand.status = .running ∧ ends then s.backPoint else s

/-- The state in which hand `h`'s instruction did not complete: the reads that it made are made again with it (R82). -/
def State.redraw (s : State) (h : Hand) : State :=
  { s with hand := { s.hand with strip := { s.hand.strip with drawn := Nat.min s.hand.strip.drawn h.strip.drawn } } }

/-- The outcome of hand `h`'s instruction with the point that it ends at. -/
def atEnd (i : Instr) (h : Hand) (o : Host.Outcome State Fault Refusal) : Host.Outcome State Fault Refusal :=
  match o with
  | .next s => .next (if s.latch = .clear then s.issued i h else s.redraw h)
  | o => o

/-- Who decides whether the current hand may issue a word. -/
abbrev Gate := State → Word → State × Bool

/-- The decoded instruction runs: it waits for the vector unit, or has its effect. -/
def State.run (gate : Gate) (s : State) (w : Word) (i : Instr) : Host.Outcome State Fault Refusal :=
  match gate s w with
  | (s, false) => .next (s.waits .vector)
  | (s, true) => atEnd i s.hand (exec i s)

/-- A trap of the current hand. -/
def State.raises (s : State) (t : Trap) : Host.Outcome State Fault Refusal := finish (.error (.trap t s))

/-! ## Convoys -/

/-- The words after a head that belong to its convoy: those with C = 1, at most `n`, until a fetch fails. -/
def State.followers (s : State) (n : Nat) (va : Reg64) : State × List Word :=
  match n with
  | 0 => (s, [])
  | n + 1 => match s.fetchWord va with
    | .ok (s', w) =>
      if cOf w then
        let (s', l) := s'.followers n (va + 4)
        (s', w :: l)
      else (s', [])
    | .error _ => (s, [])

/-- The checks of a convoy (R163, R164) from its `k`-th word on: the instructions, or the first failing member's trap. R163 gives
TIDX0 the positions 1 to 3; a fourth word with C = 1 reports 4 here (the model's choice, log 9). -/
noncomputable def convoyCheck (h : Hand) (head : Word) : Nat → List Pipe → List Word → Except Trap (List Instr)
  | _, _, [] => .ok []
  | k, pipes, w :: l =>
    let at' (t : Trap) : Trap := t.at' k
    match early w 0 h with
    | .error t => .error (at' t)
    | .ok i =>
      if k ≠ 0 ∧ (3 < k ∨ dealBind w ∨ dealBind head ∨ pipes.contains (pipeOf w)) then .error (at' (wordTrap .convoyConflict w))
      else match late i w h with
        | some t => .error (at' t)
        | none => match convoyCheck h head (k + 1) (pipes ++ [pipeOf w]) l with
          | .error t => .error t
          | .ok is => .ok (i :: is)

/-- How the members of a convoy went: the state that the last of them left, the state before it, that member where it did not complete,
and what the others made outstanding. -/
structure Convoy where
  after : State
  mid : State
  stopped : Option Instr
  made : List Producer

/-- The members run in order; a member's outstanding producers are hidden from those after it, which chain (R162). -/
def State.members (s : State) (old : List Producer) (new : List Producer) : List Instr → Convoy
  | [] => ⟨s, s, none, new⟩
  | i :: l =>
    match exec i s with
    | .next s' =>
      let made := s'.hand.producers.drop old.length
      let s'' := { s' with hand := { s'.hand with producers := old } }
      if s'.latch = .clear then s''.members old (new ++ made) l else ⟨s', s, some i, new⟩
    | _ => ⟨s, s, some i, new⟩

/-- A core as a convoy that does not complete leaves it: what the shifted check counted, and the grant that a wait gave up. -/
def Core.counted (c after : Core) : Core := { c with clusters := after.clusters, granted := after.granted }

/-- Does an instruction perform its elements one at a time, so that those before a faulting one stay (R116)? -/
def oneAtATime : Option Instr → Bool
  | some (.vldsq _) | some (.vstsq _) => true
  | _ => false

/-- A hand whose stream pop faulted: nothing of the stream's read-ahead is left, so that the pop executed again reads afresh (R269). -/
def Hand.popFaulted (h : Hand) (i : Option Instr) : Hand :=
  match i with
  | some (.vmovStream f) => { h with streams := h.streams.setIfInBounds f.n.toNat ((h.streams[f.n.toNat]?).join.map Stream.afresh) }
  | _ => h

/-- What a convoy that traps leaves (R163, R357): the state before it, but for what the shifted check and the stalls counted; where the
trapping member passed its commit point, that commit; where it is a stream's pop, no read-ahead; and of an SC access the elements before
the faulting one (R116). -/
def Convoy.undo (v : Convoy) (before : State) (trap : Bool) : State :=
  let after := v.after
  let committed := v.mid.hand.strip.prot && !after.hand.strip.prot
  let b := if committed then before.commit else before
  let h := { b.hand with
    csr := { b.hand.csr with mismatch := after.hand.csr.mismatch }
    sched := { b.hand.sched with mismatches := after.hand.sched.mismatches } }
  let h := h.stalled after.hand.strip.record.stall
  let h := if trap then h.popFaulted v.stopped else h
  if trap && oneAtATime v.stopped then
    { b with
      freeCtr := after.freeCtr, cores := after.cores, fields := after.fields, mem := after.mem, tasks := after.tasks
      dudel := after.dudel, hand := { h with ord := after.hand.ord } }
  else
    let c := b.hand.core
    { b.modCore c (fun k => k.counted (after.core c)) with hand := h, fields := after.fields }

/-- Is a trap the shifted check's: of three runs that differ, or of one disagreement too many (R261, R362)? -/
def Trap.ofCheck (t : Trap) : Bool := t.cause == .stripRetryExhausted || (t.cause == .uncorrectable && t.struct == 5)

/-- The beats that a convoy's members issue, all of them, charged to a state that the shifted check left (R162, R348). -/
def State.chargedAll (s before : State) (old : List Producer) (is : List Instr) : State :=
  s.spent (({ before with hand := { before.hand with sched := { before.hand.sched with mismatches := [] } } }).members old [] is).after

/-- A checked convoy of `n` words issues as one: all of it, or none of it. While a member has to wait, none of them has issued; only the
drain that it waits for at an order point stays (R114). -/
def State.runConvoy (s : State) (is : List Instr) : Host.Outcome State Fault Refusal :=
  let head := s.hand.pc
  let old := s.hand.producers
  let s0 := { s with hand := { s.hand with convoy := some head } }
  let v := s0.members old [] is
  match v.after.latch with
  | .trapped tr => (if tr.ofCheck && s.checked then (v.undo s true).chargedAll s0 old is else v.undo s true).raises tr
  | .waited .rewound => .next (if s.checked then v.after.chargedAll s0 old is else v.after)
  | .waited w => .next ((if w = .order then v.undo s false else { v with mid := v.after }.undo s false).waits w)
  | .clear =>
    let h := { v.after.hand with convoy := none, producers := old ++ v.made }
    let h := h.iterEnd head.toNat (head.toNat + 4 * is.length)
    .next (({ v.after with hand := h }).issued (is.headD .nop) s.hand)

/-! ## Issue -/

/-- The member of the current repeat frame (R166): its word as the rep captured it, staggered and checked; REPIDX names it. A frame that
is resumed has its words fetched first (R176). -/
noncomputable def State.issueMember (gate : Gate) (s : State) (f : Frame) : Host.Outcome State Fault Refusal :=
  match f.words[f.j]? with
  | none => finish (s.resumeFrame s.hand.pc id)
  | some w =>
    let s := { s with hand := { s.hand with csr := { s.hand.csr with repidx := repIdx f.k f.j } } }
    let w := f.stagger w
    match fate w 0 s.hand with
    | .error t => s.raises t
    | .ok i => s.run gate w i

/-- The instruction at the PC: its word and, for lit and lith, the literal (R165). The literal is fetched before the guard is tested, so
that one that cannot be fetched faults a guarded-off lit too: R165 has it fetched and consumed, R168 lets a guarded-off instruction raise
none but encoding faults (the model's choice, log 9). -/
noncomputable def State.issueAtPc (gate : Gate) (s : State) : Host.Outcome State Fault Refusal :=
  match s.fetchWord s.hand.pc with
  | .error e => finish (.error e)
  | .ok (s, w) =>
    if takesLiteral w then
      match early w 0 s.hand with
      | .error t => s.raises t
      | .ok _ => match s.fetchWord (s.hand.pc + 4) with
        | .error e => finish (.error e)
        | .ok (s, l) => match fate w l s.hand with
          | .error t => s.raises t
          | .ok i => s.run gate w i
    else if cOf w then
      match early w 0 s.hand with
      | .error t => s.raises t
      | .ok _ => s.raises (wordTrap .convoyConflict w)
    else if vectorWord w then
      let (s, l) := s.followers 4 (s.hand.pc + 4)
      if l.isEmpty then
        match fate w 0 s.hand with
        | .error t => s.raises t
        | .ok i => s.run gate w i
      else match convoyCheck s.hand w 0 [] (w :: l) with
        | .error t => s.raises t
        | .ok is => match gate s w with
          | (s, false) => .next (s.waits .vector)
          | (s, true) => s.runConvoy is
    else
      match fate w 0 s.hand with
      | .error t => s.raises t
      | .ok i => s.run gate w i

/-- What the hand has to issue next, a frame's member or the instruction at the PC, tried under a gate. -/
noncomputable def State.issueBy (gate : Gate) (s : State) : Host.Outcome State Fault Refusal :=
  match s.hand.frame with
  | some f => s.issueMember gate f
  | none => s.issueAtPc gate

/-! ## The vector sequencer -/

/-- The hand that runs in a slot of a core. -/
def State.inSlot (s : State) (c sl : Nat) : Option Hand := s.allHands.find? (fun h => h.runsIn c sl)

/-- Is a hand's wait for a tile over: would the instruction at its PC, tried with the unit, no longer wait there (R69, R346)? -/
noncomputable def State.waitOver (s : State) (h : Hand) : Bool :=
  let s := s.focus h.id
  match ({ s with latch := .clear, hand := { s.hand with status := .running } }).issueBy (fun s _ => (s, true)) with
  | .next t => t.latch != .waited .tileGate
  | _ => true

/-- Has the hand a pending strip (R346)? One whose vector issue waits for a tile has it again when the wait ends. -/
noncomputable def State.pendingStrip (s : State) (h : Hand) : Bool :=
  h.csr.stripno != 0 && ((s.nextWord h).map vectorWord).getD false &&
    (h.status == .running || h.status == .waiting .vector || (h.status == .waiting .tileGate && s.waitOver h))

/-- One choice (R347) over the slots of a core, replenishing at most `n` times while some hand is pending: the slot, and the state with
the deficits. -/
noncomputable def State.chooseHand (s : State) (c : Nat) : Nat → State × Option Nat
  | 0 => (s, none)
  | n + 1 =>
    let slots := (upFrom ((s.core c).ptr + 1) 4).map (· % 4)
    let able (sl : Nat) : Bool := ((s.inSlot c sl).map (fun h => s.pendingStrip h && decide (0 < h.sched.deficit))).getD false
    match slots.find? able with
    | some sl => (s.modCore c (fun k => { k with granted := some sl, ptr := sl }), some sl)
    | none =>
      if !(s.allHands.any (fun h => h.core == c && s.pendingStrip h)) then (s, none) else
      let gain (h : Hand) : Hand :=
        if h.core = c ∧ h.living ∧ h.status ≠ .saved then
          let d := h.sched.deficit + quantum h.prio
          { h with sched := { h.sched with deficit := if s.pendingStrip h then d else min d (quantum h.prio) } }
        else h
      (s.mapHands gain).chooseHand c n

/-- Replenishments that bring some pending hand above zero. -/
def State.rounds (s : State) (c : Nat) : Nat :=
  ((s.allHands.filter (fun h => h.core == c)).foldl (fun a h => Nat.max a ((-h.sched.deficit).toNat / 4096)) 0) + 2

/-- The sequencer of each core whose granted hand has given the unit up since `before` chooses at once (R346): hands that are pending
then. Where none is, the unit stays free until one is. -/
noncomputable def State.regrant (before s : State) : State :=
  (before.cores.filter (fun ck => ck.2.granted.isSome && (s.core ck.1).granted.isNone)).foldl (fun (s : State) ck =>
    (s.chooseHand ck.1 (s.rounds ck.1)).1) s

/-- An outcome after which the sequencers have chosen. -/
noncomputable def regranted (before : State) (o : Host.Outcome State Fault Refusal) : Host.Outcome State Fault Refusal :=
  match o with
  | .next s => .next (before.regrant s)
  | o => o

/-- May the current hand issue a word (R346)? A vector word of an opened strip needs the grant; with the unit free, a choice is made. A hand
whose wait for a tile has not ended tries again without one, and goes on waiting. -/
noncomputable def State.grant (s : State) (w : Word) : State × Bool :=
  if !vectorWord w || s.hand.csr.stripno == 0 then (s, true)
  else if s.hand.status == .waiting .tileGate && !s.waitOver s.hand then (s, true)
  else
    let c := s.hand.core
    match (s.core c).granted with
    | some sl => (s, sl == s.hand.slot)
    | none =>
      let s := { s with hand := { s.hand with status := .running } }
      let (s, g) := s.chooseHand c (s.rounds c)
      (s, g == some s.hand.slot)

/-- May the hand try to issue? The waits at a point where a request has to land, and those for a debugger, hold it. -/
def Hand.tries (h : Hand) : Bool :=
  match h.status with
  | .running => true
  | .waiting .point | .waiting .rewound | .waiting .after | .waiting .stop | .waiting (.save _) => false
  | .waiting _ => true
  | _ => false

/-- The current hand moves: an error that an engine met for it is delivered first (R74), then a trap that is due (R357), each once no
spawn's status is outstanding; then it issues. -/
noncomputable def State.moveHand (s : State) : Host.Outcome State Fault Refusal :=
  let s := { s with latch := .clear }
  if !s.hand.tries then .next s
  else match s.hand.sched.unrecoverable with
    | some t =>
      if s.hand.spawning then .next (s.waits .register)
      else
        let s := { s with hand := { s.hand with sched := { s.hand.sched with unrecoverable := none } } }
        .next ((s.countBad t).toSystem t s.hand.strip.prot)
    | none => match s.hand.sched.due with
      | some t =>
        if s.hand.spawning then .next (s.waits .register)
        else ({ s with hand := { s.hand with sched := { s.hand.sched with due := none } } }).raises t
      | none => s.issueBy State.grant

/-! ## Who moves -/

/-- A counter more. -/
def bumped (m : SMap Nat) (k : Nat) : SMap Nat := mput 0 m k (mget 0 m k + 1)

/-- Another device's multicast arrives (R408): taken unless the machine is halted (R392), no port is up, the address is none, or a stack
that it needs is coming up (R412). -/
def State.multicastArrives (s : State) (addr : Nat) (bytes : List Byte) : State :=
  let kb := atAddr addr bytes
  if s.pod.halted || !kb.all (fun b => mappable b.1) || s.memUp addr bytes.length == none then s
  else match s.upPort.bind (fun p => s.arrives (256 + p) bytes.length addr) with
    | none => s
    | some s => s.physWrite addr bytes

/-- The bytes that no longer decode with one of them: the 30 of its stripe of a bench (R63), the 64 of its HBM4E code word (R56). Which
bytes of a cached line form a stripe the spec does not say; there it is the one byte (log 97). -/
def badSpan (k : Nat) (cached : Bool) : List Nat :=
  if isBench k then
    let o := placeOf k
    (upFrom (k - o % 30) 30).filter (fun a => decide (placeOf a < Config.benchHole))
  else if cached then [k]
  else upFrom (k / 64 * 64) 64

/-- STRUCT and UNIT of such a byte: its bank of the bench, unless a check symbol's bank is named (R63), the bank of a cache, or the
stack. -/
def badPlace (k : Nat) (cached : Bool) (bank : Nat) : Nat × Nat :=
  if isBench k then (3, if bank = 30 ∨ bank = 31 then bank else placeOf k % 30)
  else if cached then (2, bank)
  else (1, k / Config.stackBytes)

/-- The environment disturbs (R64, R74, R261, R58, R393, R344). -/
def State.upset (s : State) (u : Upset) : State :=
  match u with
  | .badByte k cached bank =>
    { s with mem := { s.mem with bad := (badSpan k cached).foldl (fun m a => mins m a (badPlace a cached bank)) s.mem.bad } }
  | .badHand h st unit =>
    { s with mem := { s.mem with badHands := s.mem.badHands.filter (fun b => (b.1, b.2.1) != (h, st)) ++ [(h, st, unit)] } }
  | .repaired => { s with mem := { s.mem with bad := [], badHands := [] } }
  | .corrected unit kind bank =>
    if kind < 4 then s.modCore unit (fun k => { k with corrected := bumped k.corrected (32 * kind + bank) })
    else s.modField unit (fun k => { k with corrected := bumped k.corrected (if kind = 4 then bank else 512 + bank) })
  | .rebuilt unit kind =>
    if kind < 4 then s.modCore unit (fun k => { k with rebuilds := k.rebuilds + 1 })
    else s.modField unit (fun k => { k with rebuilds := k.rebuilds + 1 })
  | .mismatch h lane maj => s.modHand h (fun h => { h with sched := { h.sched with mismatches := h.sched.mismatches ++ [(lane, maj)] } })
  | .evict line => match mfind s.mem.tags line with
    | none => s
    | some t =>
      if !s.leastUsed line t || s.dudel.replay then s else s.evict line
  | .entropy core value => s.drawEntropy core value
  | .multicast addr bytes => s.multicastArrives addr bytes
  | .aged f n => s.modField f (fun k => { k with recentOlder := k.recentOlder.drop n })

/-- Steps of the device that may come next by themselves. -/
def State.background (s : State) : List (State → Host.Outcome State Fault Refusal) :=
  let hands := s.allHands
  (hands.map (fun h => h.producers.zipIdx.map (fun pi => execLoadLanding ⟨h.id, pi.2⟩))).flatten ++
  (hands.map (fun h => [execStoreAcknowledged ⟨h.id, 0⟩, execMatrixJobStart ⟨h.id, 0, none⟩, execMatrixJobComplete ⟨h.id, 0, none⟩,
    execPreemptionLanding h.id, execHandResume h.id])).flatten ++
  (s.copies.map (fun c => [execCopyBytesLanded ⟨c.hand, BitVec.ofNat 64 c.n, 0, 1⟩, execCopyCompletion ⟨c.hand, BitVec.ofNat 64 c.n, 0, 0⟩,
    execDeclaredFill ⟨c.core, c.tile⟩])).flatten ++
  (List.range s.arrivals.length).map (fun i => execCopyBytesLanded ⟨2 ^ 32 + i, 0, 0, 1⟩) ++
  (List.range s.xchgs.length).map execExchangeBlockLanding ++
  (s.tasks.map (fun t => t.instances.map (fun i => execPhaseEndComplete ⟨t.id, i.scope, i.unit⟩))).flatten ++
  (s.pool.nodes.map (fun n => [execNodeComplete n.nseq, execPairCommit n.nseq])).flatten ++
  (s.pool.graphs.map (fun g => execSpawnResult g.subno)) ++
  [execNodeDispatch, execGraphAdmit] ++ (upFrom 2 64).map execSubmissionRecord

/-- The first of them that changes the state. -/
def State.backgroundStep (s : State) : Option State :=
  s.background.findSome? (fun f => match f s with
    | .next s' => if s' = s then none else some s'
    | _ => none)

/-- Another hand that may try becomes the current one. -/
def State.rotate (s : State) : Option State :=
  match s.others.findIdx? Hand.tries with
  | none => none
  | some i => match s.others[i]? with
    | none => none
    | some h => some { s with hand := h, others := s.others.drop (i + 1) ++ s.others.take i ++ (if s.hand.status = .none then []
      else [s.hand]) }

/-- Without an agenda the current hand moves; when it only waits, the device does; when nothing can, another hand is next. -/
noncomputable def State.auto (s : State) : Host.Outcome State Fault Refusal :=
  regranted s <|
  let other : Host.Outcome State Fault Refusal := match s.backgroundStep with
    | some s' => .next s'
    | none => .next (s.rotate.getD s)
  if s.hand.status = .running then s.moveHand
  else if s.hand.tries then
    match s.moveHand with
    | .next s' => (match s'.latch with
      | .waited _ => other
      | _ => .next s')
    | o => o
  else other

/-- One turn of the agenda. -/
noncomputable def State.turn (s : State) (t : Turn) : Host.Outcome State Fault Refusal :=
  regranted s <| match t with
  | .hand id => (s.focus id).moveHand
  | .event i => if isEvent i then exec i { s with latch := .clear } else .next s
  | .upset u => .next (s.upset u)

/-- Is the device unserviceable: f0 failed in bring-up (R411)? -/
def State.dead (s : State) : Bool := (s.field 0).state == 6 && !s.mem.ticketInF1

/-! ## Placing an instruction -/

/-- A range entry that maps 4 GiB of virtual addresses to HBM4E, for hands and system cores (log 26). -/
def launchRange : Range := ⟨0x1_0000_0000, 0x2_0000_0000, 0x1000_0000, 0x1F⟩

/-- The device with one hand of Table 7.4 on core 0, its task alone, f0 online and its code mapped (log 26). -/
def State.launch (s : State) : State :=
  let h : Hand := { Hand.empty with
    status := .running, task := 1, asid := 1, pc := 0x1_0000_0000
    ord := { Order.empty with snap := s.mem.pub, known := s.mem.tokens.length }
    sched := { Sched.empty with deficit := quantum 0 } }
  let t : Task := ⟨1, 0, 1, .single, [0], [(0, 0)], 1, 0, [], [], []⟩
  { s with
    hand := h, others := [], agenda := [], boot := .running, tasks := [t]
    asids := mins s.asids 1 ⟨0, [launchRange]⟩
    fields := s.fields.setIfInBounds 0 { s.field 0 with state := 5, stk := 3 }
    pool := { s.pool with taskSeq := 2 } }

/-- Where the current hand's word at an offset from the PC stands in memory. -/
def State.codeKey (s : State) (off : Nat) : Option Nat :=
  match s.xlate s.me .fetch (s.hand.pc + BitVec.ofNat 64 off).toNat with
  | .ok (_, .plain k _) => some k
  | _ => none

/-- A word placed at a key: live, published, and in the hand's own snapshot. -/
def State.placeWord (s : State) (k : Nat) (w : Word) : State :=
  let l := atAddr k (bytesOfWord w)
  { s with
    mem := { s.mem with live := s.mem.live.putAll l, pub := s.mem.pub.putAll l }
    hand := { s.hand with ord := { s.hand.ord with snap := s.hand.ord.snap.putAll l } } }

/-- Two words placed where the current hand issues next. -/
def State.placeCode (s : State) (w lit : Word) : State :=
  let s := match s.codeKey 0 with
    | some k => s.placeWord k w
    | none => s
  match s.codeKey 4 with
  | some k => s.placeWord k lit
  | none => s

end Sys2Proof.Machine
end

