-- ==== Sys2Proof/Machine/Step.lean ====
section
/-! DEFINITION. One step of the device, and the placing of an instruction that the next step runs. -/

namespace Sys2Proof.Machine

/-- One step: the agenda's next turn, or what moves without one. A device whose f0 failed in bring-up is unserviceable (R411). -/
noncomputable def step (s : State) : Host.Outcome State Fault Refusal :=
  if s.dead then .fault .unserviceable
  else match s.agenda with
    | [] => s.auto
    | t :: rest => ({ s with agenda := rest }).turn t

/-- The state with an instruction where the current hand issues next. A device without a running hand that can fetch is given one
(log 26). Bits at and above `nbits` are zero. -/
def State.withFetchWord (s : State) (nbits w : Nat) : State :=
  let s := if s.hand.status = .running ∧ (s.codeKey 0).isSome then { s with agenda := [] } else s.launch
  let v := w % 2 ^ nbits
  s.placeCode (BitVec.ofNat 32 v) (BitVec.ofNat 32 (v / 2 ^ 32))

end Sys2Proof.Machine
end

