-- ==== Sys2Proof/Safety.lean ====
section
/-! DEFINITION. What counts as a safe run, and the words the claims are written in: the invariants that every step is meant to
keep, the conditions under which an instruction executes, and what an instruction leaves as it was. -/

namespace Sys2Proof.Machine

/-! ## Safe runs -/

/-- No step of a run of `n` steps stops. -/
def Safe : Nat → State → Prop
  | 0, _ => True
  | n + 1, s => ∃ t, step s = .next t ∧ Safe n t

/-! ## Invariants -/

/-- The byte maps of a hand keep the canonical form of memory: its vector file, what outstanding producers replaced of it, and its
snapshot. -/
def Hand.canonical (h : Hand) : Bool := Mem.wf h.v && Mem.wf h.ord.snap && h.producers.all (fun p => Mem.wf p.was)

/-- Memory keeps its canonical form: live and published contents, and every hand's own maps. -/
def State.canonical (s : State) : Bool :=
  s.mem.live.wf && s.mem.pub.wf && s.hand.canonical && s.others.all Hand.canonical

/-- A strip's grant fits its group: VL elements of SEW lie within GRP registers of 4 KiB (R142), for a profile of Table 7.6. -/
def stripFits (vl vprof : Nat) (sew grp : BitVec 2) : Bool :=
  decide (vprof ≤ 4) && decide (vl * 2 ^ sew.toNat ≤ 4096 * 2 ^ grp.toNat)

/-- The depths of a hand's small stores: six loop entries (R190), eight entries of each length queue (R144), four matrix jobs
(R282), sixteen handles in the inbox (R333); and its grant fits its group. A rewind brings the checkpoint's loops, queues and
grant back, so they keep the same bounds. -/
def Hand.bounded (h : Hand) : Bool :=
  decide (h.loops.length ≤ 6) && h.lq.toList.all (fun q => decide (q.length ≤ 8)) && decide (h.jobs.length ≤ 4) &&
    decide (h.inbox.length ≤ 16) && stripFits h.csr.vl h.csr.vprof h.csr.sew h.csr.grp &&
    (match h.strip.ckpt with
      | none => true
      | some c => decide (c.loops.length ≤ 6) && c.lq.toList.all (fun q => decide (q.length ≤ 8)) &&
          stripFits c.vl c.vprof c.sew c.grp)

/-- Reserved bits of the CSRs read as zero (R7, Table 8.10): TVEC is a word address below 2^57, TSTATUS has four bits, SRECBASE is
a 64-byte address below 2^57. -/
def Csrs.legal (c : Csrs) : Bool :=
  c.tvec &&& 0xFE00_0000_0000_0003 == 0 && c.tstatus &&& 0xFFFF_FFFF_FFFF_FFF0 == 0 && c.srecbase &&& 0xFE00_0000_0000_003F == 0

/-- Every hand keeps its depths and its reserved bits, and every node of the pool, of its copy in f1 and of the graphs that wait names a
profile of Table 7.6. -/
def State.bounded (s : State) : Bool :=
  s.hand.bounded && s.hand.csr.legal && s.others.all (fun h => h.bounded && h.csr.legal) &&
    s.pool.nodes.all (fun n => decide (n.record.vprof ≤ 4)) && s.poolCopy.all (fun n => decide (n.record.vprof ≤ 4)) &&
    s.pool.graphs.all (fun g => g.nodes.all (fun r => decide (r.vprof ≤ 4)))

/-! ## When an instruction executes -/

/-- A scalar register that no outstanding producer fills. -/
abbrev Hand.full (h : Hand) (r : Fld5) : Prop := h.xEmpty r = false

/-- The guard field lets the instruction execute (R168): 0, or a full register that is not zero. -/
abbrev State.goes (s : State) (g : BitVec 3) : Prop := g = 0 ∨ (s.hand.full (g.setWidth 5) ∧ s.hand.getX (g.setWidth 5) ≠ 0)

/-- The guard field turns the instruction off (R168): it names a full register other than x0 that holds zero. -/
abbrev State.goesNot (s : State) (g : BitVec 3) : Prop := g ≠ 0 ∧ s.hand.full (g.setWidth 5) ∧ s.hand.getX (g.setWidth 5) = 0

/-- The guard lets it execute and every register that it reads or writes is full. -/
abbrev State.ready (s : State) (g : BitVec 3) (rs : List Fld5) : Prop := s.goes g ∧ ∀ r ∈ rs, s.hand.full r

/-- The current hand's data in a structure of Table 18.2 decode (R74). -/
abbrev State.soundIn (s : State) (struct : Nat) : Prop :=
  s.mem.badHands.find? (fun b => b.1 == s.hand.id && b.2.1 == struct) = none

/-- A commit point finds no data of the strip store buffer that no longer decode (R74). -/
abbrev State.drains (s : State) : Prop := s.badDrain = none

/-- The vector registers of the current hand decode (R74), the state allows the encoding (R164), every predicate that the instruction
reads has been written (R239), and the shifted check has no disagreement to report (R261). -/
abbrev State.vready (s : State) (i : Instr) : Prop :=
  s.soundIn 5 ∧ encFault i s.hand = none ∧ (vflow i).preads.all s.hand.pReady = true ∧ s.hand.sched.mismatches = []

/-- A vector source whose trap bit does not fire: the bit is 0, or the group is full. -/
abbrev Hand.chains (h : Hand) (r : Fld5) (n : Nat) (trap : Bit) : Prop := trap = 0 ∨ h.vEmpty r.toNat n = false

/-- No request stands that a point of Table 7.10 would land: no gang abort, no pre-emption, no stop. -/
abbrev Hand.unasked (h : Hand) : Prop := h.sched.gangAbort = none ∧ h.sched.preempt = false ∧ h.stops = false

/-- No data of `n` bytes at a memory key has an error that no longer decodes (R74). -/
abbrev State.decodes (s : State) (k n : Nat) : Prop := s.badKey k n = none

/-- No spawn of the hand still awaits its status: a trap waits for it (R357). -/
abbrev Hand.spawnless (h : Hand) : Prop := h.producers.any (fun p => p.spawn.isSome) = false

/-! ## What stays -/

/-- The instruction raises the trap in the state as it stands. What becomes of it is `State.trapped`, which Obligations.TakingAnException
states: TAKING AN EXCEPTION, once no earlier spawn awaits its status (R357), but for a member of a convoy, whose trap the convoy takes. -/
def State.traps (s : State) (i : Instr) (t : Trap) : Prop := exec i s = .next (s.trapped t)

/-- What an instruction leaves outstanding when the hand `s.hand` issues it: producers of the destinations `ds` (with their access
class), then those of its flow (R83, R237, R239). -/
def State.made (s : State) (i : Instr) (ds : List (Dest × Option Nat)) : List Producer :=
  let reads := VShape.reads (vshape i) (vflow i) s.hand.grpN
  (ds ++ (vflow i).fills s.hand reads).map (fun d => ⟨d.1, d.2, none, reads, canFlag i, s.hand.groupBytes d.1⟩)

/-- Nothing but the current hand changes. -/
def State.onlyHand (s t : State) : Prop := t = { s with hand := t.hand }

/-- Nothing but the current hand changes, and what notes that bytes were read: which tagged lines were used last (R57), and the stripes
of a bench with a failed bank that were rebuilt (R64). -/
def State.onlyReads (s t : State) : Prop :=
  ∃ (lines : List Nat) (reads : List (Nat × Nat)),
    t = { reads.foldl (fun s r => s.rebuilds r.1 r.2) { s with mem := lines.foldl MemState.useLine s.mem } with hand := t.hand }

/-- The hand after one completed instruction of `len` bytes: the next word or the iteration end (R191), running, one more
instruction retired; its identity as it was. -/
def Hand.movedOn (h k : Hand) (len : Nat) : Prop :=
  k.pc = (h.advance len).pc ∧ k.loops = (h.advance len).loops ∧ k.frame = (h.advance len).frame ∧ k.convoy = h.convoy ∧
  k.status = .running ∧ k.sched.retiredCount = h.sched.retiredCount + 1 ∧
  k.id = h.id ∧ k.core = h.core ∧ k.slot = h.slot ∧ k.task = h.task ∧ k.asid = h.asid ∧ k.taskid = h.taskid ∧
  k.member = h.member ∧ k.prio = h.prio ∧ k.dispatchCore = h.dispatchCore ∧ k.arrived = h.arrived

/-- The lasting stores of a hand that are neither general, vector or predicate registers nor CSRs are as they were: streams,
queues, handles, Dealer, inbox, ordering, jobs; of the strip only its record counts on, and the model's own count of element reads, of
the scheduling only the deficit, the retired count and the watchpoints' matches. -/
def Hand.sameRest (h k : Hand) : Prop :=
  k.streams = h.streams ∧ k.lq = h.lq ∧ k.handles = h.handles ∧ k.bound = h.bound ∧ k.dealer = h.dealer ∧ k.inbox = h.inbox ∧
  k.ord = h.ord ∧ k.jobs = h.jobs ∧ k.strip = { h.strip with record := k.strip.record, drawn := k.strip.drawn } ∧
  k.sched = { h.sched with
    deficit := k.sched.deficit, retiredCount := k.sched.retiredCount, watches := k.sched.watches }

/-- Every general register but `d` is as it was. -/
def Hand.sameXBut (h k : Hand) (d : Fld5) : Prop := ∀ r : Fld5, r ≠ d → k.getX r = h.getX r

/-- Every byte of the vector file but those of `keys` is as it was. -/
def Hand.sameVBut (h k : Hand) (keys : List Nat) : Prop := ∀ j, j ∉ keys → mget 0 k.v j = mget 0 h.v j

/-- The bytes of the elements `es` of the group at `r`, `w` bytes each. -/
def elemKeys (r : Fld5) (w : Nat) (es : List Nat) : List Nat := (es.map (fun e => upFrom (r.toNat * 4096 + e * w) w)).flatten

/-- Registers of the hand that a memory instruction changes by its own result alone. -/
def Hand.sameRegs (h k : Hand) : Prop := k.x = h.x ∧ k.csr = h.csr ∧ k.streams = h.streams ∧ k.lq = h.lq ∧ k.handles = h.handles ∧
  k.dealer = h.dealer ∧ k.bound = h.bound ∧ k.inbox = h.inbox

/-- Live and published memory are as they were. -/
abbrev State.sameMem (s t : State) : Prop := t.mem.live = s.mem.live ∧ t.mem.pub = s.mem.pub

/-! ## What an instruction of a kind completes with -/

/-- It writes a full scalar register and moves on by `len` bytes (R172). -/
def State.writes (s : State) (i : Instr) (d : Fld5) (v : Reg64) (len : Nat) : Prop :=
  exec i s = .next ((s.setX d v).retire len)

/-- The flags of results at elements, where there are any. -/
def raisedBy (es : List Nat) (r : Nat → Nat × Nat) : List (Nat × Nat) :=
  (es.map (fun e => (e, (r e).2))).filter (fun x => x.2 != 0)

/-- It writes elements `es`, `w` bytes each, of the group at `d`, with the values `val`, raises the flags `fl`, and changes nothing
else but the counts of the strip record and the sequencer (R237, R205). -/
def State.groupWrites (s : State) (i : Instr) (d : Fld5) (w : Nat) (es : List Nat) (val : Nat → Nat) (fl : List (Nat × Nat)) : Prop :=
  ∃ t, exec i s = .next t ∧ s.onlyHand t ∧ s.hand.movedOn t.hand 4 ∧ s.hand.sameRest t.hand ∧
    (∀ e ∈ es, t.hand.getVN d.toNat (e * w) w = val e % 2 ^ (8 * w)) ∧ s.hand.sameVBut t.hand (elemKeys d w es) ∧
    t.hand.x = s.hand.x ∧ t.hand.p = s.hand.p ∧ t.hand.producers = s.hand.producers ++ s.made i [] ∧ t.hand.csr = (s.raise fl).hand.csr

/-- The same, `r` giving each element's value and flags. -/
def State.groupResult (s : State) (i : Instr) (d : Fld5) (w : Nat) (es : List Nat) (r : Nat → Nat × Nat) : Prop :=
  s.groupWrites i d w es (fun e => (r e).1) (raisedBy es r)

/-- The same with elements of SEW bits. -/
def State.vectorResult (s : State) (i : Instr) (d : Fld5) (es : List Nat) (r : Nat → Nat × Nat) : Prop :=
  s.groupResult i d s.hand.sewBytes es r

/-- It writes predicate `d` whole (R239): bit e below VL as `c` says, the others clear; with VL = 0 or d = 0 nothing. -/
def State.predResult (s : State) (i : Instr) (d : Fld5) (c : Nat → Bool) (fl : List (Nat × Nat)) : Prop :=
  ∃ t, exec i s = .next t ∧ s.onlyHand t ∧ s.hand.movedOn t.hand 4 ∧ s.hand.sameRest t.hand ∧
    (d ≠ 0 → s.hand.csr.vl ≠ 0 → ∀ e, e < 1024 → (t.hand.getP d.toNat).getLsbD e = (decide (e < s.hand.csr.vl) && c e)) ∧
    (s.hand.csr.vl = 0 → t.hand.p = s.hand.p) ∧
    (∀ q : Fld5, q ≠ d → t.hand.getP q.toNat = s.hand.getP q.toNat) ∧
    t.hand.x = s.hand.x ∧ t.hand.v = s.hand.v ∧ t.hand.producers = s.hand.producers ++ s.made i [] ∧
    t.hand.csr = (s.raise fl).hand.csr

/-- It writes x[d], leaves the producers `ps` outstanding and raises flags; nothing else but what `only` allows. -/
def State.xFills (only : State → State → Prop) (s : State) (i : Instr) (d : Fld5) (v : Reg64) (ps : List Producer)
    (fl : List (Nat × Nat)) : Prop :=
  ∃ t, exec i s = .next t ∧ only s t ∧ s.hand.movedOn t.hand 4 ∧ s.hand.sameRest t.hand ∧
    (d ≠ 0 → t.hand.getX d = v) ∧ s.hand.sameXBut t.hand d ∧ t.hand.producers = s.hand.producers ++ ps ∧
    t.hand.v = s.hand.v ∧ t.hand.p = s.hand.p ∧ t.hand.csr = (s.raise fl).hand.csr

/-- A scalar load puts the value in x[d], which is empty until its data land (R217). -/
def State.xLoad (s : State) (i : Instr) (d : Fld5) (v : Reg64) : Prop :=
  State.xFills State.onlyReads s i d v (s.made i (if d = 0 then [] else [(.scalar d.toNat, some 0)])) []

/-- The same for a query of the slot that handle `a` names: x[d] fills after the slot's earlier updates (R84, R309). -/
def State.queryResult (s : State) (i : Instr) (d a : Fld5) (v : Reg64) (fl : List (Nat × Nat)) : Prop :=
  State.xFills State.onlyHand s i d v (if d = 0 then [] else [⟨.scalar d.toNat, none, none, [.slot a.toNat], true, []⟩]) fl

/-- A scalar result of the vector unit (R237). -/
def State.unitResult (s : State) (i : Instr) (d : Fld5) (v : Reg64) (fl : List (Nat × Nat)) : Prop :=
  State.xFills State.onlyHand s i d v (s.made i (if d = 0 then [] else [(.scalar d.toNat, none)])) fl

/-- The vector file is in canonical form, and R164's and R74's checks pass for the instruction. -/
abbrev State.mayRun (s : State) (i : Instr) : Prop := Mem.wf s.hand.v = true ∧ s.vready i

/-- The source in field A chains, or waits for nothing. -/
abbrev State.groupA (s : State) (i : Instr) (a : Fld5) (ta : Bit) : Prop := s.mayRun i ∧ s.hand.chains a s.hand.grpN ta

/-- An instruction of two vector sources may run. -/
abbrev State.groupsAB (s : State) (i : Instr) (f : VReg) : Prop := s.groupA i f.a f.ta ∧ s.hand.chains f.b s.hand.grpN f.tb

/-! ## Memory as an instruction meets it -/

/-- The bench window maps the address, below the command chain, to byte `k` of a core's own bench (R29, Table 2.1). -/
abbrev windowOf (core va k : Nat) : Prop :=
  Config.benchWindow ≤ va ∧ va - Config.benchWindow < Config.chainOffset ∧ k = Config.benchKey core (va - Config.benchWindow)

/-- The same of the hand's core. -/
abbrev State.windowAt (s : State) (va k : Nat) : Prop := windowOf s.hand.core va k

/-- The first range entry of an ASID that holds the address maps it to byte `k` (R32, R33): a plain page, not SC, that its hands may read,
and write when `wr` is set; its stack serves (R56), and the task is not one side of a pair. -/
def State.rangeOf (s : State) (asid : BitVec 16) (side : Side) (wr : Bool) (va k : Nat) : Prop :=
  va < Config.benchWindow ∧ side = .single ∧ mappable k = true ∧ s.stackUp k = some true ∧
  ∃ d r, mfind s.asids asid.toNat = some d ∧
    d.ranges.find? (fun r => attrBit r.attr 0 && decide (r.base ≤ va ∧ va < r.limit)) = some r ∧ k = r.offset + (va - r.base) ∧
    attrBit r.attr 3 = true ∧ (wr = true → attrBit r.attr 1 = true) ∧ attrFmt r.attr = 0 ∧
    attrBit r.attr 5 = false ∧ attrBit r.attr 6 = false ∧ attrBit r.attr 7 = false

/-- The same for the hand. -/
def State.rangeAt (s : State) (wr : Bool) (va k : Nat) : Prop := s.rangeOf s.hand.asid s.me.side wr va k

/-- A load or a store of the hand reaches byte `k`. -/
def State.plainAt (s : State) (wr : Bool) (va : Reg64) (k : Nat) : Prop := s.windowAt va.toNat k ∨ s.rangeAt wr va.toNat k

/-- The structures that a load of some bytes reads beside memory decode (R74): the heel, and the strip store buffer where it holds one
of them. -/
abbrev State.soundAt (s : State) (k w : Nat) : Prop :=
  s.soundIn 8 ∧ (s.hand.strip.ssb.any (fun b => decide (k ≤ b.key ∧ b.key < k + w)) = true → s.soundIn 6)

/-- A command's address reaches byte `k`. -/
def State.copyReaches (s : State) (c : Copy) (wr : Bool) (va : Reg64) (k : Nat) : Prop :=
  windowOf c.core va.toNat k ∨ s.rangeOf c.asid (s.peerSide c) wr va.toNat k

/-- The bytes `l` at an address are what the copy engine reads for a command (R274): no write of its hand is unordered or not yet
performed, and everything that the read needs decodes. -/
def State.copySees (s : State) (c : Copy) (va : Reg64) (w : Nat) (l : List Byte) : Prop :=
  ∃ k, s.copyReaches c false va k ∧ s.decodes k w ∧ s.badOf (s.copyHand c).id 8 (placeOf k) = none ∧ rising s.cores = true ∧
    (∀ j ∈ upFrom k w, (s.byteView (s.copyHand c) 3 j).maybe = [] ∧ (s.byteView (s.copyHand c) 3 j).alt = none ∧
      ∀ x ∈ (s.byteView (s.copyHand c) 3 j).sure, x.perf ≠ 0) ∧
    l = (upFrom k w).map (fun j => (s.byteView (s.copyHand c) 3 j).value none)

/-- An address whose `w` bytes read as `v` on a path of class `c`, no write of the hand being unordered (R77, R96). -/
def State.readsAt (s : State) (c : Nat) (va : Reg64) (w v : Nat) : Prop :=
  ∃ k, va.toNat % w = 0 ∧ s.plainAt false va k ∧ s.decodes k w ∧ s.soundAt k w ∧ rising s.cores = true ∧
    (∀ j ∈ upFrom k w, (s.byteView s.hand c j).maybe = [] ∧ (s.byteView s.hand c j).alt = none) ∧
    v = leNat ((upFrom k w).map (fun j => (s.byteView s.hand c j).value none))

/-- It loads elements `es` of the group at `d` with the values `val`; when it read memory, by class `cls`, the group is empty until
the data land (R217). -/
def State.loadResult (s : State) (i : Instr) (d : Fld5) (es : List Nat) (val : Nat → Nat) (reads : Bool) : Prop :=
  ∃ t, exec i s = .next t ∧ s.onlyReads t ∧ s.hand.movedOn t.hand 4 ∧ s.hand.sameRest t.hand ∧
    (∀ e ∈ es, t.hand.elem d e = val e % 2 ^ s.hand.sewBits) ∧
    s.hand.sameVBut t.hand (elemKeys d s.hand.sewBytes es) ∧
    t.hand.x = s.hand.x ∧ t.hand.p = s.hand.p ∧ t.hand.csr = s.hand.csr ∧
    t.hand.producers = s.hand.producers ++ s.made i (if reads then [(.vector d.toNat s.hand.grpN, some 1)] else [])

/-- A store into the strip store buffer: key and value, the virtual page it went by, and the scatter lanes it counts on. -/
structure Entry where
  key : Nat
  val : Nat
  page : Option Nat
  lanes : List Nat

/-- A store of the scalar path, or one that counts on no lane, by its virtual address (R73). -/
def entryAt (va : Reg64) (k v : Nat) : Entry := ⟨k, v, if isBench k then none else some (va.toNat / 4096), []⟩

/-- Elements that no higher one hides: of those at one key the highest reaches its bytes (R76). -/
def topmost (es : List Nat) (k : Nat → Nat) : List Nat :=
  es.filter (fun e => !es.any (fun e' => decide (e < e') && k e' == k e))

/-- The stores of a vector store's elements `es` of the group at `d`, at addresses `va` and keys `k`; a scatter counts each on its own
lane and on those of the elements that it hides (R76, R100). -/
def Hand.entriesOf (h : Hand) (scatter : Bool) (d : Fld5) (es : List Nat) (va : Nat → Reg64) (k : Nat → Nat) : List Entry :=
  (topmost es k).map (fun e =>
    { entryAt (va e) (k e) (h.elem d e) with
      lanes := if scatter then (es.filter (fun e' => k e' == k e)).map (fun e' => e' * h.sewBytes % 1024 / 4) else [] })

/-- The buffer entries of stores of `w` bytes and a class, in order, from the hand's next write number on. -/
def bufferOf (cls w seq : Nat) : List Entry → List Buffered
  | [] => []
  | e :: l => (atAddr e.key (leBytes w e.val)).map (fun c => ⟨c.1, c.2, seq, false, e.page, cls, e.lanes⟩) ++
      bufferOf cls w (seq + 1) l

/-- The strip is protected, and its store buffer has room for stores of `w` bytes at `ks` beside what it holds: 1,024 granules of 64
bytes in all (R73). -/
abbrev State.buffers (s : State) (w : Nat) (ks : List Nat) : Prop :=
  s.hand.strip.prot = true ∧
  (distinct (s.hand.strip.granules ++ ((ks.map (fun k => (upFrom k w).map (· / 64))).flatten))).length ≤ Config.ssbGranules

/-- It enters the stores in the strip store buffer; memory, and every register, are as they were (R73, R147). -/
def State.storeResult (s : State) (i : Instr) (cls w : Nat) (stores : List Entry) : Prop :=
  ∃ t, exec i s = .next t ∧ s.sameMem t ∧ s.hand.movedOn t.hand 4 ∧
    t.hand.strip.ssb = s.hand.strip.ssb ++ bufferOf cls w s.hand.ord.wseq stores ∧ t.hand.strip.prot = true ∧
    t.hand.x = s.hand.x ∧ t.hand.v = s.hand.v ∧ t.hand.p = s.hand.p ∧ t.hand.csr = s.hand.csr ∧
    t.hand.producers = s.hand.producers ++ s.made i [] ∧ t.hand.streams = s.hand.streams ∧ t.hand.lq = s.hand.lq ∧
    t.hand.handles = s.hand.handles ∧ t.hand.dealer = s.hand.dealer ∧ t.others = s.others

/-- Accesses of `w` bytes at the keys of different elements do not overlap. -/
abbrev apart (w : Nat) (es : List Nat) (k : Nat → Nat) : Prop := ∀ e ∈ es, ∀ f ∈ es, e = f ∨ k e + w ≤ k f ∨ k f + w ≤ k e

/-- The `w` bytes at the keys of the elements are the values, and every other byte is as it was. -/
def storedAt (old new : Mem) (w : Nat) (es : List Nat) (k : Nat → Nat) (val : Nat → Nat) : Prop :=
  (∀ e ∈ es, new.bytes (k e) w = leBytes w (val e)) ∧ (∀ j, (∀ e ∈ es, j < k e ∨ k e + w ≤ j) → new.get j = old.get j)

/-- Bytes `l` stand at a key, and every other byte of memory, live and published, is as it was. -/
def State.bytesPut (s t : State) (k : Nat) (l : List Byte) : Prop :=
  t.mem.live.bytes k l.length = l ∧ ∀ j, j < k ∨ k + l.length ≤ j → t.mem.live.get j = s.mem.live.get j ∧ t.mem.pub.get j = s.mem.pub.get j

/-- The strip is not protected, and what stores of `w` bytes at the keys of the elements need has room (R60, R62): the strip store buffer
holds no more than it may, and the heel of each home field has an image free for every byte. -/
abbrev State.performs (s : State) (w : Nat) (es : List Nat) (k : Nat → Nat) : Prop :=
  s.hand.strip.prot = false ∧ s.hand.strip.granules.length ≤ Config.ssbGranules ∧ Mem.wf s.mem.live = true ∧
  ∀ e ∈ es, ∀ j ∈ upFrom (k e) w, s.heelUsed (homeField j) + w * es.length ≤ s.heelRoom (homeField j)

/-- The strip is not protected, no line of the stores has an image of the hand's yet, the heel of its home field is full, and the strip
store buffer has room to hold them (R62). -/
abbrev State.mustHold (s : State) (w : Nat) (es : List Nat) (k : Nat → Nat) : Prop :=
  s.hand.strip.prot = false ∧
  (distinct (s.hand.strip.granules ++ ((es.map (fun e => (upFrom (k e) w).map (· / 64))).flatten))).length ≤ Config.ssbGranules ∧
  ∀ e ∈ es, ∀ j ∈ upFrom (k e) w, s.heelRoom (homeField j) ≤ s.heelUsed (homeField j) ∧
    s.mem.heel.any (s.storer.owns (lineOf j)) = false

/-- What a vector store leaves as it was, in an unprotected strip. -/
def State.storeRest (s t : State) (i : Instr) : Prop :=
  t.mem.pub = s.mem.pub ∧ s.hand.movedOn t.hand 4 ∧ s.hand.sameRegs t.hand ∧ t.hand.v = s.hand.v ∧ t.hand.p = s.hand.p ∧
  t.hand.strip.prot = false ∧ t.hand.producers = s.hand.producers ++ s.made i [] ∧ t.others = s.others

/-- It performs the stores of elements `es` at once (R147, R221): of those at one key the highest element's stands (R76). -/
def State.storesNow (s : State) (i : Instr) (w : Nat) (es : List Nat) (k : Nat → Nat) (val : Nat → Nat) : Prop :=
  ∃ t, exec i s = .next t ∧ storedAt s.mem.live t.mem.live w (topmost es k) k val ∧ t.hand.strip.ssb = s.hand.strip.ssb ∧ s.storeRest t i

/-- It holds the stores in the strip store buffer, memory as it was, until the hand's next phend (R62). -/
def State.storesHeld (s : State) (i : Instr) (w : Nat) (stores : List Entry) : Prop :=
  ∃ t, exec i s = .next t ∧ t.mem.live = s.mem.live ∧ s.storeRest t i ∧
    t.hand.strip.ssb = s.hand.strip.ssb ++ (bufferOf 1 w s.hand.ord.wseq stores).map (fun b => { b with held := true })

/-- Neither recording nor replay is on. -/
abbrev State.noDudel (s : State) : Prop := s.dudel.on = false ∧ s.dudel.replay = false

/-- A copy of record `l` in register `b` may issue: its registers decode, R263's and R273's checks pass, a tile that it reads is READY,
and the chain has room (R271). -/
def State.copyGoes (s : State) (o : CopyOp) (b : Fld5) : Prop :=
  s.soundIn 5 ∧ s.hand.vEmpty b.toNat 1 = false ∧ s.copyChecks o (s.hand.shape b 12) = .ok () ∧
  (o.kind.drains = true → (s.tile s.hand.core o.tile).state = 2) ∧ s.drains ∧
  (s.commit.core s.hand.core).chain < Config.chainEntries

/-- No matrix job of the hand stands on a handle (R127, R293). -/
abbrev Hand.noJobs (h : Hand) (r : Fld5) : Prop := h.jobs.any (fun j => j.handle == r.toNat) = false

/-- After an instruction the handle names slot `x`; every other handle, and every scalar, vector and predicate register, is as it
was; the flags `fl` are raised. -/
def State.slotResult (s : State) (i : Instr) (d : Fld5) (x : Slot) (fl : List (Nat × Nat)) : Prop :=
  ∃ t, exec i s = .next t ∧ s.hand.movedOn t.hand 4 ∧ mfind t.hand.handles d.toNat = some x ∧
    (∀ k, k ≠ d.toNat → mfind t.hand.handles k = mfind s.hand.handles k) ∧ t.hand.x = s.hand.x ∧ t.hand.v = s.hand.v ∧
    t.hand.p = s.hand.p ∧ t.hand.producers = s.hand.producers ++ s.made i [] ∧ t.hand.csr = (s.raise fl).hand.csr ∧
    t.hand.streams = s.hand.streams ∧ t.hand.dealer = s.hand.dealer

/-- The hand holds seat `q` of object `o`, which its ASID owns, under the handle `x` (R329); its task is not one side of a pair. -/
abbrev State.ownsSeat (s : State) (x : Reg64) (obj : Nat) (o : SeatObj) (q : Seat) : Prop :=
  seatName x = some (obj, q.number) ∧ s.seatObj obj = o ∧ o.asid = s.hand.asid ∧ o.find q.number = some q ∧
  q.holder = some s.hand.id ∧ s.me.side = .single

/-! ## Control commands -/

/-- The control queue holds a record of this OPC and SEQ next, its reserved bytes zero, its action or function one that the command has
(R401, Table 23.3). -/
abbrev State.accepts (s : State) (opc : Nat) (c : Ctl) : Prop :=
  s.offers opc c = true ∧ c.seq = s.ctlSeq + 1 ∧ c.resv = false ∧ (opc = 6 ∨ opc = 9 → c.unknown = false)

/-- The state once the record has been read. -/
def State.begun (s : State) (c : Ctl) : State :=
  { (s.uses (s.queue 0).slot64 64).modQueue 0 (fun k => { k with accepted := k.accepted + 1 }) with ctlSeq := c.seq }

/-- The command has its effect and answers STATUS 0. -/
def State.obeys (s : State) (i : Instr) (c : Ctl) (act : State → State) : Prop :=
  exec i s = .next ((act (s.begun c)).ctlStatus c.seq 0 0)

/-- The command changes nothing and answers another STATUS. -/
def State.declines (s : State) (i : Instr) (c : Ctl) (status : Nat) : Prop :=
  exec i s = .next ((s.begun c).ctlStatus c.seq status 0)

/-- Bytes at a key, live and published. -/
def State.published (s : State) (k : Nat) (l : List Byte) : Prop :=
  s.mem.live.bytes k l.length = l ∧ s.mem.pub.bytes k l.length = l

/-- The instruction raises the trap behind its commit point. -/
def State.trapsAfter (s : State) (i : Instr) (t : Trap) : Prop := exec i s = .next (s.commit.trapped t)

end Sys2Proof.Machine
end

