-- ==== Sys2Proof/Certificates/Slice0/Obligations.lean ====
section
/-! DEFINITION. The statements for the provers. Each says in its docstring which rule or section it formalises. -/

open Sys2Proof Sys2Proof.Machine

/-! ## Encoding and the step -/

/-- Tables 8.2 to 8.5: for every instruction word, decoding the bytes of a well-formed instruction gives it back, with whatever
follows it untouched. -/
def Obligations.DecodeOfEncode : Prop :=
  ∀ (i : Instr) (rest : List Byte), isEvent i = false → wellFormed i = true → decode (encode i ++ rest) = .ok (i, rest)

/-- The other direction: what the decoder accepts is a well-formed instruction, and its bytes are exactly the ones read. -/
def Obligations.DecodeIsExact : Prop :=
  ∀ (bs rest : List Byte) (i : Instr), decode bs = .ok (i, rest) →
    wellFormed i = true ∧ isEvent i = false ∧ encode i ++ rest = bs

/-- Words that the spec writes out decode to the instructions it names: slli x5, x6, 3 and srai x5, x6, 3 (R184); addi x4, x0, 10
(R183); lit x5, 0x1234_5678 (R186); trap 3 (R175); nop (R179); rep 2 (R166); vgl v1, [x1], v2 (R228); unlink (R230). -/
def Obligations.SpecWordsDecode : Prop :=
  decodeWords 0x10530030 0 = .ok (.slli ⟨5, 6, 3, 0, 0⟩) ∧
  decodeWords 0x10534030 0 = .ok (.srai ⟨5, 6, 3, 0, 0⟩) ∧
  decodeWords 0x044000A0 0 = .ok (.addi ⟨4, 0, 10, 0, 0⟩) ∧
  decodeWords 0x16500000 0x12345678 = .ok (.lit ⟨5, 0, 0x12345678⟩) ∧
  decodeWords 0x6E000C00 0 = .ok (.trap ⟨3, 0⟩) ∧
  decodeWords 0x6E000140 0 = .ok .nop ∧
  decodeWords 0x4E1088A0 0 = .ok (.vgl ⟨0, 1, 1, 2, 0, 0, 0⟩) ∧
  decodeWords 0x54000100 0 = .ok (.unlink ⟨0⟩)

/-- R164: the all-zero word is no instruction; a running hand that meets it takes ZERO-WORD with TVAL zero, before anything else
changes, once no earlier spawn awaits its status (R357). No trap is due for it from before. -/
def Obligations.ZeroWordTraps : Prop :=
  (∀ lit, decodeWords 0 lit = .error .zero) ∧
  ∀ (s s1 : State), s.dead = false → s.agenda = [] → s.hand.status = .running → s.hand.sched.unrecoverable = none →
    s.hand.sched.due = none → s.hand.frame = none → s1.hand.convoy = none →
    ({ s with latch := .clear } : State).fetchWord s.hand.pc = .ok (s1, 0) →
    (s1.hand.spawnless →
      step s = regranted s (.next { s1.take (Trap.mk' .zeroWord 0) with latch := .trapped (Trap.mk' .zeroWord 0) })) ∧
    (¬ s1.hand.spawnless → step s = regranted s (.next (s1.waits .register)))

/-- A step runs the decoded instruction: with no agenda a running hand fetches the word at its PC (and, for lit and lith, the literal
after it), and a word that decodes and whose encoding the state allows is executed. What the step adds: the point at which a taken
backward branch or an iteration end holds a request (Table 7.10), where none is held only the mark that the hand stands at a point and
that it has passed a restart's stop (R353, R391); where the instruction did not complete, its element reads are to be made again, with the
choices that they had (R82: the model's own count, log 2); and a new choice of the vector unit of a core whose granted hand has given it
up (R346). -/
def Obligations.StepRunsTheDecodedInstruction : Prop :=
  (∀ (s s1 : State) (w : Word) (i : Instr), s.dead = false → s.agenda = [] → s.hand.status = .running →
    s.hand.sched.unrecoverable = none → s.hand.sched.due = none → s.hand.frame = none →
    ({ s with latch := .clear } : State).fetchWord s.hand.pc = .ok (s1, w) → takesLiteral w = false → cOf w = false →
    decodeWords w 0 = .ok i → encFault i s1.hand = none →
    (vectorWord w = false → step s = regranted s (atEnd i s1.hand (exec i s1))) ∧
    (∀ s2 s3 : State, vectorWord w = true → s1.followers 4 (s1.hand.pc + 4) = (s2, []) → encFault i s2.hand = none →
      s2.grant w = (s3, true) → step s = regranted s (atEnd i s3.hand (exec i s3)))) ∧
  (∀ (s s1 s2 : State) (w l : Word) (i : Instr), s.dead = false → s.agenda = [] → s.hand.status = .running →
    s.hand.sched.unrecoverable = none → s.hand.sched.due = none → s.hand.frame = none →
    ({ s with latch := .clear } : State).fetchWord s.hand.pc = .ok (s1, w) → takesLiteral w = true → cOf w = false →
    s1.fetchWord (s1.hand.pc + 4) = .ok (s2, l) →
    (∃ j, decodeWords w 0 = .ok j) → decodeWords w l = .ok i → vshape i = none →
    (∀ j, decodeWords w 0 = .ok j → vshape j = none) →
    step s = regranted s (atEnd i s2.hand (exec i s2))) ∧
  (∀ (i : Instr) (h : Hand) (t : State), t.latch ≠ .clear → atEnd i h (.next t) = .next (t.redraw h)) ∧
  (∀ (i : Instr) (h : Hand) (t : State), t.latch = .clear →
    (endsAtPoint i h t.hand = false ∨
      (t.hand.sched.gangAbort = none ∧ t.hand.sched.preempt = false ∧ t.hand.sched.stopWanted = false)) →
    ∃ p, atEnd i h (.next t) = .next { t with hand := { t.hand with sched := { t.hand.sched with point := p, skipStop := false } } }) ∧
  (∀ s t : State, (∀ ck ∈ s.cores, ck.2.granted.isSome = true → (t.core ck.1).granted.isSome = true) →
    regranted s (.next t) = .next t)

/-! ## Invariants -/

/-- Every step keeps memory, and every hand's byte maps, in canonical form: addresses strictly rising, no byte listed that equals
what an unlisted address reads as. -/
def Obligations.StepKeepsMemoryCanonical : Prop :=
  ∀ s t : State, s.canonical = true → step s = .next t → t.canonical = true

/-- Every step keeps the loop stack within six entries (R190), each length queue within eight (R144), the matrix jobs within four
(R282), the inbox within sixteen (R333), the grant within its group (R142), and the reserved bits of TVEC, TSTATUS and SRECBASE
zero (R7). -/
def Obligations.StepKeepsBounds : Prop :=
  ∀ s t : State, s.bounded = true → step s = .next t → t.bounded = true

/-- Reset meets both invariants, with nothing listed in memory; no hand runs, no ASID is loaded and no queue is enabled; the ticket
counter is 0, the submission and completion counters are 1 (R112, R339, R140); every tile entry is zero (Table 3.2) and every field
is off (Table 23.4). -/
def Obligations.ResetState : Prop :=
  State.reset.canonical = true ∧ State.reset.bounded = true ∧ State.reset.mem.live = [] ∧ State.reset.mem.pub = [] ∧
  State.reset.hand.status = .none ∧ State.reset.others = [] ∧ State.reset.tasks = [] ∧
  State.reset.asids = [] ∧ (∀ q, (State.reset.queue q).en = false) ∧
  State.reset.mem.ticket = 0 ∧ State.reset.pool.submissions = 1 ∧ State.reset.pool.completions = 1 ∧
  (∀ c t, (State.reset.tile c t).word = 0) ∧ (∀ f, f < 6 → (State.reset.field f).state = 0)

/-- Nothing is refused: every instruction and every step of the device answers a next state, in every state; and the machine stops
only when f0 has failed in bring-up (R411: the device is unserviceable). That an event whose conditions do not hold leaves the state as it
was is the model's log 15. -/
def Obligations.NothingIsRefused : Prop :=
  (∀ (i : Instr) (s : State), ∃ t, exec i s = .next t) ∧
  (∀ s : State, s.dead = false → ∃ t, step s = .next t) ∧
  (∀ s : State, s.dead = true → step s = .fault .unserviceable)

/-- An instruction word of one hand leaves every other hand's scalar, vector and predicate registers, PC and CSRs as they were:
hands reach each other through memory, seats and the pool alone. -/
def Obligations.OtherHandsKeepTheirRegisters : Prop :=
  ∀ (i : Instr) (s t : State), isEvent i = false → exec i s = .next t →
    t.others.map (fun h => (h.x, h.v, h.p, h.pc, h.csr)) = s.others.map (fun h => (h.x, h.v, h.p, h.pc, h.csr))

/-! ## Registers and the guard -/

/-- R152: x0 is always full, reads zero and discards writes; a write of another register is what it then reads, and no other
register changes. p0 reads as one at every position and is not written (R239). -/
def Obligations.RegisterFile : Prop :=
  ∀ (h : Hand) (v : Reg64) (m : BitVec 1024),
    h.getX 0 = 0 ∧ h.xEmpty 0 = false ∧ h.setX 0 v = h ∧
    (∀ d : Fld5, d ≠ 0 → (h.setX d v).getX d = v) ∧ (∀ d r : Fld5, r ≠ d → (h.setX d v).getX r = h.getX r) ∧
    (∀ e, e < 1024 → (h.getP 0).getLsbD e = true) ∧ h.setP 0 m = h ∧
    (∀ d : Fld5, d ≠ 0 → (h.setP d.toNat m).getP d.toNat = m) ∧
    (∀ d r : Fld5, r ≠ d → (h.setP d.toNat m).getP r.toNat = h.getP r.toNat)

/-- The guard of an instruction that reads it before anything else. -/
def guardOf : Instr → Option (BitVec 3)
  | .add f | .sub f | .and f | .or f | .xor f | .andn f | .sll f | .srl f | .sra f | .rotl f | .rotr f | .mul f | .mulh f
  | .mulhn f | .div f | .divn f | .rem f | .remn f | .slt f | .sltn f | .min f | .max f | .minn f | .maxn f | .addw f
  | .subw f | .sdecl f | .spawn f => some f.g
  | .clz f | .ctz f | .popc f | .sextb f | .sexth f | .sextw f | .ssave f | .sload f | .smrgm f | .seatq f | .seatst f => some f.g
  | .addi f | .andi f | .ori f | .xori f | .slti f | .sltni f | .ldb f | .ldh f | .ldw f | .ldd f | .ldbn f | .ldhn f | .ldwn f
  | .stb f | .sth f | .stw f | .std f | .jalr f => some f.g
  | .slli f | .srli f | .srai f => some f.g
  | .lit f | .lith f => some f.g
  | .jmp f | .jal f => some f.g
  | .fenceSv f | .fenceVs f | .fenceVv f | .unlink f | .halt f | .yield f | .rett f | .lbrk f => some f.g
  | .xfence f => some f.g
  | .phend f => some f.g
  | .phase f | .spos f | .stabl f | .smrg f | .stype f | .sqRes f | .sqTopk f | .sqTile f | .sqFlags f => some f.g
  | .waitge f | .waitne f | .seatp f | .seatx f => some f.g
  | .lace f => some f.g
  | .sunbind f | .sclr f | .sfree f | .seatin f => some f.g
  | .sadv f => some f.g
  | .tdef f => some f.g
  | .tfree f | .twait f | .tready f => some f.g
  | .tstat f => some f.g
  | .xchg f => some f.g
  | .sqMom f | .sqResn f | .csrr f | .csrw f | .csrx f => some f.g
  | .sqQh f => some f.g
  | .seatw f | .seatr f | .seatf f => some f.g
  | .trap f | .brk f => some f.g
  | _ => none

/-- R168: an instruction whose guard is false has no effect but to move on (past its literal, for lit and lith); cpy.in and cpy.out
too, cpy.in.m and cpy.inp.m past their follow-on, once that has passed its checks (R161, R271), and sq.cms and sq.vacc once their
encoding is sound. -/
def Obligations.GuardedOff : Prop :=
  (∀ (i : Instr) (g : BitVec 3) (s : State), guardOf i = some g → s.goesNot g → exec i s = .next (s.retire (lengthOf i))) ∧
  (∀ (f : CpyInF) (s : State), f.k = 0 → s.goesNot f.g →
    exec (.cpyIn f) s = .next (s.retire 4) ∧ exec (.cpyInp f) s = .next (s.retire 4)) ∧
  (∀ (f : CpyInF) (s s1 : State) (x : Word), f.k = 1 → s1.goesNot f.g →
    (s.followWord (encodeWord (.cpyIn f)) = .ok (s1, x) → exec (.cpyIn f) s = .next s1.retirePair) ∧
    (s.followWord (encodeWord (.cpyInp f)) = .ok (s1, x) → exec (.cpyInp f) s = .next s1.retirePair)) ∧
  (∀ (f : CpyOutF) (s : State), s.goesNot f.g →
    exec (.cpyOut f) s = .next (s.retire 4) ∧ exec (.cpyPeer f) s = .next (s.retire 4)) ∧
  (∀ (f : RegG) (s : State), s.goesNot f.g → exec (.cpyMem f) s = .next (s.retire 4)) ∧
  (∀ (f : DABtG) (s : State), s.goesNot f.g → encFault (.sqCms f) s.hand = none →
    exec (.sqCms f) s = .next (s.retire 4)) ∧
  (∀ (f : DABtG) (s : State), s.goesNot f.g → encFault (.sqVacc f) s.hand = none →
    exec (.sqVacc f) s = .next (s.retire 4))

/-- Instructions of two scalar sources with trap bits. -/
def twoSource : Instr → Option RegG
  | .add f | .sub f | .and f | .or f | .xor f | .andn f | .sll f | .srl f | .sra f | .rotl f | .rotr f | .mul f | .mulh f
  | .mulhn f | .div f | .divn f | .rem f | .remn f | .slt f | .sltn f | .min f | .max f | .minn f | .maxn f | .addw f
  | .subw f => some f
  | _ => none

/-- R157, R83: an empty source whose trap bit is set takes EMPTY-READ, with TVAL 32 × field + register; without the bit, or with an
empty destination, the hand waits and changes no register. A is looked at before B, B before D. -/
def Obligations.EmptySources : Prop :=
  ∀ (i : Instr) (f : RegG) (s : State), twoSource i = some f → s.goes f.g →
    let taken (t : Trap) : Prop := s.traps i t
    (¬ s.hand.full f.a → f.ta = 1 → taken (Trap.mk' .emptyRead (BitVec.ofNat 64 f.a.toNat))) ∧
    (¬ s.hand.full f.a → f.ta = 0 → exec i s = .next (s.waits .register)) ∧
    (s.hand.full f.a → ¬ s.hand.full f.b → f.tb = 1 → taken (Trap.mk' .emptyRead (BitVec.ofNat 64 (32 + f.b.toNat)))) ∧
    (s.hand.full f.a → ¬ s.hand.full f.b → f.tb = 0 → exec i s = .next (s.waits .register)) ∧
    (s.hand.full f.a → s.hand.full f.b → ¬ s.hand.full f.d → exec i s = .next (s.waits .register))

/-! ## The scalar ALU -/

/-- R181 (Table 9.2), for every scalar operation of two sources but division: the result, modulo 2^64, in x[D] at once. -/
def Obligations.ScalarTwoSourceResults : Prop :=
  ∀ (f : RegG) (s : State), s.ready f.g [f.a, f.b, f.d] →
    let a := s.hand.getX f.a
    let b := s.hand.getX f.b
    let n := b.toNat % 64
    s.writes (.add f) f.d (BitVec.ofNat 64 (a.toNat + b.toNat)) 4 ∧
    s.writes (.sub f) f.d (BitVec.ofInt 64 (a.toInt - b.toInt)) 4 ∧
    s.writes (.and f) f.d (a &&& b) 4 ∧ s.writes (.or f) f.d (a ||| b) 4 ∧ s.writes (.xor f) f.d (a ^^^ b) 4 ∧
    s.writes (.andn f) f.d (a &&& ~~~b) 4 ∧
    s.writes (.sll f) f.d (BitVec.ofNat 64 (a.toNat * 2 ^ n)) 4 ∧
    s.writes (.srl f) f.d (BitVec.ofNat 64 (a.toNat / 2 ^ n)) 4 ∧
    s.writes (.sra f) f.d (BitVec.ofInt 64 (a.toInt / 2 ^ n)) 4 ∧
    s.writes (.rotl f) f.d (a <<< n ||| a >>> (64 - n)) 4 ∧
    s.writes (.rotr f) f.d (a >>> n ||| a <<< (64 - n)) 4 ∧
    s.writes (.mul f) f.d (BitVec.ofNat 64 (a.toNat * b.toNat)) 4 ∧
    s.writes (.mulh f) f.d (BitVec.ofInt 64 (a.toInt * b.toInt / 2 ^ 64)) 4 ∧
    s.writes (.mulhn f) f.d (BitVec.ofNat 64 (a.toNat * b.toNat / 2 ^ 64)) 4 ∧
    s.writes (.slt f) f.d (if a.toInt < b.toInt then 1 else 0) 4 ∧
    s.writes (.sltn f) f.d (if a.toNat < b.toNat then 1 else 0) 4 ∧
    s.writes (.min f) f.d (if b.toInt < a.toInt then b else a) 4 ∧
    s.writes (.max f) f.d (if a.toInt < b.toInt then b else a) 4 ∧
    s.writes (.minn f) f.d (if b.toNat < a.toNat then b else a) 4 ∧
    s.writes (.maxn f) f.d (if a.toNat < b.toNat then b else a) 4 ∧
    s.writes (.addw f) f.d (((a + b).setWidth 32).signExtend 64) 4 ∧
    s.writes (.subw f) f.d (((a - b).setWidth 32).signExtend 64) 4

/-- An operation of one scalar source (FN 24 to 26, 29 to 31). -/
def oneSource : Instr → Bool
  | .clz _ | .ctz _ | .popc _ | .sextb _ | .sexth _ | .sextw _ => true
  | _ => false

/-- R182: division never traps. By zero, div and divn give all ones and rem and remn the dividend; −2^63 by −1 gives −2^63 and
remainder 0; otherwise the quotient is rounded toward zero and the remainder has the dividend's sign. The words of the operations of
one source have B and TB zero; an operation that is guarded off changes no register. -/
def Obligations.DivisionNeverTraps : Prop :=
  (∀ (w lit : Word) (i : Instr), decodeWords w lit = .ok i → oneSource i = true → bOf w = 0 ∧ (splitWord w).tb = 0) ∧
  (∀ (i : Instr) (f : RegG) (s : State), twoSource i = some f → s.goesNot f.g → exec i s = .next (s.retire 4)) ∧
  (∀ (f : UnG) (s : State), s.goesNot f.g → ∀ i ∈ [Instr.clz f, .ctz f, .popc f, .sextb f, .sexth f, .sextw f],
    exec i s = .next (s.retire 4)) ∧
  (∀ (s : State), (s.retire 4).hand.x = s.hand.x) ∧
  (∀ (f : RegG) (s : State), s.ready f.g [f.a, f.b, f.d] →
    let a := s.hand.getX f.a
    let b := s.hand.getX f.b
    s.writes (.div f) f.d (if b = 0 then BitVec.allOnes 64 else BitVec.ofInt 64 (a.toInt.tdiv b.toInt)) 4 ∧
    s.writes (.divn f) f.d (if b = 0 then BitVec.allOnes 64 else BitVec.ofNat 64 (a.toNat / b.toNat)) 4 ∧
    s.writes (.rem f) f.d (if b = 0 then a else BitVec.ofInt 64 (a.toInt.tmod b.toInt)) 4 ∧
    s.writes (.remn f) f.d (if b = 0 then a else BitVec.ofNat 64 (a.toNat % b.toNat)) 4)

/-- R181 (FN 24 to 26, 29 to 31): leading zeros, trailing zeros and set bits of 64, and the sign extensions. The counts are said by
what they count: all higher bits of a clz result are 0 and the next is 1. -/
def scalarUnaryResults : Prop :=
  ∀ (f : UnG) (s : State), s.ready f.g [f.a, f.d] →
    let a := s.hand.getX f.a
    (∃ n, s.writes (.clz f) f.d (BitVec.ofNat 64 n) 4 ∧ n ≤ 64 ∧ a.toNat < 2 ^ (64 - n) ∧ (n < 64 → 2 ^ (63 - n) ≤ a.toNat)) ∧
    (∃ n, s.writes (.ctz f) f.d (BitVec.ofNat 64 n) 4 ∧ n ≤ 64 ∧ (∀ i, i < n → a.getLsbD i = false) ∧
      (n < 64 → a.getLsbD n = true)) ∧
    s.writes (.popc f) f.d (BitVec.ofNat 64 ((List.range 64).countP (fun i => a.getLsbD i))) 4 ∧
    s.writes (.sextb f) f.d (BitVec.ofInt 64 (a.setWidth 8).toInt) 4 ∧
    s.writes (.sexth f) f.d (BitVec.ofInt 64 (a.setWidth 16).toInt) 4 ∧
    s.writes (.sextw f) f.d (BitVec.ofInt 64 (a.setWidth 32).toInt) 4

/-- R183 to R186, R165: the immediates (sign-extended first, for sltni too), the immediate shifts, lui, adpc from the word's own
address, lit and lith with their literal, after which the next instruction is 8 bytes on. -/
def immediateResults : Prop :=
  (∀ (f : ImmG) (s : State), s.ready f.g [f.a, f.d] →
    let a := s.hand.getX f.a
    let i : Reg64 := BitVec.ofInt 64 f.imm.toInt
    s.writes (.addi f) f.d (a + i) 4 ∧ s.writes (.andi f) f.d (a &&& i) 4 ∧ s.writes (.ori f) f.d (a ||| i) 4 ∧
    s.writes (.xori f) f.d (a ^^^ i) 4 ∧ s.writes (.slti f) f.d (if a.toInt < f.imm.toInt then 1 else 0) 4 ∧
    s.writes (.sltni f) f.d (if a.toNat < i.toNat then 1 else 0) 4) ∧
  (∀ (f : ShG) (s : State), s.ready f.g [f.a, f.d] →
    let a := s.hand.getX f.a
    s.writes (.slli f) f.d (BitVec.ofNat 64 (a.toNat * 2 ^ f.sh.toNat)) 4 ∧
    s.writes (.srli f) f.d (BitVec.ofNat 64 (a.toNat / 2 ^ f.sh.toNat)) 4 ∧
    s.writes (.srai f) f.d (BitVec.ofInt 64 (a.toInt / 2 ^ f.sh.toNat)) 4) ∧
  (∀ (f : UF) (s : State), s.hand.full f.d →
    s.writes (.lui f) f.d (BitVec.ofInt 64 (f.imm.toInt * 4096)) 4 ∧
    s.writes (.adpc f) f.d (s.hand.pc + BitVec.ofInt 64 (f.imm.toInt * 4096)) 4) ∧
  (∀ (f : LitF) (s : State), s.ready f.g [f.d] →
    s.writes (.lit f) f.d (BitVec.ofInt 64 f.lit.toInt) 8 ∧
    s.writes (.lith f) f.d (BitVec.ofNat 64 (f.lit.toNat * 2 ^ 32 + (s.hand.getX f.d).toNat % 2 ^ 32)) 8)

/-- R181, R183 to R186: the scalar operations of one source, the immediates and the constants. -/
def Obligations.ScalarUnaryAndImmediates : Prop := scalarUnaryResults ∧ immediateResults

/-- Destination of a scalar instruction that has no other result. -/
def scalarDest : Instr → Option Fld5
  | .add f | .sub f | .and f | .or f | .xor f | .andn f | .sll f | .srl f | .sra f | .rotl f | .rotr f | .mul f | .mulh f
  | .mulhn f | .div f | .divn f | .rem f | .remn f | .slt f | .sltn f | .min f | .max f | .minn f | .maxn f | .addw f
  | .subw f => some f.d
  | .clz f | .ctz f | .popc f | .sextb f | .sexth f | .sextw f => some f.d
  | .addi f | .andi f | .ori f | .xori f | .slti f | .sltni f => some f.d
  | .slli f | .srli f | .srai f => some f.d
  | .lui f | .adpc f => some f.d
  | .lit f | .lith f => some f.d
  | .jalr f => some f.d
  | .jmp _ | .nop => some 0
  | .jal _ => some 31
  | _ => none

/-- The frame of the scalar instructions (ALU, immediates, constants, jumps, nop), in whatever way they end but by a trap: no byte
of memory, no CSR (R172: no flag), no vector or predicate register, no stream, queue, handle or other hand changes, and of the
scalar registers only the destination. -/
def Obligations.ScalarFrame : Prop :=
  ∀ (i : Instr) (d : Fld5) (s t : State), scalarDest i = some d → s.latch = .clear → exec i s = .next t →
    (∀ tr, t.latch ≠ .trapped tr) →
    s.hand.sameXBut t.hand d ∧ t.mem = s.mem ∧ t.hand.csr = s.hand.csr ∧ t.hand.v = s.hand.v ∧ t.hand.p = s.hand.p ∧
    t.hand.producers = s.hand.producers ∧ t.hand.streams = s.hand.streams ∧ t.hand.lq = s.hand.lq ∧
    t.hand.handles = s.hand.handles ∧ t.hand.bound = s.hand.bound ∧ t.hand.dealer = s.hand.dealer ∧
    t.hand.inbox = s.hand.inbox ∧ t.hand.ord = s.hand.ord ∧ t.hand.jobs = s.hand.jobs ∧ t.others = s.others ∧
    t.cores = s.cores ∧ t.tasks = s.tasks ∧ t.seats = s.seats ∧ t.copies = s.copies

/-! ## Control -/

/-- R191: an instruction of one word that completes outside a frame and a convoy moves to the next word, unless it stands at the end
of the top loop: then the next iteration starts, or the loop ends, and with it each loop below that ends at the same word and has no
iteration left. The first loop below that has one, and ends at that word, starts its next iteration; where there is none, or the next
loop below ends elsewhere (the common nest), the hand goes on at the next word. -/
def Obligations.IterationEnds : Prop :=
  ∀ (s : State), s.hand.frame = none → s.hand.convoy = none → s.hand.pc.toNat + 4 < 2 ^ 64 →
    let t := s.retire 4
    (s.hand.loops = [] → t.hand.pc = s.hand.pc + 4 ∧ t.hand.loops = []) ∧
    (∀ e l, s.hand.loops = e :: l → e.stop ≠ s.hand.pc →
      (e.stop.toNat < s.hand.pc.toNat ∨ s.hand.pc.toNat + 4 ≤ e.stop.toNat) →
      t.hand.pc = s.hand.pc + 4 ∧ t.hand.loops = e :: l) ∧
    (∀ e l, s.hand.loops = e :: l → e.stop = s.hand.pc → (e.index + 1).toNat < e.count.toNat →
      t.hand.pc = e.start ∧ t.hand.loops = { e with index := e.index + 1 } :: l) ∧
    (∀ ended rest, s.hand.loops = ended ++ rest → ended ≠ [] → ended.length ≤ 6 →
      (∀ d ∈ ended, d.stop = s.hand.pc ∧ d.count.toNat ≤ (d.index + 1).toNat) →
      (rest = [] → t.hand.pc = s.hand.pc + 4 ∧ t.hand.loops = []) ∧
      (∀ f l, rest = f :: l → f.stop ≠ s.hand.pc → t.hand.pc = s.hand.pc + 4 ∧ t.hand.loops = f :: l) ∧
      (∀ f l, rest = f :: l → f.stop = s.hand.pc → (f.index + 1).toNat < f.count.toNat →
        t.hand.pc = f.start ∧ t.hand.loops = { f with index := f.index + 1 } :: l))

/-- R187: a taken branch goes to its address + 4 × OFF12, and is no iteration end; one not taken completes at its address. -/
def branches : Prop :=
  ∀ (f : BrF) (s : State), s.hand.full f.a → s.hand.full f.b →
    let a := s.hand.getX f.a
    let b := s.hand.getX f.b
    let goes (i : Instr) (c : Prop) : Prop :=
      (c → exec i s = .next (s.jumpTo (s.hand.pc + BitVec.ofInt 64 (4 * f.off.toInt)))) ∧ (¬ c → exec i s = .next (s.retire 4))
    goes (.beq f) (a = b) ∧ goes (.bne f) (a ≠ b) ∧ goes (.blt f) (a.toInt < b.toInt) ∧ goes (.bge f) (b.toInt ≤ a.toInt) ∧
    goes (.bltn f) (a.toNat < b.toNat) ∧ goes (.bgen f) (b.toNat ≤ a.toNat)

/-- R188: jmp and jal go to their address + 4 × OFF22, jal with the return address in x31; jalr goes to x[A] + imm with the return
address in x[D], and raises MISALIGNED with TVAL the target before it writes anything when bits 1:0 of the target are not 0. -/
def jumps : Prop :=
  (∀ (f : JmpF) (s : State), s.ready f.g [31] →
    let t := s.hand.pc + BitVec.ofInt 64 (4 * f.off.toInt)
    exec (.jmp f) s = .next (s.jumpTo t) ∧ exec (.jal f) s = .next ((s.setX 31 (s.hand.pc + 4)).jumpTo t)) ∧
  (∀ (f : ImmG) (s : State), s.ready f.g [f.a, f.d] →
    let t := s.hand.getX f.a + BitVec.ofInt 64 f.imm.toInt
    let tr := Trap.mk' .misaligned t
    (t.toNat % 4 = 0 → exec (.jalr f) s = .next ((s.setX f.d (s.hand.pc + 4)).jumpTo t)) ∧
    (t.toNat % 4 ≠ 0 → s.traps (.jalr f) tr))

/-- R187, R188: conditional branches and jumps. -/
def Obligations.BranchesAndJumps : Prop := branches ∧ jumps

/-- R190, R192, R179: loop pushes an entry (its count from x[A], its end at the label) and goes on at the next word, skips its body
when the count is 0 (a transfer of control, and no iteration end of an outer loop: log 17), and is ILLEGAL-OPCODE with six entries; lbrk
pops one entry; nop does nothing. lbrk is a commit point (R173). -/
def Obligations.LoopStack : Prop :=
  (∀ (f : LoopF) (s : State), s.hand.full f.a → s.hand.loops.length < 6 →
    let n := s.hand.getX f.a
    let stop := s.hand.pc + BitVec.ofInt 64 (4 * f.off.toInt)
    (n = 0 → exec (.loop f) s = .next (s.jumpTo (stop + 4))) ∧
    (n ≠ 0 → exec (.loop f) s = .next (State.jumpTo
      { s with hand := { s.hand with loops := ⟨s.hand.pc + 4, stop, n, 0⟩ :: s.hand.loops } } (s.hand.pc + 4)))) ∧
  (∀ (f : LoopF) (s : State), 6 ≤ s.hand.loops.length →
    s.traps (.loop f) (Trap.mk' .illegalOpcode ((encodeWord (.loop f)).setWidth 64))) ∧
  (∀ (f : GF) (s : State) (e : LoopEntry) (l : List LoopEntry), s.goes f.g → s.drains → s.commit.hand.loops = e :: l →
    exec (.lbrk f) s = .next (State.retire { s.commit with hand := { s.commit.hand with loops := l } } 4)) ∧
  (∀ (f : GF) (s : State),
    (s.goes f.g → s.drains → s.commit.hand.loops = [] → s.trapsAfter (.lbrk f) (sysTrap .illegalOpcode 8 0 0 0 f.g)) ∧
    (s.goesNot f.g → exec (.lbrk f) s = .next (s.retire 4))) ∧
  (∀ g : BitVec 3, decodeWords (0x6E00_0100 + g.setWidth 32) 0 = .ok (.lbrk ⟨g⟩)) ∧
  (∀ s : State, exec .nop s = .next (s.retire 4))

/-- What an opened strip leaves (R145, R146): STRIPNO one more, v0 to v31 zero, p1 to p31 clear and full, the strip protected with
nothing of its own buffered, a checkpoint of the registers that follow the instruction, no retry counted; the link serial moves on. -/
def stripOpened (s t : State) : Prop :=
  t.hand.csr.stripno = s.hand.csr.stripno + 1 ∧ t.hand.v = [] ∧ (∀ q : Fld5, q ≠ 0 → t.hand.getP q.toNat = 0) ∧
  t.hand.strip.prot = true ∧ (∀ b ∈ t.hand.strip.ssb, b.held = true) ∧ t.hand.strip.retries = 0 ∧
  (∃ c, t.hand.strip.ckpt = some c ∧ c.x = t.hand.x ∧ c.pc = t.hand.pc ∧ c.vl = t.hand.csr.vl ∧ c.stripno = t.hand.csr.stripno ∧
    c.loops = t.hand.loops ∧ c.lq = t.hand.lq ∧ c.streams = t.hand.streams ∧ c.handles = t.hand.handles) ∧
  t.hand.ord.serial = s.hand.ord.serial + 1 ∧ t.hand.ord.pins = []

/-- No strip record is to be written (SRECCTL.EN is 0) and nothing holds the hand at an opening: no request, breakpoint, match of
a watchpoint, no scalar producer outstanding, and the data of the buffer decode. -/
abbrev opensFreely (s : State) : Prop :=
  srecEn s.hand.csr.srecctl = false ∧ s.hand.unasked ∧ s.hand.breaksAt s.hand.pc = false ∧ s.hand.watched = false ∧
  s.scalarsFull .opening = .ok () ∧ s.drains ∧ s.hand.frame = none ∧ s.hand.convoy = none

/-- R142, R195, R149: vsetl and vsetlq grant min(remaining, capbytes(VPROF) × 2^GRP / 2^SEW), put it in VL and x[D], take VTYPE up,
start the ordinals of the grant, and open a strip; vsetlq takes the remaining count from the head of its queue. -/
def openingsGrant : Prop :=
  ∀ (f : VSetF) (s : State), opensFreely s →
    let cap := 256 * 2 ^ s.hand.csr.vprof * 2 ^ f.grp.toNat / 2 ^ f.sew.toNat
    let granted (i : Instr) (rem : Nat) (lq : Vector (List Word) 4) : Prop := ∃ t, exec i s = .next t ∧ stripOpened s t ∧
      t.hand.csr.vl = Nat.min rem cap ∧ (f.d ≠ 0 → t.hand.getX f.d = BitVec.ofNat 64 (Nat.min rem cap)) ∧
      s.hand.sameXBut t.hand f.d ∧ t.hand.csr.sew = f.sew ∧ t.hand.csr.grp = f.grp ∧ t.hand.csr.fz = (f.fz == 1) ∧
      t.hand.csr.fh = (f.fh == 1) ∧ t.hand.csr.orun = s.hand.csr.onext ∧
      t.hand.csr.onext = s.hand.csr.onext + BitVec.ofNat 64 (Nat.min rem cap) ∧ t.hand.lq = lq
    granted (.vsetl f) (s.hand.getX f.a).toNat s.hand.lq ∧
    (∀ w rest, f.a.toNat < 4 → s.hand.lq.toArray.getD f.a.toNat [] = w :: rest → s.hand.status ≠ .waiting .room →
      granted (.vsetlq f) w.toNat (s.hand.lq.setIfInBounds f.a.toNat rest))

/-- R197: vloop takes the grant x[B] off the remaining count x[A]; while elements remain it branches, with nothing opened; at the
last it falls through into a continuation strip that keeps VL, VTYPE and the ordinals. -/
def stripLoop : Prop :=
  ∀ (f : BrF) (s : State), s.hand.full f.a → s.hand.full f.b →
    let r := s.hand.getX f.a
    let g := s.hand.getX f.b
    let left : Reg64 := if r.toNat ≤ g.toNat then 0 else r - g
    (f.a ≠ 0 → s.hand.csr.vl ≠ 0 → left ≠ 0 →
      exec (.vloop f) s = .next ((s.setX f.a left).jumpTo (s.hand.pc + BitVec.ofInt 64 (4 * f.off.toInt)))) ∧
    (s.hand.csr.vl = 0 ∨ left = 0 → opensFreely s → s.hand.sched.stopWanted = false →
      ∃ t, exec (.vloop f) s = .next t ∧ stripOpened s t ∧
      (f.a ≠ 0 → t.hand.getX f.a = left) ∧ s.hand.sameXBut t.hand f.a ∧ t.hand.csr.vl = s.hand.csr.vl ∧
      t.hand.csr.sew = s.hand.csr.sew ∧ t.hand.csr.grp = s.hand.csr.grp ∧ t.hand.csr.orun = s.hand.csr.orun ∧
      t.hand.csr.onext = s.hand.csr.onext)

/-- R142, R145, R195, R197: vsetl, vsetlq and vloop. A grant fits one register group, and csrw of a reserved
profile is RESERVED-FIELD. -/
def Obligations.StripOpenings : Prop :=
  openingsGrant ∧ stripLoop ∧
  (∀ (vprof : Nat) (sew grp : BitVec 2) (remaining : Nat), vprof ≤ 4 →
    grantOf vprof sew grp remaining * 2 ^ sew.toNat ≤ 4096 * 2 ^ grp.toNat) ∧
  (∀ (f : DABG) (s : State), s.ready f.g [f.d] → s.drains → csrNum f = 0x002 → 4 < (s.hand.getX f.d).toNat →
    s.trapsAfter (.csrw f) (sysTrap .reservedField 2 f.d f.a f.b f.g))

/-! ## The vector ALU -/

/-- R243 (Table 12.4), R236, R237: the integer operations of two vectors at every SEW, on the active elements (vsel on all below
VL); the others, and every other register, as they were. -/
def Obligations.VectorInteger : Prop :=
  ∀ (f : VReg) (s : State),
    let h := s.hand
    let a := h.elem f.a
    let b := h.elem f.b
    let d := h.elem f.d
    let n := h.sewBits
    let on (i : Instr) (r : Nat → Nat) : Prop := s.groupsAB i f → s.vectorResult i f.d (h.actives f.m) (fun e => (r e, 0))
    on (.vadd f) (fun e => a e + b e) ∧ on (.vsub f) (fun e => h.wrap ((a e : Int) - b e)) ∧
    on (.vand f) (fun e => a e &&& b e) ∧ on (.vor f) (fun e => a e ||| b e) ∧ on (.vxor f) (fun e => a e ^^^ b e) ∧
    on (.vsll f) (fun e => a e * 2 ^ (b e % n)) ∧ on (.vsrl f) (fun e => a e / 2 ^ (b e % n)) ∧
    on (.vsra f) (fun e => h.wrap (h.sel (a e) / 2 ^ (b e % n))) ∧
    on (.vmul f) (fun e => a e * b e) ∧ on (.vmulh f) (fun e => h.wrap (h.sel (a e) * h.sel (b e) / 2 ^ n)) ∧
    on (.vmulhn f) (fun e => a e * b e / 2 ^ n) ∧
    on (.vmin f) (fun e => h.wrap (min (h.sel (a e)) (h.sel (b e)))) ∧
    on (.vmax f) (fun e => h.wrap (max (h.sel (a e)) (h.sel (b e)))) ∧
    on (.vminn f) (fun e => min (a e) (b e)) ∧ on (.vmaxn f) (fun e => max (a e) (b e)) ∧
    on (.vincw f) (fun e => if b e ≤ a e then 0 else a e + 1) ∧
    on (.vaddb f) (fun e => if d e + a e ≤ b e ∧ d e + a e < 2 ^ n then d e + a e else d e) ∧
    (s.groupsAB (.vsel f) f → s.vectorResult (.vsel f) f.d h.elems (fun e => (if h.activeAt f.m e then a e else b e, 0)))

/-- R243, R205: the saturating operations clamp to the range of I or N, and raise SAT, which has no XIDX, where they clamp. -/
def saturatingResults : Prop :=
  ∀ (f : VReg) (s : State),
    let h := s.hand
    let a := h.elem f.a
    let b := h.elem f.b
    let hi : Int := 2 ^ (h.sewBits - 1) - 1
    let clampI (v : Int) : Nat × Nat := (h.wrap (max (-hi - 1) (min hi v)), if v < -hi - 1 ∨ hi < v then 256 else 0)
    let clampN (v : Int) : Nat × Nat := ((max 0 (min (2 * hi + 1) v)).toNat, if v < 0 ∨ 2 * hi + 1 < v then 256 else 0)
    let on (i : Instr) (r : Nat → Nat × Nat) : Prop := s.groupsAB i f → s.vectorResult i f.d (h.actives f.m) r
    on (.vsadd f) (fun e => clampI (h.sel (a e) + h.sel (b e))) ∧ on (.vsaddn f) (fun e => clampN ((a e : Int) + b e)) ∧
    on (.vssub f) (fun e => clampI (h.sel (a e) - h.sel (b e))) ∧ on (.vssubn f) (fun e => clampN ((a e : Int) - b e))

/-- R243, R244: the unary operations, and VIMM with its immediate sign-extended to SEW and its shift count taken modulo SEW. -/
def Obligations.VectorUnaryAndImmediate : Prop :=
  (∀ (f : VUn) (s : State),
    let h := s.hand
    let a := h.elem f.a
    let n := h.sewBits
    let on (i : Instr) (r : Nat → Nat) : Prop := s.groupA i f.a f.ta → s.vectorResult i f.d (h.actives f.m) (fun e => (r e, 0))
    on (.vabs f) (fun e => (h.sel (a e)).natAbs) ∧ on (.vmov f) a ∧
    on (.vpopc f) (fun e => (List.range n).countP (fun k => (a e).testBit k)) ∧
    (s.groupA (.vclz f) f.a f.ta → ∃ z : Nat → Nat, s.vectorResult (.vclz f) f.d (h.actives f.m) (fun e => (z e, 0)) ∧
      ∀ e, z e ≤ n ∧ a e < 2 ^ (n - z e) ∧ (z e < n → 2 ^ (n - 1 - z e) ≤ a e))) ∧
  (∀ (f : VImm) (s : State),
    let h := s.hand
    let a := h.elem f.a
    let imm := h.wrap f.imm.toInt
    let on (i : Instr) (r : Nat → Nat) : Prop := s.groupA i f.a 0 → s.vectorResult i f.d (h.actives f.m) (fun e => (r e, 0))
    on (.vaddi f) (fun e => a e + imm) ∧ on (.vandi f) (fun e => a e &&& imm) ∧ on (.vori f) (fun e => a e ||| imm) ∧
    on (.vxori f) (fun e => a e ^^^ imm) ∧ on (.vmini f) (fun e => h.wrap (min (h.sel (a e)) f.imm.toInt)) ∧
    on (.vmaxi f) (fun e => h.wrap (max (h.sel (a e)) f.imm.toInt)) ∧
    (s.groupA (.vceqi f) f.a 0 → s.predResult (.vceqi f) f.d (fun e => h.activeAt f.m e && (a e == imm)) [])) ∧
  (∀ (f : VShImm) (s : State),
    let h := s.hand
    let a := h.elem f.a
    let n := f.sh.toNat % h.sewBits
    let on (i : Instr) (r : Nat → Nat) : Prop := s.groupA i f.a 0 → s.vectorResult i f.d (h.actives f.m) (fun e => (r e, 0))
    on (.vslli f) (fun e => a e * 2 ^ n) ∧ on (.vsrli f) (fun e => a e / 2 ^ n) ∧
    on (.vsrai f) (fun e => h.wrap (h.sel (a e) / 2 ^ n)))

/-- R245 to R247, R198 to R202: the float operations at SEW 16 (F16 or BF16 by FH) and 32, each rounded once in FPCR's mode, FZ
flushing, with the flags of every element. -/
def vectorFloat : Prop :=
  (∀ (f : VReg) (s : State),
    let h := s.hand
    let m := h.mode
    let z := h.csr.fz
    let a (e : Nat) : FVal := h.fval (h.elem f.a e)
    let b (e : Nat) : FVal := h.fval (h.elem f.b e)
    let d (e : Nat) : FVal := h.fval (h.elem f.d e)
    let on (i : Instr) (r : Nat → Nat × Nat) : Prop := s.groupsAB i f → s.vectorResult i f.d (h.actives f.m) r
    on (.vfadd f) (fun e => h.fmt.addV m z (a e) (b e)) ∧ on (.vfsub f) (fun e => h.fmt.addV m z (a e) (b e).negate) ∧
    on (.vfmul f) (fun e => h.fmt.roundV m z (mulV (a e) (b e))) ∧ on (.vfdiv f) (fun e => h.fmt.div m z (a e) (b e)) ∧
    on (.vfma f) (fun e => h.fmt.addV m z (mulV (a e) (b e)) (d e)) ∧
    on (.vfms f) (fun e => h.fmt.addV m z (mulV (a e) (b e)) (d e).negate) ∧
    on (.vfnma f) (fun e => h.fmt.addV m z (mulV (a e).negate (b e)) (d e)) ∧
    on (.vfmin f) (fun e => h.fmt.minmax z false (h.elem f.a e) (h.elem f.b e)) ∧
    on (.vfmax f) (fun e => h.fmt.minmax z true (h.elem f.a e) (h.elem f.b e)) ∧
    on (.vfsgn f) (fun e =>
      ((h.signed (decide (h.elem f.b e / h.fmt.sign % 2 = 1)) (a e)).1,
        Nat.lor (h.signed (decide (h.elem f.b e / h.fmt.sign % 2 = 1)) (a e)).2 (if (b e).isSig then fNV else 0)))) ∧
  (∀ (f : VUn) (s : State),
    let h := s.hand
    let m := h.mode
    let z := h.csr.fz
    let a (e : Nat) : FVal := h.fval (h.elem f.a e)
    let on (i : Instr) (r : Nat → Nat × Nat) : Prop := s.groupA i f.a f.ta → s.vectorResult i f.d (h.actives f.m) r
    on (.vfsqrt f) (fun e => h.fmt.sqrt m z (a e)) ∧ on (.vfrsqrt f) (fun e => h.fmt.rsqrt m z (a e)) ∧
    on (.vfexp2 f) (fun e => h.fmt.exp2 m z (a e)) ∧ on (.vflog2 f) (fun e => h.fmt.log2 m z (a e)) ∧
    on (.vfabs f) (fun e => h.signed false (a e)) ∧ on (.vfneg f) (fun e => h.signed (!(a e).neg) (a e)) ∧
    on (.vfclass f) (fun e => (h.fmt.classOf z (h.elem f.a e), 0)))

/-- R199 to R202: in every format and mode, a NaN gives the default NaN, NV when it signals; inf − inf, 0 × inf, 0/0 and inf/inf
are NV, a finite number by zero is DZ; an exact zero sum is +0, in RDN −0; a number that the format holds is rounded to itself
without a flag. -/
def floatSpecials : Prop :=
  ∀ (f : Fmt) (mode : Nat) (fz : Bool), f = f32 ∨ f = bf16 ∨ f = f16 →
    (∀ (q : Bool) (y : FVal), y.isSig = false → f.addV mode fz (.nan q) y = (f.nan, if q then fNV else 0) ∧
      f.mul mode fz (.nan q) y = (f.nan, if q then fNV else 0) ∧ f.div mode fz (.nan q) y = (f.nan, if q then fNV else 0)) ∧
    (∀ p q : Bool, f.addV mode fz (.inf p) (.inf !p) = (f.nan, fNV) ∧ f.mul mode fz (.zero p) (.inf q) = (f.nan, fNV) ∧
      f.div mode fz (.zero p) (.zero q) = (f.nan, fNV) ∧ f.div mode fz (.inf p) (.inf q) = (f.nan, fNV)) ∧
    (∀ (p q : Bool) (m : Nat) (e : Int), f.div mode fz (.fin p m e) (.zero q) = ((if p != q then f.sign else 0) + f.inf, fDZ)) ∧
    (∀ (p : Bool) (m : Nat) (e : Int), m ≠ 0 → f.addV mode fz (.fin p m e) (.fin (!p) m e) = (if mode = 2 then f.sign else 0, 0)) ∧
    (∀ b, b < 2 ^ f.width → (f.value b).isNan = false → (fz = false ∨ f.subnormal b = false) →
      f.roundV mode fz (f.value b) = (b, 0))

/-- Table 10.3, R201: √a and 1/√a of a positive number of the format, rounded toward zero, are the largest numbers of the format whose
square, or whose square times a, is not above a, or 1. -/
def rootBounds : Prop :=
  ∀ (f : Fmt) (b m : Nat) (e : Int), f = f32 ∨ f = bf16 ∨ f = f16 → b < 2 ^ f.width → f.value b = .fin false m e →
    let a : FVal := .fin false m e
    let one : FVal := .fin false 1 0
    let square (k : Nat) : FVal := mulV (f.value k) (f.value k)
    let r := (f.sqrt 1 false a).1
    let q := (f.rsqrt 1 false a).1
    (a.ltV (square r) = false ∧ a.ltV (square (r + 1)) = true) ∧
    (one.ltV (mulV a (square q)) = false ∧ one.ltV (mulV a (square (q + 1))) = true)

/-- Table 10.3, R201: in every mode 2 to a whole power n is exact where the format holds it as a normal number, and overflows above; 2 to
another power is not exact, and not below 2 to the whole power under it; log₂ of a power of two is its exponent, exactly. -/
def powerBounds : Prop :=
  ∀ (f : Fmt) (mode : Nat) (fz : Bool), f = f32 ∨ f = bf16 ∨ f = f16 → mode < 4 →
    let whole (n : Int) : FVal := if n = 0 then .zero false else .fin (decide (n < 0)) n.natAbs 0
    (∀ n : Int, 1 - (f.bias : Int) ≤ n → n ≤ f.bias → f.exp2 mode fz (whole n) = ((n + f.bias).toNat * 2 ^ f.mb, 0)) ∧
    (∀ n : Int, (f.bias : Int) < n → f.exp2 mode fz (whole n) = (f.overflow mode false, fOF + fNX)) ∧
    (∀ (b : Nat) (k : Int), b < 2 ^ f.width → 1 - (f.bias : Int) ≤ k → k < f.bias → (whole k).ltV (f.value b) = true →
      (f.value b).ltV (whole (k + 1)) = true →
      (k + f.bias).toNat * 2 ^ f.mb ≤ (f.exp2 mode fz (f.value b)).1 ∧ (f.exp2 mode fz (f.value b)).2 = fNX) ∧
    (∀ n : Int, n ≠ 0 → n.natAbs < 2 ^ (f.mb + 1) →
      (f.value (f.log2 mode fz (.fin false 1 n)).1).eqV (whole n) = true ∧ (f.log2 mode fz (.fin false 1 n)).2 = 0) ∧
    f.log2 mode fz (.fin false 1 0) = (0, 0)

/-- R246, R247, R200: vfmin and vfmax give one of their operands, that no operand is below, or above, −0 counting below +0; of a NaN and
a number the number, of two NaNs the default NaN, with NV for a signalling one; vfclass sets the one bit that the sign, exponent and
fraction fields say. -/
def choiceAndClass : Prop :=
  ∀ (f : Fmt) (fz : Bool) (a b : Nat), f = f32 ∨ f = bf16 ∨ f = f16 → a < 2 ^ f.width → b < 2 ^ f.width →
    let x := f.input fz a
    let y := f.input fz b
    let low := f.value (f.minmax fz false a b).1
    let high := f.value (f.minmax fz true a b).1
    (x.isNan = false → y.isNan = false → (low = x ∨ low = y) ∧ (high = x ∨ high = y) ∧ x.lessZ low = false ∧ y.lessZ low = false ∧
      high.lessZ x = false ∧ high.lessZ y = false) ∧
    (x.isNan = true → y.isNan = false → low = y ∧ high = y) ∧ (x.isNan = false → y.isNan = true → low = x ∧ high = x) ∧
    (x.isNan = true → y.isNan = true → (f.minmax fz false a b).1 = f.nan ∧ (f.minmax fz true a b).1 = f.nan) ∧
    (∀ mx, (f.minmax fz mx a b).2 = if x.isSig || y.isSig then fNV else 0) ∧
    let neg := a / 2 ^ (f.eb + f.mb) % 2 = 1
    let ex := a / 2 ^ f.mb % 2 ^ f.eb
    let fr := a % 2 ^ f.mb
    let top := 2 ^ f.eb - 1
    f.classOf fz a = 2 ^ (
      if ex = top ∧ fr ≠ 0 then (if fr / 2 ^ (f.mb - 1) = 0 then 8 else 9)
      else if ex = top then (if neg then 0 else 7)
      else if ex ≠ 0 then (if neg then 1 else 6)
      else if fr ≠ 0 ∧ fz = false then (if neg then 2 else 5)
      else if neg then 3 else 4)

/-- R198 to R202, R245 to R247: the vector float operations, their special operands, and bounds of their results. That vfexp2 and vflog2
round the exact value once rests on log 6. -/
def Obligations.FloatArithmetic : Prop := vectorFloat ∧ floatSpecials ∧ rootBounds ∧ powerBounds ∧ choiceAndClass

/-- R248: the widening instructions read a and b of SEW bits and write 2 × SEW bits, modulo 2^(2·SEW), to a group of twice the
registers; the multiply-accumulates add to what stands there. -/
def wideningResults : Prop :=
  ∀ (f : VReg) (s : State),
    let h := s.hand
    let w := 2 * h.sewBytes
    let a := h.elem f.a
    let b := h.elem f.b
    let d (e : Nat) : Int := h.getVN f.d.toNat (e * w) w
    let on (i : Instr) (r : Nat → Int) : Prop :=
      s.groupsAB i f → s.groupResult i f.d w (h.actives f.m) (fun e => ((r e % 2 ^ (8 * w)).toNat, 0))
    on (.vwmac f) (fun e => d e + h.sel (a e) * h.sel (b e)) ∧ on (.vwmacn f) (fun e => d e + a e * b e) ∧
    on (.vwmacsn f) (fun e => d e + h.sel (a e) * b e) ∧ on (.vwmul f) (fun e => h.sel (a e) * h.sel (b e)) ∧
    on (.vwmuln f) (fun e => (a e : Int) * b e) ∧ on (.vwadd f) (fun e => h.sel (a e) + h.sel (b e)) ∧
    on (.vwaddn f) (fun e => (a e : Int) + b e)

/-- R243, R205, R248: the saturating and the widening integer operations. -/
def Obligations.SaturatingAndWidening : Prop := saturatingResults ∧ wideningResults

/-- R249, R239: the compares write p[D] whole, an inactive position as 0; vfclt and vfcle raise NV for any NaN, vfceq and vfcun for
a signalling one. -/
def compares : Prop :=
  ∀ (f : VReg) (s : State),
    let h := s.hand
    let a := h.elem f.a
    let b := h.elem f.b
    let x (e : Nat) : FVal := h.fval (a e)
    let y (e : Nat) : FVal := h.fval (b e)
    let on (i : Instr) (c : Nat → Bool) : Prop := s.groupsAB i f → s.predResult i f.d (fun e => h.activeAt f.m e && c e) []
    let onF (i : Instr) (nv : Nat → Bool) (c : Nat → Bool) : Prop := s.groupsAB i f →
      s.predResult i f.d (fun e => h.activeAt f.m e && c e) (((h.actives f.m).filter nv).map (fun e => (e, fNV)))
    on (.vceq f) (fun e => a e == b e) ∧ on (.vcne f) (fun e => a e != b e) ∧
    on (.vclt f) (fun e => decide (h.sel (a e) < h.sel (b e))) ∧ on (.vcle f) (fun e => decide (h.sel (a e) ≤ h.sel (b e))) ∧
    on (.vcltn f) (fun e => decide (a e < b e)) ∧ on (.vclen f) (fun e => decide (a e ≤ b e)) ∧
    onF (.vfceq f) (fun e => (x e).isSig || (y e).isSig) (fun e => (x e).eqV (y e)) ∧
    onF (.vfclt f) (fun e => (x e).isNan || (y e).isNan) (fun e => (x e).ltV (y e)) ∧
    onF (.vfcle f) (fun e => (x e).isNan || (y e).isNan) (fun e => (x e).ltV (y e) || (x e).eqV (y e)) ∧
    onF (.vfcun f) (fun e => (x e).isSig || (y e).isSig) (fun e => (x e).isNan || (y e).isNan)

/-- R250: the logic of predicates at the active positions; the counts, the first position (all ones when there is none) and the
first 64 bits into x[D], of the active positions that p[A] holds; vpopq sends the count to the end of a length queue. -/
def predicates : Prop :=
  (∀ (f : PReg) (s : State),
    let h := s.hand
    let on (i : Instr) (c : Nat → Bool) : Prop := s.mayRun i → s.predResult i f.d (fun e => h.activeAt f.m e && c e) []
    on (.pand f) (fun e => h.pbit f.a e && h.pbit f.b e) ∧ on (.por f) (fun e => h.pbit f.a e || h.pbit f.b e) ∧
    on (.pxor f) (fun e => h.pbit f.a e != h.pbit f.b e) ∧ on (.pandn f) (fun e => h.pbit f.a e && !h.pbit f.b e)) ∧
  (∀ (f : VZero) (s : State), s.mayRun (.pset f) → s.predResult (.pset f) f.d (fun e => s.hand.activeAt f.m e) []) ∧
  (∀ (f : PUn) (s : State),
    let h := s.hand
    let held := (h.actives f.m).filter (fun e => h.pbit f.a e)
    (s.mayRun (.pnot f) → s.predResult (.pnot f) f.d (fun e => h.activeAt f.m e && !h.pbit f.a e) []) ∧
    (s.mayRun (.ppopc f) → h.full f.d → s.unitResult (.ppopc f) f.d (BitVec.ofNat 64 held.length) []) ∧
    (s.mayRun (.pfirst f) → h.full f.d → s.unitResult (.pfirst f) f.d
      (if held = [] then BitVec.allOnes 64 else BitVec.ofNat 64 (held.headD 0)) []) ∧
    (s.mayRun (.pmvx f) → h.full f.d → ∃ v, s.unitResult (.pmvx f) f.d v [] ∧ ∀ k, k < 64 → v.getLsbD k = decide (k ∈ held)) ∧
    (s.mayRun (.vpopq f) → f.d.toNat < 4 → (h.lq.toArray.getD f.d.toNat []).length < 8 →
      ∃ t, exec (.vpopq f) s = .next t ∧ s.onlyHand t ∧ h.movedOn t.hand 4 ∧ t.hand.x = h.x ∧ t.hand.v = h.v ∧
        t.hand.p = h.p ∧ t.hand.csr = h.csr ∧ t.hand.lq = h.lq.setIfInBounds f.d.toNat
          (h.lq.toArray.getD f.d.toNat [] ++ [BitVec.ofNat 32 held.length])) ∧
    (s.mayRun (.vpopq f) → 8 ≤ (h.lq.toArray.getD f.d.toNat []).length → exec (.vpopq f) s = .next (s.waits .room)))

/-- R249, R239, R250: what writes and what reads predicates; a compare whose D is 0 is illegal. -/
def Obligations.ComparesAndPredicates : Prop :=
  compares ∧ predicates ∧ decodeWords 0x4220_9040 0 = .ok (.vclt ⟨0, 2, 1, 4, 0, 0, 0⟩) ∧
  (∀ w lit : Word, majOf w = 33 → fnOf w ≤ 9 → dOf w = 0 → decodeWords w lit = .error .illegal)

/-- R251, R252: the permutes move source elements to the active destinations, a position at or above VL giving zero: vperm by the
indices of B, vslup, vsldn and vbcast by x[B], vrshp as a transposition of rows of x[B] elements; vcomp packs the active elements
to the front and writes zeros behind them, vexpd spreads the front over the active positions. -/
def permutes : Prop :=
  (∀ (f : VReg) (s : State),
    let h := s.hand
    let el (i : Nat) : Nat := if i < h.csr.vl then h.elem f.a i else 0
    let x := (h.getX f.b).toNat
    let on (i : Instr) (es : List Nat) (src : Nat → Nat) : Prop :=
      s.groupA i f.a f.ta → h.full f.b → s.vectorResult i f.d es (fun e => (el (src e), 0))
    (s.groupsAB (.vperm f) f → s.vectorResult (.vperm f) f.d (h.actives f.m) (fun e => (el (h.elem f.b e), 0))) ∧
    on (.vslup f) ((h.actives f.m).filter (fun e => decide (x ≤ e))) (fun e => e - x) ∧
    on (.vsldn f) (h.actives f.m) (fun e => e + x) ∧ on (.vbcast f) (h.actives f.m) (fun _ => x) ∧
    (x ≠ 0 ∧ h.csr.vl % x = 0 → on (.vrshp f) (h.actives f.m) (fun e => e % (h.csr.vl / x) * x + e / (h.csr.vl / x))) ∧
    (x = 0 ∨ h.csr.vl % x ≠ 0 → h.csr.vl ≠ 0 → s.groupA (.vrshp f) f.a f.ta → h.full f.b →
      s.traps (.vrshp f) (Trap.mk' .reservedField (h.getX f.b)))) ∧
  (∀ (f : VUn) (s : State),
    let h := s.hand
    let rank (e : Nat) : Nat := ((List.range e).filter (h.activeAt f.m)).length
    (s.groupA (.vcomp f) f.a f.ta → s.vectorResult (.vcomp f) f.d h.elems
      (fun k => (((h.actives f.m)[k]?).elim 0 (h.elem f.a), 0))) ∧
    (s.groupA (.vexpd f) f.a f.ta → s.vectorResult (.vexpd f) f.d (h.actives f.m) (fun e => (h.elem f.a (rank e), 0))))

/-- R253: vsortk writes the active keys in ascending order, the lower position first among equals, to the group at D, and with each
its payload (its position, or B's element) to the group after it; zeros behind both. -/
def sorting : Prop :=
  ∀ (f : VReg) (s : State), s.groupA (.vsortk f) f.a f.ta → (f.b = 0 ∨ s.hand.chains f.b s.hand.grpN f.tb) →
    s.hand.csr.vl * s.hand.sewBytes ≤ 4096 * s.hand.grpN →
    let h := s.hand
    let d2 : Fld5 := f.d + BitVec.ofNat 5 h.grpN
    ∃ (t : State) (order : List Nat), exec (.vsortk f) s = .next t ∧ s.onlyHand t ∧ h.movedOn t.hand 4 ∧ h.sameRest t.hand ∧
      order.Perm (h.actives f.m) ∧
      order.Pairwise (fun p q => h.elem f.a p < h.elem f.a q ∨ (h.elem f.a p = h.elem f.a q ∧ p < q)) ∧
      (∀ k, k < h.csr.vl → t.hand.elem f.d k = (order[k]?).elim 0 (h.elem f.a)) ∧
      (∀ k, k < h.csr.vl → t.hand.elem d2 k =
        (order[k]?).elim 0 (fun p => if f.b = 0 then p % 2 ^ h.sewBits else h.elem f.b p)) ∧
      h.sameVBut t.hand (elemKeys f.d h.sewBytes h.elems ++ elemKeys d2 h.sewBytes h.elems) ∧
      t.hand.x = h.x ∧ t.hand.p = h.p ∧ t.hand.csr = h.csr ∧ t.hand.producers = h.producers ++ s.made (.vsortk f) []

/-- R251 to R253: the permutes, and vsortk. -/
def Obligations.PermutesAndSorting : Prop := permutes ∧ sorting

/-- R254, R255, R204: a reduction of the active elements into x[D]: the integer ones sign-extended or zero-extended with their
identity where there is none, the float ones as bits with their flags. -/
def reductions : Prop :=
  ∀ (f : VUn) (s : State), s.hand.full f.d →
    let h := s.hand
    let l := (h.actives f.m).map (h.elem f.a)
    let hi : Int := 2 ^ (h.sewBits - 1) - 1
    let sext (v : Int) : Reg64 := BitVec.ofInt 64 (h.sel (h.wrap v))
    let on (i : Instr) (v : Reg64) : Prop := s.groupA i f.a f.ta → s.unitResult i f.d v []
    on (.vredadd f) (sext (l.sum : Nat)) ∧ on (.vredmin f) (sext ((l.map h.sel).foldr min hi)) ∧
    on (.vredmax f) (sext ((l.map h.sel).foldr max (-hi - 1))) ∧
    on (.vredminn f) (BitVec.ofNat 64 (l.foldr min (2 ^ h.sewBits - 1))) ∧
    on (.vredmaxn f) (BitVec.ofNat 64 (l.foldr max 0)) ∧
    on (.vredand f) (BitVec.ofNat 64 (l.foldr (· &&& ·) (2 ^ h.sewBits - 1))) ∧
    on (.vredor f) (BitVec.ofNat 64 (l.foldr (· ||| ·) 0)) ∧
    (s.groupA (.vfredadd f) f.a f.ta → s.unitResult (.vfredadd f) f.d (BitVec.ofNat 64 (h.treeRed f).1) (h.treeRed f).2) ∧
    (s.groupA (.vfredmin f) f.a f.ta →
      s.unitResult (.vfredmin f) f.d (BitVec.ofNat 64 (h.selRed false f).1) (h.selRed false f).2) ∧
    (s.groupA (.vfredmax f) f.a f.ta →
      s.unitResult (.vfredmax f) f.d (BitVec.ofNat 64 (h.selRed true f).1) (h.selRed true f).2)

/-- R256, R257: float to integer, rounded in FPCR's mode and clamped, NaN to 0; integer to float; between F32 and the 16-bit
format, narrowing from a group of twice the registers and widening into one. -/
def conversions : Prop :=
  (∀ (f : VUn) (s : State),
    let h := s.hand
    let a := h.elem f.a
    let hi : Int := 2 ^ (h.sewBits - 1) - 1
    let toInt (lo hi : Int) (e : Nat) : Nat × Nat :=
      (h.wrap ((h.fval (a e)).toIntClamped h.mode lo hi).1, ((h.fval (a e)).toIntClamped h.mode lo hi).2)
    let on (i : Instr) (r : Nat → Nat × Nat) : Prop := s.groupA i f.a f.ta → s.vectorResult i f.d (h.actives f.m) r
    on (.vcvtfi f) (toInt (-hi - 1) hi) ∧ on (.vcvtfn f) (toInt 0 (2 * hi + 1)) ∧
    on (.vcvtif f) (fun e => h.fmt.roundInt h.mode h.csr.fz false (h.sel (a e)) 0) ∧
    on (.vcvtnf f) (fun e => h.fmt.roundInt h.mode h.csr.fz false (a e) 0)) ∧
  (∀ (f : VCode) (s : State), s.mayRun (.vcvtff f) →
    let h := s.hand
    let a (e : Nat) : Nat := h.getVN f.a.toNat (4 * e) 4
    (f.b = 0 → h.chains f.a (2 * h.grpN) f.ta → s.groupResult (.vcvtff f) f.d 2 (h.actives f.m)
      (fun e => h.fmt16.roundV h.mode h.csr.fz (f32.input h.csr.fz (a e)))) ∧
    (f.b = 1 → h.chains f.a h.grpN f.ta → s.groupResult (.vcvtff f) f.d 4 (h.actives f.m)
      (fun e => f32.roundV h.mode h.csr.fz (h.fmt16.input h.csr.fz (h.elem f.a e))))) ∧
  (∀ (mode lo hi) (q n : Bool), FVal.toIntClamped mode lo hi (.nan q) = (0, fNV) ∧
    FVal.toIntClamped mode lo hi (.inf n) = (if n then lo else hi, fNV))

/-- R258, R206 to R209: vquant packs each 32 F32 elements into one BXw block, an inactive element as zero; vdequant gives the block
values back, exactly, once every block passes its checks; VL must be whole blocks, or FORMAT-ALIGN, and a block that fails is
BLOCK-CHECK with nothing written. -/
def quantizedBlocks : Prop :=
  ∀ (f : VCode) (s : State),
    let h := s.hand
    let w := f.b.toNat
    let n := h.csr.vl / 32
    let given (b : Nat) : Block × List Nat :=
      encodeBlock w h.csr.fz ((upFrom (32 * b) 32).map (fun e => if h.activeAt f.m e then h.elem f.a e else 0))
    let raised := ((List.range n).map (fun b => (given b).2.zipIdx.filterMap (fun fj =>
      if fj.1 = 0 then none else some (32 * b + fj.2, fj.1)))).flatten
    let bytes (b : Nat) : List Byte := (upFrom (b * (4 + 4 * w)) (4 + 4 * w)).map (h.getVB f.a.toNat)
    (h.csr.vl % 32 = 0 → s.groupA (.vquant f) f.a f.ta → s.groupWrites (.vquant f) f.d (4 + 4 * w) (List.range n)
      (fun b => leNat ((given b).1.bytes w)) raised) ∧
    (h.csr.vl % 32 = 0 → s.groupA (.vdequant f) f.a f.ta → (∀ b, b < n → readBlock w 32 (bytes b) ≠ none) →
      s.vectorResult (.vdequant f) f.d (h.actives f.m)
        (fun e => (((readBlock w 32 (bytes (e / 32))).elim 0 (fun b => b.value w (e % 32))), 0))) ∧
    (∀ b, h.csr.vl % 32 = 0 → s.groupA (.vdequant f) f.a f.ta → b < n → readBlock w 32 (bytes b) = none →
      (∀ j, j < b → readBlock w 32 (bytes j) ≠ none) →
      s.traps (.vdequant f) ((Trap.mk' .blockCheck (BitVec.ofNat 64 h.csr.vl)).at' (32 * b))) ∧
    (h.csr.vl % 32 ≠ 0 → s.vready (.vquant f) → h.chains f.a h.grpN f.ta →
      s.traps (.vquant f) (Trap.mk' .formatAlign (BitVec.ofNat 64 h.csr.vl))) ∧
    (h.csr.vl % 32 ≠ 0 → s.vready (.vdequant f) → h.chains f.a h.grpN f.ta →
      s.traps (.vdequant f) (Trap.mk' .formatAlign (BitVec.ofNat 64 h.csr.vl)))

/-- R209, R206: the block that some values give. A NaN makes a NaN block, values that are all zero a zero block. Otherwise the scale is the
least that covers the finite values, E first and then F, and the greatest of all where none does or a value is infinite; a mantissa is the
nearest whole number of 2^(E − 138 − w) × (4096 + F), the even one of two, within ±(2^(w − 1) − 1), where an infinity goes; OF marks what no
scale covers, NX what does not decode to itself. -/
def blockOfValues : Prop :=
  ∀ (w : Nat) (fz : Bool) (vals : List Nat), 2 ≤ w → w ≤ 8 → (∀ v ∈ vals, v < 2 ^ 32) →
    let v (j : Nat) : FVal := f32.input fz (vals.getD j 0)
    let b := (encodeBlock w fz vals).1
    let fl (j : Nat) : Nat := (encodeBlock w fz vals).2.getD j 0
    let n := vals.length
    let top := 2 ^ (w - 1) - 1
    let infinite (j : Nat) : Prop := ∃ g, v j = .inf g
    let covers (e f j : Nat) : Prop := ∀ g m x, v j = .fin g m x →
      FVal.ltV (.fin false ((4096 + f) * top) ((e : Int) - 138 - w)) (.fin false m x) = false
    let big : Prop := (∃ j, j < n ∧ infinite j) ∨ ∃ j, j < n ∧ ¬ covers 254 4095 j
    b.ms.length = n ∧ (encodeBlock w fz vals).2.length = n ∧
    ((∃ j, j < n ∧ (v j).isNan = true) → b.e = 255 ∧ b.f = 0 ∧ (∀ m ∈ b.ms, m = 0) ∧
      ∀ j, j < n → fl j = if (v j).isSig then fNV else 0) ∧
    ((∀ j, j < n → ∃ g, v j = .zero g) → b.e = 0 ∧ b.f = 0 ∧ (∀ m ∈ b.ms, m = 0) ∧ ∀ j, j < n → fl j = 0) ∧
    ((∀ j, j < n → (v j).isNan = false) → (∃ j, j < n ∧ ∀ g, v j ≠ .zero g) →
      (big → b.e = 254 ∧ b.f = 4095) ∧
      (¬ big → 1 ≤ b.e ∧ b.e ≤ 254 ∧ b.f < 4096 ∧ (∀ j, j < n → covers b.e b.f j) ∧
        ∀ e f, 1 ≤ e → f < 4096 → 4096 * e + f < 4096 * b.e + b.f → ∃ j, j < n ∧ ¬ covers e f j) ∧
      (∀ j, j < n →
        let m := b.ms.getD j 0
        (∀ g, v j = .zero g → m = 0) ∧ (∀ g, v j = .inf g → m = if g then -(top : Int) else top) ∧
        (∀ g a x, v j = .fin g a x →
          let r : Int := x - ((b.e : Int) - 138 - w)
          let num : Int := a * 2 ^ r.toNat
          let den : Int := (4096 + b.f) * 2 ^ (-r).toNat
          ∃ q : Nat, 2 * (num - q * den).natAbs ≤ den.natAbs ∧ (2 * (num - q * den).natAbs = den.natAbs → q % 2 = 0) ∧
            m = if g then -((min q top : Nat) : Int) else (min q top : Nat)) ∧
        let nx := if (f32.value (b.value w j)).eqV (v j) then 0 else fNX
        (infinite j ∨ ¬ covers 254 4095 j → fl j = fOF + nx) ∧ (¬ infinite j → covers 254 4095 j → fl j = nx)))

/-- R206 to R208, Table 10.5: the value of an element is exact; a block's bytes have its fields where Table 10.5 and R207 put them, CHK8
among them, and reading them gives the block back; bytes are refused exactly where CHK8 differs, bits 23:20 are set, or a zero or a NaN
block has a fraction or a mantissa. -/
def blockBytesLaw : Prop :=
  (∀ (b : Block) (w j : Nat), 2 ≤ w → w ≤ 8 → b.f < 4096 → b.e < 256 →
    let m := b.ms.getD j 0
    m < 2 ^ (w - 1) → -(2 ^ (w - 1) : Int) ≤ m →
    (b.e = 255 → b.value w j = f32.nan) ∧ (b.e = 0 ∨ (b.e ≠ 255 ∧ m = 0) → b.value w j = 0) ∧
    (1 ≤ b.e → b.e ≤ 254 → m ≠ 0 →
      (f32.value (b.value w j)).eqV (.fin (decide (m < 0)) (m.natAbs * (4096 + b.f)) ((b.e : Int) - 138 - w)) = true)) ∧
  (∀ (b : Block) (w n : Nat), 2 ≤ w → w ≤ 8 → n = 16 ∨ n = 32 → b.ms.length = n → b.f < 4096 → b.e < 256 →
    (∀ m ∈ b.ms, -(2 ^ (w - 1) : Int) ≤ m ∧ m < 2 ^ (w - 1)) → (b.e = 0 ∨ b.e = 255 → b.f = 0 ∧ ∀ m ∈ b.ms, m = 0) →
    let l := b.bytes w
    l.length = 4 + n * w / 8 ∧ leNat (l.take 3) = b.e * 2 ^ 12 + b.f ∧ l.getD 3 0 = xorBytes (l.take 3 ++ l.drop 4) ∧
    (∀ j q, j < n → q < w → (l.getD (4 + (j * w + q) / 8) 0).getLsbD ((j * w + q) % 8) = (BitVec.ofInt 64 (b.ms.getD j 0)).getLsbD q) ∧
    readBlock w n l = some b) ∧
  (∀ (w n : Nat) (l : List Byte), 2 ≤ w → w ≤ 8 → n = 16 ∨ n = 32 → l.length = 4 + n * w / 8 →
    let h := leNat (l.take 3)
    (readBlock w n l = none ↔ l.getD 3 0 ≠ xorBytes (l.take 3 ++ l.drop 4) ∨ h / 2 ^ 20 ≠ 0 ∨
      ((h / 2 ^ 12 % 256 = 0 ∨ h / 2 ^ 12 % 256 = 255) ∧ (h % 2 ^ 12 ≠ 0 ∨ ∃ x ∈ l.drop 4, x ≠ 0))))

/-- R256 to R258, R206 to R209: conversions between numbers, and between F32 and quantised blocks; what a block of values is, and its
bytes. -/
def Obligations.ConversionsAndBlocks : Prop := conversions ∧ quantizedBlocks ∧ blockOfValues ∧ blockBytesLaw

/-- R259, R149: vsplat and vins write x[A] (vins the element x[B], when it is active), vext reads element x[B], sign-extended, or 0;
viota counts the positions of the mask below each element, vord writes the element ordinals. -/
def scalarAndVectorMoves : Prop :=
  (∀ (f : VUn) (s : State), s.mayRun (.vsplat f) → s.hand.full f.a →
    s.vectorResult (.vsplat f) f.d (s.hand.actives f.m) (fun _ => ((s.hand.getX f.a).toNat, 0))) ∧
  (∀ (f : VReg) (s : State),
    let h := s.hand
    let i := (h.getX f.b).toNat
    (s.mayRun (.vins f) → h.full f.a → h.full f.b →
      s.vectorResult (.vins f) f.d (if h.activeAt f.m i then [i] else []) (fun _ => ((h.getX f.a).toNat, 0))) ∧
    (s.groupA (.vext f) f.a f.ta → h.full f.b → h.full f.d →
      s.unitResult (.vext f) f.d (if h.activeAt f.m i then BitVec.ofInt 64 (h.sel (h.elem f.a i)) else 0) [])) ∧
  (∀ (f : VZero) (s : State),
    let h := s.hand
    let below (e : Nat) : Nat :=
      if f.m = 0 then e else (List.range e).countP (fun j => (h.getP f.m.toNat).getLsbD j)
    (s.mayRun (.viota f) → s.vectorResult (.viota f) f.d h.elems (fun e => (below e, 0))) ∧
    (s.mayRun (.vord f) → s.vectorResult (.vord f) f.d (h.actives f.m)
      (fun e => ((h.csr.ordbase + h.csr.orun + BitVec.ofNat 64 e).toNat, 0))))

/-- A node of R204's tree: an absent input is none, and one that stands alone is carried. -/
def treePair (h : Hand) : Option FVal → Option FVal → Option FVal
  | none, b => b
  | a, none => a
  | some x, some y => some (h.fmt.value (h.fmt.addV h.mode h.csr.fz x y).1)

/-- R204, R205: vfredadd's tree has the active elements as its leaves, and each node is the rounded sum of the pair (2j, 2j + 1) of the
level below it; its flags are those of each addition, named at the lowest active position beneath it. -/
def treeLaw : Prop :=
  ∀ (h : Hand) (f : VUn) (node : Nat → Nat → Option FVal), h.csr.sew = 1 ∨ h.csr.sew = 2 → h.csr.vl ≤ 2 ^ 17 →
    (∀ j, node 0 j = if j ∈ h.actives f.m then some (h.fval (h.elem f.a j)) else none) →
    (∀ k j, node (k + 1) j = treePair h (node k (2 * j)) (node k (2 * j + 1))) →
    let lowest (p first count : Nat) : Prop :=
      p ∈ h.actives f.m ∧ first ≤ p ∧ p < first + count ∧ ∀ e ∈ h.actives f.m, first ≤ e → p ≤ e
    let added (p g : Nat) : Prop := ∃ k j x y, k < 17 ∧ node k (2 * j) = some x ∧ node k (2 * j + 1) = some y ∧
      g = (h.fmt.addV h.mode h.csr.fz x y).2 ∧ lowest p (2 * j * 2 ^ k) (2 * 2 ^ k)
    let result (p g : Nat) : Prop := ∃ x, node 17 0 = some x ∧ g = (h.fmt.roundV 0 false x).2 ∧ lowest p 0 (2 ^ 17)
    (node 17 0 = none → h.treeRed f = (0, [])) ∧
    (∀ x, node 17 0 = some x → (h.treeRed f).1 = (h.fmt.roundV 0 false x).1) ∧
    (∀ p g, (p, g) ∈ (h.treeRed f).2 ↔ g ≠ 0 ∧ (added p g ∨ result p g))

/-- R246, R255, R196: vfredmin and vfredmax give an active element that none is below, or above, in the order that has −0 below +0; the
default NaN where every one is NaN, and +inf or −inf where there is none; NV for each signalling one, and nothing rounded. -/
def selectionLaw : Prop :=
  ∀ (h : Hand) (f : VUn) (mx : Bool), h.csr.sew = 1 ∨ h.csr.sew = 2 →
    let es := h.actives f.m
    let x (e : Nat) : FVal := h.fval (h.elem f.a e)
    let r := (h.selRed mx f).1
    (es = [] → r = h.fmt.inf + (if mx then h.fmt.sign else 0)) ∧
    (es ≠ [] → (∀ e ∈ es, (x e).isNan = true) → r = h.fmt.nan) ∧
    ((∃ e ∈ es, (x e).isNan = false) → (∃ e ∈ es, (x e).isNan = false ∧ h.fmt.value r = x e) ∧
      ∀ e ∈ es, (x e).isNan = false → (if mx then (h.fmt.value r).lessZ (x e) else (x e).lessZ (h.fmt.value r)) = false) ∧
    (h.selRed mx f).2 = (es.filter (fun e => (x e).isSig)).map (fun e => (e, fNV))

/-- R254, R255, R259, R204, R246: reductions, the tree and the selection of the float ones, and moves between scalar and vector
registers. -/
def Obligations.ReductionsAndMoves : Prop := reductions ∧ treeLaw ∧ selectionLaw ∧ scalarAndVectorMoves

/-! ## Memory -/

/-- R219, R217, R220: a scalar load puts the extended value of its width in x[D], which is empty until the data land, and changes
nothing else. -/
def scalarLoads : Prop :=
  ∀ (f : ImmG) (s : State) (v : Nat), s.ready f.g [f.a, f.d] →
    let va := s.hand.getX f.a + BitVec.ofInt 64 f.imm.toInt
    let on (i : Instr) (w : Nat) (r : Reg64) : Prop := s.readsAt 0 va w v → s.xLoad i f.d r
    on (.ldb f) 1 ((BitVec.ofNat 8 v).signExtend 64) ∧ on (.ldh f) 2 ((BitVec.ofNat 16 v).signExtend 64) ∧
    on (.ldw f) 4 ((BitVec.ofNat 32 v).signExtend 64) ∧ on (.ldd f) 8 (BitVec.ofNat 64 v) ∧
    on (.ldbn f) 1 (BitVec.ofNat 64 v) ∧ on (.ldhn f) 2 (BitVec.ofNat 64 v) ∧ on (.ldwn f) 4 (BitVec.ofNat 64 v)

/-- R219, R73, R147: in a protected strip a scalar store enters the low bytes of x[D] in the strip store buffer, memory as it was;
outside one it performs: the bytes at its address are live, and no other byte of memory changes. -/
def scalarStores : Prop :=
  ∀ (f : ImmG) (s : State) (k : Nat), s.ready f.g [f.a, f.d] →
    let va := s.hand.getX f.a + BitVec.ofInt 64 f.imm.toInt
    let v := (s.hand.getX f.d).toNat
    let on (i : Instr) (w : Nat) : Prop := va.toNat % w = 0 → s.plainAt true va k →
      (s.buffers w [k] → s.storeResult i 0 w [entryAt va k v]) ∧
      (s.hand.strip.prot = false → s.hand.strip.granules.length + 2 ≤ Config.ssbGranules → Mem.wf s.mem.live = true →
        (∀ j ∈ upFrom k w, s.heelUsed (homeField j) + w ≤ s.heelRoom (homeField j)) →
        ∃ t, exec i s = .next t ∧ storedAt s.mem.live t.mem.live w [0] (fun _ => k) (fun _ => v) ∧ t.mem.pub = s.mem.pub ∧
          s.hand.movedOn t.hand 4 ∧ s.hand.sameRegs t.hand ∧ t.hand.v = s.hand.v ∧ t.hand.p = s.hand.p ∧
          t.hand.producers = s.hand.producers)
    on (.stb f) 1 ∧ on (.sth f) 2 ∧ on (.stw f) 4 ∧ on (.std f) 8

/-- R216: a scalar access whose address is not a multiple of its width raises MISALIGNED with TVAL the address and its ACCESS, before
anything else of it. -/
def misalignedTraps : Prop :=
  ∀ (f : ImmG) (s : State), s.ready f.g [f.a, f.d] →
    let va := s.hand.getX f.a + BitVec.ofInt 64 f.imm.toInt
    let on (i : Instr) (w access : Nat) : Prop :=
      va.toNat % w ≠ 0 → s.traps i { Trap.mk' .misaligned va with access := access }
    on (.ldh f) 2 0 ∧ on (.ldhn f) 2 0 ∧ on (.sth f) 2 1 ∧ on (.ldw f) 4 0 ∧ on (.ldwn f) 4 0 ∧ on (.stw f) 4 1 ∧
    on (.ldd f) 8 0 ∧ on (.std f) 8 1

/-- R216, R219, R217, R220, R73: scalar loads and stores, and MISALIGNED. -/
def Obligations.ScalarMemory : Prop := scalarLoads ∧ scalarStores ∧ misalignedTraps

/-- R27, R29, R31, R33, R63, Table 2.1: an address at or above 2^57 is NONCANONICAL (sub-code 1); the bench window reaches the hand's own
bench, its hole is sub-code 2, and fetches, the linked and SC paths, and writes to the command chain are refused there (sub-code 13);
a plain range entry reaches its byte, and decides where it does not allow the access too. -/
def translation : Prop :=
  ∀ (s : State) (a : Access) (va k : Nat),
    (2 ^ 57 ≤ va → s.xlate s.me a va = .error (.trap (xfault .translation 1 7 a va))) ∧
    (Config.benchWindow + Config.benchHole ≤ va → va < 2 ^ 57 →
      s.xlate s.me a va = .error (.trap (xfault .translation 2 7 a va))) ∧
    (Config.benchWindow ≤ va → va < Config.benchWindow + Config.benchHole →
      a = .fetch ∨ a.livePath = true ∨ (a.writes = true ∧ Config.benchWindow + Config.chainOffset ≤ va) →
      s.xlate s.me a va = .error (.trap (xfault .permission 13 7 a va))) ∧
    let reached : State := { s with mem := s.mem.useLine (lineOf k) }
    (s.windowAt va k → a ≠ .fetch → a.livePath = false →
      s.xlate s.me a va = .ok (reached, .plain k false)) ∧
    (s.rangeAt a.writes va k → a ≠ .fetch → s.xlate s.me a va = .ok (reached, .plain k false)) ∧
    (∀ d r sub, va < Config.benchWindow → mfind s.asids s.hand.asid.toNat = some d →
      d.ranges.find? (fun r => attrBit r.attr 0 && decide (r.base ≤ va ∧ va < r.limit)) = some r →
      s.mapped r.attr r.offset (va - r.base) = true → permFault s.me a r.attr = some sub →
      s.xlate s.me a va = .error (.trap (xfault .permission sub 7 a va)))

/-- R34, R37: what one table's entry gives the walk: none where V is 0; a leaf (HAND or SYS set), at levels 2 to 0 only, that
keeps R35's and R36's rules; of a CONTIG leaf the group's entry 0, where the group is one page; a pointer, at levels 4 to 1 only, with
nothing set but V and the frame. It waits for a stack that is coming up (R412); a lost stack: log 113. -/
def pageWalk : Prop :=
  ∀ (s : State) (va lv table : Nat) (rest : List Nat),
    let at' := table + 8 * (va / 2 ^ (12 + 9 * lv) % 512)
    let e := s.live64 at'
    let leaf := e.toNat / 8 % 4 ≠ 0
    let walk := s.walk va (lv :: rest) table
    let group (j : Nat) : Reg64 := s.live64 (at' / 128 * 128 + 8 * j)
    let onePage : Prop := (∀ j, j < 16 → (group j).getLsbD 0 = true ∧ (group j).getLsbD 54 = true ∧
      (group j).toNat % 4096 = (group 0).toNat % 4096 ∧ attrFrame (group j) = attrFrame (group 0) + j) ∧ attrFrame (group 0) % 16 = 0
    let up := if 12 * Config.stackBytes ≤ at' then some true else s.stackUp at'
    (up = some false → walk = .error (.fault 0 lv)) ∧ (up = none → walk = .error .later) ∧
    (up = some true → s.badKey at' 8 = none →
    (e.getLsbD 0 = false → walk = .error (.fault 0 lv)) ∧
    (e.getLsbD 0 = true → leaf →
      (3 ≤ lv → walk = .error (.fault 5 lv)) ∧
      (lv < 3 → (∀ sub, leafFault lv e = some sub → walk = .error (.fault sub lv)) ∧
        (leafFault lv e = none → (e.getLsbD 54 = false → walk = .ok ⟨lv, at', e⟩) ∧
          (e.getLsbD 54 = true → onePage → walk = .ok ⟨lv, at' / 128 * 128, group 0⟩) ∧
          (e.getLsbD 54 = true → ¬ onePage → walk = .error (.fault 6 lv))))) ∧
    (e.getLsbD 0 = true → ¬ leaf →
      (lv = 0 → walk = .error (.fault 4 0)) ∧
      (lv ≠ 0 → e.toNat / 2 ^ 52 ≠ 0 ∨ e.toNat % 4096 ≠ 1 → walk = .error (.fault 4 lv)) ∧
      (lv ≠ 0 → e.toNat / 2 ^ 52 = 0 → e.toNat % 4096 = 1 → walk = s.walk va rest (e.toNat / 4096 % 2 ^ 40 * 4096))))

/-- R35, R36: a leaf is refused exactly where a reserved bit is set, its FMT is reserved or a row of R36 holds, with the sub-code of such
a row (log 79). -/
def leafRules : Prop :=
  ∀ (lv : Nat) (e : Reg64),
    let fmt := e.toNat / 256 % 16
    let geom := e.toNat / 2 ^ 55 % 8
    let frame := e.toNat / 4096 % 2 ^ 40
    let cpx := e.getLsbD 7 = true
    let sh := e.getLsbD 6 = true
    let sc := e.getLsbD 5 = true
    let contig := e.getLsbD 54 = true
    let format : Prop := 8 ≤ fmt
    let attr : Prop := e.toNat / 2 ^ 58 ≠ 0 ∨ (fmt ≠ 0 ∧ 2 ≤ geom) ∨ (fmt = 0 ∧ geom ≠ 0) ∨
      (fmt ≠ 0 ∧ (cpx ∨ sh ∨ sc)) ∨ (cpx ∧ sh) ∨ (cpx ∧ sc) ∨ (sh ∧ sc) ∨ (contig ∧ (lv ≠ 0 ∨ fmt ≠ 0))
    let level : Prop := (cpx ∨ sh) ∧ (lv ≠ 0 ∨ contig)
    let align : Prop := fmt = 0 ∧ ¬ cpx ∧ ¬ sh ∧ ((lv = 1 ∧ frame % 2 ^ 9 ≠ 0) ∨ (lv = 2 ∧ frame % 2 ^ 18 ≠ 0))
    (leafFault lv e = none ↔ ¬ format ∧ ¬ attr ∧ ¬ level ∧ ¬ align) ∧
    (∀ sub, leafFault lv e = some sub → (sub = 3 ∧ format) ∨ (sub = 4 ∧ attr) ∨ (sub = 5 ∧ level) ∨ (sub = 6 ∧ align))

/-- R49: a hand's access needs HAND, stores W and fetches X; a system core's SYS, and W for a write. -/
def permissions : Prop :=
  ∀ (ag : Agent) (a : Access) (attr : Reg64),
    let w := attr.getLsbD 1
    let x := attr.getLsbD 2
    let hand := attr.getLsbD 3
    let sys := attr.getLsbD 4
    (ag.sys = false → hand = false → permFault ag a attr = some 8) ∧
    (ag.sys = false → hand = true → a.writes = true → permFault ag a attr = if w then none else some 9) ∧
    (ag.sys = false → hand = true → a = .fetch → permFault ag a attr = if x then none else some 10) ∧
    (ag.sys = false → hand = true → a.writes = false → a ≠ .fetch → permFault ag a attr = none) ∧
    (ag.sys = true → sys = false → permFault ag a attr = some 11) ∧
    (ag.sys = true → sys = true → permFault ag a attr = if a.writes && !w then some 9 else none)

/-- R33, R34, R38, R49: an address that no range entry holds goes by the walk from ROOT: a fault of the walk or of the permissions, with
its level, or the byte at the page's frame and the offset in the page; A is then set in the leaf, and D for a write, nothing else. No
translation is cached before. A walk changes only which tagged lines were used last (R57). -/
def pageTranslation : Prop :=
  (∀ (s : State) (a : Access) (va : Nat) (d : AsidDesc), va < Config.benchWindow → mfind s.asids s.hand.asid.toNat = some d →
    d.ranges.find? (fun r => attrBit r.attr 0 && decide (r.base ≤ va ∧ va < r.limit)) = none → s.cached = [] →
    (∀ sub lv, s.walk va [4, 3, 2, 1, 0] d.root = .error (.fault sub lv) →
      s.xlate s.me a va = .error (.trap (xfault .translation sub lv a va))) ∧
    (∀ l : Leaf, s.walk va [4, 3, 2, 1, 0] d.root = .ok l →
      let size := if l.level = 2 then 2 ^ 30 else if l.level = 1 then 2 ^ 21 else if l.pte.getLsbD 54 then 2 ^ 16 else 2 ^ 12
      let k := attrFrame l.pte * 4096 + va % size
      attrFmt l.pte = 0 → l.pte.getLsbD 6 = false → l.pte.getLsbD 7 = false → s.me.side = .single → mappable k = true →
      (∀ sub, permFault s.me a l.pte = some sub → s.xlate s.me a va = .error (.trap (xfault .permission sub l.level a va))) ∧
      (permFault s.me a l.pte = none → s.stackUp k = some true →
        s.xlate s.me a va = .ok (((s.walked s.hand.asid va).keepLeaf s.hand.asid (va / 4096) l).reached (some l) a
          (.plain k (l.pte.getLsbD 5)), .plain k (l.pte.getLsbD 5))))) ∧
  (∀ (s : State) (asid : BitVec 16) (va : Nat), ∃ lines : List Nat,
    s.walked asid va = { s with mem := lines.foldl MemState.useLine s.mem }) ∧
  (∀ (s : State) (l : Leaf) (write : Bool), Mem.wf s.mem.live = true →
    let t := s.markLeaf l write
    (bareLeaf (s.live64 l.at') = bareLeaf l.pte → ∀ n, n < 64 → (t.live64 l.at').getLsbD n =
      ((s.live64 l.at').getLsbD n || decide (n = 52) || (decide (n = 53) && write))) ∧
    (bareLeaf (s.live64 l.at') ≠ bareLeaf l.pte → t.mem = s.mem) ∧
    (∀ j, j < l.at' ∨ l.at' + 8 ≤ j → t.mem.live.get j = s.mem.live.get j))

/-- R47, R48, Table 2.10: on a shadow page a hand of no paired task reads LIVE and may not write; a side reads LIVE while its dirty bit is
clear; its first write copies LIVE whole into its own frame, sets its dirty bit, and goes there, as later accesses do.
-/
def shadowPages : Prop :=
  ∀ (s : State) (ag : Agent) (a : Access) (va level phys off : Nat) (attr : Reg64),
    attr.getLsbD 7 = false → attr.getLsbD 6 = true → attrFmt attr = 0 →
    let r := s.shadowRec phys
    let frame (k : Nat) : Nat := r / 2 ^ (40 * k) % 2 ^ 40 * 4096
    let own := frame (if ag.side = .b then 2 else 1)
    let bit := if ag.side = .b then 121 else 120
    let goes := s.target ag a va level attr phys off
    mappable (frame 0 + off % 4096) = true → mappable (own + off % 4096) = true →
    (ag.side = .single → goes = if a.writes then .error (xfault .permission 12 level a va)
      else .ok (s, .plain (frame 0 + off % 4096) false)) ∧
    (ag.side ≠ .single → a.livePath = false →
      (r.testBit bit = true → goes = .ok (s, .plain (own + off % 4096) false)) ∧
      (r.testBit bit = false → a.writes = false → goes = .ok (s, .plain (frame 0 + off % 4096) false)) ∧
      (r.testBit bit = false → a.writes = true → Mem.wf s.mem.live = true → phys + 16 ≤ own ∨ own + 4096 ≤ phys →
        ∃ u, goes = .ok (u, .plain (own + off % 4096) false) ∧
          u.mem.live.bytes own 4096 = s.mem.live.bytes (frame 0) 4096 ∧ u.shadowRec phys = r + 2 ^ bit))

/-- R117, R41, R208, R45: what a page gives. An SC page is read live; a view's element is the F32 value of its block, a load of two gets
both, and a block that fails its checks is BLOCK-CHECK at the block's address; the linked and SC paths are FORMAT-PATH there; a compressed
page is COMPRESSED-ACCESS, but a fetch has sub-code 15 and a copy reads it. -/
def pageKinds : Prop :=
  ∀ (s : State) (cls : Nat) (va : Reg64),
    (∀ k w, s.decodes k w → isChain k = false →
      s.readTarget .load cls (.plain k true) va w = .ok (s.rebuilds k w, leNat (s.mem.live.bytes k w))) ∧
    (∀ b bw n e (l : List Byte), s.decodes b (blockBytes bw n) → s.soundAt b (blockBytes bw n) → rising s.cores = true →
      let s1 := (s.rebuilds b (blockBytes bw n)).readDone
      (∀ j ∈ upFrom b (blockBytes bw n), (s.byteView s.hand cls j).maybe = [] ∧ (s.byteView s.hand cls j).alt = none) →
      l = (upFrom b (blockBytes bw n)).map (fun j => (s.byteView s.hand cls j).value none) →
      (∀ blk, readBlock bw n l = some blk →
        s.readTarget .load cls (.view b bw n (4 * e)) va 4 = .ok (s1, blk.value bw e % 2 ^ 32) ∧
        s.readTarget .load cls (.view b bw n (4 * e)) va 8 =
          .ok (s1, blk.value bw e % 2 ^ 32 + 2 ^ 32 * (blk.value bw (e + 1) % 2 ^ 32))) ∧
      (readBlock bw n l = none → s.readTarget .load cls (.view b bw n (4 * e)) va 4 =
        .error (.trap { Trap.mk' .blockCheck (BitVec.ofNat 64 b) with access := 0 } s1))) ∧
    (∀ (ag : Agent) (a : Access) (at' level phys off : Nat) (attr : Reg64),
      let goes := s.target ag a at' level attr phys off
      (attr.getLsbD 7 = true →
        (a = .fetch → goes = .error (xfault .fetchFault 15 level a at')) ∧
        (a = .copyRead → goes = .ok (s, .packed phys (off % 4096))) ∧
        (a ≠ .fetch → a ≠ .copyRead → a ≠ .copyWrite → goes = .error (xfault .compressedAccess 0 level a at'))) ∧
      (attr.getLsbD 7 = false → attrFmt attr ≠ 0 →
        (a = .fetch → goes = .error (xfault .fetchFault 14 level a at')) ∧
        (a.livePath = true → goes = .error (xfault .formatPath 0 level a at'))))

/-- Where an address goes, and what a page of each kind gives. -/
def Obligations.TranslationAndPages : Prop :=
  translation ∧ pageWalk ∧ leafRules ∧ permissions ∧ pageTranslation ∧ shadowPages ∧ pageKinds

/-- R221, R224, R226: the vector loads fill the active elements: at unit stride, at the signed stride x[B], at the offsets of B, over
the sweep of a shape record (elements beyond its volume get zero), and from a READY tile, of which they see what has landed and the
hand's own stores (R87); nothing else changes. -/
def Obligations.VectorLoads : Prop :=
  (∀ (f : VUn) (s : State) (val : Nat → Nat), s.mayRun (.vld f) → s.hand.full f.a → s.hand.sched.watches = [] →
    (∀ e ∈ s.hand.actives f.m, s.readsAt 1 (s.hand.getX f.a + BitVec.ofNat 64 (e * s.hand.sewBytes)) s.hand.sewBytes (val e)) →
    s.loadResult (.vld f) f.d (s.hand.actives f.m) val (!(s.hand.actives f.m).isEmpty)) ∧
  (∀ (f : VReg) (s : State) (val : Nat → Nat), s.hand.full f.a → s.hand.sched.watches = [] →
    let h := s.hand
    let es := h.actives f.m
    let l := h.shape f.b 9
    let vol := wordAt l 2 * wordAt l 3 * wordAt l 4
    (s.mayRun (.vlds f) → h.full f.b →
      (∀ e ∈ es, s.readsAt 1 (h.getX f.a + BitVec.ofNat 64 e * h.getX f.b) h.sewBytes (val e)) →
      s.loadResult (.vlds f) f.d es val (!es.isEmpty)) ∧
    (s.mayRun (.vldx f) → h.chains f.b h.grpN f.tb →
      (∀ e ∈ es, s.readsAt 1 (h.getX f.a + BitVec.ofNat 64 (h.elem f.b e)) h.sewBytes (val e)) →
      s.loadResult (.vldx f) f.d es val (!es.isEmpty)) ∧
    (s.mayRun (.vldw f) → h.vEmpty f.b.toNat 1 = false → wordAt l 8 = h.csr.sew.toNat →
      (∀ e ∈ es, e < vol → s.readsAt 1 (recAddr l (recBase l (h.getX f.a)) e) h.sewBytes (val e)) →
      (∀ e ∈ es, vol ≤ e → val e = 0) →
      s.loadResult (.vldw f) f.d es val (es.any (fun e => decide (e < vol))))) ∧
  (∀ (f : VBench) (s : State), s.mayRun (.vldb f) → s.hand.full f.b →
    let h := s.hand
    let es := h.actives f.m
    let off (e : Nat) : Nat := (h.getX f.b + BitVec.ofNat 64 (e * h.sewBytes)).toNat
    let tl := s.tile h.core (benchTile f)
    let key (e : Nat) : Nat := tl.key h.core (off e)
    s.soundIn 7 → tl.state = 2 → (h.getX f.b).toNat % h.sewBytes = 0 → (∀ e ∈ es, off e + h.sewBytes ≤ tl.size) →
    (∀ e ∈ es, s.decodes (key e) h.sewBytes ∧ s.soundAt (key e) h.sewBytes ∧
      ∀ j ∈ upFrom (key e) h.sewBytes, (s.tileView tl.since j).maybe = []) →
    s.loadResult (.vldb f) f.d es (fun e => leNat ((upFrom (key e) h.sewBytes).map (fun j => (s.tileView tl.since j).value none)))
      (!es.isEmpty))

/-- R221, R224, R226, R73: in a protected strip the vector stores enter their active elements, in element order, in the strip store
buffer, at the addresses that the loads of the same forms read; of elements that write the same bytes the highest stays (R76). -/
def protectedStores : Prop :=
  (∀ (f : VUn) (s : State) (k : Nat → Nat), s.mayRun (.vst f) → s.hand.full f.a → s.hand.sched.watches = [] →
    let h := s.hand
    let es := h.actives f.m
    let va (e : Nat) : Reg64 := h.getX f.a + BitVec.ofNat 64 (e * h.sewBytes)
    (∀ e ∈ es, (va e).toNat % h.sewBytes = 0 ∧ s.plainAt true (va e) (k e)) → s.buffers h.sewBytes (es.map k) →
    s.storeResult (.vst f) 1 h.sewBytes (h.entriesOf false f.d es va k)) ∧
  (∀ (f : VReg) (s : State) (k : Nat → Nat), s.hand.full f.a → s.hand.sched.watches = [] →
    let h := s.hand
    let es := h.actives f.m
    let l := h.shape f.b 9
    let inside := es.filter (fun e => decide (e < wordAt l 2 * wordAt l 3 * wordAt l 4))
    let on (i : Instr) (scatter : Bool) (es : List Nat) (va : Nat → Reg64) : Prop :=
      s.mayRun i → (∀ e ∈ es, (va e).toNat % h.sewBytes = 0 ∧ s.plainAt true (va e) (k e)) → s.buffers h.sewBytes (es.map k) →
      s.storeResult i 1 h.sewBytes (h.entriesOf scatter f.d es va k)
    (h.full f.b → on (.vsts f) false es (fun e => h.getX f.a + BitVec.ofNat 64 e * h.getX f.b)) ∧
    (h.chains f.b h.grpN f.tb → on (.vstx f) true es (fun e => h.getX f.a + BitVec.ofNat 64 (h.elem f.b e))) ∧
    (h.vEmpty f.b.toNat 1 = false → wordAt l 8 = h.csr.sew.toNat →
      on (.vstw f) true inside (fun e => recAddr l (recBase l (h.getX f.a)) e))) ∧
  (∀ (f : VBench) (s : State), s.mayRun (.vstb f) → s.hand.full f.b →
    let h := s.hand
    let es := h.actives f.m
    let off (e : Nat) : Nat := (h.getX f.b + BitVec.ofNat 64 (e * h.sewBytes)).toNat
    let tl := s.tile h.core (benchTile f)
    let key (e : Nat) : Nat := tl.key h.core (off e)
    s.soundIn 7 → tl.state = 0 ∨ tl.state = 2 → (h.getX f.b).toNat % h.sewBytes = 0 →
    (∀ e ∈ es, off e + h.sewBytes ≤ tl.size) →
    s.buffers h.sewBytes (es.map key) →
    s.storeResult (.vstb f) 1 h.sewBytes (es.map (fun e => ⟨key e, h.elem f.d e, none, []⟩)))

/-- R221, R224, R226, R147, R62: in an unprotected strip the vector stores perform at once where the heel has room for the images that they
need, and are held where it is full. -/
def unprotectedStores : Prop :=
  (∀ (f : VUn) (s : State) (k : Nat → Nat), s.mayRun (.vst f) → s.hand.full f.a → s.hand.sched.watches = [] →
    let h := s.hand
    let es := h.actives f.m
    let va (e : Nat) : Reg64 := h.getX f.a + BitVec.ofNat 64 (e * h.sewBytes)
    (∀ e ∈ es, (va e).toNat % h.sewBytes = 0 ∧ s.plainAt true (va e) (k e)) → apart h.sewBytes (topmost es k) k →
    (s.performs h.sewBytes es k → s.storesNow (.vst f) h.sewBytes es k (h.elem f.d)) ∧
    (s.mustHold h.sewBytes es k → s.storesHeld (.vst f) h.sewBytes (h.entriesOf false f.d es va k))) ∧
  (∀ (f : VReg) (s : State) (k : Nat → Nat), s.hand.full f.a → s.hand.sched.watches = [] →
    let h := s.hand
    let es := h.actives f.m
    let l := h.shape f.b 9
    let inside := es.filter (fun e => decide (e < wordAt l 2 * wordAt l 3 * wordAt l 4))
    let on (i : Instr) (scatter : Bool) (es : List Nat) (va : Nat → Reg64) : Prop :=
      s.mayRun i → (∀ e ∈ es, (va e).toNat % h.sewBytes = 0 ∧ s.plainAt true (va e) (k e)) → apart h.sewBytes (topmost es k) k →
      (s.performs h.sewBytes es k → s.storesNow i h.sewBytes es k (h.elem f.d)) ∧
      (s.mustHold h.sewBytes es k → s.storesHeld i h.sewBytes (h.entriesOf scatter f.d es va k))
    (h.full f.b → on (.vsts f) false es (fun e => h.getX f.a + BitVec.ofNat 64 e * h.getX f.b)) ∧
    (h.chains f.b h.grpN f.tb → on (.vstx f) true es (fun e => h.getX f.a + BitVec.ofNat 64 (h.elem f.b e))) ∧
    (h.vEmpty f.b.toNat 1 = false → wordAt l 8 = h.csr.sew.toNat →
      on (.vstw f) true inside (fun e => recAddr l (recBase l (h.getX f.a)) e))) ∧
  (∀ (f : VBench) (s : State), s.mayRun (.vstb f) → s.hand.full f.b → s.hand.sched.watches = [] →
    let h := s.hand
    let es := h.actives f.m
    let off (e : Nat) : Nat := (h.getX f.b + BitVec.ofNat 64 (e * h.sewBytes)).toNat
    let tl := s.tile h.core (benchTile f)
    let key (e : Nat) : Nat := tl.key h.core (off e)
    s.soundIn 7 → tl.state = 0 ∨ tl.state = 2 → (h.getX f.b).toNat % h.sewBytes = 0 →
    (∀ e ∈ es, off e + h.sewBytes ≤ tl.size) → apart h.sewBytes es key →
    (s.performs h.sewBytes es key → s.storesNow (.vstb f) h.sewBytes es key (h.elem f.d)) ∧
    (s.mustHold h.sewBytes es key →
      s.storesHeld (.vstb f) h.sewBytes (es.map (fun e => ⟨key e, h.elem f.d e, none, []⟩))))

/-- R221, R224, R226: the vector stores, in a protected strip and in one that is not. -/
def Obligations.VectorStores : Prop := protectedStores ∧ unprotectedStores

/-- R106 to R109, R228, R229: vgl reads live memory and links its lines; vsc, a commit point, decides line by line: the active elements of
a line whose link is intact are written live, which breaks it, and their bits of p[P] are set; those of another line write nothing, and
their bits are clear, as all the others are. Without an active element nothing is written. That the lines of one instruction are reached
in one step, at one state of memory, is the model's choice (log 11). -/
def Obligations.LinkedPath : Prop :=
  (∀ (f : VReg) (s : State) (k : Nat → Nat), s.mayRun (.vgl f) → s.hand.full f.a → s.hand.chains f.b s.hand.grpN f.tb →
    s.hand.sched.watches = [] → s.noDudel →
    let h := s.hand
    let es := h.actives f.m
    let va (e : Nat) : Reg64 := h.getX f.a + BitVec.ofNat 64 (h.elem f.b e)
    es ≠ [] → (∀ e ∈ es, (va e).toNat % h.sewBytes = 0 ∧ s.rangeAt false (va e).toNat (k e) ∧ s.decodes (k e) h.sewBytes) →
    ∃ t, exec (.vgl f) s = .next t ∧ h.movedOn t.hand 4 ∧ h.sameRegs t.hand ∧ t.hand.p = h.p ∧ s.sameMem t ∧
      (∀ e ∈ es, t.hand.elem f.d e = leNat (s.mem.live.bytes (k e) h.sewBytes)) ∧
      h.sameVBut t.hand (elemKeys f.d h.sewBytes es) ∧
      t.hand.producers = h.producers ++ s.made (.vgl f) [(.vector f.d.toNat h.grpN, some 2)] ∧
      (∀ line, (∀ e ∈ es, lineOf (k e) = line) → s.noWay line = false → t.intact line = true)) ∧
  (∀ (f : VscF) (s : State) (k : Nat → Nat), s.mayRun (.vsc f) → s.hand.full f.a →
    s.hand.chains f.b s.hand.grpN f.tb → s.hand.sched.watches = [] → s.noDudel → s.drains →
    let h := s.hand
    let c := s.commit
    let es := h.actives f.m
    let va (e : Nat) : Reg64 := h.getX f.a + BitVec.ofNat 64 (h.elem f.b e)
    let wrote := es.filter (fun e => c.intact (lineOf (k e)))
    let common (t : State) : Prop := h.movedOn t.hand 4 ∧ h.sameRegs t.hand ∧ t.hand.v = h.v ∧ t.mem.pub = c.mem.pub ∧
      (∀ q : Fld5, q ≠ f.p → t.hand.getP q.toNat = h.getP q.toNat) ∧ t.hand.strip.prot = false ∧
      (f.p ≠ 0 → h.csr.vl ≠ 0 → ∀ e, e < 1024 → (t.hand.getP f.p.toNat).getLsbD e = decide (e ∈ wrote))
    (es ≠ [] → Mem.wf c.mem.live = true → rising c.mem.tags = true →
      (∀ e ∈ es, (va e).toNat % h.sewBytes = 0 ∧ k e % h.sewBytes = 0 ∧ c.rangeAt true (va e).toNat (k e) ∧
        c.decodes (k e) h.sewBytes) → apart h.sewBytes es k →
      ∃ t, exec (.vsc f) s = .next t ∧ common t ∧ storedAt c.mem.live t.mem.live h.sewBytes wrote k (h.elem f.d) ∧
        ∀ e ∈ wrote, t.intact (lineOf (k e)) = false) ∧
    (es = [] → ∃ t, exec (.vsc f) s = .next t ∧ common t ∧ t.mem = c.mem ∧ (h.csr.vl = 0 → t.hand.p = h.p)))

/-- R112 to R116, R225: vldsq and vstsq are commit and order points; each active element draws the next ticket, in element order,
and reads what SC loads find in memory (what no settling has reached yet apart, R113) or writes it live. That all elements of one
instruction draw and perform in one step is the model's choice (logs 11, 42). -/
def Obligations.TicketAccesses : Prop :=
  ∀ (f : VUn) (s c : State) (k : Nat → Nat), s.hand.full f.a → s.hand.sched.watches = [] → s.noDudel → s.drains →
    s.commit.orderPoint = .ok c →
    let h := s.hand
    let es := h.actives f.m
    let va (e : Nat) : Reg64 := h.getX f.a + BitVec.ofNat 64 (e * h.sewBytes)
    let reach (wr : Bool) : Prop :=
      es ≠ [] ∧ ∀ e ∈ es, (va e).toNat % h.sewBytes = 0 ∧ c.rangeAt wr (va e).toNat (k e) ∧ c.decodes (k e) h.sewBytes
    let common (t : State) : Prop := h.movedOn t.hand 4 ∧ h.sameRegs t.hand ∧ t.hand.p = h.p ∧ t.mem.pub = c.mem.pub ∧
      t.mem.ticket = s.mem.ticket + es.length ∧ t.hand.strip.prot = false
    (s.mayRun (.vldsq f) → reach false → ∃ t, exec (.vldsq f) s = .next t ∧ common t ∧ t.mem.live = c.mem.live ∧
      (∀ e ∈ es, t.hand.elem f.d e = leNat ((upFrom (k e) h.sewBytes).map c.mem.scByte)) ∧
      h.sameVBut t.hand (elemKeys f.d h.sewBytes es) ∧
      t.hand.producers = h.producers ++ s.made (.vldsq f) [(.vector f.d.toNat h.grpN, some 1)]) ∧
    (s.mayRun (.vstsq f) → reach true → apart h.sewBytes es k → Mem.wf c.mem.live = true →
      ∃ t, exec (.vstsq f) s = .next t ∧ common t ∧ t.hand.v = h.v ∧
        storedAt c.mem.live t.mem.live h.sewBytes es k (h.elem f.d))

/-- R80, R121, R232: a fence waits for its hand's earlier accesses of the first class and then orders every own write of that class
so far before later accesses of the second; xfence is a commit point before the linked and the engine classes, and waits for nothing
between two SCA or two LNK accesses; before STR it drops what the stream engine has read ahead (R123). -/
def fences : Prop :=
  (∀ (f : GF) (s : State), s.goes f.g →
    let on (i : Instr) (a b : Nat) : Prop :=
      (s.hand.classQuiet a = true → exec i s = .next (State.retire { s with hand := { s.hand with ord := s.hand.ord.orders a b } } 4)) ∧
      (s.hand.classQuiet a = false → exec i s = .next (s.waits .order))
    on (.fenceSv f) 0 1 ∧ on (.fenceVs f) 1 0 ∧ on (.fenceVv f) 1 1) ∧
  (∀ (f : ClsG) (s : State), s.goes f.g → (2 ≤ f.b.toNat → s.drains) →
    let c := if 2 ≤ f.b.toNat then s.commit else s
    let done : Prop := f.a = f.b ∧ (f.a = 0 ∨ f.a = 2) ∨ c.completeBefore f.a.toNat = true
    (done → exec (.xfence f) s = .next
      (State.retire { c with hand := ({ c.hand with ord := c.hand.ord.orders f.a.toNat f.b.toNat } : Hand).afresh f.b.toNat } 4)) ∧
    (¬ done → exec (.xfence f) s = .next (c.waits .order))) ∧
  (∀ (o : Order) (a b : Nat), rising o.fences = true → (o.orders a b).fence a b = o.wseq ∧
    ∀ a' b', 8 * a' + b' ≠ 8 * a + b → (o.orders a b).fence a' b' = o.fence a' b')

/-- R94, R96, R100 to R103: phend commits and, once every store is acknowledged and every engine command done, arrives and waits; when
its phase end has completed it departs, whatever has become of its guard's register: its phase number, an epoch, the snapshot of what is
published, the link serial, and clear vector and predicate registers. phase reads the hand's own number. -/
def phases : Prop :=
  (∀ (f : ScopeG) (s : State),
    let c := s.commit.dropGrant
    (s.goes f.g → s.hand.arrived = none → s.hand.unasked → s.drains →
      (c.hand.unacked = true ∨ c.commandsDone = false → exec (.phend f) s = .next (c.waits .phend)) ∧
      (c.hand.unacked = false → c.commandsDone = true →
        exec (.phend f) s = .next ((c.arrive (c.scopeKey c.hand f.a.toNat)).waits .phend))) ∧
    (∀ ar, s.hand.arrived = some ar → ar.pc = s.hand.pc ∨ s.goes f.g → ar.number < (s.myInst ar.scope).number →
      ∃ t, exec (.phend f) s = .next t ∧
      s.hand.movedOn { t.hand with arrived := s.hand.arrived } 4 ∧ t.hand.arrived = none ∧ t.hand.ord.snap = s.mem.pubFor s.hand ∧
      t.hand.ord.epoch = s.hand.ord.epoch + 1 ∧ t.hand.ord.serial = s.hand.ord.serial + 1 ∧
      (∀ tl ∈ t.hand.ord.links, linkTaken ≤ tl.2) ∧
      t.hand.ord.seen = mput 0 s.hand.ord.seen ar.scope (ar.number + 1) ∧ t.hand.x = s.hand.x ∧ t.hand.v = [] ∧
      (∀ q : Fld5, q ≠ 0 → t.hand.getP q.toNat = 0) ∧ s.sameMem t)) ∧
  (∀ (f : DAG) (s : State), s.ready f.g [f.d] →
    s.writes (.phase f) f.d (BitVec.ofNat 64 (mget 0 s.hand.ord.seen (s.scopeKey s.hand f.a.toNat))) 4)

/-- R118, R230, R233: waitge ends once the live 64-bit value at x[A] is at least x[B], unsigned, waitne once it differs; until then
the hand waits with its registers as they are; both are commit points, and vector and predicate registers are clear after. unlink
advances the link serial, which breaks every link of the hand. -/
def liveWaits : Prop :=
  (∀ (f : ABG) (s : State) (k : Nat), s.ready f.g [f.a, f.b] → s.hand.sched.watches = [] → s.hand.unasked → s.drains → s.noDudel →
    (s.hand.getX f.a).toNat % 8 = 0 → s.rangeAt false (s.hand.getX f.a).toNat k → s.decodes k 8 →
    let c := s.commit
    let m := leNat (c.mem.live.bytes k 8)
    let b := (s.hand.getX f.b).toNat
    let on (i : Instr) (done : Prop) : Prop :=
      (done → ∃ t, exec i s = .next t ∧ s.hand.movedOn t.hand 4 ∧ s.hand.sameRegs t.hand ∧ c.sameMem t ∧ t.hand.v = [] ∧
        ∀ q : Fld5, q ≠ 0 → t.hand.getP q.toNat = 0) ∧
      (¬ done → ∃ t, exec i s = .next t ∧ t.hand.status = .waiting .live ∧ t.hand.pc = s.hand.pc ∧ s.hand.sameRegs t.hand ∧
        c.sameMem t ∧ t.hand.v = s.hand.v ∧ t.hand.p = s.hand.p)
    on (.waitge f) (b ≤ m) ∧ on (.waitne f) (m ≠ b)) ∧
  (∀ (f : GF) (s : State), s.goes f.g → exec (.unlink f) s = .next (s.advanceSerial.retire 4) ∧
    s.advanceSerial.hand.ord.serial = s.hand.ord.serial + 1 ∧ s.advanceSerial.hand.ord.pins = [])

/-- R80, R121, R118, R230, R232, R233: fences, live waits and unlink. -/
def Obligations.FencesAndLiveWaits : Prop := fences ∧ liveWaits

/-! ## Streams and tiles -/

/-- R262 to R265, R270: lace binds a record that passes its checks, at position 0; sunbind unbinds, spos reads the position, sadv moves it
and drops what has been read ahead, stabl names another table; a stream that is not bound is STREAM-UNBOUND with TVAL its number. -/
def streamBinding : Prop :=
  (∀ (f : LaceF) (s : State) (st : List Stage), s.goes f.g → s.soundIn 5 → s.hand.vEmpty f.a.toNat 1 = false → s.hand.full f.b →
    let x := s.hand.getX f.b
    let l := s.hand.shape f.a 12
    let t := s.tile s.hand.core f.f.toNat
    let scl := (stageArg st 3).isSome
    wordAt l 8 < 4 → wordAt l 1 < 2 ^ 25 → chainOk x (wordAt l 8) = some st → (scl = true → wordAt l 11 < 2 ^ 25) →
    (stageArg st 2 = none → f.f = 0) →
    (stageArg st 2 ≠ none →
      s.soundIn 7 ∧ t.tables (unpkWidth ((stageArg st 1).getD 0)) = true ∧ (t.state = 1 ∨ t.state = 2)) →
    exec (.lace f) s = .next ((s.setStream f.d.toNat (some
      ⟨l.take 9 ++ (if scl then (l.drop 10).take 2 else [0, 0]), recBase l 0, x, f.f.toNat, 0, []⟩)).retire 4)) ∧
  (∀ (f : DG) (s : State), s.goes f.g → exec (.sunbind f) s = .next ((s.setStream f.d.toNat none).retire 4)) ∧
  (∀ (f : DAG) (s : State) (b : Stream), s.goes f.g → s.hand.streams.toArray.getD f.a.toNat none = some b → s.hand.full f.d →
    s.writes (.spos f) f.d b.pos 4) ∧
  (∀ (f : DAG) (s : State), s.goes f.g → s.hand.streams.toArray.getD f.a.toNat none = none →
    s.traps (.spos f) (Trap.mk' .streamUnbound (BitVec.ofNat 64 f.a.toNat))) ∧
  (∀ (f : SadvF) (s : State) (b : Stream), s.ready f.g [f.b] → s.hand.streams.toArray.getD f.d.toNat none = some b →
    exec (.sadv f) s = .next ((s.setStream f.d.toNat (some { b with pos := b.pos + s.hand.getX f.b, views := [] })).retire 4)) ∧
  (∀ (f : DAG) (s : State) (b : Stream), s.goes f.g → s.hand.streams.toArray.getD f.d.toNat none = some b →
    stageArg b.stages 2 ≠ none →
    s.soundIn 7 → (s.tile s.hand.core f.a.toNat).tables (unpkWidth ((stageArg b.stages 1).getD 0)) = true →
    exec (.stabl f) s = .next ((s.setStream f.d.toNat (some { b with tile := f.a.toNat })).retire 4))

/-- R266, R267, R269: a pop of a stream without stages, in the view that the hand has had since the lace (R123), gives the pattern
elements from its position on to the active positions, zero with SX beyond the pattern's end, and moves the position by VL. -/
def streamPops : Prop :=
  ∀ (f : VStr) (s : State) (b : Stream) (val : Nat → Nat), s.mayRun (.vmovStream f) →
    let h := s.hand
    let es := h.actives f.m
    let w := h.sewBytes
    let inside (e : Nat) : Bool := decide ((b.pos + BitVec.ofNat 64 e).toNat < recVol b.shape)
    let va (e : Nat) : Reg64 := recAddr b.shape b.base (b.pos + BitVec.ofNat 64 e).toNat
    h.streams.toArray.getD f.n.toNat none = some b → f.n.toNat < 4 → b.stages = [] → b.views = [] → 2 ^ wordAt b.shape 8 = w →
    (∀ e ∈ es, inside e = true → (va e).toNat % w = 0 ∧ ∃ k, s.plainAt false (va e) k ∧ s.decodes k w ∧
      (∀ j ∈ upFrom k w, (s.byteView h 4 j).maybe = [] ∧ (s.byteView h 4 j).alt = none ∧ ∀ x ∈ (s.byteView h 4 j).sure, x.perf ≠ 0) ∧
      val e = leNat ((upFrom k w).map (fun j => (s.byteView h 4 j).value none))) → s.soundIn 8 → rising s.cores = true →
    ∃ t, exec (.vmovStream f) s = .next t ∧ s.onlyReads t ∧ h.movedOn t.hand 4 ∧
      (∀ e ∈ es, t.hand.elem f.d e = if inside e then val e % 2 ^ h.sewBits else 0) ∧
      h.sameVBut t.hand (elemKeys f.d w es) ∧
      t.hand.streams = h.streams.setIfInBounds f.n.toNat (some { b with pos := b.pos + BitVec.ofNat 64 h.csr.vl }) ∧
      t.hand.csr = h.csr.raise ((es.filter (fun e => !inside e)).map (fun e => (e, fSX))) ∧
      t.hand.x = h.x ∧ t.hand.p = h.p ∧ t.hand.producers = h.producers ++ s.made (.vmovStream f) []

/-- R262 to R270: binding a stream, and popping from it. -/
def Obligations.Streams : Prop := streamBinding ∧ streamPops

/-- R69, R279, R280, R126: tdef gives an EMPTY tile a definition that keeps the rules, tfree empties a READY one that no engine reads,
twait waits while the tile fills or drains, tstat reads the entry word, tready makes an EMPTY tile READY in a new fill; the other
states are TILE-STATE with TVAL the tile. -/
def Obligations.TileInstructions : Prop :=
  (∀ (f : TdefF) (s : State), s.ready f.g [f.a] → s.soundIn 7 →
    let x := s.hand.getX f.a
    let n := f.d.toNat + 32 * f.j.toNat
    let t := s.tile s.hand.core n
    (t.state = 0 → tileDefOk x = true → s.drains →
      exec (.tdef f) s = .next ((s.commit.modTile s.hand.core n (fun t => tileOfWord x t.gen)).retire 4)) ∧
    (t.state ≠ 0 → s.traps (.tdef f) (Trap.mk' .tileState (BitVec.ofNat 64 n))) ∧
    (t.state = 0 → tileDefOk x = false → s.traps (.tdef f) (Trap.mk' .reservedField x))) ∧
  (∀ (f : TileF) (s : State), s.goes f.g → s.soundIn 7 →
    let n := tileNum f
    let k := s.hand.core
    let t := s.tile k n
    let c := s.commit
    (t.state = 1 ∨ t.state = 3 → s.traps (.tfree f) (Trap.mk' .tileState (BitVec.ofNat 64 n)) ∧
      s.traps (.tready f) (Trap.mk' .tileState (BitVec.ofNat 64 n))) ∧
    (t.state = 0 → s.drains → exec (.tfree f) s = .next (c.retire 4)) ∧
    (t.state = 2 → s.drains →
      exec (.tready f) s = .next (c.retire 4) ∧
      (c.engineReads k n = true → exec (.tfree f) s = .next (c.waits .order)) ∧
      (c.engineReads k n = false → exec (.tfree f) s = .next ((c.modTile k n (fun t => { t with state := 0 })).retire 4))) ∧
    (t.state = 0 → s.drains → c.hand.strip.ssb = [] → c.hand.classQuiet 1 = true →
      exec (.tready f) s = .next ((c.modTile k n (fun t =>
        { t with state := 2, gen := (t.gen + 1) % 8, fill := 0, landed := [], since := c.mem.perfCtr })).retire 4)) ∧
    (s.hand.unasked → t.state = 0 ∨ t.state = 2 →
      exec (.twait f) s = .next ((s.sawTile n).clearAtPoint.retire 4)) ∧
    (s.hand.unasked → t.state = 1 ∨ t.state = 3 → exec (.twait f) s = .next (s.dropGrant.waits .twait))) ∧
  (∀ (f : TstatF) (s : State), s.ready f.g [f.d] → s.soundIn 7 →
    let n := f.a.toNat + 32 * f.j.toNat
    exec (.tstat f) s = .next (((s.sawReady n).setX f.d (s.tile s.hand.core n).word).retire 4))

/-! ## The engines -/

/-- R271, R272, R278: a copy whose checks pass is a commit point, draws the next CPYSEQ and stands in the command chain; a cpy.in with
a follow-on issues its matrix job with it, which waits for the copy, and both words are passed. -/
def Obligations.CopyIssue : Prop :=
  (∀ (f : CpyInF) (s : State),
    let t := f.d.toNat + 32 * f.j.toNat
    let on (i : Instr) (o : CopyOp) : Prop :=
      (f.k = 0 → s.goes f.g → s.hand.full f.a → s.copyGoes o f.b →
        exec i s = .next ((s.commit.issueCopy o (s.hand.shape f.b 12) false).retire 4)) ∧
      (∀ s1 x, f.k = 1 → s.followWord (encodeWord i) = .ok (s1, x) → s1.goes f.g → s1.hand.full f.a →
        s1.copyGoes { o with src := s1.hand.getX f.a } f.b →
        s1.mmaChecks (mmaOp x) = .ok () → s1.hand.jobs.length < 4 →
        let s2 := s1.commit.issueCopy { o with src := s1.hand.getX f.a } (s1.hand.shape f.b 12) true
        exec i s = .next (s2.issueJob x (mmaOp x) (some s2.hand.csr.cpyseq.toNat)).retirePair)
    on (.cpyIn f) ⟨.cpyIn, t, s.hand.getX f.a, 0⟩ ∧ on (.cpyInp f) ⟨.cpyInp, t, s.hand.getX f.a, 0⟩) ∧
  (∀ (f : CpyOutF) (s : State), s.ready f.g [f.d] →
    let t := f.a.toNat + 32 * f.j.toNat
    let on (i : Instr) (o : CopyOp) : Prop := s.copyGoes o f.b →
      exec i s = .next ((s.commit.issueCopy o (s.hand.shape f.b 12) false).retire 4)
    on (.cpyOut f) ⟨.cpyOut, t, 0, s.hand.getX f.d⟩ ∧ on (.cpyPeer f) ⟨.cpyPeer, t, 0, s.hand.getX f.d⟩) ∧
  (∀ (f : RegG) (s : State), s.ready f.g [f.a, f.d] →
    s.copyGoes ⟨.cpyMem, 0, s.hand.getX f.a, s.hand.getX f.d⟩ f.b →
    exec (.cpyMem f) s = .next
      ((s.commit.issueCopy ⟨.cpyMem, 0, s.hand.getX f.a, s.hand.getX f.d⟩ (s.hand.shape f.b 12) false).retire 4)) ∧
  (∀ (s : State) (o : CopyOp) (l : List Word) (fo : Bool), ∃ c : Copy, (s.issueCopy o l fo).copies = s.copies ++ [c] ∧
    (s.issueCopy o l fo).hand.csr.cpyseq = s.hand.csr.cpyseq + 1 ∧ c.n = (s.hand.csr.cpyseq + 1).toNat ∧ c.hand = s.hand.id ∧
    c.core = s.hand.core ∧ c.kind = o.kind ∧ c.shape = l ∧ c.tile = o.tile ∧ c.srcOff = o.src ∧ c.dst = o.dst ∧ c.pos = 0 ∧
    c.status = none ∧ c.followed = fo)

/-- R274 to R277, R272, R392, Table 3.3: a command's next position lands whole or stops the command with a status; a command that has
ended writes its completion record (its number, the CRC-32C of its bytes, its status) and leaves the chain; a delivery from another device
opens the fill of the tile that takes it, and one that no tile takes, that no port brings, or that comes during a machine halt changes
nothing else; then its elements land one after the other, each in its slot from ROFF on, with the last the completion word. -/
def copyEngine : Prop :=
  (∀ (e : CmdEv) (s : State) (c : Copy), s.copyOf e.hand e.n.toNat = some c → s.copyHeld c = false → c.status = none →
    c.pos < c.vol → e.count = 1 → s.chainError c.hand = none → s.arrivingAt e = none →
    (∀ s' c', s.copyStep c = .ok (s', c') → exec (.copyBytesLanded e) s = .next (s'.setCopy c')) ∧
    (∀ b, s.copyStep c = .error (.status b) → exec (.copyBytesLanded e) s = .next (s.setCopy { c with status := some b }))) ∧
  (∀ (e : CmdEv) (s : State) (c : Copy), s.copyOf e.hand e.n.toNat = some c → c.kind ≠ .fill → Mem.wf s.mem.live = true →
    (∀ d ∈ s.copies, d.hand = c.hand → d.n = c.n → d = c) →
    let slot := ((s.handOf c.hand).map (fun h => h.slot)).getD 0
    let ended (status : Byte) : Prop := ∃ t, exec (.copyCompletion e) s = .next t ∧ t.copyOf c.hand c.n = none ∧
      t.mem.live.bytes (Config.benchKey c.core (0x77_F000 + 1024 * slot + 16 * (c.n % 64))) 16 =
        leBytes 8 c.n ++ leBytes 4 (if status = 0 then crc32c c.moved else 0) ++ [status, 0, 0, 0]
    (∀ b, c.status = some b → ended b) ∧
    (c.status = none → c.vol ≤ c.pos → s.copyHeld c = false → c.kind ≠ .cpyPeer → ended 0)) ∧
  (∀ (f : PeerF) (s : State), s.pod.halted = true ∨ s.portTo f.src = none → exec (.peerDelivery f) s = .next s) ∧
  (∀ (f : PeerF) (s s0 : State) (p : Nat), s.pod.halted = false → s.portTo f.src = some p →
    s.arrives (256 + p) f.bytes.length (s.recvBuffer f) = some s0 → f.kind = 1 → f.core < Config.coreCount → f.tile < 64 →
    let t := s0.tile f.core f.tile
    let sound : Prop := f.bytes.length % t.slotBytes = 0 ∧ 0 < f.sweep.esize ∧ f.sweep.esize = t.slotBytes ∧
      t.fits f.roff.toNat (f.bytes.length / t.slotBytes) = true ∧ f.bytes ≠ [] ∧ (s0.field (fieldOfCore f.core)).state ≠ 6
    let s1 := s0.modTile f.core f.tile Tile.accept
    (t.state = 2 ∨ t.state = 3 → exec (.peerDelivery f) s = .next s0) ∧
    (t.state ≠ 2 → t.state ≠ 3 → sound → exec (.peerDelivery f) s =
      .next { s1 with arrivals := s1.arrivals ++ [⟨f, (s1.tile f.core f.tile).gen, 0, []⟩] })) ∧
  (∀ (e : CmdEv) (s : State) (i : Nat) (a : Arrival), e.hand = 2 ^ 32 + i → e.count = 1 → s.arrivals[i]? = some a →
    let tl := s.tile a.f.core a.f.tile
    let l := (a.f.bytes.drop (a.pos * a.f.sweep.esize)).take a.f.sweep.esize
    let rest : State := { s with arrivals := s.arrivals.eraseIdx i }
    (s.pod.halted = true → exec (.copyBytesLanded e) s = .next s) ∧
    (s.pod.halted = false → a.f.kind = 1 → a.pos < peerCount a.f → (s.field (fieldOfCore a.f.core)).state = 6 →
      exec (.copyBytesLanded e) s = .next (rest.arriveEnd a false) ∧
      (rising s.cores = true → rising (s.core a.f.core).tiles = true →
        ((rest.arriveEnd a false).tile a.f.core a.f.tile).state = (if tl.gen = a.gen ∧ tl.state = 1 then 0 else tl.state))) ∧
    (s.pod.halted = false → a.f.kind = 1 → a.pos < peerCount a.f → tl.plane = false → (s.field (fieldOfCore a.f.core)).state ≠ 6 →
      Mem.wf s.mem.live = true →
      let key := tl.key a.f.core (tl.slotAt a.f.roff.toNat a.pos)
      (a.pos + 1 < peerCount a.f → ∃ t, exec (.copyBytesLanded e) s = .next t ∧ t.mem.live.bytes key l.length = l ∧
        t.arrivals = s.arrivals.set i { a with pos := a.pos + 1 }) ∧
      (peerCount a.f ≤ a.pos + 1 → a.f.cwa = 0 → ∃ t, exec (.copyBytesLanded e) s = .next t ∧ t.mem.live.bytes key l.length = l ∧
        t.arrivals = s.arrivals.eraseIdx i)))

/-- R273 to R276, R422, R67, R133: the bytes that a command's next position moves, and where they stand then. A cpy.in puts the element or
block that it reads into slot s0 + p of a row-layout tile; a cpy.inp moves nothing into a plane-layout tile until the row is whole, and
then all of the row; a declared fill puts byte p of its source at byte p; a cpy.out puts what slot s0 + p holds, a block of a plane row
packed, at its place in memory; a cpy.mem puts what it reads at its place in the order of positions. Every other byte of memory stays.
What a tile takes is published as it lands, what memory takes is not (R124). -/
def copyPositions : Prop :=
  ∀ (e : CmdEv) (s : State) (c : Copy), s.copyOf e.hand e.n.toNat = some c → s.copyHeld c = false → c.status = none →
    c.pos < c.vol → e.count = 1 → s.chainError c.hand = none → s.arrivingAt e = none → (s.field (fieldOfCore c.core)).state ≠ 6 →
    Mem.wf s.mem.live = true → Mem.wf s.mem.pub = true →
    let t := s.tile c.core c.tile
    let p := c.pos
    let e9 := wordAt c.shape 9
    let src := recAddr c.shape (recBase c.shape c.srcOff) p
    let dst := recAddr c.shape (recBase c.shape c.dst) p
    let w := t.efmt - 5
    let sl := e9 / t.rowBytes * t.rowSlots + e9 % t.rowBytes / t.slotBytes + p
    let slot := t.key c.core (sl / t.rowSlots * t.rowBytes + sl % t.rowSlots * t.slotBytes)
    let after (l : List Byte) : Copy := { c with pos := p + 1, moved := c.moved ++ l }
    let moves (c' : Copy) (P : State → Prop) : Prop :=
      ∃ u, exec (.copyBytesLanded e) s = .next u ∧ u.copyOf c.hand c.n = some c' ∧ P u
    let fills (k : Nat) (l : List Byte) (u : State) : Prop := s.bytesPut u k l ∧ u.mem.pub.bytes k l.length = l
    let stores (k : Nat) (l : List Byte) (u : State) : Prop := s.bytesPut u k l ∧ u.mem.pub = s.mem.pub
    let element (l : List Byte) : Prop := c.code < 4 ∧ src.toNat % 2 ^ c.code = 0 ∧ s.copySees c src (2 ^ c.code) l
    let block (l : List Byte) : Prop := c.code = 4 ∧ src.toNat % 4 = 0 ∧ src.toNat % 4096 + (4 + 4 * w) ≤ 4096 ∧
      s.copySees c src (4 + 4 * w) l ∧ (readBlock w 32 l).isSome = true
    let out (l : List Byte) : Prop := (7 ≤ t.efmt → (readBlock w 32 l).isSome = true) →
      dst.toNat % (if c.code = 4 then 4 else l.length) = 0 → dst.toNat % 4096 + l.length ≤ 4096 →
      ∀ k, s.copyReaches c true dst k → moves (after l) (stores k l)
    (∀ l, c.kind = .cpyIn → element l ∨ block l → moves (after l) (fills slot l)) ∧
    (∀ l, c.kind = .cpyInp → block l →
      ((p + 1) % t.rowSlots ≠ 0 → moves (after l) (fun u => u.mem.live = s.mem.live ∧ u.mem.pub = s.mem.pub)) ∧
      (∀ (old : List Byte) (row : List (List Byte)), (p + 1) % t.rowSlots = 0 → row.length = t.rowSlots →
        (∀ b ∈ row, b.length = 4 + 4 * w) →
        c.moved ++ l = old ++ row.flatten →
        moves (after l) (fills (t.key c.core (e9 + p / t.rowSlots * t.rowBytes)) (planeRow w row)))) ∧
    (∀ l, c.kind = .fill → c.code = 0 → element l → moves { c with pos := p + 1 } (fills (t.key c.core p) l)) ∧
    (c.kind = .cpyOut → t.plane = false → s.decodes slot t.slotBytes → out (s.mem.live.bytes slot t.slotBytes)) ∧
    (c.kind = .cpyOut → t.plane = true →
      let base := (e9 / t.rowBytes + p / t.rowSlots) * t.rowBytes
      s.decodes (t.key c.core base) t.rowBytes →
      out (planePacked (fun o => s.mem.live.get (t.key c.core (base + o))) w (t.cols + 1) (p % t.rowSlots))) ∧
    (∀ l, c.kind = .cpyMem → element l →
      let dst := c.dst + BitVec.ofNat 64 (p * 2 ^ c.code)
      dst.toNat % 2 ^ c.code = 0 → ∀ k, s.copyReaches c true dst k → moves (after l) (stores k l))

/-- R67, R207: a row of n blocks in plane layout: bit q of element e's mantissa is bit e of plane q, each plane of 4n bytes packed from the
low bit up; then the blocks' header words; and what is taken out of it, packed, is each block again. -/
def planeLayout : Prop :=
  ∀ (w : Nat) (blocks : List (List Byte)), (∀ b ∈ blocks, b.length = 4 + 4 * w) →
    let n := blocks.length
    let row := planeRow w blocks
    row.length = 4 * w * n + 4 * n ∧
    (∀ q e, q < w → e < 32 * n → (row.getD (q * (4 * n) + e / 8) 0).getLsbD (e % 8) =
      (leNat ((blocks.getD (e / 32) []).drop 4)).testBit (e % 32 * w + q)) ∧
    (∀ b j, b < n → j < 4 → row.getD (4 * w * n + 4 * b + j) 0 = (blocks.getD b []).getD j 0) ∧
    (∀ b, b < n → planePacked (fun o => row.getD o 0) w (32 * n) b = blocks.getD b [])

/-- R281 to R283, R127: mma and mmav queue a job of the tiles and the handle that their word names, from K row VSTART on, which
clears; a core's array takes the oldest job whose tiles are READY; a job that completes has added every group's block products to its
slot. -/
def Obligations.MatrixJobs : Prop :=
  (∀ (i : Instr) (s : State), (∃ f, i = .mma f) ∨ (∃ f, i = .mmav f) →
    let w := encodeWord i
    let o := mmaOp w
    let c := s.commit
    (s.tile s.hand.core o.ta).state = 2 → (s.tile s.hand.core o.tb).state = 2 → s.mmaChecks o = .ok () → s.drains →
    (c.hand.jobs.length < 4 → exec i s = .next ((c.issueJob w o none).retire 4)) ∧
    (4 ≤ c.hand.jobs.length → exec i s = .next (c.waits .room))) ∧
  (∀ f : MmaF, mmaOp (encodeWord (.mma f)) = ⟨false, f.d.toNat, f.a.toNat + 32 * f.x.toNat, f.b.toNat + 32 * f.y.toNat, 0⟩) ∧
  (∀ f : MmavF, mmaOp (encodeWord (.mmav f)) =
    ⟨true, f.d.toNat, f.a.toNat + 32 * f.x.toNat, f.b.toNat + 32 * f.y.toNat, f.k.toNat⟩) ∧
  (∀ (s : State) (w : Word) (o : MmaOp) (fo : Option Nat), ∃ j : Job, (s.issueJob w o fo).hand.jobs = s.hand.jobs ++ [j] ∧
    (s.issueJob w o fo).hand.csr.vstart = 0 ∧ j.k0 = s.hand.csr.vstart ∧ j.handle = o.handle ∧ j.vector = o.vector ∧ j.ta = o.ta ∧
    j.tb = o.tb ∧ j.block = o.block ∧ j.follows = fo ∧ j.started = false) ∧
  (∀ (e : JobEv) (s : State) (h : Hand) (j : Job) (l : List Job), s.handOf e.hand = some h → h.jobs = j :: l →
    (j.started = false → h.status ≠ .saved → (j.follows = none ∨ j.copyEnded = true) →
      (∀ k ∈ s.allHands, k.core = h.core → k.status ≠ .saved → ∀ r ∈ k.jobs, j.issued ≤ r.issued) →
      (s.tile h.core j.ta).state = 2 → (s.tile h.core j.tb).state = 2 → (s.field (fieldOfCore h.core)).throttle = false →
      ∃ t, exec (.matrixJobStart e) s = .next t ∧ (t.handOf e.hand).map (·.jobs) = some ({ j with started := true } :: l)) ∧
    (∀ slot, j.started = true → mfind h.handles j.handle = some slot → s.mem.bad = [] →
      (∀ x ∈ s.mem.badHands, x.1 = h.id → x.2.1 ≠ 4 ∧ x.2.1 ≠ 7) → e.stop = none →
      let a := s.tile h.core j.ta
      let b := s.tile h.core j.tb
      ∃ t k, exec (.matrixJobComplete e) s = .next t ∧ t.handOf e.hand = some k ∧ k.jobs = l ∧
        mfind k.handles j.handle = some
          ((upFrom (j.k0 / 64) (jobSpan (a.cols + 1) j.k0)).foldl (fun sl g => jobGroup s.mem.live h.core a b j g sl) slot)))

/-- R285, R286, R70: xchg, once its descriptor and tiles pass, opens a fill of its destination and stands among the exchanges; a block
that lands puts the receiver's rows of the sender's source tile at the sender's place in the receiver's destination. -/
def Obligations.Exchanges : Prop :=
  (∀ (f : XchgF) (s s1 : State) (l : List Byte) (xid scope n me brows : Nat), s.goes f.g → s.hand.full f.b → s.soundIn 7 →
    let d := f.d.toNat + 32 * f.x.toNat
    let a := f.a.toNat + 32 * f.y.toNat
    s.engineSpan .exchange 6 (s.hand.getX f.b) 16 = .ok (s1, l) → xchgDesc l false = some (xid, scope, n, me, brows) →
    let k := s1.hand.core
    xchgTiles (s1.tile k a) (s1.tile k d) a d n brows = none → (s1.tile k a).state = 2 →
    (s1.tile k d).state ≠ 2 → (s1.tile k d).state ≠ 3 → s1.drains →
    ∃ t x, exec (.xchg f) s = .next t ∧ s1.hand.movedOn t.hand 4 ∧ t.hand.x = s1.hand.x ∧ t.xchgs = s1.commit.xchgs ++ [x] ∧
      x.hand = some s1.hand.id ∧ x.task = s1.hand.task ∧ x.core = k ∧ x.scope = scope ∧ x.xid = BitVec.ofNat 32 xid ∧ x.n = n ∧
      x.me = me ∧ x.brows = brows ∧ x.src = a ∧ x.dst = d ∧ x.round = 0 ∧ x.landed = [] ∧ x.dead = false) ∧
  (∀ (i k : Nat) (s : State) (x y : Xchg), s.xchgs[i]? = some x → x.dead = false → x.round < x.n →
    let j := (x.me + x.round) % x.n
    s.xchgs.findIdx? (fun y => y.task == x.task && y.scope == x.scope && y.unit == x.unit && y.xid == x.xid && y.me == j &&
      !y.landed.contains x.me) = some k → s.xchgs[k]? = some y → y.dead = false →
    s.xchgTable x = none → s.xchgTable y = none →
    let src := s.tile x.core x.src
    let dst := s.tile y.core y.dst
    let size := x.brows * src.rowBytes
    dst.gen = y.gen → size = y.brows * dst.rowBytes → (x.me + 1) * y.brows ≤ dst.rows + 1 →
    s.badKey (src.key x.core (j * size)) size = none → Mem.wf s.mem.live = true →
    ∃ t, exec (.exchangeBlockLanding i) s = .next t ∧
      t.mem.live.bytes (dst.key y.core (x.me * size)) size = s.mem.live.bytes (src.key x.core (j * size)) size ∧
      ∀ o, (o < dst.key y.core (x.me * size) ∨ dst.key y.core (x.me * size) + size ≤ o) → t.mem.live.get o = s.mem.live.get o)

/-- R83, R100, R237: data that land fill one outstanding producer of the hand, once the earlier ones that fill what it reads have
landed, and one acknowledgement returns; nothing else changes. -/
def landings : Prop :=
  ∀ (e : EntryEv) (s : State) (h : Hand), s.handOf e.hand = some h →
    (∀ p, h.producers[e.idx]? = some p → p.spawn = none → ∃ t, exec (.loadLanding e) s = .next t ∧
      t.handOf e.hand = some (if h.mayLand e.idx then { h with producers := h.producers.eraseIdx e.idx } else h) ∧
      t.mem = s.mem ∧ t.cores = s.cores) ∧
    (∃ t, exec (.storeAcknowledged e) s = .next t ∧
      t.handOf e.hand = some { h with ord := { h.ord with acks := h.ord.acks.eraseIdx e.idx } } ∧ t.mem = s.mem ∧ t.cores = s.cores)

/-- R83, R100, R133, R272 to R277, R422, R67: what the copy engine does, which bytes it moves and where to, and data and acknowledgements
that come back. -/
def Obligations.CopyEngineAndLandings : Prop := copyEngine ∧ copyPositions ∧ planeLayout ∧ landings

/-- R94, R98, R62: a phase end of a scope within the device completes once every member has arrived or is retired, and every held store
has performed: the instance's number moves on, nothing is published, and every byte that a member wrote in the phase, but for what was
delivered into a tile (R126), holds the survivor (R97) of the task's writes that happen before the departures; every other byte stays. The
POD scope, whose members on other devices are the environment's (log 21), is not spoken of. -/
def phaseEnds : Prop :=
  ∀ (e : InstEv) (s s1 : State) (t t1 : Task), s.taskOf e.task = some t → e.scope ≠ 5 → s1.taskOf e.task = some t1 →
    let ms := s.membersOf e.task e.scope e.unit
    let i := t.inst e.scope e.unit
    (∃ h ∈ ms, h.status ≠ .retired) → (∀ h ∈ ms, h.status = .retired ∨ i.number < mget 0 i.arrivals h.member) →
    s.badHeld ms = none → ms.foldlM (fun s h => s.performAllHeld h) s = .ok s1 → Mem.wf s1.mem.live = true →
    let clock := (ms.filter (fun h => h.status == .retired)).foldl (fun c h => Clock.join c (s1.fullClock h)) i.clock
    let before (w : Wr) : Prop := Clock.covers clock w = true ∧ w.perf ≠ 0
    let inPhase (key : Nat) : Prop := ∃ w ∈ t1.log, w.key = key ∧ before w ∧ Clock.covers i.prev w = false ∧ w.tile = false ∧
      ∃ h ∈ ms, h.member = w.member
    ∃ u, exec (.phaseEndComplete e) s = .next u ∧
      (u.taskOf e.task).map (fun t => (t.inst e.scope e.unit).number) = some (i.number + 1) ∧ u.mem.pub = s1.mem.pub ∧
      (∀ key w, inPhase key → survivor (t1.log.filter (fun w => w.key == key && Clock.covers clock w && w.perf != 0)) = some w →
        u.mem.live.get key = w.val) ∧
      (∀ key, ¬ inPhase key → u.mem.live.get key = s1.mem.live.get key)

/-- R94 to R103: phend, phase, and the end of a phase at each scope but POD (log 21). -/
def Obligations.PhaseInstructionsAndEnds : Prop := phases ∧ phaseEnds

/-! ## Summaries, the Dealer, seats -/

/-- R295: the serialised form of a slot, and the flags that its inputs raised, do not depend on the order of the inputs, and merging
the slots of two parts gives what one slot of all inputs gives. -/
def Obligations.SummariesForgetOrder : Prop :=
  ∀ (t : Nat) (p : BitVec 24) (seed : BitVec 32) (l m : List Input), paramOk t p = true →
    (l.Perm m → ((newSlot t p seed).takeAll l).1.serialise = ((newSlot t p seed).takeAll m).1.serialise ∧
      ((newSlot t p seed).takeAll l).2 = ((newSlot t p seed).takeAll m).2) ∧
    ((((newSlot t p seed).takeAll l).1.merge ((newSlot t p seed).takeAll m).1).1.serialise =
      ((newSlot t p seed).takeAll (l ++ m)).1.serialise)

/-- R305 to R307, R311: sdecl gives a free handle a new slot within the budget; sclr empties a slot, sfree takes it away, stype reads
its descriptor, smrg and smrgm merge one of the same descriptor into it, sload loads a checked record; a handle in the wrong state
is SUMMARY-TYPE, a slot beyond the budget SUMMARY-CAPACITY. -/
def slotManagement : Prop :=
  (∀ (f : RegG) (s : State) (t : Nat) (p : BitVec 24) (seed : BitVec 32), s.ready f.g [f.a, f.b] →
    declared (s.hand.getX f.a) (s.hand.getX f.b) = .ok (t, p, seed) →
    (mfind s.hand.handles f.d.toNat = none → typeGranules t ≤ 2048 - s.hand.granulesUsed →
      s.slotResult (.sdecl f) f.d (newSlot t p seed) []) ∧
    (mfind s.hand.handles f.d.toNat = none → 2048 - s.hand.granulesUsed < typeGranules t →
      s.traps (.sdecl f) ((Trap.mk' .summaryCapacity (BitVec.ofNat 64 (typeGranules t))).at' (2048 - s.hand.granulesUsed))) ∧
    (∀ x, mfind s.hand.handles f.d.toNat = some x → s.traps (.sdecl f) (Trap.mk' .summaryType x.descriptor))) ∧
  (∀ (f : DG) (s : State) (x : Slot), s.goes f.g → mfind s.hand.handles f.d.toNat = some x → s.hand.noJobs f.d → s.soundIn 4 →
    (s.drains → s.slotResult (.sclr f) f.d (newSlot x.typ x.param x.seed) []) ∧
    (rising s.hand.handles = true → ∃ t, exec (.sfree f) s = .next t ∧ s.hand.movedOn t.hand 4 ∧
      mfind t.hand.handles f.d.toNat = none ∧ (∀ k, k ≠ f.d.toNat → mfind t.hand.handles k = mfind s.hand.handles k) ∧
      t.hand.x = s.hand.x ∧ t.hand.csr = s.hand.csr ∧ s.sameMem t)) ∧
  (∀ (f : DG) (s : State), s.goes f.g → mfind s.hand.handles f.d.toNat = none →
    s.traps (.sclr f) (Trap.mk' .summaryType 0) ∧ s.traps (.sfree f) (Trap.mk' .summaryType 0)) ∧
  (∀ (f : DAG) (s : State), s.goes f.g → s.hand.noJobs f.a →
    (s.hand.full f.d → s.writes (.stype f) f.d (((mfind s.hand.handles f.a.toNat).map Slot.descriptor).getD 0) 4) ∧
    (∀ x y, mfind s.hand.handles f.d.toNat = some x → mfind s.hand.handles f.a.toNat = some y → s.hand.noJobs f.d → s.drains →
      s.soundIn 4 → x.descriptor = y.descriptor →
      s.slotResult (.smrg f) f.d (x.merge y).1 (if (x.merge y).2 then [(0, fSAT)] else [])) ∧
    (∀ x y, mfind s.hand.handles f.d.toNat = some x → mfind s.hand.handles f.a.toNat = some y → x.descriptor ≠ y.descriptor →
      s.traps (.smrg f) { Trap.mk' .summaryType x.descriptor with tidx0 := y.descriptor })) ∧
  (∀ (f : UnG) (s s1 : State) (y : Slot), s.ready f.g [f.a] → (s.hand.getX f.a).toNat % 16 = 0 →
    s.record' (s.hand.getX f.a) = .ok (s1, y) →
    s1.hand = { s.hand with strip := { s.hand.strip with drawn := s1.hand.strip.drawn } } → s1.drains →
    (mfind s.hand.handles f.d.toNat = none → typeGranules y.typ ≤ 2048 - s.hand.granulesUsed →
      s.slotResult (.sload f) f.d y []) ∧
    (∀ x, mfind s.hand.handles f.d.toNat = some x → s.hand.noJobs f.d → s1.soundIn 4 → x.descriptor = y.descriptor →
      s.slotResult (.smrgm f) f.d (x.merge y).1 (if (x.merge y).2 then [(0, fSAT)] else [])))

/-- R302, R306, R73: ssave enters the slot's record, at an address that is a multiple of 16, in the strip store buffer; the record
of a slot within one page is one store here. Its first bytes are the type, the parameter, the seed, the NaN count and the flags. -/
def slotRecords : Prop :=
  (∀ (f : UnG) (s : State) (x : Slot) (k : Nat), s.ready f.g [f.a] → mfind s.hand.handles f.d.toNat = some x → s.hand.noJobs f.d →
    s.soundIn 4 →
    let va := s.hand.getX f.a
    let n := x.serialise.length
    va.toNat % 16 = 0 → va.toNat % 4096 + n ≤ 4096 → s.plainAt true va k → s.buffers n [k] →
    s.storeResult (.ssave f) 1 n [entryAt va k (leNat x.serialise)]) ∧
  (∀ x : Slot, x.serialise.take 16 = [BitVec.ofNat 8 x.typ] ++ leBytes 3 x.param.toNat ++ leBytes 4 x.seed.toNat ++
    leBytes 4 x.nansField ++ leBytes 4 (x.flagBits + 2 ^ 24)) ∧
  (∀ (f : UnG) (s : State), s.ready f.g [f.a] → (s.hand.getX f.a).toNat % 16 ≠ 0 →
    let odd (access : Nat) : Trap := { Trap.mk' .misaligned (s.hand.getX f.a) with access := access }
    s.traps (.ssave f) (odd 1) ∧ s.traps (.sload f) (odd 0) ∧ s.traps (.smrgm f) (odd 0))

/-- R302, R305 to R307, R311: summary slots by handle, and their records in memory. -/
def Obligations.SlotsAndRecords : Prop := slotManagement ∧ slotRecords

/-- R308, R294, R296 to R301: an update offers the active elements, in element order, to the slot of handle D: floats as F32 bits,
keys as bits, with B's elements, or its default, as indices, weights, cells or second factors; of supd.vacc the first element whose
cell lies beyond the slot is SUMMARY-PARAM, TVAL the cell. -/
def Obligations.SlotUpdates : Prop :=
  (∀ (f : VReg) (s : State) (x : Slot), mfind s.hand.handles f.d.toNat = some x → s.hand.noJobs f.d → s.drains → s.soundIn 4 →
    (f.b = 0 ∨ s.hand.chains f.b s.hand.grpN f.tb) →
    let h := s.hand
    let es := h.actives f.m
    let flt (r : Fld5) (e : Nat) : Nat := h.asF32 (h.elem r e)
    let second (dflt : Nat → Nat) (e : Nat) : Nat := if f.b = 0 then dflt e else h.elem f.b e
    let ord (e : Nat) : Nat := (h.csr.ordbase + h.csr.orun + BitVec.ofNat 64 e).toNat
    let on (i : Instr) (types : List Nat) (ins : Nat → Input) : Prop := s.groupA i f.a f.ta → x.typ ∈ types →
      s.slotResult i f.d (x.takeAll (es.map ins)).1 [((es.head?).getD 0, (x.takeAll (es.map ins)).2)]
    on (.supdTopk f) [3] (fun e => ⟨flt f.a e, second (fun e => ord e % 2 ^ 32) e, none⟩) ∧
    on (.supdQh f) [4] (fun e => ⟨flt f.a e, second (fun _ => 1) e, none⟩) ∧
    on (.supdCms f) [5] (fun e => ⟨h.elem f.a e, second (fun _ => 1) e, none⟩) ∧
    ((∀ e ∈ es, second (fun e => ord e % cellCount x.typ) e < cellCount x.typ) →
      on (.supdVacc f) [6, 7] (fun e => ⟨flt f.a e, second (fun e => ord e % cellCount x.typ) e, none⟩)) ∧
    (∀ before e after, s.groupA (.supdVacc f) f.a f.ta → x.typ ∈ [6, 7] → f.b ≠ 0 → es = before ++ e :: after →
      (∀ k ∈ before, h.elem f.b k < cellCount x.typ) → cellCount x.typ ≤ h.elem f.b e →
      s.traps (.supdVacc f) ((Trap.mk' .summaryParam (BitVec.ofNat 64 (h.elem f.b e))).at' e)) ∧
    on (.supdVaccm f) [6, 7] (fun e => ⟨flt f.a e, ord e % cellCount x.typ, if f.b = 0 then none else some (flt f.b e)⟩)) ∧
  (∀ (f : VUn) (s : State) (x : Slot), mfind s.hand.handles f.d.toNat = some x → s.hand.noJobs f.d → s.drains → s.soundIn 4 →
    let h := s.hand
    let es := h.actives f.m
    let on (i : Instr) (typ : Nat) : Prop := s.groupA i f.a f.ta → x.typ = typ →
      let ins := es.map (fun e => (⟨h.asF32 (h.elem f.a e), 0, none⟩ : Input))
      s.slotResult i f.d (x.takeAll ins).1 [((es.head?).getD 0, (x.takeAll ins).2)]
    on (.supdMom f) 1 ∧ on (.supdRes f) 2)

/-- R309, R310, R296, R299, R300, R214: the queries into x[D] (moments by code, reservoir counts, the quantile of q from 0 to 1, the
flags), the entries of sq.res and sq.topk into words 0 to 63, with 0x7FC0_0000 and 0xFFFF_FFFF beyond them, and the estimates and
cells of sq.cms and sq.vacc at SEW 32. -/
def slotQueryResults : Prop :=
  (∀ (f : DABG) (s : State) (x : Slot), s.goes f.g → mfind s.hand.handles f.a.toNat = some x → s.hand.noJobs f.a → s.hand.full f.d →
    s.soundIn 4 →
    (x.typ = 1 → f.b.toNat ≤ 8 → s.queryResult (.sqMom f) f.d f.a (BitVec.ofNat 64 (x.queryMoments f.b.toNat).1)
      [(0, (x.queryMoments f.b.toNat).2)]) ∧
    (x.typ = 2 → f.b.toNat ≤ 2 → s.queryResult (.sqResn f) f.d f.a (BitVec.ofNat 64 (x.queryRes f.b.toNat)) []) ∧
    (x.typ = 1 → 8 < f.b.toNat → s.traps (.sqMom f) (Trap.mk' .summaryParam (BitVec.ofNat 64 f.b.toNat))) ∧
    (x.typ ≠ 1 → s.traps (.sqMom f) { Trap.mk' .summaryType 0 with tidx0 := x.descriptor })) ∧
  (∀ (f : DABtG) (s : State) (x : Slot), s.goes f.g → mfind s.hand.handles f.a.toNat = some x → s.hand.noJobs f.a → s.soundIn 4 →
    let h := s.hand
    let q := (h.getX f.b).toNat % 2 ^ 32
    (x.typ = 4 → h.full f.b → h.full f.d → q ≤ 0x3F80_0000 ∨ q = 0x8000_0000 →
      s.queryResult (.sqQh f) f.d f.a (BitVec.ofNat 64 (x.quantile q)) []) ∧
    (x.typ = 4 → h.full f.b → 0x3F80_0000 < q → q ≠ 0x8000_0000 →
      s.traps (.sqQh f) (Trap.mk' .summaryParam (BitVec.ofNat 64 q))) ∧
    (Mem.wf h.v = true → h.csr.vl ≠ 0 → h.csr.sew = 2 →
      let fills (i : Instr) (reads : List Dest) (r : Nat → Nat × Nat) : Prop := encFault i h = none → ∃ t, exec i s = .next t ∧
        s.onlyHand t ∧
        h.movedOn t.hand 4 ∧ h.sameRest t.hand ∧ (∀ e, e < h.csr.vl → t.hand.elem f.d e = (r e).1 % 2 ^ 32) ∧
        h.sameVBut t.hand (elemKeys f.d 4 h.elems) ∧ t.hand.x = h.x ∧ t.hand.p = h.p ∧
        t.hand.csr = h.csr.raise (raisedBy h.elems r) ∧
        t.hand.producers = h.producers ++ [⟨.vector f.d.toNat h.grpN, none, none, .slot f.a.toNat :: reads, true,
          h.groupBytes (.vector f.d.toNat h.grpN)⟩]
      (x.typ = 5 → s.soundIn 5 → h.chains f.b h.grpN f.tb →
        fills (.sqCms f) [.vector f.b.toNat h.grpN] (fun e => (x.estimate (h.elem f.b e), 0))) ∧
      (x.typ = 6 ∨ x.typ = 7 → h.full f.b → (h.getX f.b).toNat + h.csr.vl ≤ cellCount x.typ →
        fills (.sqVacc f) [] (fun e => x.cell ((h.getX f.b).toNat + e))))) ∧
  (∀ (f : DAG) (s : State) (x : Slot), s.goes f.g → mfind s.hand.handles f.a.toNat = some x → s.hand.noJobs f.a → s.soundIn 4 →
    let h := s.hand
    let words (t : State) (r : Nat) (l : List Nat) (beyond : Nat) : Prop :=
      ∀ k, k < 64 → t.hand.getVN r (4 * k) 4 = (l[k]?).getD beyond % 2 ^ 32
    let keys (r : Nat) : List Nat := upFrom (r * 4096) 256
    (h.full f.d → s.queryResult (.sqFlags f) f.d f.a (BitVec.ofNat 64 (x.flagBits + 2 ^ 32 * x.nansField)) []) ∧
    (x.typ = 2 → Mem.wf h.v = true → ∃ t, exec (.sqRes f) s = .next t ∧ s.onlyHand t ∧ h.movedOn t.hand 4 ∧
      words t f.d.toNat (x.entries.map (fun e => e.2.toNat)) 0x7FC0_0000 ∧ h.sameVBut t.hand (keys f.d.toNat) ∧
      t.hand.x = h.x ∧ t.hand.csr = h.csr) ∧
    (x.typ = 3 → Mem.wf h.v = true → ∃ t, exec (.sqTopk f) s = .next t ∧ s.onlyHand t ∧ h.movedOn t.hand 4 ∧
      words t f.d.toNat (x.entries.map (fun e => e.1.toNat)) 0x7FC0_0000 ∧
      words t (f.d.toNat + 1) (x.entries.map (fun e => e.2.toNat)) 0xFFFF_FFFF ∧
      h.sameVBut t.hand (keys f.d.toNat ++ keys (f.d.toNat + 1)) ∧ t.hand.x = h.x ∧ t.hand.csr = h.csr) ∧
    (x.typ = 7 → s.soundIn 7 →
      let tl := s.tile h.core f.d.toNat
      let key (c : Nat) : Nat := tl.key h.core (4 * c)
      let cells := List.range 16384
      tl.plane = false → tl.efmt = 4 → tl.rows = 127 → tl.cols = 127 → tl.state = 0 ∨ tl.state = 2 →
      h.strip.prot = true → h.strip.ssb = [] →
      ∃ t, exec (.sqTile f) s = .next t ∧ h.movedOn t.hand 4 ∧ s.sameMem t ∧ t.hand.x = h.x ∧ t.hand.v = h.v ∧
        t.hand.strip.ssb = bufferOf 1 4 h.ord.wseq (cells.map (fun c => ⟨key c, (x.cell c).1, none, []⟩)) ∧
        t.hand.csr = h.csr.raise (raisedBy cells x.cell)))

/-- R294, R296, Table 15.2: what sq.mom gives of a slot that has taken some inputs, fewer than 2^32: how many were no NaN, and how many were
NaN, +inf and −inf; the least and the greatest in R203's order, +inf and −inf bits where there is none; sum, mean and population variance
from the exact sums, rounded once; an infinity, or a NaN where there are both, in place of sum and mean, a NaN of the variance. -/
def momentsLaw : Prop :=
  ∀ (l : List Input) (seed : BitVec 32), l.length < 2 ^ 32 → (∀ i ∈ l, i.bits < 2 ^ 32) →
    let x := ((newSlot 1 0 seed).takeAll l).1
    let nums := l.filterMap (fun i => if (f32.value i.bits).isNan then none else some (if i.bits = 0x8000_0000 then 0 else i.bits))
    let q (code : Nat) : Nat × Nat := x.queryMoments code
    let pos := nums.count 0x7F80_0000
    let neg := nums.count 0xFF80_0000
    let infinity := if neg = 0 then 0x7F80_0000 else if pos = 0 then 0xFF80_0000 else 0x7FC0_0000
    let s1 := (nums.map momentTerm).sum
    let s2 := (nums.map (fun b => momentTerm b * momentTerm b)).sum
    let n := nums.length
    q 0 = (n, 0) ∧ q 6 = (l.length - n, 0) ∧ q 7 = (pos, 0) ∧ q 8 = (neg, 0) ∧
    (nums = [] → q 3 = (0x7F80_0000, 0) ∧ q 4 = (0xFF80_0000, 0) ∧ q 1 = (0x7FC0_0000, 0) ∧ q 2 = (0x7FC0_0000, 0) ∧ q 5 = (0, 0)) ∧
    (nums ≠ [] → (q 3).1 ∈ nums ∧ (∀ b ∈ nums, keyOf (q 3).1 ≤ keyOf b) ∧ (q 4).1 ∈ nums ∧ ∀ b ∈ nums, keyOf b ≤ keyOf (q 4).1) ∧
    (pos + neg ≠ 0 → q 1 = (infinity, 0) ∧ q 5 = (infinity, 0) ∧ q 2 = (0x7FC0_0000, 0)) ∧
    (pos + neg = 0 → n ≠ 0 → q 1 = f32.roundRatio 0 false s1 n (-149) ∧ q 5 = f32.roundInt 0 false false s1 (-149) ∧
      q 2 = f32.roundRatio 0 false ((n : Int) * s2 - s1 * s1) (n * n) (-298))

/-- R299, R203: the quantile of a slot that has taken some inputs with their weights is the least number of the first bucket, in
ascending order of the keys' top twelve bits, at which the counts reach the least whole number from 1 on that is no less than q times their
sum; a slot without counts gives the default NaN. -/
def quantileLaw : Prop :=
  ∀ (l : List Input) (seed : BitVec 32) (q : Nat), q ≤ 0x3F80_0000 ∨ q = 0x8000_0000 → (∀ i ∈ l, i.bits < 2 ^ 32 ∧ i.arg < 2 ^ 32) →
    let x := ((newSlot 4 0 seed).takeAll l).1
    let weight (i : Nat) (j : Input) : Nat :=
      if (f32.value j.bits).isNan = false ∧ keyOf (if j.bits = 0x8000_0000 then 0 else j.bits) / 2 ^ 20 = i then j.arg else 0
    let count (i : Nat) : Nat := min (2 ^ 32 - 1) (l.map (weight i)).sum
    let upTo (i : Nat) : Nat := ((List.range (i + 1)).map count).sum
    let n := upTo 4095
    let reaches (r : Nat) : Prop := 1 ≤ r ∧ ∀ m (e : Nat), f32.value q = .fin false m (-(e : Int)) → m * n ≤ r * 2 ^ e
    (n = 0 → x.quantile q = 0x7FC0_0000) ∧
    (n ≠ 0 → ∀ r, reaches r → (∀ r', reaches r' → r ≤ r') → ∃ i, i < 4096 ∧ r ≤ upTo i ∧ (∀ j, j < i → upTo j < r) ∧
      let b := x.quantile q
      b < 2 ^ 32 ∧ (f32.value b).isNan = false ∧ keyOf b / 2 ^ 20 = i ∧
      ∀ c, c < 2 ^ 32 → (f32.value c).isNan = false → keyOf c / 2 ^ 20 = i → keyOf b ≤ keyOf c)

/-- R300, R297: the estimate of a key is the least, over the four rows, of the sum of the weights, at most 2^32 − 1, of all inputs whose
counter in the row is the key's. -/
def estimateLaw : Prop :=
  ∀ (l : List Input) (seed : BitVec 32) (key : Nat), (∀ i ∈ l, i.arg < 2 ^ 32) →
    let place (k row : Nat) : Nat := h32 k ((seed.toNat + row * 0x6A09) % 2 ^ 32) % 1024
    let counter (row : Nat) : Nat :=
      min (2 ^ 32 - 1) (l.map (fun i => if place i.bits row = place key row then i.arg else 0)).sum
    ((newSlot 5 0 seed).takeAll l).1.estimate key = min (min (counter 0) (counter 1)) (min (counter 2) (counter 3))

/-- R309, R310, R294 to R300, R214: the queries, and what their values are. -/
def Obligations.SlotQueries : Prop := slotQueryResults ∧ momentsLaw ∧ quantileLaw ∧ estimateLaw

/-- R314 to R322: qdeal and qdealf write the points of dimension x[A] at the elements' indices, as N32 or as F32; qtab, a commit
point, binds a dimension to the image at x[B]; qseed sets its shift; digit r of a point is the parity of the row against the
direction sum, moved by the shift. -/
def Obligations.DealerDraws : Prop :=
  (∀ (f : VReg) (s : State), s.hand.full f.a → (f.b = 0 ∨ s.hand.chains f.b s.hand.grpN f.tb) →
    s.soundIn 5 → s.hand.pReady f.m.toNat = true → Mem.wf s.hand.v = true →
    let h := s.hand
    let es := h.actives f.m
    let d := (h.getX f.a).toNat
    let ix (e : Nat) : Nat := if f.b = 0 then (h.csr.ordbase + h.csr.orun + BitVec.ofNat 64 e).toNat else h.elem f.b e
    let on (i : Instr) (form : Nat → Nat) : Prop := encFault i h = none →
      (d < 64 → h.bound.getLsbD d = true → (∀ e ∈ es, ix e < 2 ^ 32) → ∃ t, exec i s = .next t ∧ s.onlyHand t ∧
        h.movedOn t.hand 4 ∧ h.sameRest t.hand ∧
        (∀ e ∈ es, t.hand.elem f.d e = form (dealPoint h.dealer d (ix e)) % 2 ^ h.sewBits) ∧
        h.sameVBut t.hand (elemKeys f.d h.sewBytes es) ∧ t.hand.x = h.x ∧ t.hand.p = h.p ∧ t.hand.csr = h.csr ∧
        t.hand.producers = h.producers ++ s.made i (if es = [] then [] else [(.vector f.d.toNat h.grpN, none)])) ∧
      (es ≠ [] → 64 ≤ d → s.traps i (Trap.mk' .dealerRange (h.getX f.a))) ∧
      (es ≠ [] → d < 64 → h.bound.getLsbD d = false → s.traps i (Trap.mk' .dealerTable (h.getX f.a)))
    on (.qdeal f) (fun y => y) ∧ on (.qdealf f) pointF32) ∧
  (∀ (f : ABF) (s s1 : State) (img : List Byte), s.hand.full f.a → s.hand.full f.b → s.drains →
    let d := (s.hand.getX f.a).toNat
    d < 64 → (s.hand.getX f.b).toNat % 64 = 0 → s.commit.recRead (s.hand.getX f.b) 0 256 = .ok (s1, img) →
    imageFault img = none → rising s1.hand.dealer = true →
    ∃ t, exec (.qtab f) s = .next t ∧ s1.hand.movedOn t.hand 4 ∧ t.hand.x = s1.hand.x ∧
      t.hand.bound = s1.hand.bound ||| BitVec.ofNat 64 (2 ^ d) ∧
      (∀ k, k < 64 → mget 0 t.hand.dealer (64 * d + k) = imageWord img k) ∧
      (∀ k, (k < 64 * d ∨ 64 * d + 64 ≤ k) → mget 0 t.hand.dealer k = mget 0 s1.hand.dealer k)) ∧
  (∀ (f : ABF) (s : State), s.hand.full f.a → s.hand.full f.b → rising s.hand.dealer = true →
    let d := (s.hand.getX f.a).toNat
    let v : Word := (s.hand.getX f.b).setWidth 32
    d < 64 → (s.hand.getX f.b).toNat < 2 ^ 32 → s.hand.bound.getLsbD d = true →
    ∃ t, exec (.qseed f) s = .next t ∧ s.onlyHand t ∧ s.hand.movedOn t.hand 4 ∧ t.hand.x = s.hand.x ∧ t.hand.bound = s.hand.bound ∧
      (∀ r j, r < 32 → j < 32 → (dealW t.hand.dealer d r).getLsbD j =
        (if j = 31 - r then v.getLsbD j else (dealW s.hand.dealer d r).getLsbD j)) ∧
      (∀ r, r < 32 → dealV t.hand.dealer d r = dealV s.hand.dealer d r)) ∧
  (∀ (c : SMap Word) (d i r : Nat), r < 32 → (dealPoint c d i).testBit (31 - r) =
    (parity ((dealW c d r ||| BitVec.ofNat 32 (2 ^ (31 - r))) &&& ~~~(BitVec.ofNat 32 (2 ^ (31 - r) - 1)) &&& dirSum c d i) !=
      (dealW c d r).getLsbD (31 - r)))

/-- R326, R329 to R335, R88: seatq joins an object's queue, owning it when it was empty; seatw waits until its seat owns and then sees
what is published; seatr and seatf release or fold a seat, a release waiting until the hand's earlier accesses have performed, and the
first seat not folded then owns; seatp and seatin pass a seat through an inbox; seatx exchanges two seats; seatst reports one; a seat
that the hand does not hold is SEAT-NOT-HELD. -/
def Obligations.Seats : Prop :=
  (∀ (f : UnG) (s : State) (o : SeatObj), s.ready f.g [f.a, f.d] → s.drains → s.noDudel → s.me.side = .single →
    let x := (s.hand.getX f.a).toNat
    let q : Seat := ⟨o.next, if o.queue = [] then 1 else 0, some s.hand.id, none, none⟩
    x < 24576 → s.seatObj x = o → o.asid = s.hand.asid → s.seatsUsed (x / 4096) < 65536 →
    ∃ t, exec (.seatq f) s = .next t ∧ s.hand.movedOn t.hand 4 ∧
      (f.d ≠ 0 → t.hand.getX f.d = (seatHandle x o.next).setWidth 64) ∧ s.hand.sameXBut t.hand f.d ∧
      t.seatObj x = { o with next := o.next + 1, queue := o.queue ++ [q] }) ∧
  (∀ (f : SeatA) (s : State) (obj : Nat) (o : SeatObj) (q : Seat), s.ready f.g [f.a] → s.drains → s.noDudel →
    s.ownsSeat (s.hand.getX f.a) obj o q →
    let c := s.commit
    let quiet : Bool := c.hand.classQuiet 0 && c.hand.classQuiet 1 && c.hand.classQuiet 2
    (q.state = 1 →
      (s.hand.unasked → ∃ t, exec (.seatw f) s = .next t ∧ s.hand.movedOn t.hand 4 ∧ t.hand.x = s.hand.x ∧
        t.hand.ord.snap = s.mem.pubFor s.hand ∧ t.hand.v = [] ∧ ∀ r : Fld5, r ≠ 0 → t.hand.getP r.toNat = 0) ∧
      exec (.seatr f) s = .next (if quiet then (c.releaseSeat obj c.hand).retire 4 else c.waits .order) ∧
      (quiet = true → rising s.seats = true → s.hand.status ≠ .retired → ∀ i ∈ [Instr.seatr f, .seatf f], ∃ t, exec i s = .next t ∧
        t.seatObj obj = { o with queue := promote (c.hand.task, c.clockOf c.hand) (o.queue.drop 1) } ∧
        ∀ j, j ≠ obj → t.seatObj j = s.seatObj j)) ∧
    (q.state = 0 → rising s.seats = true → ∃ t, exec (.seatf f) s = .next t ∧
      t.seatObj obj = { o with queue := o.queue.map (fun z => if z.number = q.number then { z with state := 2, holder := none } else z) } ∧
      ∀ j, j ≠ obj → t.seatObj j = s.seatObj j) ∧
    (q.state ≠ 1 → (s.hand.unasked → exec (.seatw f) s = .next (c.dropGrant.waits .seatw)) ∧
      s.trapsAfter (.seatr f) ((Trap.mk' .seatState (s.hand.getX f.a)).at' q.state)) ∧
    exec (.seatf f) s = .next (if q.state = 1 ∧ quiet = false then c.waits .order else (c.foldSeat obj q.number c.hand).retire 4)) ∧
  (∀ (f : SeatA) (s : State) (obj : Nat) (n : BitVec 17), s.ready f.g [f.a] → s.drains → s.me.side = .single →
    let x := s.hand.getX f.a
    seatName x = some (obj, n) → (s.seatObj obj).asid = s.hand.asid →
    (∀ q, (s.seatObj obj).find n = some q → q.holder ≠ some s.hand.id) →
    ∀ i ∈ [Instr.seatw f, .seatr f, .seatf f], s.trapsAfter i (Trap.mk' .seatNotHeld x)) ∧
  (∀ (g : Nat × Clock) (l : List Seat), (promote g l) = match l.dropWhile (fun q => q.state == 2) with
    | [] => []
    | q :: r => { q with state := 1, released := some g } :: r) ∧
  (∀ (s : State) (obj : Nat) (n : BitVec 17) (h : Hand), rising s.seats = true →
    let o := s.seatObj obj
    let given := (h.task, if h.status = .retired then s.fullClock h else s.clockOf h)
    let u := s.releaseSeat obj h
    (u = { s with seats := u.seats } ∧ u.seatObj obj = { o with queue := promote given (o.queue.drop 1) } ∧
      ∀ j, j ≠ obj → u.seatObj j = s.seatObj j) ∧
    (∀ q, o.find n = some q → q.state = 1 → s.foldSeat obj n h = u) ∧
    (∀ q, o.find n = some q → q.state = 0 →
      let v := s.foldSeat obj n h
      v = { s with seats := v.seats } ∧ (∀ j, j ≠ obj → v.seatObj j = s.seatObj j) ∧
      v.seatObj obj = { o with queue := o.queue.map (fun z => if z.number = n then { z with state := 2, holder := none } else z) }) ∧
    (o.find n = none → s.foldSeat obj n h = s)) ∧
  (∀ (f : ABG) (s : State) (obj : Nat) (o : SeatObj) (q : Seat), s.ready f.g [f.a, f.b] → s.drains → s.noDudel →
    s.ownsSeat (s.hand.getX f.a) obj o q →
    let c := s.commit
    (∀ k, c.handOf (s.hand.getX f.b).toNat = some k → s.hand.status ≠ .none → k.living = true →
      k.asid = s.hand.asid → k.inbox.length < 16 →
      ∃ t, exec (.seatp f) s = .next t ∧ t.hand.x = s.hand.x ∧
        (t.handOf (s.hand.getX f.b).toNat).map (·.inbox) = some (k.inbox ++ [seatHandle obj q.number]) ∧
        t.seatObj obj = { o with queue := o.queue.map (fun z => if z.number = q.number then
          { z with holder := none, released := none, passed := some (c.hand.task, c.clockOf c.hand) } else z) }) ∧
    (∀ n r, q.state ≠ 1 → seatName (s.hand.getX f.b) = some (obj, n) → o.find n = some r →
      o.queue.findIdx (fun z => z.number == q.number) < o.queue.findIdx (fun z => z.number == r.number) →
      ∃ t, exec (.seatx f) s = .next t ∧ s.hand.movedOn t.hand 4 ∧ t.hand.x = s.hand.x ∧
        t.seatObj obj = { o with queue := swapSeats q r o.queue })) ∧
  (∀ (f : DG) (s : State), s.ready f.g [f.d] → s.drains → s.noDudel → s.me.side = .single → s.hand.unasked →
    (∀ hd rest, s.hand.inbox = hd :: rest → ∃ t, exec (.seatin f) s = .next t ∧ s.hand.movedOn t.hand 4 ∧ t.hand.inbox = rest ∧
      (f.d ≠ 0 → t.hand.getX f.d = hd.setWidth 64) ∧ s.hand.sameXBut t.hand f.d) ∧
    (s.hand.inbox = [] → exec (.seatin f) s = .next (s.commit.dropGrant.waits .seatin))) ∧
  (∀ (f : UnG) (s : State), s.ready f.g [f.a, f.d] → s.drains → s.noDudel → s.me.side = .single →
    let x := s.hand.getX f.a
    let gives (v : Reg64) : Prop := ∃ t, exec (.seatst f) s = .next t ∧ s.hand.movedOn t.hand 4 ∧
      (f.d ≠ 0 → t.hand.getX f.d = v) ∧ s.hand.sameXBut t.hand f.d ∧ t.seats = s.seats
    let none' : Reg64 := 0xFFFF_FFFF_0000_0003
    (seatName x = none → gives none') ∧
    (∀ obj n, seatName x = some (obj, n) →
      let o := s.seatObj obj
      (o.asid ≠ s.hand.asid ∨ o.find n = none → gives none') ∧
      (∀ q, o.asid = s.hand.asid → o.find n = some q → gives (seatStatus o q))))

/-! ## The system -/

/-- R169 to R171, R174, R388: csrr reads a CSR, csrw writes one, csrx does both at once; they are commit points (R173). A read of SRECCTL
sees the strip records that were written for the hand. Bits that a CSR does not define read as zero after a write; an unknown number or a
reserved value is RESERVED-FIELD with TVAL the word. -/
def csrAccesses : Prop :=
  ∀ (f : DABG) (s : State), s.ready f.g [f.d] → s.drains → (flagCsr (csrNum f) = true → s.hand.flagsQuiet = true) →
    let c := s.commit
    let n := csrNum f
    let x := s.hand.getX f.d
    let put (k : Csrs) : State := { c with hand := { c.hand with csr := k } }
    let bad (fn : Fld5) : Trap := sysTrap .reservedField fn f.d f.a f.b f.g
    (∀ v, n ≠ 0x023 → n ≠ 0x071 → c.readCsr n = some v → exec (.csrr f) s = .next ((c.setX f.d v).retire 4)) ∧
    (n = 0x023 → ∃ t, exec (.csrr f) s = .next t ∧ s.hand.movedOn t.hand 4 ∧ (f.d ≠ 0 → t.hand.getX f.d = t.hand.csr.cyc) ∧
      s.hand.sameXBut t.hand f.d ∧ t.mem = c.mem) ∧
    (∀ v, n = 0x071 → c.readCsr n = some v →
      let mine (t : State) (m : Nat) : List (Nat × Nat × List Byte) :=
        (((t.taskOf c.hand.task).map (·.records)).getD []).filter (fun r => r.1 == m)
      let sees (t : State) (k : Csrs) : Prop := s.hand.movedOn t.hand 4 ∧ (f.d ≠ 0 → t.hand.getX f.d = v) ∧ s.hand.sameXBut t.hand f.d ∧
        t.hand.csr = k ∧ t.mem = c.mem ∧ t.others = c.others ∧
        t.hand.ord.snap = (mine c c.hand.member).foldl (fun m r => m.putAll (atAddr r.2.1 r.2.2)) c.hand.ord.snap ∧
        mine t c.hand.member = [] ∧ ∀ m, m ≠ c.hand.member → mine t m = mine c m
      (∃ t, exec (.csrr f) s = .next t ∧ sees t c.hand.csr) ∧
      (∀ k, c.hand.csr.write n x = some k → ∃ t, exec (.csrx f) s = .next t ∧ sees t k)) ∧
    (c.readCsr n = none → s.trapsAfter (.csrr f) (bad 1)) ∧
    (∀ k, c.hand.csr.write n x = some k → exec (.csrw f) s = .next ((put k).retire 4) ∧
      (put k).readCsr n = some (x &&& csrMask n) ∧
      (∀ old, n ≠ 0x071 → c.readCsr n = some old → exec (.csrx f) s = .next (((put k).setX f.d old).retire 4))) ∧
    (c.hand.csr.write n x = none → s.trapsAfter (.csrw f) (bad 2) ∧ s.trapsAfter (.csrx f) (bad 3))

/-- R176: rett, in handler mode, goes to TPC and leaves the mode, or goes on in the repeat frame whose rep stands at TPC; outside
handler mode it is ILLEGAL-OPCODE, and a TPC that is no word address is MISALIGNED. -/
def returns : Prop :=
  ∀ (f : GF) (s : State), s.goes f.g → s.drains →
    let c := s.commit
    let r := c.hand.csr
    (r.hm = false → s.trapsAfter (.rett f) (sysTrap .illegalOpcode 7 0 0 0 f.g)) ∧
    (r.hm = true → r.tpc.toNat % 4 ≠ 0 → s.trapsAfter (.rett f) (Trap.mk' .misaligned r.tpc)) ∧
    (r.hm = true → r.tpc.toNat % 4 = 0 → r.tstatus.getLsbD 1 = false → ∃ t, exec (.rett f) s = .next t ∧
      t = { c with hand := t.hand } ∧ t.hand.pc = r.tpc ∧ t.hand.status = .running ∧ t.hand.csr = { r with tstatus := t.hand.csr.tstatus } ∧
      (∀ k, t.hand.csr.tstatus.getLsbD k = (r.tstatus.getLsbD k && decide (2 ≤ k))) ∧ t.hand.x = s.hand.x ∧ t.hand.v = s.hand.v ∧
      t.hand.p = s.hand.p ∧ t.hand.loops = s.hand.loops) ∧
    (∀ t, r.hm = true → r.tpc.toNat % 4 = 0 → r.tstatus.getLsbD 1 = true → c.resumeFrame r.tpc Hand.leaveHandler = .ok t →
      exec (.rett f) s = .next t)

/-- R177, R139, R178, R62, R390: halt waits until the hand's earlier work is done and retires it, with its held stores performed, which
may stall for heel room, the wait of a serial wrap counted (R105); a recorded watchpoint stops it first (log 38). yield zeroes the
deficit, gives up the vector unit, clears the vector and predicate registers, and asks for pre-emption when its power is wanted. -/
def endings : Prop :=
  ∀ (f : GF) (s : State), s.goes f.g → s.drains → s.noDudel →
    let c := s.commit
    (s.hand.sched.skipStop = false → s.hand.watched = true → exec (.halt f) s = .next (c.waits .stop)) ∧
    (s.hand.sched.skipStop = true ∨ s.hand.watched = false →
      (c.allDone = false → exec (.halt f) s = .next (c.waits .halt)) ∧
      (∀ fl, c.allDone = true → c.performAllHeld c.hand = .error fl → exec (.halt f) s = .next ((c.heelStall fl).waits .heel)) ∧
      (∀ t, c.allDone = true → c.performAllHeld c.hand = .ok t → srecEn t.hand.csr.srecctl = false →
        let u := t.put (t.hand.stalled (t.hand.ord.serial == 0xFFFF))
        exec (.halt f) s = .next (u.retireHand u.hand))) ∧
    (s.hand.unasked → c.powerWanted = false → ∃ t, exec (.yield f) s = .next t ∧ t = { c.dropGrant with hand := t.hand } ∧
      s.hand.movedOn t.hand 4 ∧ t.hand.sched.deficit = 0 ∧ t.hand.v = [] ∧ (∀ q : Fld5, q ≠ 0 → t.hand.getP q.toNat = 0) ∧
      t.hand.x = s.hand.x ∧ t.hand.csr = s.hand.csr) ∧
    (s.hand.unasked → c.powerWanted = true → ∃ t, exec (.yield f) s = .next t ∧ t.hand.status = .waiting .after ∧
      t.hand.sched.preempt = true)

/-- R139, R336, R105, R59: a hand that retires folds every seat that it holds or has in its inbox, one after the other; its streams are
unbound, its slots free but for a side of a pair, its serial moves on, its pins, links and granted unit are gone; its memory, its
registers and every other hand stay. -/
def retirement : Prop :=
  ∀ (s : State), s.hand.status ≠ .none → s.hand.status ≠ .retired → s.noDudel →
    let h := s.hand
    let t := s.retireHand h
    let gone : Hand := { h with status := .retired }
    t.hand.status = .retired ∧ t.hand.id = retiredId h.task h.id ∧ t.hand.streams = Vector.replicate 4 none ∧ t.hand.inbox = [] ∧
    t.hand.handles = (if s.me.side = .single then [] else h.handles) ∧ t.hand.ord.serial = h.ord.serial + 1 ∧ t.hand.ord.pins = [] ∧
    t.hand.x = h.x ∧ t.hand.v = h.v ∧ t.hand.p = h.p ∧ t.hand.pc = h.pc ∧ t.hand.csr = h.csr ∧ t.hand.task = h.task ∧
    t.others = s.others ∧ s.sameMem t ∧ t.tasks = s.tasks ∧ t.pool = s.pool ∧
    t.seats = ((s.foldsOf gone).foldl (fun u on => u.foldSeat on.1 on.2 gone) s).seats ∧
    t.mem.tags = s.mem.tags.filter (fun kt => kt.2.hand != h.id) ∧
    (rising s.serials = true → mfind t.serials h.id = some (h.ord.serial + 1).toNat) ∧
    (rising s.cores = true → h.status ≠ .saved → (t.core h.core).granted ≠ some h.slot) ∧
    (h.slot < 4 → (∀ k ∈ s.others, k.runsIn h.core h.slot = false ∧ (k.living = true → k.id ≠ 4 * h.core + h.slot)) →
      h.slot ∈ t.freeSlots h.core)

/-- R180, R385, R339: spawn leaves a graph for the pool under the next submission number, and its register empty; a paired hand's is
rejected at once, its number taken (log 35); the pool reads the graph at SPAWN_RESULT, admits it, and fills the register with the number,
or with what failed; it waits while a stack that the graph stands in is coming up (R412). -/
def spawning : Prop :=
  (∀ (f : RegG) (s t : State), s.ready f.g [f.a, f.b, f.d] → s.drains →
    let c := s.commit
    (c.me.side ≠ .single → exec (.spawn f) s = .next ((c.nextSub.1.setX f.d (BitVec.ofNat 64 (2 ^ 63 + 0xFFFF))).retire 4)) ∧
    (c.me.side = .single → c.performAllHeld c.hand = .ok t → ∃ u g, exec (.spawn f) s = .next u ∧ s.hand.movedOn u.hand 4 ∧
      u.pool = { t.pool with submissions := (t.pool.submissions + 1) % 2 ^ 48, graphs := t.pool.graphs ++ [g] } ∧
      g.subno = t.pool.submissions ∧ g.origin = .spawn s.hand.id ∧ g.asid = s.hand.asid ∧ g.addr = (s.hand.getX f.a).toNat ∧
      g.count = (s.hand.getX f.b).toNat ∧ u.hand.x = s.hand.x ∧ u.hand.producers =
        s.hand.producers ++ [⟨if f.d = 0 then .memory else .scalar f.d.toNat, none, some g.subno, [], false, []⟩])) ∧
  (∀ (e id : Nat) (s t : State) (g : Graph), s.poolUp = true → s.pool.graphs.find? (fun g => g.subno == e) = some g →
    g.origin = .spawn id → g.status = none → 0 < g.count → g.count ≤ Config.poolEntries →
    (∀ ns, s.readGraph g = (t, some (.ok ns)) → t.poolRoom ns.length = true → exec (.spawnResult e) s =
      .next ((t.admitGraph { g with nodes := ns, status := some 0 }).modHand id
        (fun h => h.fillSpawn e (BitVec.ofNat 64 (g.subno % 2 ^ 48))))) ∧
    (∀ j st, s.readGraph g = (t, some (.error (j, st))) → exec (.spawnResult e) s =
      .next ((t.dropGraph e).modHand id
        (fun h => h.fillSpawn e (BitVec.ofNat 64 (2 ^ 63 + (if st = 1 then 0 else 2 ^ 62) + j))))) ∧
    (s.readGraph g = (t, none) → exec (.spawnResult e) s = .next s)) ∧
  (∀ (h : Hand) (n r : Nat) (v : Reg64) (p : Producer), h.producers.filter (fun p => p.spawn == some n) = [p] → p.dest = .scalar r →
    (h.fillSpawn n v).x = h.x.setIfInBounds r v ∧
    (h.fillSpawn n v).producers = h.producers.filter (fun p => p.spawn != some n))

/-- R166, R167: rep checks the words of its frame, reads its count and starts the frame, with the words it checked, at its first member; a
count of zero passes the frame over, with the iteration end of its words (log 109); a word that no frame may hold, or a count above
65,535, is REPEAT-FRAME. -/
def repeats : Prop :=
  ∀ (f : RepF) (s t : State),
    let n := f.n1.toNat + 1
    let past : Reg64 := t.hand.pc + BitVec.ofNat 64 (4 * (n + 1))
    (∀ l w, s.frameCheck s.hand.pc n = .ok (t, l, some w) →
      exec (.rep f) s = .next (t.trapped (Trap.mk' .repeatFrame (w.setWidth 64)))) ∧
    (∀ l, s.frameCheck s.hand.pc n = .ok (t, l, none) → t.hand.full f.cnt →
      let k := t.hand.getX f.cnt
      let tr := { Trap.mk' .repeatFrame ((encodeWord (.rep f)).setWidth 64) with tidx0 := k }
      (65535 < k.toNat → exec (.rep f) s = .next (t.trapped tr)) ∧
      (k = 0 → ∃ u, exec (.rep f) s = .next u ∧ t.onlyHand u ∧ u.hand.frame = t.hand.frame ∧ u.hand.x = t.hand.x ∧
        (t.hand.loops = [] → u.hand.pc = past ∧ u.hand.loops = []) ∧
        (∀ e l, t.hand.loops = e :: l →
          let within : Prop := t.hand.pc.toNat ≤ e.stop.toNat ∧ e.stop.toNat < past.toNat
          (¬ within → u.hand.pc = past ∧ u.hand.loops = e :: l) ∧
          (within → (e.index + 1).toNat < e.count.toNat →
            u.hand.pc = e.start ∧ u.hand.loops = { e with index := e.index + 1 } :: l) ∧
          (within → e.count.toNat ≤ (e.index + 1).toNat → (∀ g ∈ l.head?, g.stop ≠ e.stop) →
            u.hand.pc = e.stop + 4 ∧ u.hand.loops = l))) ∧
      (0 < k.toNat → k.toNat ≤ 65535 → ∃ u, exec (.rep f) s = .next u ∧ t.onlyHand u ∧ u.hand.pc = t.hand.pc ∧
        u.hand.frame = some ⟨n, l, k.toNat, f.stag.toNat, f.md == 1, f.ma == 1, f.mb == 1, 0, 0⟩ ∧ u.hand.csr.repidx = 0 ∧
        u.hand.x = t.hand.x ∧ u.hand.v = t.hand.v ∧ u.hand.status = .running))

/-- The SYS instructions: the CSRs, the return from a handler, halt and yield, what a
retirement leaves, spawn, and rep. -/
def Obligations.SystemInstructions : Prop := csrAccesses ∧ returns ∧ endings ∧ retirement ∧ spawning ∧ repeats

/-- R358, R360, R356, R357, R175: TAKING AN EXCEPTION. A trap waits for the status of an earlier spawn, one whose cause is decided once
(EMPTY-READ, GANG-ABORT, UNCORRECTABLE, STRIP-RETRY-EXHAUSTED) as a trap that is due, and an engine's error likewise; a member's is left
for its convoy to take. In the hand: the strip commits, TPC names the instruction (its convoy's head), TCAUSE, TVAL and TIDX the trap,
TSTATUS handler mode and what was protected or in a frame, and the hand goes on at TVEC; no other register changes. Through the system
fault queue: the hand is suspended on a record with the next SEQ, a protected strip rewound; a gang abort there names the checkpointed PC
(R367), and one that the hand itself handles rewinds the strip: TPC the checkpointed PC, TSTATUS.RWD set. trap and brk do it after their
commit point. -/
def Obligations.TakingAnException : Prop :=
  (∀ (s : State) (t : Trap),
    (s.hand.convoy.isSome → s.trapped t = { s with latch := .trapped t }) ∧
    (s.hand.convoy = none → s.hand.spawnless → s.trapped t = { s.take t with latch := .trapped t }) ∧
    let once : Prop := t.cause ∈ [.emptyRead, .gangAbort, .uncorrectable, .stripRetryExhausted]
    (s.hand.convoy = none → ¬ s.hand.spawnless → ¬ once → s.trapped t = s.waits .register) ∧
    (s.hand.convoy = none → ¬ s.hand.spawnless → once → s.trapped t = State.waits { s with hand := { s.hand with sched :=
      { s.hand.sched with due := some t } } } .register)) ∧
  (∀ (s : State) (t : Trap), s.hand.sched.due = some t → s.hand.sched.unrecoverable = none → s.hand.tries = true →
    let c : State := { s with latch := .clear }
    (s.hand.spawnless → s.moveHand =
      State.raises { c with hand := { s.hand with sched := { s.hand.sched with due := none } } } t) ∧
    (¬ s.hand.spawnless → s.moveHand = .next (c.waits .register))) ∧
  (∀ (s : State) (t : Trap), s.hand.sched.unrecoverable = some t → s.hand.tries = true →
    (¬ s.hand.spawnless → s.moveHand = .next (State.waits { s with latch := .clear } .register)) ∧
    (s.hand.spawnless → ∃ u r, s.moveHand = .next u ∧ u.hand.status = .suspended (s.faults.seq + 1) ∧
      u.hand.sched.unrecoverable = none ∧ u.faults.pending = s.faults.pending ++ [r] ∧ r.trap = t ∧ r.hand = s.hand.id)) ∧
  (∀ (s : State) (t : Trap) (c : Checkpoint), t.cause = .gangAbort → s.hand.strip.prot = true → s.hand.strip.ckpt = some c →
    s.hand.csr.tvec ≠ 0 → s.hand.csr.hm = false →
    let u := s.take t
    u.hand.status = .running ∧ u.hand.pc = s.hand.csr.tvec ∧ u.hand.x = c.x ∧ u.hand.v = [] ∧ u.hand.loops = c.loops ∧
    u.hand.frame = none ∧ u.hand.convoy = none ∧ u.hand.strip.prot = false ∧ u.hand.csr.tvec = s.hand.csr.tvec ∧
    u.hand.csr.tpc = addr57 c.pc ∧ u.hand.csr.tcause = BitVec.ofNat 64 (256 * t.sub + t.cause.code) ∧ u.hand.csr.tval = t.tval ∧
    u.hand.csr.tidx0 = t.tidx0 ∧ u.hand.csr.tstatus = 13 ∧
    u.hand.strip.record.rewinds = s.hand.strip.record.rewinds + 1 ∧ u.faults = s.faults) ∧
  (∀ (s : State) (t : Trap), s.drains → t.cause ≠ .uncorrectable → t.cause.toSystem = false → s.hand.csr.tvec ≠ 0 → s.hand.csr.hm = false →
    (t.cause = .gangAbort → s.hand.strip.prot = false) →
    let h := s.hand
    let u := s.take t
    u.hand.status = .running ∧ u.hand.pc = h.csr.tvec ∧ u.hand.frame = none ∧ u.hand.convoy = none ∧ u.hand.strip.prot = false ∧
    u.hand.csr = { h.csr with
      tpc := addr57 (h.convoy.getD h.pc), tcause := BitVec.ofNat 64 (256 * t.sub + t.cause.code), tval := t.tval
      tidx0 := t.tidx0, tidx1 := t.tidx1, tidx2 := t.tidx2
      tstatus := BitVec.ofNat 64 ((if h.strip.prot then 4 else 0) + (if h.frame.isSome then 2 else 0) + 1) } ∧
    u.hand.x = h.x ∧ u.hand.v = h.v ∧ u.hand.p = h.p ∧ u.hand.loops = h.loops ∧ u.hand.producers = h.producers.filter (·.spawn.isSome) ∧
    u.hand.streams = h.streams ∧ u.hand.lq = h.lq ∧ u.hand.handles = h.handles ∧ u.mem = s.commit.mem ∧
    u.others = s.commit.others) ∧
  (∀ (s : State) (t : Trap), t.cause ≠ .uncorrectable → t.cause.toSystem = true ∨ s.hand.csr.tvec = 0 ∨ s.hand.csr.hm = true →
    let h := s.hand
    let u := s.take t
    let n := s.faults.seq + 1
    let at' := if t.cause = .gangAbort ∧ h.strip.prot then (h.strip.ckpt.map (·.pc)).getD h.pc else h.convoy.getD h.pc
    u.hand.status = .suspended n ∧ u.faults.seq = n ∧ u.faults.pending = s.faults.pending ++
      [⟨t, 1 + (if h.strip.prot then 6 else 0) + (if h.frame.isSome then 8 else 0), h.id, h.asid, n, h.taskid, at',
        h.csr.stripno⟩] ∧
    (h.strip.prot = false → u.hand.pc = h.pc ∧ u.hand.x = h.x ∧ u.hand.v = h.v ∧ u.hand.p = h.p ∧ u.hand.csr = h.csr ∧
      u.hand.frame = h.frame) ∧
    (∀ c, h.strip.prot = true → h.strip.ckpt = some c → u.hand.pc = c.pc ∧ u.hand.x = c.x)) ∧
  (∀ (f : CodeG) (s : State), s.goes f.g → s.drains →
    s.trapsAfter (.trap f) (Trap.mk' .softwareTrap (f.b.setWidth 64)) ∧
    s.trapsAfter (.brk f) (Trap.mk' .breakpoint (f.b.setWidth 64)))

/-- R148, R312, R362, R363, R261, R269: a rewind brings the checkpoint back: scalar registers, streams with nothing read ahead, loops,
queues, the strip's CSRs, what the hand's loads may see, and the PC; v0 to v31 are zero, p1 to p31 clear, nothing the strip buffered is
stored, each slot that it changed is as it was, and the link serial moves on. An uncorrectable error that a protected strip retries (Table
3.6), or a disagreement of the shifted check, rewinds it and counts a retry: at the third the hand migrates first, at the fourth
STRIP-RETRY-EXHAUSTED goes to the system fault queue. Any other uncorrectable error goes there at once. -/
def Obligations.StripRewinds : Prop :=
  (∀ (s : State) (c : Checkpoint), s.hand.strip.ckpt = some c →
    let h := s.hand
    let u := s.rewind.hand
    u.x = c.x ∧ u.pc = c.pc ∧ u.loops = c.loops ∧ u.lq = c.lq ∧ u.streams = c.streams.map (Option.map Stream.afresh) ∧
    u.ord.fences = h.strip.sight.fences ∧ u.csr.vl = c.vl ∧ u.csr.sew = c.sew ∧
    u.csr.grp = c.grp ∧ u.csr.vprof = c.vprof ∧ u.csr.stripno = c.stripno ∧ u.csr.orun = c.orun ∧ u.csr.onext = c.onext ∧
    u.csr.fstat = c.fstat ∧ u.csr.xidx = c.xidx ∧ u.csr.fz = c.fz ∧ u.csr.fh = c.fh ∧ u.dealer = restoreShifts h.dealer c.shifts ∧
    u.csr.tvec = h.csr.tvec ∧ u.v = [] ∧
    (∀ q : Fld5, q ≠ 0 → u.getP q.toNat = 0) ∧ u.frame = none ∧ u.producers = [] ∧ u.strip.ssb = h.strip.ssb.filter (·.held) ∧
    (∀ k y, mfind c.handles k = some y →
      mfind u.handles k = some ((mfind h.strip.undo k).getD ((mfind h.handles k).getD y))) ∧
    (∀ k, mfind c.handles k = none → mfind u.handles k = none) ∧
    u.ord.serial = h.ord.serial + 1 ∧ u.strip.prot = h.strip.prot ∧ u.strip.record.rewinds = h.strip.record.rewinds + 1 ∧
    s.rewind.mem.live = s.mem.live ∧ s.rewind.mem.pub = s.mem.pub ∧ s.rewind.mem.ticket = s.mem.ticket) ∧
  (∀ (s : State) (c : Checkpoint) (t : Trap), s.hand.strip.prot = true → s.hand.strip.ckpt = some c → t.cause = .uncorrectable →
    t.retries = true →
    let n := s.hand.strip.retries + 1
    let u := s.take t
    (n < 4 → u.hand.strip.retries = n ∧ u.hand.pc = c.pc ∧ u.hand.x = c.x ∧ u.faults = s.faults ∧
      u.hand.status = (if n = 3 then .waiting .rewound else .running) ∧ (n = 3 → u.hand.sched.migrate = true)) ∧
    (4 ≤ n → u.hand.status = .suspended (s.faults.seq + 1) ∧ ∃ r ∈ u.faults.pending, r.trap.cause = .stripRetryExhausted ∧
      r.trap.tval = c.pc ∧ r.seq = s.faults.seq + 1 ∧ r.hand = s.hand.id)) ∧
  (∀ (s : State) (t : Trap), t.cause = .uncorrectable → s.hand.strip.prot = false ∨ t.retries = false →
    let u := s.take t
    u.hand.status = .suspended (s.faults.seq + 1) ∧ u.hand.strip.retries = s.hand.strip.retries ∧
    ∃ r ∈ u.faults.pending, r.trap = t ∧ r.seq = s.faults.seq + 1 ∧ r.hand = s.hand.id ∧
      r.flags % 2 = (if s.hand.strip.prot then 1 else 0)) ∧
  (∀ (s : State) (c : Checkpoint) (lane : Nat) (maj : Bool) (l : List (Nat × Bool)), s.hand.sched.mismatches = (lane, maj) :: l →
    s.hand.strip.ckpt = some c →
    (s.hand.strip.prot = true → s.hand.strip.retries < 3 → ∃ u, s.shiftedCheck = .error (.rewound u) ∧ u.hand.pc = c.pc ∧
      u.hand.x = c.x ∧ u.hand.strip.retries = s.hand.strip.retries + 1 ∧
      u.hand.csr.mismatch = min 0xFFFF (s.hand.csr.mismatch + 1) ∧ u.hand.sched.mismatches = l) ∧
    (s.hand.strip.prot = false → maj = true → ∃ u, s.shiftedCheck = .ok u ∧ u.hand.sched.mismatches = l ∧ u.hand.x = s.hand.x))

/-! ## The pool -/

/-- R338 to R340, R412, Table 17.2: the pool reads a queue's next record under the next submission number, once no stack that its graph
stands in is coming up; a record or a graph that fails is answered by a status record, a graph that passes waits at the head of its queue;
the first waiting head that finds room is admitted whole, its nodes in ascending number and ready when they have no predecessor. -/
def submission : Prop :=
  (∀ (q : Nat) (s t : State), 2 ≤ q → q ≤ 65 → s.poolUp = true → s.boot = .running →
    let k := s.queue q
    let r := s.mem.pub.bytes (k.rbase + 32 * (k.accepted % 2 ^ k.log2n)) 32
    let n := s.pool.submissions
    let u := ((s.uses k.recordSlot 32).nextSub.1).modQueue q (fun k => { k with accepted := k.accepted + 1, gang := [] })
    let g := (graphOf r q k n).1
    k.en = true → k.accepted < k.tail → s.pool.graphs.any (fun g => g.ofQueue q) = false →
    (s.memUp k.recordSlot 32 ≠ some true ∨ s.statusLater q = true → exec (.submissionRecord q) s = .next s) ∧
    (s.memUp k.recordSlot 32 = some true → s.statusLater q = false →
    ((graphOf r q k n).2 = true → exec (.submissionRecord q) s = .next (u.postStatus q n 3 0xFFFF)) ∧
    (∀ j st, (graphOf r q k n).2 = false → u.readGraph g = (t, some (.error (j, st))) →
      exec (.submissionRecord q) s = .next (t.postStatus q n st j)) ∧
    ((graphOf r q k n).2 = false → u.readGraph g = (t, none) → exec (.submissionRecord q) s = .next s) ∧
    (∀ ns, (graphOf r q k n).2 = false → u.readGraph g = (t, some (.ok ns)) → exec (.submissionRecord q) s =
      .next { t with pool := { t.pool with graphs := t.pool.graphs ++ [{ g with nodes := ns, status := some 0 }] } }))) ∧
  (∀ (s : State) (q n st j : Nat), Mem.wf s.mem.pub = true → s.memUp (s.queue q).statusSlot 16 = some true →
    (s.postStatus q n st j).mem.pub.bytes ((s.queue q).sbase + 16 * ((s.queue q).statused % 2 ^ (s.queue q).log2n)) 16 =
      leBytes 6 n ++ [BitVec.ofNat 8 st, 0] ++ leBytes 2 j ++ leBytes 6 0) ∧
  (∀ (s : State) (q : Nat) (g : Graph), s.poolUp = true →
    (serveOrder s.pool.lastQueue).findSome? (fun q => (s.pool.graphs.find? (fun g => g.ofQueue q && g.status.isSome &&
      s.poolRoom g.nodes.length && !s.statusLater q)).map (fun g => (q, g))) = some (q, g) →
    ∃ (t : State) (l : List Node), exec .graphAdmit s = .next t ∧ t.pool.lastQueue = q ∧
      t.pool.graphs = s.pool.graphs.filter (fun x => x.subno != g.subno) ∧ t.pool.nodes = s.pool.nodes ++ l ∧
      l.length = g.nodes.length ∧ t.pool.nodeSeq = s.pool.nodeSeq + g.nodes.length ∧
      (∀ j r, g.nodes[j]? = some r → ∃ n, l[j]? = some n ∧ n.nseq = s.pool.nodeSeq + 1 + j ∧ n.record = r ∧ n.subno = g.subno ∧
        n.index = j ∧ n.preds = r.preds ∧ n.asid = g.asid ∧ n.state = (if r.preds = 0 then .ready else .waiting)))

/-- R134, R343, Table 7.4: the selected node starts: a class 1 node on its system core, a node of hands with HANDS new hands on each
of its cores, at its entry, with X1 to X8 and VPROF of its record. -/
def dispatching : Prop :=
  ∀ (s : State) (n : Node) (a : List Nat), s.poolUp = true → s.noDudel →
    (∀ m ∈ s.pool.nodes, ∀ cs, m.state ≠ .filling cs []) → s.select = some (n, a, []) → n.record.tiles = [] →
    (n.record.cls = 1 → ∃ t, exec .nodeDispatch s = .next t ∧ t.pool.threads = s.pool.threads ++ [n.thread (a.headD 0)] ∧
      (∀ m ∈ t.pool.nodes, m.nseq = n.nseq → m.state = .running ∧ m.cores = a)) ∧
    (n.record.cls = 0 → n.paired = false → (∀ c ∈ a, n.record.hands ≤ (s.freeSlots c).length) → n.record.xs.length = 8 →
      ∃ (t : State) (hs : List Hand), exec .nodeDispatch s = .next t ∧ t.others = s.others ++ hs ∧ t.hand = s.hand ∧
        hs.length = a.length * n.record.hands ∧
        (∀ m ∈ t.pool.nodes, m.nseq = n.nseq → m.state = .running ∧ m.task = s.pool.taskSeq) ∧
        (∀ h ∈ hs, h.status = .running ∧ h.pc = n.record.entry ∧ h.task = s.pool.taskSeq ∧ h.asid = n.asid ∧
          h.taskid = n.taskid ∧ h.core ∈ a ∧ h.id = 4 * h.core + h.slot ∧ h.csr.vprof = n.record.vprof ∧ h.csr.stripno = 0 ∧
          h.csr.tvec = 0 ∧ h.v = [] ∧ h.loops = [] ∧
          (∀ i, i < 8 → h.getX (BitVec.ofNat 5 (i + 1)) = n.record.xs.getD i 0) ∧
          (∀ i, 9 ≤ i → i < 32 → h.getX (BitVec.ofNat 5 i) = 0)))

/-- R384, R134: a paired node of hands starts on both sides at once: side A's hands, of one task, on its cores, side B's, of another, on
theirs, each side with HANDS new hands on each core. -/
def pairedDispatch : Prop :=
  ∀ (s : State) (n : Node) (a b : List Nat), s.poolUp = true → s.noDudel →
    (∀ m ∈ s.pool.nodes, ∀ cs, m.state ≠ .filling cs []) → s.select = some (n, a, b) → n.record.tiles = [] → n.record.cls = 0 →
    n.paired = true → (∀ c ∈ a ++ b, n.record.hands ≤ (s.freeSlots c).length) → (∀ c ∈ a, c ∉ b) →
    (∀ k ∈ s.tasks, k.id < s.pool.taskSeq) →
    let ta := s.pool.taskSeq
    let tb := s.pool.taskSeq + 1
    ∃ (t : State) (ha hb : List Hand), exec .nodeDispatch s = .next t ∧ t.others = s.others ++ ha ++ hb ∧ t.hand = s.hand ∧
      ha.length = a.length * n.record.hands ∧ hb.length = b.length * n.record.hands ∧
      (∀ m ∈ t.pool.nodes, m.nseq = n.nseq → m.state = .running ∧ m.task = ta ∧ m.taskB = tb ∧ m.cores = a ∧ m.coresB = b) ∧
      (t.taskOf ta).map (·.side) = some .a ∧ (t.taskOf tb).map (·.side) = some .b ∧
      (∀ h ∈ ha, h.task = ta ∧ h.core ∈ a) ∧ (∀ h ∈ hb, h.task = tb ∧ h.core ∈ b) ∧
      ∀ h ∈ ha ++ hb, h.status = .running ∧ h.pc = n.record.entry ∧ h.id = 4 * h.core + h.slot ∧ h.asid = n.asid ∧ h.taskid = n.taskid

/-- R135, R140: a node that fails is gone, none of its successors has one predecessor fewer, its event names the cause and the node, its
completion word has bit 63 and the completion number, its declared tiles are EMPTY and their fills taken back; it stands while its
completion word cannot be written yet (R412). -/
def nodeFailure : Prop :=
  ∀ (s : State) (n : Node) (c : Cause),
    (s.doneLater n = true → s.failNode n c = s) ∧
    (s.doneLater n = false →
      let u := s.failNode n c
      let cs := n.cores ++ n.coresB
      let before := (((s.emptyTiles n cs).postEvent c (BitVec.ofNat 64 n.index) 0 0 n.taskid).nextDone).1
      u.pool.nodes = s.pool.nodes.filter (fun m => m.nseq != n.nseq) ∧ u.pool.completions = s.pool.completions + 1 ∧
      u.hand = s.hand ∧ u.others = s.others ∧
      (∃ r, r.trap.cause = c ∧ r.trap.tval = BitVec.ofNat 64 n.index ∧ r.taskid = n.taskid ∧ r.seq = s.faults.seq + 1 ∧
        ((s.queue 1).en = false → r ∈ u.faults.waiting)) ∧
      (∀ k t, n.record.done ≠ 0 → n.record.done % 8 = 0 →
        before.xlate (poolAgent n.asid n.sys) (.record true) n.record.done = .ok (t, .plain k false) → Mem.wf t.mem.pub = true →
        u.mem.pub.bytes k 8 = leBytes 8 (2 ^ 63 + s.pool.completions % 2 ^ 63)) ∧
      u.copies = s.copies.filter (fun d => !(d.kind == .fill && cs.contains d.core && n.record.tiles.any (fun t => t.tile == d.tile))) ∧
      (rising s.cores = true → (∀ k, rising (s.core k).tiles = true) → ∀ k i,
        u.tile k i = if k ∈ cs ∧ n.record.tiles.any (fun t => t.tile == i) then { s.tile k i with state := 0 } else s.tile k i))

/-- R133, R135: a declared fill that has ended well leaves its node one fill fewer to wait for; one that failed fails the node, with
the cause that the model's log 32 reads from its status, once its completion word can be written (R412). -/
def fills : Prop :=
  ∀ (e : PairEv) (s : State) (c : Copy) (n : Node) (cs : List Nat) (l : List (Nat × Nat)),
    s.copyOf (fillHand e.a) e.b = some c → (s.dropCopy c).copyOf (fillHand e.a) e.b = none → s.pool.nodes.find? (fun n => match n.state with
      | .filling _ l => l.contains (e.a, e.b)
      | _ => false) = some n → n.state = .filling cs l →
    (c.status = none → c.vol ≤ c.pos → exec (.declaredFill e) s = .next ((s.dropCopy c).setNode
      { n with state := .filling cs (l.filter (fun x => x != (e.a, e.b))) })) ∧
    (∀ st, c.status = some st → (s.dropCopy c).doneLater n = false →
      exec (.declaredFill e) s = .next ((s.dropCopy c).failNode n (statusCause st)))

/-- R99, R140, R395, R367, R412: a node completes when its hands have retired, its thread returns through ra or calls the runtime's exit,
or its gang aborted before it had hands (log 91), once DONE can be written: its task is published, but for bytes that tile deliveries alone
wrote; the completion counter moves on and DONE has the number, and each successor has one predecessor fewer for every edge, ready at
none. -/
def completion : Prop :=
  (∀ (e : Nat) (s : State) (n : Node) (k : Task), s.nodeOf e = some n → n.state = .running → n.record.cls = 0 → n.paired = false →
    s.taskOver n.task = true → s.doneLater n = false → s.taskOf n.task = some k →
      exec (.nodeComplete e) s = .next ((s.publishTask k).completeNode n)) ∧
  (∀ (e : Nat) (s : State) (n : Node), s.nodeOf e = some n → n.state = .done → n.preds = 0 → s.doneLater n = false →
    exec (.nodeComplete e) s = .next (s.completeNode n)) ∧
  (∀ (c : Nat) (s : State) (th : Thread) (n : Node), s.pod.halted = false → s.pool.threads.find? (fun t => t.core == c) = some th →
    s.nodeOf th.node = some n → s.doneLater n = false →
    (th.pc = Config.exitStub ∨ th.pc = Config.runtimeExit → exec (.systemThreadExit c) s = .next (State.completeNode
      { s with pool := { s.pool with threads := s.pool.threads.filter (fun x => x.core != c) } } n)) ∧
    (th.pc ≠ Config.exitStub → th.pc ≠ Config.runtimeExit → exec (.systemThreadExit c) s = .next s)) ∧
  (∀ (e : Nat) (s : State) (n : Node), s.nodeOf e = some n → s.doneLater n = true → exec (.nodeComplete e) s = .next s) ∧
  (∀ (s : State) (k : Task) (key : Nat) (w : Wr), Mem.wf s.mem.pub = true →
    survivor (k.log.filter (fun w => w.key == key && w.perf != 0)) = some w →
    ((∃ v ∈ k.log, v.key = key ∧ v.perf ≠ 0 ∧ v.tile = false) → (s.publishTask k).mem.pub.get key = w.val) ∧
    ((∀ v ∈ k.log, v.key = key → v.perf ≠ 0 → v.tile = true) → (s.publishTask k).mem.pub.get key = s.mem.pub.get key)) ∧
  (∀ (s : State) (n : Node),
    let u := s.completeNode n
    u.pool.completions = s.pool.completions + 1 ∧ (∀ m ∈ u.pool.nodes, m.nseq ≠ n.nseq) ∧
    (∀ m ∈ s.pool.nodes, m.nseq ≠ n.nseq →
      let edges := if m.subno = n.subno then n.record.succ.countP (fun j => j == m.index) else 0
      ∃ x ∈ u.pool.nodes, x.nseq = m.nseq ∧ x.record = m.record ∧ x.preds = m.preds - edges ∧
        x.state = (if m.state = .waiting ∧ 0 < edges ∧ m.preds ≤ edges then .ready else m.state)) ∧
    (∀ k t, n.record.done ≠ 0 → n.record.done % 8 = 0 →
      (s.nextDone.1).xlate (poolAgent n.asid n.sys) (.record true) n.record.done = .ok (t, .plain k false) →
      Mem.wf t.mem.pub = true → u.mem.pub.bytes k 8 = leBytes 8 (BitVec.ofNat 64 s.pool.completions).toNat))

/-- R387: a paired node whose two sides have ended is committed when their signatures agree; when they do not, it is dispatched again
once, and the second time it ends as failed. -/
def pairing : Prop :=
  ∀ (e : Nat) (s : State) (n : Node), s.nodeOf e = some n → n.state = .running → n.paired = true → n.record.cls = 0 →
    s.taskOver n.task = true →
    s.taskOver n.taskB = true → s.doneLater n = false →
    let same : Prop := s.signature n.asid n.task false = s.signature n.asid n.taskB true
    ∃ t, exec (.pairCommit e) s = .next t ∧
      (same → (∀ m ∈ t.pool.nodes, m.nseq ≠ e) ∧ t.pool.completions = s.pool.completions + 1) ∧
      (¬ same → n.mismatches = 0 → t.pool.completions = s.pool.completions ∧ ∃ m ∈ t.pool.nodes, m.nseq = e ∧ m.state = .ready ∧
        m.mismatches = 1 ∧ m.record = n.record) ∧
      (¬ same → n.mismatches ≠ 0 → (∀ m ∈ t.pool.nodes, m.nseq ≠ e) ∧ t.pool.completions = s.pool.completions + 1)

/-- The ready pool: R131 to R140, R338 to R343, R384, R387. -/
def Obligations.PoolRunsGraphs : Prop := submission ∧ dispatching ∧ pairedDispatch ∧ fills ∧ nodeFailure ∧ completion ∧ pairing

/-- R345, R150, R364, R365, R353, R363: the victim of a blocked node is asked to give way; a request lands at a point of Table 7.10, the
strip committed, or rewound where the point is inside it (a buffer that would drain and no longer decodes makes it retry first); then the
context stands in the region of its ASID and the slot is free; a saved hand that need not stand aside for a ready node of higher priority
(log 77) resumes on another slot, its registers as they were (they stand in the model's State, log 44), its streams with nothing read
ahead. A hand at its limit of cycles is suspended on a WATCHDOG record, one that another record has suspended too (log 48); a core that
failed takes hands again once it is cleared. -/
def Obligations.PreemptionAndWatchdogs : Prop :=
  (∀ (e : PairEv) (s : State) (n v : Node), s.nodeOf e.a = some n → n.state = .ready → n.record.cls ≠ 1 → s.place n none = none →
    s.victimFor n = some v → v.nseq = e.b →
    let ask (h : Hand) : Hand := if (h.task = v.task ∨ h.task = v.taskB) ∧ h.living = true ∧ h.status ≠ .saved then
      { h with sched := { h.sched with preempt := true } } else h
    exec (.preemptionRequest e) s = .next { s with hand := ask s.hand, others := s.others.map ask }) ∧
  (∀ (s : State) (w : Wait), s.hand.status = .waiting w → s.hand.sched.preempt = true → s.hand.lands w = true →
    srecEn s.hand.csr.srecctl = false → s.drains →
    let h := s.hand
    let inside : Prop := w = .point ∨ w = .tileGate
    ∃ t, exec (.preemptionLanding h.id) s = .next t ∧
      t.hand.status = .waiting (.save (if w = .phend then (if h.arrived.isSome then 2 else 1)
        else if w = .seatw ∨ w = .seatin ∨ w = .twait ∨ w = .live then 1 else 0)) ∧
      (¬ inside → t.hand.pc = h.pc ∧ t.hand.x = h.x ∧ (w ≠ .rewound → t.hand.strip.prot = false)) ∧
      (∀ c, inside → h.strip.prot = true → h.strip.ckpt = some c → t.hand.pc = c.pc ∧ t.hand.x = c.x)) ∧
  (∀ (s : State) (w : Wait) (tr : Trap), s.hand.status = .waiting w → s.hand.sched.preempt = true → s.hand.lands w = true →
    w ≠ .point → w ≠ .tileGate → w ≠ .rewound → s.badDrain = some tr →
    exec (.preemptionLanding s.hand.id) s = .next ((s.countBad tr).retried)) ∧
  (∀ (s : State) (r : Nat) (g : Region) (a : Nat), s.hand.status = .waiting (.save r) → s.saveReady = true → s.hand.jobs = [] →
    mfind s.regions s.hand.asid.toNat = some g → g.fit s.hand.areaLength = some a → s.memUp a s.hand.areaLength = some true →
    s.hand.sched.unrecoverable = none →
    let h := s.hand
    ∃ t n, exec (.preemptionLanding h.id) s = .next t ∧ t.hand.status = .saved ∧ t.hand.sched.savedArea = some (a, n) ∧
      t.hand.sched.preempt = false ∧ (mfind t.regions h.asid.toNat).map (·.areas) = some (g.areas ++ [(a, n)]) ∧
      t.hand.pc = h.pc ∧ t.hand.x = h.x ∧ t.hand.loops = h.loops ∧ t.hand.csr = { h.csr with cyc := t.hand.csr.cyc } ∧
      t.hand.streams = h.streams.map (Option.map Stream.afresh) ∧ t.hand.ord.serial = h.ord.serial + 1) ∧
  (∀ (s : State) (c sl : Nat), s.hand.status = .saved → s.poolUp = true → s.standsAside s.hand = false →
    s.resumeAt s.hand = some (c, sl) →
    let h := s.hand
    ∃ t, exec (.handResume h.id) s = .next t ∧ t.hand.status = .running ∧ t.hand.core = c ∧ t.hand.slot = sl ∧ t.hand.id = h.id ∧
      t.hand.pc = h.pc ∧ t.hand.x = h.x ∧ t.hand.loops = h.loops ∧ t.hand.streams = h.streams.map (Option.map Stream.afresh) ∧
        t.hand.handles = h.handles ∧
      t.hand.jobs.map (·.word) = h.jobs.map (·.word) ∧ t.hand.sched.savedArea = none ∧ t.hand.ord.serial = h.ord.serial + 1) ∧
  (∀ (s : State) (n : Reg64), s.dogRuns s.hand = true → s.hand.csr.wdog ≠ 0 → s.hand.csr.wdog.toNat ≤ n.toNat →
    s.hand.csr.cyc.toNat ≤ n.toNat → ∃ t r, exec (.watchdog ⟨s.hand.id, n⟩) s = .next t ∧
      t.hand.status = .suspended (s.faults.seq + 1) ∧ t.hand.csr.cyc = n ∧ t.faults.pending = s.faults.pending ++ [r] ∧
      r.trap = Trap.mk' .watchdog n ∧ r.hand = s.hand.id) ∧
  (∀ (k : Nat) (s : State), ∃ t, exec (.failingCoreClear k) s = .next t ∧ t = { s with cores := t.cores } ∧
    (rising s.cores = true → t.core k = { s.core k with excluded := false } ∧ ∀ j, j ≠ k → t.core j = s.core j))

/-! ## The host -/

/-- R401: a control record of the ring whose SEQ is the next and whose reserved bytes are zero is done, and a status record written;
another SEQ is STATUS 3, and the expected one stays (log 52); an OPC that Table 23.3 lacks or a nonzero reserved byte STATUS 1; an unknown
action or debug function STATUS 2; without effect. -/
def controlRecords : Prop :=
  (∀ (s : State) (opc : Nat) (c : Ctl) (body : State → State × Option Nat), s.offers opc c = true → opcKnown opc = true →
    (c.seq ≠ s.ctlSeq + 1 → s.control opc c body =
      ((s.uses (s.queue 0).slot64 64).modQueue 0 (fun k => { k with accepted := k.accepted + 1 })).ctlStatus c.seq 3 0) ∧
    (c.seq = s.ctlSeq + 1 → c.resv = true → s.control opc c body = (s.begun c).ctlStatus c.seq 1 0) ∧
    (c.seq = s.ctlSeq + 1 → c.resv = false → c.unknown = true → opc = 6 ∨ opc = 9 →
      s.control opc c body = (s.begun c).ctlStatus c.seq 2 0)) ∧
  (∀ (s : State) (opc : Nat) (c : Ctl) (body : State → State × Option Nat), s.ctlReady = true → opcKnown s.ctlOpc = false →
    s.ctlSeqOf = s.ctlSeq + 1 → s.control opc c body = State.ctlStatus
      { (s.uses (s.queue 0).slot64 64).modQueue 0 (fun k => { k with accepted := k.accepted + 1 }) with ctlSeq :=
        s.ctlSeqOf } s.ctlSeqOf 1 0) ∧
  (∀ (s : State) (seq : Reg64) (st r : Nat), Mem.wf s.mem.pub = true → s.memUp (s.queue 0).statusSlot 16 = some true →
    let k := s.queue 0
    let u := s.ctlStatus seq st r
    u.mem.pub.bytes (k.sbase + 16 * (k.statused % 2 ^ k.log2n)) 16 = leBytes 8 seq.toNat ++ [BitVec.ofNat 8 st] ++ leBytes 7 r ∧
    (rising s.queues = true → (u.queue 0).statused = k.statused + 1))

/-- R30, R39, R364, R324, R351, R367: ASID-LOAD, which drops cached translations (log 51) and reads the descriptor live, a bad ROOT
rejected (log 86), and INVALIDATE; both wait for stores that a dropped translation placed; CTX-REGION and DUDEL-REGION (logs 55, 69),
OBJ-OWNER, SET-FLIM, SET-TIMEOUT. -/
def limitsAndRegions : Prop :=
  (∀ (e : CtlArg) (s : State), s.accepts 1 e.c →
    let sound : Prop := e.v.toNat % 1024 = 0 ∧ s.memUp e.v.toNat 1024 = some true
    let l := s.mem.live.bytes e.v.toNat 1024
    (e.v.toNat % 1024 = 0 → s.memUp e.v.toNat 1024 = none → exec (.asidLoad e) s = .next s) ∧
    (∀ a d, sound → asidDesc l = some (a, d) →
      (s.lingering (BitVec.ofNat 16 a) (fun _ => true) = true → exec (.asidLoad e) s = .next s) ∧
      (s.lingering (BitVec.ofNat 16 a) (fun _ => true) = false → s.obeys (.asidLoad e) e.c (fun s =>
        { s.uses e.v.toNat 1024 with asids := mins s.asids a d, cached := s.cached.filter (fun c => c.asid.toNat != a) }))) ∧
    (e.v.toNat % 1024 ≠ 0 ∨ s.memUp e.v.toNat 1024 = some false ∨ (sound ∧ asidDesc l = none) →
      s.declines (.asidLoad e) e.c 2)) ∧
  (∀ (e : InvF) (s : State), s.accepts 2 e.c → s.lingering e.asid (invTakes e) = true → exec (.invalidate e) s = .next s) ∧
  (∀ (e : InvF) (s : State), s.accepts 2 e.c → s.lingering e.asid (invTakes e) = false →
    (e.whole = true → s.obeys (.invalidate e) e.c (fun s => { s with cached := s.cached.filter (fun c => c.asid != e.asid) })) ∧
    (e.whole = false → e.base.toNat < e.limit.toNat → e.limit.toNat ≤ 2 ^ 57 → s.obeys (.invalidate e) e.c (fun s =>
      { s with cached := s.cached.filter (fun c => c.asid != e.asid || decide (4096 * (c.page + 1) ≤ e.base.toNat) ||
        decide (e.limit.toNat ≤ 4096 * c.page)) }))) ∧
  (∀ (e : RegionF) (s : State),
    (s.accepts 3 e.c →
      (regionOk e.base.toNat e.size.toNat = true → s.obeys (.ctxRegion e) e.c (fun s => { s with
        regions := mins s.regions e.asid.toNat ⟨e.base.toNat, e.size.toNat, ((mfind s.regions e.asid.toNat).map (·.areas)).getD []⟩ })) ∧
      (regionOk e.base.toNat e.size.toNat = false → s.declines (.ctxRegion e) e.c 2)) ∧
    (s.accepts 10 e.c →
      (regionOk e.base.toNat e.size.toNat = true → s.obeys (.dudelRegion e) e.c (fun s =>
        { s with dudel := { s.dudel with next := some (e.base.toNat, e.size.toNat) } })) ∧
      (regionOk e.base.toNat e.size.toNat = false → s.declines (.dudelRegion e) e.c 2))) ∧
  (∀ (e : OwnerF) (s : State), s.accepts 4 e.c → e.first ≤ e.last → e.last < 24576 →
    (∀ i, e.first ≤ i → i ≤ e.last → (s.seatObj i).queue = []) → rising s.seats = true →
    ∃ t, exec (.objOwner e) s = .next t ∧ (∀ i, e.first ≤ i → i ≤ e.last → t.seatObj i = ⟨e.asid, (s.seatObj i).next, []⟩) ∧
      ∀ i, i < e.first ∨ e.last < i → t.seatObj i = s.seatObj i) ∧
  (∀ (e : Ctl2) (s : State), s.accepts 7 e.c → 2 ^ 16 ≤ e.a → e.a ≤ 2 ^ 40 → 2 ^ 16 ≤ e.b → e.b ≤ 2 ^ 40 →
    s.obeys (.setTimeout e) e.c (fun s => { s with pod := { s.pod with launchTimeout := e.a, reduceTimeout := e.b } })) ∧
  (∀ (e : Ctl2) (s : State), s.accepts 5 e.c →
    let limit (f : Nat) : Nat := if f = e.a then e.b else (s.field f).flimNext.getD (s.field f).flim
    let total := limit 0 + limit 1 + limit 2 + limit 3 + limit 4 + limit 5
    (e.a < 6 → 100000 ≤ e.b → total ≤ 6000000 →
      s.obeys (.setFlim e) e.c (fun s => s.modField e.a (fun f => { f with flimNext := some e.b }))) ∧
    (e.b < 100000 ∨ 6000000 < total → s.declines (.setFlim e) e.c 2))

/-- R361, R354, R353, R412, Tables 18.3 and 7.11: RESUME lets a suspended hand run on, or wait for its save if a request had landed,
unless its record forbids it; FORWARD delivers the record in the hand, but not a watchdog's that is not resumable; CANCEL ends its task; a
SEQ that awaits no answer is STATUS 4. CANCEL-GRAPH ends every node of a submission. Neither while a completion word's stack comes up. -/
def resolving : Prop :=
  (∀ (e : CtlArg) (s : State), s.accepts 6 e.c →
    let n := e.v.toNat
    (s.awaiting n = none → s.declines (.resume e) e.c 4 ∧ s.declines (.forward e) e.c 4 ∧ s.declines (.cancel e) e.c 4) ∧
    (∀ r h, s.awaiting n = some (r, h) →
      (r.flags % 2 = 0 → s.declines (.resume e) e.c 4) ∧
      (r.flags % 2 = 1 → s.obeys (.resume e) e.c (fun s => (s.answered n).modHand h.id (fun h =>
        { h with
          status := match h.sched.landed with
            | some r => .waiting (.save r)
            | none => .running
          frame := h.frame.map (fun _ => h.frameAgain) }))) ∧
      (r.flags % 2 = 0 → r.trap.cause = .watchdog → s.declines (.forward e) e.c 4) ∧
      (r.flags % 2 = 1 ∨ r.trap.cause ≠ .watchdog →
        s.obeys (.forward e) e.c (fun s => (s.answered n).asHand h.id (fun s => s.forward r))) ∧
      ((∀ m ∈ s.pool.nodes, m.state = .running → m.task = h.task ∨ m.taskB = h.task → s.doneLater m = false) →
        s.obeys (.cancel e) e.c (fun s => (s.answered n).cancelOf h.task)))) ∧
  (∀ (s : State) (r : FaultRec), s.hand.csr.tvec ≠ 0 → s.hand.csr.hm = false →
    let u := s.forward r
    u.hand.status = .running ∧ u.hand.pc = s.hand.csr.tvec ∧ u.hand.csr.tpc = addr57 s.hand.pc ∧ u.hand.csr.tval = r.trap.tval ∧
    u.hand.csr.tcause = BitVec.ofNat 64 (256 * r.trap.sub + r.trap.cause.code) ∧ u.hand.csr.hm = true ∧ u.hand.x = s.hand.x) ∧
  (∀ (e : CtlArg) (s : State), s.accepts 8 e.c →
    let n := e.v.toNat
    (∀ m ∈ s.pool.nodes, m.subno ≠ n) → (∀ g ∈ s.pool.graphs, g.subno = n → g.status = none) →
    s.declines (.cancelGraph e) e.c 2) ∧
  (∀ (e : CtlArg) (s : State) (m : Node), s.accepts 8 e.c → m ∈ s.pool.nodes → m.subno = e.v.toNat →
    (s.doneLater m = true → exec (.cancelGraph e) s = .next s) ∧
    ((∀ k ∈ s.pool.nodes, k.subno = e.v.toNat → s.doneLater k = false) → (∀ g ∈ s.pool.graphs, g.subno = e.v.toNat → g.status = none) →
      ∃ t, exec (.cancelGraph e) s = .next t ∧ ∀ x ∈ t.pool.nodes, x.subno ≠ e.v.toNat))

/-- Table 18.3, R139, R336, R70: what a cancelled task leaves: none of its hands lives, their seats are folded, no store is published,
exchanges are abandoned, commands run on. -/
def cancelledTask : Prop :=
  ∀ (s : State) (task : Nat), s.noDudel →
    let u := s.cancelTask task
    let hs := s.allHands.filter (fun h => h.task == task && h.living)
    (∀ h ∈ u.allHands, h.task = task → h.living = false) ∧ (∀ h ∈ s.allHands, h.task ≠ task → h ∈ u.allHands) ∧
    s.sameMem u ∧ u.pool = s.pool ∧
    u.seats = (hs.foldl (fun s h =>
      let gone : Hand := { h with status := .retired }
      (s.foldsOf gone).foldl (fun s on => s.foldSeat on.1 on.2 gone) s) s).seats ∧
    (∀ c sl, (∀ h ∈ s.allHands, h.task ≠ task → h.runsIn c sl = false) → sl < 4 → sl ∈ u.emptySlots c) ∧
    (∀ x ∈ u.xchgs, x.task ≠ task) ∧ u.copies.length = s.copies.length ∧
    (∀ r ∈ u.faults.pending, r ∈ s.faults.pending ∧ ∀ h ∈ hs, r.hand ≠ h.id) ∧
    (∀ i ∈ u.mem.heel, i.task = task → i.byCmd = true)

/-- Table 18.3, R135, R140: what CANCEL and CANCEL-GRAPH leave of a node: its tasks as above, its entry and thread gone, no successor with
one predecessor fewer, its completion word with bit 63; CANCEL of another task cancels it alone. -/
def cancelledNode : Prop :=
  (∀ (s : State) (n : Node),
    let ended : State := if n.state = .running ∧ n.record.cls ≠ 1 then (s.cancelTask n.task).cancelTask n.taskB else s
    let before : State :=
      ({ ended with pool := { ended.pool with threads := ended.pool.threads.filter (fun t => t.node != n.nseq) } }).nextDone.1
    let u := s.cancelNode n
    u.pool.nodes = s.pool.nodes.filter (fun m => m.nseq != n.nseq) ∧ u.pool.completions = s.pool.completions + 1 ∧
    (∀ t ∈ u.pool.threads, t ∈ s.pool.threads ∧ t.node ≠ n.nseq) ∧ u.seats = ended.seats ∧ u.allHands = ended.allHands ∧
    (∀ k t, n.record.done ≠ 0 → n.record.done % 8 = 0 →
      before.xlate (poolAgent n.asid n.sys) (.record true) n.record.done = .ok (t, .plain k false) → Mem.wf t.mem.pub = true →
      u.mem.pub.bytes k 8 = leBytes 8 (2 ^ 63 + s.pool.completions % 2 ^ 63) ∧
      ∀ j, j < k ∨ k + 8 ≤ j → u.mem.pub.get j = t.mem.pub.get j) ∧
    (n.record.done = 0 → s.noDudel → s.sameMem u)) ∧
  (∀ (s : State) (task : Nat),
    (∀ n, s.pool.nodes.find? (fun n => n.state == .running && (n.task == task || n.taskB == task)) = some n →
      s.cancelOf task = s.cancelNode n) ∧
    ((∀ n ∈ s.pool.nodes, n.state = .running → n.task ≠ task ∧ n.taskB ≠ task) → s.cancelOf task = s.cancelTask task)) ∧
  (∀ (s : State) (n : Nat), (∀ g ∈ s.pool.graphs, g.subno = n → g.status = none) →
    s.cancelGraph n = (s.pool.nodes.filter (fun m => m.subno == n)).foldl (fun (s : State) m => s.cancelNode m) s)

/-- R390, R392: breakpoints and watchpoints of a living hand; a machine halt asks the task's hands to stop and holds the system
cores; no such task is STATUS 2 (log 56); a resume performs what was buffered, once no stack of it is coming up, and lets the hands go on.
-/
def debugging : Prop :=
  (∀ (e : BreakF) (s : State), s.accepts 9 e.c →
    (s.debugOk e.hand e.idx = true → s.obeys (.stripBreakpoint e) e.c (fun s => s.modHand e.hand (fun h =>
      { h with sched := { h.sched with breaks := mins h.sched.breaks e.idx ⟨e.addr, e.strip⟩ } }))) ∧
    (s.debugOk e.hand e.idx = false → s.declines (.stripBreakpoint e) e.c 2)) ∧
  (∀ (e : WatchF) (s : State), s.accepts 9 e.c → s.debugOk e.hand e.idx = true →
    s.obeys (.watchpoint e) e.c (fun s => s.modHand e.hand (fun h => { h with sched := { h.sched with
      watches := mins h.sched.watches e.idx ⟨e.base, e.size, e.onRead, e.onWrite, none⟩ } }))) ∧
  (∀ (e : CtlArg) (s : State), s.accepts 9 e.c →
    ((∃ k ∈ s.tasks, k.taskid = e.v) → ∃ t, exec (.machineHalt e) s = .next t ∧ t.pod.halted = true ∧ t.pod.haltedTask = e.v ∧
      ∀ h ∈ t.others, h.taskid = e.v → h.living = true → h.sched.stopWanted = true) ∧
    ((∀ k ∈ s.tasks, k.taskid ≠ e.v) → s.declines (.machineHalt e) e.c 2) ∧
    ((∀ w ∈ s.pod.inbound, s.memUp w.1 w.2.length ≠ none) →
      ∃ t, exec (.machineResume e) s = .next t ∧ t.pod.halted = false ∧ t.pod.inbound = [] ∧
        ∀ h ∈ t.others, h.sched.stopWanted = false) ∧
    ((∃ w ∈ s.pod.inbound, s.memUp w.1 w.2.length = none) → exec (.machineResume e) s = .next s))

/-- R406, R404, R407, R408, R403, R70: GANG-SET, DEVICE-NUMBER, refused from the first training on (log 64), REDUCE, MCAST, its status
after the acknowledgement (log 53), ATTEST (its layout: log 4), TILE-RESET. -/
def podCommands : Prop :=
  (∀ (e : GangF) (s : State), s.accepts 11 e.c → 2 ≤ e.queue → e.queue ≤ 65 → (∀ d ∈ e.devices, d ≤ 511) →
    s.obeys (.gangSet e) e.c (fun s => s.modQueue e.queue (fun k => { k with gang := e.devices }))) ∧
  (∀ (e : CtlArg) (s : State), s.accepts 12 e.c →
    (s.firstUp = false → e.v.toNat ≤ 511 →
      s.obeys (.deviceNumber e) e.c (fun s => { s with pod := { s.pod with devNumber := some e.v.toNat } })) ∧
    (s.firstUp = true → s.declines (.deviceNumber e) e.c 4)) ∧
  (∀ (e : ReduceF) (s : State), s.accepts 13 e.c → e.group ≤ 4095 → mappable e.src.toNat = true →
    (e.dst = 0 ∨ mappable e.dst.toNat = true) → mappable e.cw.toNat = true →
    s.obeys (.reduce e) e.c (fun s => { s with pod := { s.pod with switchOps := s.pod.switchOps ++
      [⟨false, e.group, e.member, e.c.seq, e.src.toNat, 0, e.dst.toNat, e.cw.toNat⟩] } })) ∧
  (∀ (e : McastF) (s : State), s.accepts 14 e.c → e.group ≤ 4095 → e.size ≤ 2 ^ 26 → mappable e.src.toNat = true →
    mappable e.cw.toNat = true → exec (.mcast e) s = .next { s.begun e.c with pod := { s.pod with switchOps := s.pod.switchOps ++
      [⟨true, e.group, 0, e.c.seq, e.src.toNat, e.size, e.dstOff.toNat, e.cw.toNat⟩] } }) ∧
  (∀ (e : AttestF) (s : State), s.accepts 15 e.c →
    let b := s.attestBody e.nonce
    let up := s.memUp e.addr.toNat (b.length + 2420)
    (up = some true → s.obeys (.attest e) e.c (fun s =>
      s.putPubAll (atAddr e.addr.toNat (b ++ (Config.mldsaSign s.identitySeed (sha3Num b)).take 2420)))) ∧
    (up = none → exec (.attest e) s = .next s) ∧ (up = some false → s.declines (.attest e) e.c 2)) ∧
  (∀ (e : Ctl2) (s : State), s.accepts 16 e.c → e.a < Config.coreCount → e.b < 2 ^ 64 →
    rising s.cores = true → rising (s.core e.a).tiles = true →
    (∀ k, k < 64 → e.b.testBit k = true → s.engineReads e.a k = false) → ∃ t, exec (.tileReset e) s = .next t ∧
    ∀ k, k < 64 → e.b.testBit k = true → (t.tile e.a k).state = 0 ∧ (t.tile e.a k).gen = ((s.tile e.a k).gen + 1) % 8)

/-- The control queue: R401 and the commands of Table 23.3, and what a cancelled task, node or graph leaves. -/
def Obligations.ControlCommands : Prop :=
  controlRecords ∧ limitsAndRegions ∧ resolving ∧ cancelledTask ∧ cancelledNode ∧ debugging ∧ podCommands

/-- R395, R128, R49: what some RV64GC instructions do to a class 1 node's thread, behind which `next` stands, and to memory (the instruction
set is presumed: log 88): operations on registers, branches and jumps, loads and stores through the device's walkers, in which a store is
published, atomics and reservations. -/
def threadEffects : Prop :=
  ∀ (s : State) (t : Thread) (len : Nat),
    let next := { t with pc := t.pc + BitVec.ofNat 64 len }
    (∀ (i : RvAlu) (rd a : Fld5) (b : RvSrc) (w : Bool), s.threadExec t (.alu i w rd a b) len =
      .ok (s, next.setX rd (rvInteger i w (t.getX a) (t.src b)))) ∧
    (∀ a b : Reg64, rvInteger .add false a b = a + b ∧ rvInteger .sub false a b = a - b ∧ rvInteger .mul false a b = a * b ∧
      rvInteger .div false a 0 = BitVec.allOnes 64 ∧ rvInteger .rem false a 0 = a ∧
      rvInteger .sltu false a b = (if a.toNat < b.toNat then 1 else 0) ∧ (rvInteger .mulhu false a b).toNat = a.toNat * b.toNat / 2 ^ 64 ∧
      (b ≠ 0 → (rvInteger .div false a b).toInt = (a.toInt.tdiv b.toInt).bmod (2 ^ 64)) ∧
      (rvInteger .add true a b).toInt = ((a.toNat + b.toNat : Nat) : Int).bmod (2 ^ 32)) ∧
    (∀ (r : Fld5) (v : Reg64), (t.setX r v).getX r = (if r = 0 then 0 else v) ∧
      ∀ q, q ≠ r → (t.setX r v).getX q = t.getX q) ∧
    (∀ (a b : Fld5) (off : Reg64), s.threadExec t (.branch .eq a b off) len =
      .ok (s, if t.getX a = t.getX b then { t with pc := t.pc + off } else next)) ∧
    (∀ (rd a : Fld5) (off : Reg64), s.threadExec t (.jalr rd a off) len =
      .ok (s, { t.setX rd (t.pc + BitVec.ofNat 64 len) with pc := (t.getX a + off) &&& ~~~1 })) ∧
    (∀ (n : Nat) (sg : Bool) (rd a : Fld5) (off : Reg64) (u : State) (keys : List Nat), n ≤ 8 → keys.length = n → 0 < n →
      s.threadReach t .load rvLoadFault (t.getX a + off) n = .ok (u, keys) →
      let l := keys.map u.mem.pub.get
      ∃ v : Reg64, s.threadExec t (.load n sg rd a off) len = .ok (u, next.setX rd v) ∧
        ∀ i, i < 64 → v.getLsbD i = (if i < 8 * n then (leNat l).testBit i else sg && (leNat l).testBit (8 * n - 1))) ∧
    (∀ (n : Nat) (a b : Fld5) (off : Reg64) (u : State) (keys : List Nat), keys.length = n → keys.Nodup →
      s.threadReach t .store rvStoreFault (t.getX a + off) n = .ok (u, keys) → Mem.wf u.mem.pub = true →
      ∃ v : State, s.threadExec t (.store n a b off) len = .ok (v, next) ∧
        keys.map v.mem.pub.get = leBytes n (t.getX b).toNat ∧ (∀ j, j ∉ keys → v.mem.pub.get j = u.mem.pub.get j) ∧
        (∀ r ∈ v.mem.reserved, ∀ k ∈ keys, ¬ (r.2.1 ≤ k ∧ k < r.2.1 + r.2.2))) ∧
    (∀ (rd a b : Fld5) (u : State) (keys : List Nat), keys.length = 8 → keys.Nodup → (t.getX a).toNat % 8 = 0 →
      s.threadReach t .store rvStoreFault (t.getX a) 8 = .ok (u, keys) → Mem.wf u.mem.pub = true →
      let old := leNat (keys.map u.mem.pub.get)
      ∃ v : State, s.threadExec t (.amo .add 8 rd a b) len = .ok (v, next.setX rd (BitVec.ofNat 64 old)) ∧
        keys.map v.mem.pub.get = leBytes 8 (BitVec.ofNat 64 old + t.getX b).toNat) ∧
    (∀ (rd a : Fld5) (u : State) (keys : List Nat), rising s.mem.reserved = true → keys.length = 8 → (t.getX a).toNat % 8 = 0 →
      s.threadReach t .load rvLoadFault (t.getX a) 8 = .ok (u, keys) → u.mem.reserved = s.mem.reserved →
      ∃ v : State, s.threadExec t (.lr 8 rd a) len = .ok (v, next.setX rd (BitVec.ofNat 64 (leNat (keys.map u.mem.pub.get)))) ∧
        v.mem.pub = u.mem.pub ∧ mfind v.mem.reserved t.core = some (keys.headD 0, 8)) ∧
    (∀ (rd a b : Fld5) (u : State) (keys : List Nat), rising s.mem.reserved = true → rising u.mem.reserved = true → keys.length = 8 →
      keys.Nodup → (t.getX a).toNat % 8 = 0 →
      s.threadReach t .store rvStoreFault (t.getX a) 8 = .ok (u, keys) → Mem.wf u.mem.pub = true →
      ∃ (v : State) (ok : Bool), s.threadExec t (.sc 8 rd a b) len = .ok (v, next.setX rd (if ok then 0 else 1)) ∧
        (ok = true ↔ mfind s.mem.reserved t.core = some (keys.headD 0, 8)) ∧ mfind v.mem.reserved t.core = none ∧
        (ok = true → keys.map v.mem.pub.get = leBytes 8 (t.getX b).toNat) ∧ (ok = false → v.mem.pub = s.mem.pub)) ∧
    s.threadExec t .ecall len = .error (.exception 8) ∧ s.threadExec t .ebreak len = .error (.exception 3)

/-- R395 (log 88): a fetch on the core of a class 1 node's thread, at its pc, runs the instruction that the published bytes there hold, of
two bytes, or of four where the lowest two bits are ones; one that is none, or that raises an exception, leaves the thread before it, with
the exception's number; a fetch elsewhere has no effect, but where the operating system sends on a thread so stopped. Some encodings. -/
def threadFetches : Prop :=
  (∀ (e : SysAccF) (s : State) (t : Thread), e.core < 32 → s.pod.halted = false → s.boot = .running → e.fetch = true → e.data = none →
    e.asid = some t.asid → s.pool.threads.find? (fun x => x.core == e.core) = some t →
    (∀ x ∈ s.pool.threads, x.core = e.core → x = t) →
    (e.addr ≠ t.pc → t.cause = none → exec (.systemCoreAccess e) s = .next s) ∧
    (e.addr = t.pc ∨ t.cause ≠ none → ∀ (g : Thread), g = { t with pc := e.addr, cause := none } → g.ended = false →
      let stops (u : State) (n : Nat) : Prop :=
        exec (.systemCoreAccess e) s = .next ((u.unreserve e.core).setThread { g with cause := some n })
      (∀ u w len, s.threadFetch g = .ok (u, w, len) →
        (∀ i v t', rvDecode w = some i → u.threadExec g i len = .ok (v, t') → exec (.systemCoreAccess e) s = .next (v.setThread t')) ∧
        (∀ i n, rvDecode w = some i → u.threadExec g i len = .error (.exception n) → stops u n) ∧
        (rvDecode w = none → stops u 2)) ∧
      (s.threadFetch g = .error (.exception 12) → stops s 12))) ∧
  (∀ (s u v : State) (t : Thread) (k m : List Nat), s.threadReach t .fetch rvFetchFault t.pc 2 = .ok (u, k) →
    let low := leNat (k.map u.mem.pub.get)
    (low % 4 ≠ 3 → s.threadFetch t = .ok (u, low, 2)) ∧
    (low % 4 = 3 → u.threadReach t .fetch rvFetchFault (t.pc + 2) 2 = .ok (v, m) →
      s.threadFetch t = .ok (v, low + 65536 * leNat (m.map v.mem.pub.get), 4))) ∧
  (∀ (s : State) (t : Thread), (s.setThread t).mem = s.mem ∧ (s.setThread t).hand = s.hand ∧ (s.setThread t).others = s.others ∧
    (s.setThread t).pool = { s.pool with threads := s.pool.threads.map (fun x => if x.core = t.core then t else x) }) ∧
  (∀ (d a b : Fld5) (n : BitVec 12),
    let r (x : Fld5) (lo : Nat) : Nat := x.toNat * 2 ^ lo
    rvDecode (0x33 + r d 7 + r a 15 + r b 20) = some (.alu .add false d a (.reg b)) ∧
    rvDecode (0x40000033 + r d 7 + r a 15 + r b 20) = some (.alu .sub false d a (.reg b)) ∧
    rvDecode (0x13 + r d 7 + r a 15 + n.toNat * 2 ^ 20) = some (.alu .add false d a (.imm (n.signExtend 64))) ∧
    rvDecode (0x3003 + r d 7 + r a 15 + n.toNat * 2 ^ 20) = some (.load 8 true d a (n.signExtend 64)) ∧
    rvDecode (0x3023 + n.toNat % 32 * 2 ^ 7 + r a 15 + r b 20 + n.toNat / 32 * 2 ^ 25) = some (.store 8 a b (n.signExtend 64)) ∧
    rvDecode (0x67 + r d 7 + r a 15 + n.toNat * 2 ^ 20) = some (.jalr d a (n.signExtend 64)) ∧
    (d ≠ 0 → b ≠ 0 → rvDecode (0x8002 + r d 7 + r b 2) = some (.alu .add false d 0 (.reg b))) ∧
    rvDecode 0x8082 = some (.jalr 0 1 0) ∧ rvDecode 0x73 = some .ecall ∧ rvDecode 0 = none)

/-- R399, R400, R128, R395, R397, R392, R398, R412: a queue whose block is sound (log 50) is enabled, with the version that the device
speaks; TAIL moves on within the ring, that of queue 0 during a machine halt too (log 89); register bytes of a queue that is not enabled
are written; a store from the system die is published as it performs, one from a port too when an inbound window takes it, and it is
buffered during a machine halt; a load returns what is published, an inbound read during a machine halt too, and on a thread's core fills
its register, extended as RV64GC has it, while a fetch there runs the thread's instruction (log 88); a core that runs a thread reaches no
other ASID's memory; a request outside every window, or where no memory serves it (log 103), is an Unsupported Request; one in a stack
that is coming up waits. -/
def Obligations.HostAccesses : Prop :=
  threadEffects ∧ threadFetches ∧
  (∀ (e : QueueEv) (s : State), e.q ≤ 65 → s.boot = .running → s.pod.halted = false → (s.queue e.q).en = false →
    ∃ t, exec (.queueEnable e) s = .next t ∧
      (queueSound e = true → e.vmaj = 1 → (t.queue e.q).en = true ∧ (t.queue e.q).rbase = e.rbase.toNat ∧
        (t.queue e.q).sbase = e.sbase.toNat ∧ (t.queue e.q).log2n = e.log2n.toNat ∧ (t.queue e.q).asid = e.asid ∧
        (t.queue e.q).vmaj = 1 ∧ (t.queue e.q).vmin = 0) ∧
      (queueSound e = true → e.vmaj ≠ 1 → (t.queue e.q).en = false ∧ (t.queue e.q).vmaj = 0xFF)) ∧
  (∀ (e : TailEv) (s : State), e.q ≤ 65 →
    let k := s.queue e.q
    (s.pod.halted = false ∨ e.q = 0 → k.tail ≤ e.tail.toNat → e.tail.toNat ≤ k.accepted + 2 ^ k.log2n → rising s.queues = true →
      ∃ t, exec (.tail e) s = .next t ∧ (t.queue e.q).tail = e.tail.toNat) ∧
    (e.tail.toNat < k.tail ∨ k.accepted + 2 ^ k.log2n < e.tail.toNat → exec (.tail e) s = .next s)) ∧
  (∀ (q i : Nat) (b : Byte) (s : State), s.pod.halted = false → q ≤ 65 → i < 8 → rising s.queues = true →
    let a := 0xF0_0000_0000 + 64 * q + i
    ((s.queue q).en = false → ∃ t, exec (.registerWrite ⟨a, b⟩) s = .next t ∧
      t.queue q = { s.queue q with rbase := setByte (s.queue q).rbase i b }) ∧
    ((s.queue q).en = true → exec (.registerWrite ⟨a, b⟩) s = .next s)) ∧
  (∀ (e : SysAccF) (s : State), e.core < 32 → s.pod.halted = false → s.boot = .running →
    let a := e.addr.toNat
    ((∀ th ∈ s.pool.threads, th.core ≠ e.core) → e.asid = none →
      (∀ l, e.data = some l → l ≠ [] → s.memUp a l.length = some true → Mem.wf s.mem.live = true →
        Mem.wf s.mem.pub = true → ∃ t, exec (.systemCoreAccess e) s = .next t ∧ t.published a l ∧ t.hand.x = s.hand.x ∧
          t.hand.pc = s.hand.pc ∧ ∀ j, j < a ∨ a + l.length ≤ j → t.mem.pub.get j = s.mem.pub.get j) ∧
      (∀ l, e.data = some l → s.memUp a l.length ≠ some true → exec (.systemCoreAccess e) s = .next s) ∧
      (e.data = none → s.memUp a e.len = some true → ∃ t, exec (.systemCoreAccess e) s = .next t ∧
        mfind t.pod.sysLoaded e.core = some (s.sysBytes a e.len) ∧ t.mem = (s.uses a e.len).mem ∧ t.hand = s.hand)) ∧
    ((∃ th ∈ s.pool.threads, th.core = e.core ∧ e.asid ≠ some th.asid) → exec (.systemCoreAccess e) s = .next s)) ∧
  (∀ (s : State) (a : Nat), s.sysByte a = s.mem.pub.get a) ∧
  (∀ (e : SysAccF) (s : State) (l : List Byte) (th : Thread), th ∈ s.pool.threads → th.core = e.core → l.length ≤ 8 →
    let fills (t : Thread) : Prop := t ∈ (s.sysGet e l).pool.threads
    (e.fetch = false → e.float = false → e.reg ≠ 0 → ∃ v : Reg64, fills { th with x := th.x.set e.reg.toNat v e.reg.isLt } ∧
      (∀ i, i < 64 → v.getLsbD i = (if i < 8 * l.length then (leNat l).testBit i
        else e.signed && (leNat l).testBit (8 * l.length - 1)))) ∧
    (e.fetch = false → e.float = true → ∃ v : Reg64, fills { th with f := th.f.set e.reg.toNat v e.reg.isLt } ∧
      (∀ i, i < 64 → v.getLsbD i = (if i < 8 * l.length then (leNat l).testBit i else true)))) ∧
  (∀ (e : InboundF) (s : State), e.port < 10 → s.boot = .running →
    (∀ l, e.data = some l → l ≠ [] → s.noDudel → s.memUp e.addr l.length = some true →
      s.windowFor e.port e.addr l.length true = true →
      (Mem.wf s.mem.live = true → Mem.wf s.mem.pub = true → s.pod.halted = false →
        ∃ t, exec (.inboundRequest e) s = .next t ∧ t.published e.addr l ∧ mfind t.pod.answers e.port = some .written) ∧
      (s.pod.halted = true → s.pod.inbound = [] → l.length ≤ Config.haltBuffer →
        ∃ t, exec (.inboundRequest e) s = .next t ∧ t.pod.inbound = [(e.addr, l)] ∧ t.mem = s.mem)) ∧
    (e.data = none → s.windowFor e.port e.addr e.len false = true → s.memUp e.addr e.len = some true →
      exec (.inboundRequest e) s = .next ((s.uses e.addr e.len).answer e.port (.data (s.sysBytes e.addr e.len)))) ∧
    (∀ (a n : Nat), ∃ lines : List Nat, s.uses a n = { s with mem := lines.foldl MemState.useLine s.mem }) ∧
    (let n := (e.data.map List.length).getD e.len
     let taken := s.windowFor e.port e.addr n e.data.isSome
     (taken = false ∨ s.memUp e.addr n = some false → exec (.inboundRequest e) s = .next (s.answer e.port .unsupported)) ∧
     (taken = true → s.memUp e.addr n = none → exec (.inboundRequest e) s = .next s)))

/-! ## Reliability, bring-up, the pod -/

/-- R349, R351, Table 17.5: at the end of a window the field takes its draw up, lowers ACTIVE by 4 above 95% of its limit, raises it
after eight windows below 85%, throttles when it overdraws at 4, and takes a new limit up; what was placed in the last windows is kept
apart from what was placed before. Of the hands only the stall that their strip records count may change. -/
def powerWindows : Prop :=
  ∀ (e : WinEv) (s : State), e.field < 6 → (s.field e.field).state = 5 →
    let f := s.field e.field
    let d := e.draw.toNat
    let low := if 100 * d < 85 * f.flim then min 8 (f.lowWindows + 1) else 0
    ∃ (t : State) (held : Hand → Bool), exec (.powerWindow e) s = .next t ∧
      t = { s with fields := t.fields, hand := s.hand.stalled (held s.hand), others := s.others.map (fun h => h.stalled (held h)) } ∧
      (∀ k, k ≠ e.field → t.field k = s.field k) ∧
      let u := t.field e.field
      u.fdraw = d ∧ u.lowWindows = low ∧ u.flim = f.flimNext.getD f.flim ∧ u.flimNext = none ∧ u.recentOld = f.recentNow ∧
      u.recentOlder = f.recentOld ∧ u.recentNow = [] ∧ (95 * f.flim < 100 * d → 4 < f.active → u.active = f.active - 4) ∧
      (100 * d ≤ 95 * f.flim → low = 8 → f.active < 16 → u.active = f.active + 4) ∧
      (100 * d ≤ 95 * f.flim → low < 8 → u.active = f.active) ∧
      (d ≤ f.flim → u.throttle = false) ∧ (f.flim < d → f.active = 4 → u.throttle = true)

/-- R64, R56, R381 to R383, R409, R410, R412: a failed bank is counted (four structures' banks together, log 58); a scrub counts the
stripes that no longer decode, and those that it rebuilds; a stack that goes offline loses its contents, which read as zeros (log 1), and
is reported; a cluster with four mismatches is marked for the spare; a core past its limit (thresholds without time, log 43) has its quad
vacated and then, at a second CORE_RETIRE (log 60), retired; a lost field is off, its stacks with it, its seats empty, and its hands take
UNCORRECTABLE. -/
def failures : Prop :=
  (∀ (kind c bank : Nat) (s : State), kind < 4 → c < Config.coreCount → bank < 32 → (s.core c).badBanks.contains (kind, bank) = false →
    ∃ t, exec (.bankFail ⟨kind, c, bank⟩) s = .next t ∧ t = { s with cores := t.cores } ∧
      (rising s.cores = true → (t.core c).badBanks = (s.core c).badBanks ++ [(kind, bank)])) ∧
  (∀ (c : Nat) (s : State), c < Config.coreCount → rising s.cores = true →
    let k := s.core c
    let n := (s.badStripes c).length
    ∃ t, exec (.patrolScrub c) s = .next t ∧ t = { s with cores := t.cores } ∧ (∀ j, j ≠ c → t.core j = s.core j) ∧
      t.core c = { k with uncorrectable := k.uncorrectable + n, rebuilds := (t.core c).rebuilds } ∧
      ((∃ b, (0, b) ∈ k.badBanks) → (t.core c).rebuilds = k.rebuilds + (Config.benchHole / 30 - n)) ∧
      ((∀ b, (0, b) ∉ k.badBanks) → (t.core c).rebuilds = k.rebuilds)) ∧
  (∀ (e : Nat) (s : State), e < 12 → (s.field (e / 2)).state = 5 → (s.field (e / 2)).stk.getLsbD (e % 2) = true →
    ∃ t r, exec (.stackOffline e) s = .next t ∧ (t.field (e / 2)).stk.getLsbD (e % 2) = false ∧ t.faults.seq = s.faults.seq + 1 ∧
      r.trap.cause = .stackOffline ∧ r.trap.tval = BitVec.ofNat 64 e ∧ r.seq = s.faults.seq + 1 ∧
      ((s.queue 1).en = false → t.faults.waiting = s.faults.waiting ++ [r] ∧
        ∀ k, k / Config.stackBytes = e → t.mem.live.get k = 0 ∧ t.mem.pub.get k = 0)) ∧
  (∀ (c k : Nat) (s : State), c < Config.coreCount → 4 ≤ mget 0 (s.core c).clusters k → (s.core c).retiring = [] →
    (s.core c).spv = false → ∃ t, exec (.clusterMismatchLimit ⟨c, k⟩) s = .next t ∧ t = { s with cores := t.cores } ∧
      (rising s.cores = true → t.core c = { s.core c with retiring := [k] })) ∧
  (∀ (c : Nat) (s : State), c < Config.coreCount → (s.core c).offline = false →
    let q := c / 4
    ((s.field (q / 6)).excludedQuads.contains q = false → 8 ≤ (s.core c).residues ∨ 2 ≤ (s.core c).badBanks.length →
      exec (.coreRetire c) s = .next (s.vacateQuad q) ∧ ((s.vacateQuad q).field (q / 6)).excludedQuads.contains q = true) ∧
    ((s.field (q / 6)).excludedQuads.contains q = true → s.quadBusy q = true → exec (.coreRetire c) s = .next s) ∧
    ((s.field (q / 6)).excludedQuads.contains q = true → s.quadBusy q = false → (s.field (q / 6)).spqv = false →
      (s.field (q / 6)).spareOut = false → rising s.cores = true → ∃ t, exec (.coreRetire c) s = .next t ∧ t.core c = Core.atReset ∧
        (t.field (q / 6)).spqv = true ∧
        (t.field (q / 6)).spq = q % 6 ∧ t.faults.seq = s.faults.seq + 1)) ∧
  (∀ (f : Nat) (s : State), f < 6 → (s.field f).state = 5 → ∃ t, exec (.fieldLost f) s = .next t ∧ (t.field f).state = 6 ∧
    (t.field f).stk = 0 ∧ t.faults.seq = s.faults.seq + 1 ∧ (rising s.seats = true → ∀ i, i / objectsPerField = f →
      (t.seatObj i).queue = []) ∧
    (∀ h ∈ t.others, fieldOfCore h.core = f → h.living = true → h.status ≠ .saved → h.sched.unrecoverable = some lostTrap) ∧
    (f = 0 → s.mem.ticketInF1 = false → t.mem.ticket = s.mem.ticket + 2 ^ 32 ∧ t.mem.ticketInF1 = true)) ∧
  (∀ (e : PairEv) (s : State), adjacent e.a e.b = true → (s.field e.a).state = 5 → (s.field e.b).state = 5 →
    ∃ t, exec (.crossingLost e) s = .next t ∧ (t.field (max e.a e.b)).state = 6 ∧ (t.field (min e.a e.b)).state = 5)

/-- R402, R411: reset runs the boot ROM: a first image that fails a check leaves the device in the ROM; one that passes runs, with f0 in
its ramp, and with it the later images up to the first that fails (log 92), each accepted stage measured, stage i in register i mod 8
(log 61); a field passes from ramp to clock, crossing, training and online, or fails, and the next one starts after its crossing. -/
def bringUp : Prop :=
  (∀ (e : BootEv) (s : State), ∃ t, exec (.reset e) s = .next t ∧ t.hand.status = .none ∧ t.others = [] ∧ t.tasks = [] ∧ t.asids = [] ∧
    (bootStages e.images = [] → t.boot = .refused ∧ t.measured = Vector.replicate 8 0 ∧ ∀ f, f < 6 → (t.field f).state = 0) ∧
    (bootStages e.images ≠ [] → t.boot = .running ∧ (t.field 0).state = 1 ∧
      t.measured = measure ((bootStages e.images).map imageDigest) ∧ ∀ f, 1 ≤ f → f < 6 → (t.field f).state = 0)) ∧
  (bootStages [] = [] ∧ ∀ (i : Image) (l : List Image),
    let checks (key : List Byte) (i : Image) : Prop := i.signature.length = 2420 ∧
      Config.mldsaVerify key (sha3Num (i.header ++ i.body)) i.signature = true ∧ Config.fusedVersion.toNat ≤ i.version
    let first : Prop := i.key.length = 1312 ∧ sha3Num i.key = Config.fusedKeyDigest ∧ checks i.key i
    (¬ first → bootStages (i :: l) = []) ∧
    (first → ∃ m, bootStages (i :: l) = i :: m ∧ m <+: l ∧
      (∀ n a b, (i :: l)[n]? = some a → (i :: l)[n + 1]? = some b → n < m.length → checks a.key b) ∧
      (∀ a b, (i :: l)[m.length]? = some a → (i :: l)[m.length + 1]? = some b → ¬ checks a.key b))) ∧
  (∀ (e : FieldEv) (s : State), e.field < 6 → s.boot = .running → e.ok = true →
    let passed (i : Instr) (from' : Nat) (quiet : Prop) : Prop := (s.field e.field).state = from' → ∃ t, exec i s = .next t ∧
      (t.field e.field).state = from' + 1 ∧ t.hand = s.hand ∧ (quiet → t.mem = s.mem)
    passed (.powerRamp e) 1 True ∧ passed (.clockLock e) 2 True ∧ passed (.crossingCalibration e) 3 True ∧
    passed (.hbmTraining e) 4 (s.faults.waiting = []) ∧
    ((s.field e.field).state = 3 → e.field < 5 → (s.field (e.field + 1)).state = 0 → ∃ t, exec (.crossingCalibration e) s = .next t ∧
      (t.field (e.field + 1)).state = 1) ∧
    ((s.field e.field).state = 4 → ∃ t, exec (.hbmTraining e) s = .next t ∧ (t.field e.field).stk = e.stk)) ∧
  (∀ (e : FieldEv) (s : State), e.field < 6 → s.boot = .running → e.ok = false →
    let failed (i : Instr) (from' : Nat) : Prop := (s.field e.field).state = from' → ∃ t, exec i s = .next t ∧
      (t.field e.field).state = 6 ∧ (e.field < 5 → (s.field (e.field + 1)).state = 0 → (t.field (e.field + 1)).state = 1)
    failed (.powerRamp e) 1 ∧ failed (.clockLock e) 2 ∧ failed (.crossingCalibration e) 3 ∧ failed (.hbmTraining e) 4)

/-- The device's own units: power, failures and bring-up. -/
def Obligations.UnitsFailAndComeUp : Prop := powerWindows ∧ failures ∧ bringUp

/-- R404: a port of a device with a number trains with a partner of version 1 and goes down again, each change of LINK-DOWN and
LINK-VERSION reported; a command in flight on a port that goes down ends with status 0x11. -/
def links : Prop :=
  (∀ (e : TrainF) (s : State), e.port < 24 → s.pod.devNumber ≠ none → ((mfind s.pod.ports e.port).map (·.up)).getD false = false →
    (e.major = 1 → exec (.linkTraining e) s =
      .next { s with firstUp := true, pod := { s.pod with ports := mins s.pod.ports e.port ⟨true, e.number⟩ } }) ∧
    (e.major ≠ 1 → ∃ t, exec (.linkTraining e) s = .next t ∧ t.pod = s.pod ∧ t.faults.seq = s.faults.seq + 1)) ∧
  (∀ (n : Nat) (s : State) (p : Port), mfind s.pod.ports n = some p → p.up = true → ∃ t, exec (.linkDown n) s = .next t ∧
    mfind t.pod.ports n = some { p with up := false } ∧ t.faults.seq = s.faults.seq + 1 ∧
    t.copies = s.copies.map (fun c => if c.port = some n ∧ c.status = none then { c with status := some 0x11 } else c))

/-- R367, R406: acceptances of the other devices close a launch; a launch that times out, or an abort of another device, is said to every
other device of the gang with the GANGIX that was not heard (log 65), and makes every hand of the node take GANG-ABORT at its next point; a
node that has no hands gets none, and is done (log 91). -/
def gangs : Prop :=
  ∀ (e : GangEv) (s : State) (n : Node), s.nodeOf e.node = some n →
    let r := n.record
    let aborted (t : State) : Prop :=
      t.pod.sent = s.pod.sent ++ n.peers.map (fun d => PodMsg.abort d n.taskid e.ix) ∧
      (t.nodeOf e.node).map (·.gangOpen) = some false ∧
      (n.state = .running → ∀ h ∈ t.others, h.task = n.task ∨ h.task = n.taskB → h.living = true → h.sched.gangAbort = some e.ix) ∧
      (n.state ≠ .running → (t.nodeOf e.node).map (·.state) = some .done ∧ t.others = s.others)
    (s.dudel.replay = true → exec (.gangAcceptance e) s = .next s ∧ exec (.gangAbort e) s = .next s) ∧
    (∀ s0, s.arrives (s.gangPort n e.ix) 0 0 = some s0 → n.gangOpen = true → e.ix < r.gangn → e.ix ≠ r.gangix →
      ∃ m, exec (.gangAcceptance e) s = .next (s0.setNode m) ∧
      m = { n with heard := addOnce n.heard e.ix, gangOpen := m.gangOpen } ∧
      (m.gangOpen = true ↔ ∃ i, i < r.gangn ∧ i ≠ r.gangix ∧ i ≠ e.ix ∧ i ∉ n.heard)) ∧
    (n.gangOpen = true → s.pod.halted = false → n.unheard.head? = some e.ix →
      ∃ t, exec (.gangLaunchTimeout e) s = .next t ∧ aborted t) ∧
    (s.dudel.replay = false → 1 < r.gangn → n.gangOver = false → ∃ t, exec (.gangAbort e) s = .next t ∧ aborted t)

/-- R407, R408, R368, R111: a reduction of records that agree with this device's writes their sum, where it is wanted, and its
completion word; one that fails only the word, with bit 63; a multicast's acknowledgement writes its bytes where this device's group
mapping puts them, the word and its command's status; a linked read of the sequence number shows the bytes, one of a failing word none.
During a machine halt none of them comes (R392). -/
def switching : Prop :=
  ∀ (e : SwitchEv) (s : State) (op : SwitchOp), s.pod.switchOps[e.id]? = some op → Mem.wf s.mem.live = true → Mem.wf s.mem.pub = true →
    let left (t : State) : Prop := t.pod.switchOps = s.pod.switchOps.eraseIdx e.id
    let fail (code member : Nat) : Nat := 2 ^ 63 + code * 2 ^ 48 + e.seq.toNat % 2 ^ 32 * 2 ^ 16 + member % 2 ^ 16
    let own := s.mem.pub.bytes op.src (reduceSize (s.mem.pub.get op.src).toNat)
    let sum := reduced own e.others
    let named : Prop := (s.switchResult e op).1.all (fun x => mappable x.1) = true
    (s.pod.halted = true → exec (.reductionComplete e) s = .next s ∧ exec (.mcastAck e) s = .next s ∧
      (op.isMcast = false → exec (.reductionTimeout e) s = .next s)) ∧
    (s.pod.halted = false → s.noDudel →
    (s.switchLater e op = true → op.isMcast = false → exec (.reductionComplete e) s = .next s) ∧
    (s.switchLater e op = true → op.isMcast = true → exec (.mcastAck e) s = .next s) ∧
    (s.memUp op.src (s.switchSpan op) = some false → s.memUp op.cw 8 = some true → op.isMcast = false →
      ∃ t, exec (.reductionComplete e) s = .next t ∧ left t ∧ t.published op.cw (leBytes 8 (fail 0x43 op.member))) ∧
    (s.memUp op.src (s.switchSpan op) = some true → s.memUp op.cw 8 = some true → s.bytesUp (s.switchResult e op).1 = some true →
    (op.isMcast = false → reducible own = true → e.others.all (agrees own) = true → named →
      op.dst = 0 ∨ op.dst + sum.length ≤ op.cw ∨ op.cw + 8 ≤ op.dst → ∃ t, exec (.reductionComplete e) s = .next t ∧ left t ∧
      (op.dst ≠ 0 → t.published op.dst sum) ∧ t.published op.cw (leBytes 8 e.seq.toNat) ∧
      t.mem.tokens = s.mem.tokens ++ [⟨none, op.cw, e.seq, byteMap (if op.dst = 0 then [] else atAddr op.dst sum), none⟩]) ∧
    (op.isMcast = false → reducible own = false ∨ e.others.all (agrees own) = false →
      ∃ t, exec (.reductionComplete e) s = .next t ∧ left t ∧
      t.published op.cw (leBytes 8 (fail 0x43 (if reducible own then e.member else op.member))) ∧
      ∀ j, j < op.cw ∨ op.cw + 8 ≤ j → t.mem.pub.get j = s.mem.pub.get j) ∧
    (op.isMcast = false → ∃ t, exec (.reductionTimeout e) s = .next t ∧ left t ∧
      t.published op.cw (leBytes 8 (fail 0x43 e.member)) ∧ ∀ j, j < op.cw ∨ op.cw + 8 ≤ j → t.mem.pub.get j = s.mem.pub.get j) ∧
    (op.isMcast = true → named → s.memUp (s.queue 0).statusSlot 16 = some true →
      let k := s.queue 0
      let a := k.sbase + 16 * (k.statused % 2 ^ k.log2n)
      ∃ t, exec (.mcastAck e) s = .next t ∧ left t ∧
        (a + 16 ≤ op.cw ∨ op.cw + 8 ≤ a →
          t.published op.cw (leBytes 8 (if e.count = 0 then e.seq.toNat else fail 0x11 e.member)) ∧
          t.published a (leBytes 8 op.ctlSeq.toNat ++ [0] ++ leBytes 7 e.count)) ∧
        (e.count ≠ 0 → t.mem.tokens = s.mem.tokens ++ [⟨none, op.cw, BitVec.ofNat 64 (fail 0x11 e.member), [], none⟩]) ∧
        (∀ j, e.base = some j →
          let d := j + op.dst
          d + op.size ≤ op.cw ∨ op.cw + 8 ≤ d → d + op.size ≤ a ∨ a + 16 ≤ d → t.published d (s.mem.pub.bytes op.src op.size)))))

/-- R394, R366, R390, R391, R399: in replay the next logged arrival is delivered as it was recorded, when it has the entry's stamp and
brings data of the length and to the address that it names (log 25), and another one diverges (log 66); a hand that waits for its debugger
stops, and so does one whose brk the system fault queue holds in its ring (log 38); a debugger writes the registers of a stopped hand
alone, filling an empty one, and a restarted hand runs on. -/
def debuggers : Prop :=
  (∀ (e : ReplayEv) (s : State) (j : Nat) (x : DudelEntry), s.dudel.replay = true → s.pod.halted = false →
    s.dudel.nextDelivery = some (j, x) →
    let len := leNat ((e.payload.drop 2).take 4)
    let named := leNat ((e.payload.drop 6).take 8)
    let d : State := { s with dudel := { s.dudel with pos := s.dudel.pos + 1 } }
    let fits : Prop := s.brings e.what named = some (len, named)
    (x = ⟨e.kind, e.source, e.stamp, e.payload⟩ → e.kind = 2 → ∃ t, exec (.replayDelivery e) s = .next t ∧
      t = { d with pod := { d.pod with sysLoaded := mins d.pod.sysLoaded (e.source.toNat % 0x8000) e.payload } }) ∧
    (x = ⟨e.kind, e.source, e.stamp, e.payload⟩ → e.kind ≠ 2 → fits →
      (∀ l, e.what = .data l → exec (.replayDelivery e) s = .next (d.physWrite named l)) ∧
      (∀ f, e.what = .copy f → exec (.replayDelivery e) s = .next (d.peerArrives f)) ∧
      (∀ w op, e.what = .switch w → s.pod.switchOps[w.id]? = some op → exec (.replayDelivery e) s = .next (d.switchEnd w op)) ∧
      (∀ w op, e.what = .timeout w → s.pod.switchOps[w.id]? = some op → op.isMcast = false → s.memUp op.cw 8 ≠ none →
        exec (.replayDelivery e) s = .next (d.abortReduction w.id op w.seq w.member)) ∧
      (∀ m c, e.what = .answer m → s.copyOf m.hand m.n.toNat = some c → c.kind = .cpyPeer → c.status = none → c.vol ≤ c.pos → c.vol ≠ 0 →
        s.copyHeld c = false → s.peerSide c = .single → m.remote = 0 ∨ m.remote = 0x10 ∨ m.remote = 0x11 →
        exec (.replayDelivery e) s = .next (d.endCopy c m.remote)) ∧
      (∀ g n, e.what = .accept g → s.nodeOf g.node = some n → n.gangOpen = true → g.ix < n.record.gangn → g.ix ≠ n.record.gangix →
        ∃ m, exec (.replayDelivery e) s = .next (d.setNode m) ∧ m = { n with heard := addOnce n.heard g.ix, gangOpen := m.gangOpen }) ∧
      (∀ g n, e.what = .abort g → s.nodeOf g.node = some n → 1 < n.record.gangn → n.gangOver = false →
        exec (.replayDelivery e) s = .next (d.abortGang n g.ix))) ∧
    (x ≠ ⟨e.kind, e.source, e.stamp, e.payload⟩ ∨ (e.kind ≠ 2 ∧ ¬ fits) →
      exec (.replayDelivery e) s = .next (s.diverge (32 * j)))) ∧
  (∀ (s : State), srecEn s.hand.csr.srecctl = false →
    (s.hand.status = .waiting .stop → exec (.debuggerStop s.hand.id) s =
      .next { s.dropGrant with hand := { s.hand with status := .stopped } }) ∧
    (∀ n, s.brkRecord s.hand = some n → exec (.debuggerStop s.hand.id) s =
      .next { (s.answered n).dropGrant with hand := { s.hand with status := .stopped } })) ∧
  (∀ (s : State), s.hand.status = .stopped → exec (.debuggerRestart s.hand.id) s =
    .next { s with hand := { s.hand with status := .running, sched := { s.hand.sched with skipStop := true } } }) ∧
  (∀ (s : State) (target : DbgTarget), s.hand.status = .stopped → ∃ t, exec (.debuggerWrite ⟨s.hand.id, target⟩) s = .next t ∧
    s.onlyHand t ∧
    (∀ r v, target = .scalar r v → (r ≠ 0 → t.hand.getX r = v) ∧ t.hand.full r ∧ s.hand.sameXBut t.hand r ∧ t.hand.csr = s.hand.csr) ∧
    (∀ r off l, target = .vector r off l → off + l.length ≤ 4096 → s.hand.canonical = true →
      (∀ i, i < l.length → t.hand.getVB r.toNat (off + i) = l.getD i 0) ∧ t.hand.vEmpty r.toNat 1 = false ∧ t.hand.x = s.hand.x) ∧
    (∀ n v k, target = .csr n v → s.hand.csr.write n.toNat v = some k → t.hand.csr = k ∧ t.hand.x = s.hand.x)) ∧
  (∀ (s : State) (target : DbgTarget), s.hand.status ≠ .stopped → s.hand.status ≠ .none →
    exec (.debuggerWrite ⟨s.hand.id, target⟩) s = .next s)

/-- The pod and the debugger. -/
def Obligations.PodAndDebugger : Prop := links ∧ gangs ∧ switching ∧ debuggers

/-- R404, R367, R368, R407, R408: each event of the ports, of gang launches and of the switch COMPLETES, with what it is for, and no
register, PC or predicate of the current hand changes. -/
def Obligations.PodEventsComplete : Prop :=
  let done (i : Instr) (s : State) (effect : State → Prop) : Prop := ∃ t, exec i s = .next t ∧ effect t ∧ t.hand.x = s.hand.x ∧
    t.hand.pc = s.hand.pc ∧ t.hand.v = s.hand.v ∧ t.hand.p = s.hand.p ∧ t.hand.csr = s.hand.csr ∧ t.others.length = s.others.length
  (∀ (e : TrainF) (s : State), e.port < 24 → s.pod.devNumber.isSome = true → mfind s.pod.ports e.port = none → e.major = 1 →
    done (.linkTraining e) s (fun t => mfind t.pod.ports e.port = some ⟨true, e.number⟩)) ∧
  (∀ (n d : Nat) (s : State), mfind s.pod.ports n = some ⟨true, d⟩ →
    done (.linkDown n) s (fun t => mfind t.pod.ports n = some ⟨false, d⟩ ∧ t.mem.tokens = s.mem.tokens)) ∧
  (∀ (e : GangEv) (s : State) (n : Node), s.nodeOf e.node = some n → e.ix < n.record.gangn → e.ix ≠ n.record.gangix → s.noDudel →
    (n.gangOpen = true → done (.gangAcceptance e) s (fun t => ∃ m, t.nodeOf e.node = some m ∧ e.ix ∈ m.heard ∧ t.mem = s.mem)) ∧
    (n.gangOpen = true → s.pod.halted = false → n.unheard.head? = some e.ix →
      done (.gangLaunchTimeout e) s (fun t => ∃ m, t.nodeOf e.node = some m ∧ m.gangOpen = false ∧ m.gangOver = true)) ∧
    (n.gangOver = false → 1 < n.record.gangn →
      done (.gangAbort e) s (fun t => ∃ m, t.nodeOf e.node = some m ∧ m.gangOpen = false ∧ m.gangOver = true))) ∧
  (∀ (e : SwitchEv) (s : State) (op : SwitchOp), s.pod.switchOps[e.id]? = some op →
    let left (t : State) : Prop := t.pod.switchOps.length + 1 = s.pod.switchOps.length ∧ ∃ k ∈ t.mem.tokens, k.word = op.cw
    s.pod.halted = false → s.noDudel → s.memUp op.cw 8 = some true →
    (op.isMcast = false → (s.switchResult e op).1.all (fun x => mappable x.1) = true → s.switchLater e op = false →
      done (.reductionComplete e) s left) ∧
    (op.isMcast = false → done (.reductionTimeout e) s left) ∧
    (op.isMcast = true → e.base = none → s.switchLater e op = false → done (.mcastAck e) s (fun t => left t ∧ t.pool = s.pool)))

/-- R394, R366, R390, R391: a debugger's stop, write and restart COMPLETE on the hand that they are for, and a replayed delivery
completes; the hand's PC, and every hand but it, stay. -/
def Obligations.DebuggerEventsComplete : Prop :=
  (∀ (s : State), s.hand.status = .waiting .stop → s.hand.csr.stripno = 0 →
    ∃ t, exec (.debuggerStop s.hand.id) s = .next t ∧ t.hand.status = .stopped ∧ t.hand.pc = s.hand.pc ∧ t.hand.x = s.hand.x ∧
      t.others = s.others ∧ t.mem = s.mem) ∧
  (∀ (s : State) (r : Fld5) (v : Reg64), s.hand.status = .stopped → r ≠ 0 →
    ∃ t, exec (.debuggerWrite ⟨s.hand.id, .scalar r v⟩) s = .next t ∧ t.hand.getX r = v ∧ t.hand.full r ∧ t.hand.pc = s.hand.pc ∧
      t.hand.v = s.hand.v ∧ t.others = s.others ∧ t.mem = s.mem) ∧
  (∀ (s : State), s.hand.status = .stopped →
    ∃ t, exec (.debuggerRestart s.hand.id) s = .next t ∧ t.hand.status = .running ∧ t.hand.sched.skipStop = true ∧
      t.hand.pc = s.hand.pc ∧ t.hand.x = s.hand.x ∧ t.others = s.others ∧ t.mem = s.mem) ∧
  (∀ (e : ReplayEv) (s : State) (j : Nat), s.dudel.replay = true → s.pod.halted = false → e.kind = 2 →
    s.dudel.nextDelivery = some (j, ⟨2, e.source, e.stamp, e.payload⟩) →
    ∃ t, exec (.replayDelivery e) s = .next t ∧ t.dudel.pos = s.dudel.pos + 1 ∧ t.hand = s.hand ∧ t.mem = s.mem ∧
      mfind t.pod.sysLoaded (e.source.toNat % 0x8000) = some e.payload)
end

