-- ==== Sys2Proof/Laws/Memory.lean ====
section
/-! SUPPORT. The laws of sparse maps and of memory: what a read after a write gives, that a write keeps the canonical form, and that
two memories in canonical form that read alike are equal. -/

namespace Sys2Proof.Machine

variable {α : Type}

/-! ## Sparse maps -/

/-- Every key of the map lies above `a`. -/
def Above (a : Nat) (m : SMap α) : Prop := ∀ kv ∈ m, a < kv.1

@[simp] theorem above_cons (a : Nat) (x : Nat × α) (m : SMap α) : Above a (x :: m) ↔ a < x.1 ∧ Above a m :=
  List.forall_mem_cons

/-- A lower bound may be lowered. -/
theorem Above.mono {a b : Nat} {m : SMap α} (h : Above a m) (hb : b ≤ a) : Above b m :=
  fun kv hkv => Nat.lt_of_le_of_lt hb (h kv hkv)

theorem rising_cons (k : Nat) (v : α) (m : SMap α) : rising ((k, v) :: m) = true ↔ Above k m ∧ rising m = true := by
  induction m generalizing k v with
  | nil => simp [rising, Above]
  | cons x m ih =>
    simp only [rising, Bool.and_eq_true, decide_eq_true_eq, ih x.1 x.2, above_cons]
    exact ⟨fun ⟨h, u, r⟩ => ⟨⟨h, u.mono h.le⟩, u, r⟩, fun ⟨⟨h, _⟩, u, r⟩ => ⟨h, u, r⟩⟩

theorem mget_of_above (d : α) (a : Nat) (m : SMap α) (h : Above a m) (i : Nat) (hi : i ≤ a) : mget d m i = d := by
  induction m with
  | nil => rfl
  | cons x m ih =>
    rw [above_cons] at h
    exact (if_neg (by omega)).trans (ih h.2)

theorem mfind_of_above (a : Nat) (m : SMap α) (h : Above a m) (i : Nat) (hi : i ≤ a) : mfind m i = none := by
  induction m with
  | nil => rfl
  | cons x m ih =>
    rw [above_cons] at h
    exact (if_neg (by omega)).trans (ih h.2)

theorem above_mdel (a : Nat) (m : SMap α) (i : Nat) (h : Above a m) : Above a (mdel m i) := by
  induction m with
  | nil => exact h
  | cons x m ih =>
    rw [above_cons] at h
    unfold mdel
    split
    · exact h.2
    · exact (above_cons ..).2 ⟨h.1, ih h.2⟩

theorem above_mins (a : Nat) (m : SMap α) (i : Nat) (w : α) (h : Above a m) (hi : a < i) : Above a (mins m i w) := by
  induction m with
  | nil => simpa [mins, Above] using hi
  | cons x m ih =>
    rw [above_cons] at h
    unfold mins
    repeat' split
    all_goals simp only [above_cons]
    exacts [⟨hi, h⟩, ⟨hi, h.2⟩, ⟨h.1, ih h.2⟩]

theorem rising_mdel (m : SMap α) (i : Nat) (h : rising m = true) : rising (mdel m i) = true := by
  induction m with
  | nil => rfl
  | cons x m ih =>
    rw [rising_cons] at h
    unfold mdel
    split
    · exact h.2
    · exact (rising_cons ..).2 ⟨above_mdel _ _ i h.1, ih h.2⟩

theorem rising_mins (m : SMap α) (i : Nat) (w : α) (h : rising m = true) : rising (mins m i w) = true := by
  induction m with
  | nil => rfl
  | cons x m ih =>
    have ⟨ha, hr⟩ := (rising_cons ..).1 h
    unfold mins
    split
    · next hlt => exact (rising_cons ..).2 ⟨(above_cons ..).2 ⟨hlt, ha.mono hlt.le⟩, h⟩
    · split
      · next he => exact (rising_cons ..).2 ⟨he ▸ ha, hr⟩
      · exact (rising_cons ..).2 ⟨above_mins _ m i w ha (by omega), ih hr⟩

/-- A write of a sparse map keeps its keys rising. -/
theorem rising_mput [DecidableEq α] (d : α) (m : SMap α) (i : Nat) (w : α) (h : rising m = true) : rising (mput d m i w) = true := by
  unfold mput
  split
  · exact rising_mdel m i h
  · exact rising_mins m i w h

theorem mget_mdel (d : α) (m : SMap α) (i j : Nat) (h : rising m = true) : mget d (mdel m i) j = if j = i then d else mget d m j := by
  induction m with
  | nil => simp [mdel, mget]
  | cons x m ih =>
    obtain ⟨k, v⟩ := x
    obtain ⟨ha, hr⟩ := (rising_cons k v m).1 h
    unfold mdel
    by_cases hik : i = k
    · subst hik
      by_cases hj : j = i
      · subst hj
        simp [mget_of_above d j m ha j (Nat.le_refl _)]
      · simp [mget, hj]
    · rw [if_neg hik]
      by_cases hjk : j = k
      · subst hjk
        simp [mget, Ne.symm hik]
      · simp [mget, hjk, ih hr]

theorem mget_mins (d : α) (m : SMap α) (i j : Nat) (w : α) (h : rising m = true) :
    mget d (mins m i w) j = if j = i then w else mget d m j := by
  induction m with
  | nil => simp [mins, mget]
  | cons x m ih =>
    obtain ⟨k, v⟩ := x
    obtain ⟨ha, hr⟩ := (rising_cons k v m).1 h
    unfold mins
    by_cases hlt : i < k
    · rw [if_pos hlt]; rfl
    · rw [if_neg hlt]
      by_cases hik : i = k
      · subst hik
        rw [if_pos rfl]
        by_cases hj : j = i <;> simp [mget, hj]
      · rw [if_neg hik]
        by_cases hjk : j = k
        · subst hjk
          simp [mget, Ne.symm hik]
        · simp [mget, hjk, ih hr]

/-- Reading a sparse map after a write of it. -/
theorem mget_mput [DecidableEq α] (d : α) (m : SMap α) (i j : Nat) (w : α) (h : rising m = true) :
    mget d (mput d m i w) j = if j = i then w else mget d m j := by
  unfold mput
  split
  · rename_i hw
    rw [mget_mdel d m i j h, hw]
  · exact mget_mins d m i j w h

theorem mfind_mdel (m : SMap α) (i j : Nat) (h : rising m = true) : mfind (mdel m i) j = if j = i then none else mfind m j := by
  induction m with
  | nil => simp [mdel, mfind]
  | cons x m ih =>
    obtain ⟨k, v⟩ := x
    obtain ⟨ha, hr⟩ := (rising_cons k v m).1 h
    unfold mdel
    by_cases hik : i = k
    · subst hik
      by_cases hj : j = i
      · subst hj
        simp [mfind_of_above j m ha j le_rfl]
      · simp [mfind, hj]
    · rw [if_neg hik]
      by_cases hjk : j = k
      · subst hjk
        simp [mfind, Ne.symm hik]
      · simp [mfind, hjk, ih hr]

/-- Looking a key up after an insertion. -/
theorem mfind_mins (m : SMap α) (i j : Nat) (w : α) : mfind (mins m i w) j = if j = i then some w else mfind m j := by
  induction m with
  | nil => simp [mins, mfind]
  | cons x m ih =>
    obtain ⟨k, v⟩ := x
    unfold mins
    by_cases hlt : i < k
    · rw [if_pos hlt]; rfl
    · rw [if_neg hlt]
      by_cases hik : i = k
      · subst hik
        rw [if_pos rfl]
        by_cases hj : j = i <;> simp [mfind, hj]
      · rw [if_neg hik]
        by_cases hjk : j = k
        · subst hjk
          simp [mfind, Ne.symm hik]
        · simp [mfind, hjk, ih]

theorem all_mdel (p : Nat × α → Bool) (m : SMap α) (i : Nat) (h : m.all p = true) : (mdel m i).all p = true := by
  induction m with
  | nil => rfl
  | cons x m ih =>
    rw [List.all_cons, Bool.and_eq_true] at h
    unfold mdel
    split
    · exact h.2
    · rw [List.all_cons, h.1, ih h.2]; rfl

theorem all_mins (p : Nat × α → Bool) (m : SMap α) (i : Nat) (w : α) (h : m.all p = true) (hw : p (i, w) = true) :
    (mins m i w).all p = true := by
  induction m with
  | nil => simpa [mins] using hw
  | cons x m ih =>
    rw [List.all_cons, Bool.and_eq_true] at h
    unfold mins
    repeat' split
    all_goals simp [hw, h.1, h.2, ih]

/-! ## Memory -/

theorem Mem.rising_of_wf (m : Mem) (h : m.wf = true) : rising m = true := by
  simp only [Mem.wf, Bool.and_eq_true] at h; exact h.1

/-- A write keeps the canonical form. -/
theorem Mem.wf_put (m : Mem) (a : Nat) (b : Byte) (h : m.wf = true) : (m.put a b).wf = true := by
  have hh := h
  simp only [Mem.wf, Bool.and_eq_true] at h ⊢
  refine ⟨rising_mput 0 m a b h.1, ?_⟩
  unfold Mem.put mput
  split
  · exact all_mdel _ m a h.2
  · rename_i hb
    exact all_mins _ m a b h.2 (by simpa using hb)

/-- Writing many bytes keeps the canonical form. -/
theorem Mem.wf_putAll (l : List (Nat × Byte)) (m : Mem) (h : m.wf = true) : (m.putAll l).wf = true := by
  induction l generalizing m with
  | nil => exact h
  | cons c l ih => exact ih _ (Mem.wf_put m c.1 c.2 h)

/-- A read after a write. -/
theorem Mem.get_put (m : Mem) (a j : Nat) (b : Byte) (h : m.wf = true) : (m.put a b).get j = if j = a then b else m.get j :=
  mget_mput 0 m a j b (Mem.rising_of_wf m h)

/-- A write of other addresses leaves a byte as it was. -/
theorem Mem.get_putAll_ne (l : List (Nat × Byte)) (m : Mem) (j : Nat) (h : m.wf = true) (hj : ∀ c ∈ l, c.1 ≠ j) :
    (m.putAll l).get j = m.get j := by
  induction l generalizing m with
  | nil => rfl
  | cons c l ih =>
    have h1 := ih (m.put c.1 c.2) (Mem.wf_put m c.1 c.2 h) (fun x hx => hj x (List.mem_cons_of_mem _ hx))
    have h2 : (m.put c.1 c.2).get j = m.get j := by
      rw [Mem.get_put m c.1 j c.2 h, if_neg (fun e => hj c (List.mem_cons_self ..) e.symm)]
    exact h1.trans h2

theorem atAddr_addr (a : Nat) (l : List Byte) (c : Nat × Byte) (hc : c ∈ atAddr a l) : a ≤ c.1 ∧ c.1 < a + l.length := by
  induction l generalizing a with
  | nil => exact absurd hc List.not_mem_nil
  | cons b l ih =>
    rw [List.length_cons]
    rcases List.mem_cons.1 hc with rfl | hm
    · exact ⟨le_rfl, Nat.lt_add_of_pos_right l.length.succ_pos⟩
    · have := ih (a + 1) hm
      omega

/-- Bytes written at rising addresses read back. -/
theorem Mem.bytes_putAll (l : List Byte) (a : Nat) (m : Mem) (h : m.wf = true) : (m.putAll (atAddr a l)).bytes a l.length = l := by
  induction l generalizing a m with
  | nil => rfl
  | cons b l ih =>
    have hw := Mem.wf_put m a b h
    have hrest := ih (a + 1) (m.put a b) hw
    have hb : ((m.put a b).putAll (atAddr (a + 1) l)).get a = b := by
      rw [Mem.get_putAll_ne _ _ a hw (fun c hc => by have := atAddr_addr (a + 1) l c hc; omega), Mem.get_put m a a b h, if_pos rfl]
    show ((m.put a b).putAll (atAddr (a + 1) l)).bytes a (l.length + 1) = b :: l
    unfold Mem.bytes at hrest ⊢
    simp only [upFrom, List.map_cons, hb, hrest]

/-- What stands outside the bytes written is as it was. -/
theorem Mem.get_putAll_outside (l : List Byte) (a j : Nat) (m : Mem) (h : m.wf = true) (hj : j < a ∨ a + l.length ≤ j) :
    (m.putAll (atAddr a l)).get j = m.get j :=
  Mem.get_putAll_ne _ _ j h (fun c hc => by have := atAddr_addr a l c hc; omega)

/-- Two memories in canonical form that read alike at every address are equal. -/
theorem Mem.eq_of_get (m n : Mem) (hm : m.wf = true) (hn : n.wf = true) (h : ∀ a, m.get a = n.get a) : m = n := by
  have key : ∀ (m n : Mem), rising m = true → rising n = true → (∀ c ∈ m, c.2 ≠ 0) → (∀ c ∈ n, c.2 ≠ 0) →
      (∀ a, mget 0 m a = mget 0 n a) → m = n := by
    intro m
    induction m with
    | nil =>
      intro n _ hn _ zn h
      cases n with
      | nil => rfl
      | cons y n =>
        exact absurd (by simpa [mget] using (h y.1).symm) (zn y (List.mem_cons_self ..))
    | cons x m ih =>
      intro n hm hn zm zn h
      obtain ⟨k, v⟩ := x
      cases n with
      | nil => exact absurd (by simpa [mget] using h k) (zm (k, v) (List.mem_cons_self ..))
      | cons y n =>
        obtain ⟨j, w⟩ := y
        obtain ⟨am, rm⟩ := (rising_cons k v m).1 hm
        obtain ⟨an, rn⟩ := (rising_cons j w n).1 hn
        have zv : v ≠ 0 := zm (k, v) (List.mem_cons_self ..)
        have zw : w ≠ 0 := zn (j, w) (List.mem_cons_self ..)
        have hkj : k = j := by
          rcases Nat.lt_trichotomy k j with hlt | he | hgt
          · have hne : k ≠ j := by omega
            have := h k
            simp only [mget, if_true, hne, if_false] at this
            rw [mget_of_above 0 j n an k (by omega)] at this
            exact absurd this zv
          · exact he
          · have hne : j ≠ k := by omega
            have := h j
            simp only [mget, if_true, hne, if_false] at this
            rw [mget_of_above 0 k m am j (by omega)] at this
            exact absurd this.symm zw
        subst hkj
        have hv : v = w := by simpa [mget] using h k
        subst hv
        have hmn : m = n := by
          refine ih n rm rn (fun c hc => zm c (List.mem_cons_of_mem _ hc)) (fun c hc => zn c (List.mem_cons_of_mem _ hc)) ?_
          intro a
          by_cases hak : a = k
          · subst hak
            rw [mget_of_above 0 a m am a (Nat.le_refl _), mget_of_above 0 a n an a (Nat.le_refl _)]
          · simpa [mget, hak] using h a
        rw [hmn]
  simp only [Mem.wf, Bool.and_eq_true, List.all_eq_true, bne_iff_ne, ne_eq] at hm hn
  exact key m n hm.1 hn.1 hm.2 hn.2 h

/-! ## Little-endian numbers (R6) -/

@[simp] theorem leBytes_length (n v : Nat) : (leBytes n v).length = n := by
  induction n generalizing v with
  | zero => rfl
  | succ n ih => simp [leBytes, ih]

@[simp] theorem atAddr_length (a : Nat) (l : List Byte) : (atAddr a l).length = l.length := by
  induction l generalizing a with
  | nil => rfl
  | cons b l ih => exact congrArg (· + 1) (ih (a + 1))

@[simp] theorem upFrom_length (a n : Nat) : (upFrom a n).length = n := by
  induction n generalizing a with
  | zero => rfl
  | succ n ih => simp [upFrom, ih]

theorem mem_upFrom (a n j : Nat) : j ∈ upFrom a n ↔ a ≤ j ∧ j < a + n := by
  induction n generalizing a with
  | zero => simp [upFrom]
  | succ n ih => simp only [upFrom, List.mem_cons, ih]; omega

/-- A number written little-endian reads back modulo its width. -/
theorem leNat_leBytes (n v : Nat) : leNat (leBytes n v) = v % 256 ^ n := by
  induction n generalizing v with
  | zero => simp [leBytes, leNat, Nat.mod_one]
  | succ n ih =>
    have hb : (BitVec.ofNat 8 v).toNat = v % 256 := by simp
    simp only [leBytes, leNat, ih, hb]
    rw [Nat.pow_succ', Nat.mod_mul]

/-! ## The vector file -/

/-- Writing an element keeps the vector file in its canonical form. -/
theorem Hand.wf_setVN (h : Hand) (r o w v : Nat) (hw : Mem.wf h.v = true) : Mem.wf (h.setVN r o w v).v = true := by
  have key : ∀ (l : List (Byte × Nat)) (m : Mem), m.wf = true →
      Mem.wf (l.foldl (fun m bi => mput 0 m (r * 4096 + o + bi.2) bi.1) m) = true := by
    intro l
    induction l with
    | nil => intro m hm; exact hm
    | cons x l ih => intro m hm; exact ih _ (Mem.wf_put m _ _ hm)
  exact key _ h.v hw

/-- Writing elements keeps the vector file in its canonical form. -/
theorem Hand.wf_setElem (h : Hand) (r : Fld5) (e v : Nat) (hw : Mem.wf h.v = true) : Mem.wf (h.setElem r e v).v = true :=
  Hand.wf_setVN h _ _ _ _ hw

end Sys2Proof.Machine
end

