-- ==== Sys2Proof/Laws/State.lean ====
section
/-! SUPPORT. What the updates of the state, of a hand and of its CSRs leave as it was: one lemma for each field and update. -/

namespace Sys2Proof.Machine

/-! ### State.setX -/

@[simp] theorem State.setX_others (s : State) (r : Fld5) (v : Reg64) : (s.setX r v).others = s.others := rfl
@[simp] theorem State.setX_agenda (s : State) (r : Fld5) (v : Reg64) : (s.setX r v).agenda = s.agenda := rfl
@[simp] theorem State.setX_latch (s : State) (r : Fld5) (v : Reg64) : (s.setX r v).latch = s.latch := rfl
@[simp] theorem State.setX_freeCtr (s : State) (r : Fld5) (v : Reg64) : (s.setX r v).freeCtr = s.freeCtr := rfl
@[simp] theorem State.setX_cores (s : State) (r : Fld5) (v : Reg64) : (s.setX r v).cores = s.cores := rfl
@[simp] theorem State.setX_fields (s : State) (r : Fld5) (v : Reg64) : (s.setX r v).fields = s.fields := rfl
@[simp] theorem State.setX_serials (s : State) (r : Fld5) (v : Reg64) : (s.setX r v).serials = s.serials := rfl
@[simp] theorem State.setX_asids (s : State) (r : Fld5) (v : Reg64) : (s.setX r v).asids = s.asids := rfl
@[simp] theorem State.setX_cached (s : State) (r : Fld5) (v : Reg64) : (s.setX r v).cached = s.cached := rfl
@[simp] theorem State.setX_queues (s : State) (r : Fld5) (v : Reg64) : (s.setX r v).queues = s.queues := rfl
@[simp] theorem State.setX_ctlSeq (s : State) (r : Fld5) (v : Reg64) : (s.setX r v).ctlSeq = s.ctlSeq := rfl
@[simp] theorem State.setX_tasks (s : State) (r : Fld5) (v : Reg64) : (s.setX r v).tasks = s.tasks := rfl
@[simp] theorem State.setX_copies (s : State) (r : Fld5) (v : Reg64) : (s.setX r v).copies = s.copies := rfl
@[simp] theorem State.setX_xchgs (s : State) (r : Fld5) (v : Reg64) : (s.setX r v).xchgs = s.xchgs := rfl
@[simp] theorem State.setX_seats (s : State) (r : Fld5) (v : Reg64) : (s.setX r v).seats = s.seats := rfl
@[simp] theorem State.setX_regions (s : State) (r : Fld5) (v : Reg64) : (s.setX r v).regions = s.regions := rfl
@[simp] theorem State.setX_boot (s : State) (r : Fld5) (v : Reg64) : (s.setX r v).boot = s.boot := rfl
@[simp] theorem State.setX_measured (s : State) (r : Fld5) (v : Reg64) : (s.setX r v).measured = s.measured := rfl
@[simp] theorem State.setX_firstUp (s : State) (r : Fld5) (v : Reg64) : (s.setX r v).firstUp = s.firstUp := rfl
@[simp] theorem State.setX_mem (s : State) (r : Fld5) (v : Reg64) : (s.setX r v).mem = s.mem := rfl
@[simp] theorem State.setX_faults (s : State) (r : Fld5) (v : Reg64) : (s.setX r v).faults = s.faults := rfl
@[simp] theorem State.setX_pool (s : State) (r : Fld5) (v : Reg64) : (s.setX r v).pool = s.pool := rfl
@[simp] theorem State.setX_pod (s : State) (r : Fld5) (v : Reg64) : (s.setX r v).pod = s.pod := rfl
@[simp] theorem State.setX_dudel (s : State) (r : Fld5) (v : Reg64) : (s.setX r v).dudel = s.dudel := rfl

/-! ### State.jumpTo -/

@[simp] theorem State.jumpTo_others (s : State) (pc : Reg64) : (s.jumpTo pc).others = s.others := rfl
@[simp] theorem State.jumpTo_agenda (s : State) (pc : Reg64) : (s.jumpTo pc).agenda = s.agenda := rfl
@[simp] theorem State.jumpTo_latch (s : State) (pc : Reg64) : (s.jumpTo pc).latch = s.latch := rfl
@[simp] theorem State.jumpTo_freeCtr (s : State) (pc : Reg64) : (s.jumpTo pc).freeCtr = s.freeCtr := rfl
@[simp] theorem State.jumpTo_cores (s : State) (pc : Reg64) : (s.jumpTo pc).cores = s.cores := rfl
@[simp] theorem State.jumpTo_fields (s : State) (pc : Reg64) : (s.jumpTo pc).fields = s.fields := rfl
@[simp] theorem State.jumpTo_serials (s : State) (pc : Reg64) : (s.jumpTo pc).serials = s.serials := rfl
@[simp] theorem State.jumpTo_asids (s : State) (pc : Reg64) : (s.jumpTo pc).asids = s.asids := rfl
@[simp] theorem State.jumpTo_cached (s : State) (pc : Reg64) : (s.jumpTo pc).cached = s.cached := rfl
@[simp] theorem State.jumpTo_queues (s : State) (pc : Reg64) : (s.jumpTo pc).queues = s.queues := rfl
@[simp] theorem State.jumpTo_ctlSeq (s : State) (pc : Reg64) : (s.jumpTo pc).ctlSeq = s.ctlSeq := rfl
@[simp] theorem State.jumpTo_tasks (s : State) (pc : Reg64) : (s.jumpTo pc).tasks = s.tasks := rfl
@[simp] theorem State.jumpTo_copies (s : State) (pc : Reg64) : (s.jumpTo pc).copies = s.copies := rfl
@[simp] theorem State.jumpTo_xchgs (s : State) (pc : Reg64) : (s.jumpTo pc).xchgs = s.xchgs := rfl
@[simp] theorem State.jumpTo_seats (s : State) (pc : Reg64) : (s.jumpTo pc).seats = s.seats := rfl
@[simp] theorem State.jumpTo_regions (s : State) (pc : Reg64) : (s.jumpTo pc).regions = s.regions := rfl
@[simp] theorem State.jumpTo_boot (s : State) (pc : Reg64) : (s.jumpTo pc).boot = s.boot := rfl
@[simp] theorem State.jumpTo_measured (s : State) (pc : Reg64) : (s.jumpTo pc).measured = s.measured := rfl
@[simp] theorem State.jumpTo_firstUp (s : State) (pc : Reg64) : (s.jumpTo pc).firstUp = s.firstUp := rfl
@[simp] theorem State.jumpTo_mem (s : State) (pc : Reg64) : (s.jumpTo pc).mem = s.mem := rfl
@[simp] theorem State.jumpTo_faults (s : State) (pc : Reg64) : (s.jumpTo pc).faults = s.faults := rfl
@[simp] theorem State.jumpTo_pool (s : State) (pc : Reg64) : (s.jumpTo pc).pool = s.pool := rfl
@[simp] theorem State.jumpTo_pod (s : State) (pc : Reg64) : (s.jumpTo pc).pod = s.pod := rfl
@[simp] theorem State.jumpTo_dudel (s : State) (pc : Reg64) : (s.jumpTo pc).dudel = s.dudel := rfl

/-! ### State.retire -/

@[simp] theorem State.retire_others (s : State) (n : Nat) : (s.retire n).others = s.others := rfl
@[simp] theorem State.retire_agenda (s : State) (n : Nat) : (s.retire n).agenda = s.agenda := rfl
@[simp] theorem State.retire_latch (s : State) (n : Nat) : (s.retire n).latch = s.latch := rfl
@[simp] theorem State.retire_freeCtr (s : State) (n : Nat) : (s.retire n).freeCtr = s.freeCtr := rfl
@[simp] theorem State.retire_cores (s : State) (n : Nat) : (s.retire n).cores = s.cores := rfl
@[simp] theorem State.retire_fields (s : State) (n : Nat) : (s.retire n).fields = s.fields := rfl
@[simp] theorem State.retire_serials (s : State) (n : Nat) : (s.retire n).serials = s.serials := rfl
@[simp] theorem State.retire_asids (s : State) (n : Nat) : (s.retire n).asids = s.asids := rfl
@[simp] theorem State.retire_cached (s : State) (n : Nat) : (s.retire n).cached = s.cached := rfl
@[simp] theorem State.retire_queues (s : State) (n : Nat) : (s.retire n).queues = s.queues := rfl
@[simp] theorem State.retire_ctlSeq (s : State) (n : Nat) : (s.retire n).ctlSeq = s.ctlSeq := rfl
@[simp] theorem State.retire_tasks (s : State) (n : Nat) : (s.retire n).tasks = s.tasks := rfl
@[simp] theorem State.retire_copies (s : State) (n : Nat) : (s.retire n).copies = s.copies := rfl
@[simp] theorem State.retire_xchgs (s : State) (n : Nat) : (s.retire n).xchgs = s.xchgs := rfl
@[simp] theorem State.retire_seats (s : State) (n : Nat) : (s.retire n).seats = s.seats := rfl
@[simp] theorem State.retire_regions (s : State) (n : Nat) : (s.retire n).regions = s.regions := rfl
@[simp] theorem State.retire_boot (s : State) (n : Nat) : (s.retire n).boot = s.boot := rfl
@[simp] theorem State.retire_measured (s : State) (n : Nat) : (s.retire n).measured = s.measured := rfl
@[simp] theorem State.retire_firstUp (s : State) (n : Nat) : (s.retire n).firstUp = s.firstUp := rfl
@[simp] theorem State.retire_mem (s : State) (n : Nat) : (s.retire n).mem = s.mem := rfl
@[simp] theorem State.retire_faults (s : State) (n : Nat) : (s.retire n).faults = s.faults := rfl
@[simp] theorem State.retire_pool (s : State) (n : Nat) : (s.retire n).pool = s.pool := rfl
@[simp] theorem State.retire_pod (s : State) (n : Nat) : (s.retire n).pod = s.pod := rfl
@[simp] theorem State.retire_dudel (s : State) (n : Nat) : (s.retire n).dudel = s.dudel := rfl

/-! ### State.waits -/

@[simp] theorem State.waits_others (s : State) (w : Wait) : (s.waits w).others = s.others := rfl
@[simp] theorem State.waits_agenda (s : State) (w : Wait) : (s.waits w).agenda = s.agenda := rfl
@[simp] theorem State.waits_freeCtr (s : State) (w : Wait) : (s.waits w).freeCtr = s.freeCtr := rfl
@[simp] theorem State.waits_cores (s : State) (w : Wait) : (s.waits w).cores = s.cores := rfl
@[simp] theorem State.waits_fields (s : State) (w : Wait) : (s.waits w).fields = s.fields := rfl
@[simp] theorem State.waits_serials (s : State) (w : Wait) : (s.waits w).serials = s.serials := rfl
@[simp] theorem State.waits_asids (s : State) (w : Wait) : (s.waits w).asids = s.asids := rfl
@[simp] theorem State.waits_cached (s : State) (w : Wait) : (s.waits w).cached = s.cached := rfl
@[simp] theorem State.waits_queues (s : State) (w : Wait) : (s.waits w).queues = s.queues := rfl
@[simp] theorem State.waits_ctlSeq (s : State) (w : Wait) : (s.waits w).ctlSeq = s.ctlSeq := rfl
@[simp] theorem State.waits_tasks (s : State) (w : Wait) : (s.waits w).tasks = s.tasks := rfl
@[simp] theorem State.waits_copies (s : State) (w : Wait) : (s.waits w).copies = s.copies := rfl
@[simp] theorem State.waits_xchgs (s : State) (w : Wait) : (s.waits w).xchgs = s.xchgs := rfl
@[simp] theorem State.waits_seats (s : State) (w : Wait) : (s.waits w).seats = s.seats := rfl
@[simp] theorem State.waits_regions (s : State) (w : Wait) : (s.waits w).regions = s.regions := rfl
@[simp] theorem State.waits_boot (s : State) (w : Wait) : (s.waits w).boot = s.boot := rfl
@[simp] theorem State.waits_measured (s : State) (w : Wait) : (s.waits w).measured = s.measured := rfl
@[simp] theorem State.waits_firstUp (s : State) (w : Wait) : (s.waits w).firstUp = s.firstUp := rfl
@[simp] theorem State.waits_mem (s : State) (w : Wait) : (s.waits w).mem = s.mem := rfl
@[simp] theorem State.waits_faults (s : State) (w : Wait) : (s.waits w).faults = s.faults := rfl
@[simp] theorem State.waits_pool (s : State) (w : Wait) : (s.waits w).pool = s.pool := rfl
@[simp] theorem State.waits_pod (s : State) (w : Wait) : (s.waits w).pod = s.pod := rfl
@[simp] theorem State.waits_dudel (s : State) (w : Wait) : (s.waits w).dudel = s.dudel := rfl

/-! ### State.raise -/

@[simp] theorem State.raise_others (s : State) (fl : List (Nat × Nat)) : (s.raise fl).others = s.others := rfl
@[simp] theorem State.raise_agenda (s : State) (fl : List (Nat × Nat)) : (s.raise fl).agenda = s.agenda := rfl
@[simp] theorem State.raise_latch (s : State) (fl : List (Nat × Nat)) : (s.raise fl).latch = s.latch := rfl
@[simp] theorem State.raise_freeCtr (s : State) (fl : List (Nat × Nat)) : (s.raise fl).freeCtr = s.freeCtr := rfl
@[simp] theorem State.raise_cores (s : State) (fl : List (Nat × Nat)) : (s.raise fl).cores = s.cores := rfl
@[simp] theorem State.raise_fields (s : State) (fl : List (Nat × Nat)) : (s.raise fl).fields = s.fields := rfl
@[simp] theorem State.raise_serials (s : State) (fl : List (Nat × Nat)) : (s.raise fl).serials = s.serials := rfl
@[simp] theorem State.raise_asids (s : State) (fl : List (Nat × Nat)) : (s.raise fl).asids = s.asids := rfl
@[simp] theorem State.raise_cached (s : State) (fl : List (Nat × Nat)) : (s.raise fl).cached = s.cached := rfl
@[simp] theorem State.raise_queues (s : State) (fl : List (Nat × Nat)) : (s.raise fl).queues = s.queues := rfl
@[simp] theorem State.raise_ctlSeq (s : State) (fl : List (Nat × Nat)) : (s.raise fl).ctlSeq = s.ctlSeq := rfl
@[simp] theorem State.raise_tasks (s : State) (fl : List (Nat × Nat)) : (s.raise fl).tasks = s.tasks := rfl
@[simp] theorem State.raise_copies (s : State) (fl : List (Nat × Nat)) : (s.raise fl).copies = s.copies := rfl
@[simp] theorem State.raise_xchgs (s : State) (fl : List (Nat × Nat)) : (s.raise fl).xchgs = s.xchgs := rfl
@[simp] theorem State.raise_seats (s : State) (fl : List (Nat × Nat)) : (s.raise fl).seats = s.seats := rfl
@[simp] theorem State.raise_regions (s : State) (fl : List (Nat × Nat)) : (s.raise fl).regions = s.regions := rfl
@[simp] theorem State.raise_boot (s : State) (fl : List (Nat × Nat)) : (s.raise fl).boot = s.boot := rfl
@[simp] theorem State.raise_measured (s : State) (fl : List (Nat × Nat)) : (s.raise fl).measured = s.measured := rfl
@[simp] theorem State.raise_firstUp (s : State) (fl : List (Nat × Nat)) : (s.raise fl).firstUp = s.firstUp := rfl
@[simp] theorem State.raise_mem (s : State) (fl : List (Nat × Nat)) : (s.raise fl).mem = s.mem := rfl
@[simp] theorem State.raise_faults (s : State) (fl : List (Nat × Nat)) : (s.raise fl).faults = s.faults := rfl
@[simp] theorem State.raise_pool (s : State) (fl : List (Nat × Nat)) : (s.raise fl).pool = s.pool := rfl
@[simp] theorem State.raise_pod (s : State) (fl : List (Nat × Nat)) : (s.raise fl).pod = s.pod := rfl
@[simp] theorem State.raise_dudel (s : State) (fl : List (Nat × Nat)) : (s.raise fl).dudel = s.dudel := rfl

/-! ### State.charge -/

@[simp] theorem State.charge_others (s : State) (p : Pipe) (n : Nat) : (s.charge p n).others = s.others := rfl
@[simp] theorem State.charge_agenda (s : State) (p : Pipe) (n : Nat) : (s.charge p n).agenda = s.agenda := rfl
@[simp] theorem State.charge_latch (s : State) (p : Pipe) (n : Nat) : (s.charge p n).latch = s.latch := rfl
@[simp] theorem State.charge_freeCtr (s : State) (p : Pipe) (n : Nat) : (s.charge p n).freeCtr = s.freeCtr := rfl
@[simp] theorem State.charge_cores (s : State) (p : Pipe) (n : Nat) : (s.charge p n).cores = s.cores := rfl
@[simp] theorem State.charge_fields (s : State) (p : Pipe) (n : Nat) : (s.charge p n).fields = s.fields := rfl
@[simp] theorem State.charge_serials (s : State) (p : Pipe) (n : Nat) : (s.charge p n).serials = s.serials := rfl
@[simp] theorem State.charge_asids (s : State) (p : Pipe) (n : Nat) : (s.charge p n).asids = s.asids := rfl
@[simp] theorem State.charge_cached (s : State) (p : Pipe) (n : Nat) : (s.charge p n).cached = s.cached := rfl
@[simp] theorem State.charge_queues (s : State) (p : Pipe) (n : Nat) : (s.charge p n).queues = s.queues := rfl
@[simp] theorem State.charge_ctlSeq (s : State) (p : Pipe) (n : Nat) : (s.charge p n).ctlSeq = s.ctlSeq := rfl
@[simp] theorem State.charge_tasks (s : State) (p : Pipe) (n : Nat) : (s.charge p n).tasks = s.tasks := rfl
@[simp] theorem State.charge_copies (s : State) (p : Pipe) (n : Nat) : (s.charge p n).copies = s.copies := rfl
@[simp] theorem State.charge_xchgs (s : State) (p : Pipe) (n : Nat) : (s.charge p n).xchgs = s.xchgs := rfl
@[simp] theorem State.charge_seats (s : State) (p : Pipe) (n : Nat) : (s.charge p n).seats = s.seats := rfl
@[simp] theorem State.charge_regions (s : State) (p : Pipe) (n : Nat) : (s.charge p n).regions = s.regions := rfl
@[simp] theorem State.charge_boot (s : State) (p : Pipe) (n : Nat) : (s.charge p n).boot = s.boot := rfl
@[simp] theorem State.charge_measured (s : State) (p : Pipe) (n : Nat) : (s.charge p n).measured = s.measured := rfl
@[simp] theorem State.charge_firstUp (s : State) (p : Pipe) (n : Nat) : (s.charge p n).firstUp = s.firstUp := rfl
@[simp] theorem State.charge_mem (s : State) (p : Pipe) (n : Nat) : (s.charge p n).mem = s.mem := rfl
@[simp] theorem State.charge_faults (s : State) (p : Pipe) (n : Nat) : (s.charge p n).faults = s.faults := rfl
@[simp] theorem State.charge_pool (s : State) (p : Pipe) (n : Nat) : (s.charge p n).pool = s.pool := rfl
@[simp] theorem State.charge_pod (s : State) (p : Pipe) (n : Nat) : (s.charge p n).pod = s.pod := rfl
@[simp] theorem State.charge_dudel (s : State) (p : Pipe) (n : Nat) : (s.charge p n).dudel = s.dudel := rfl

/-! ### State.withHand -/

@[simp] theorem State.withHand_others (s : State) (h : Hand) : (s.withHand h).others = s.others := rfl
@[simp] theorem State.withHand_agenda (s : State) (h : Hand) : (s.withHand h).agenda = s.agenda := rfl
@[simp] theorem State.withHand_latch (s : State) (h : Hand) : (s.withHand h).latch = s.latch := rfl
@[simp] theorem State.withHand_freeCtr (s : State) (h : Hand) : (s.withHand h).freeCtr = s.freeCtr := rfl
@[simp] theorem State.withHand_cores (s : State) (h : Hand) : (s.withHand h).cores = s.cores := rfl
@[simp] theorem State.withHand_fields (s : State) (h : Hand) : (s.withHand h).fields = s.fields := rfl
@[simp] theorem State.withHand_serials (s : State) (h : Hand) : (s.withHand h).serials = s.serials := rfl
@[simp] theorem State.withHand_asids (s : State) (h : Hand) : (s.withHand h).asids = s.asids := rfl
@[simp] theorem State.withHand_cached (s : State) (h : Hand) : (s.withHand h).cached = s.cached := rfl
@[simp] theorem State.withHand_queues (s : State) (h : Hand) : (s.withHand h).queues = s.queues := rfl
@[simp] theorem State.withHand_ctlSeq (s : State) (h : Hand) : (s.withHand h).ctlSeq = s.ctlSeq := rfl
@[simp] theorem State.withHand_tasks (s : State) (h : Hand) : (s.withHand h).tasks = s.tasks := rfl
@[simp] theorem State.withHand_copies (s : State) (h : Hand) : (s.withHand h).copies = s.copies := rfl
@[simp] theorem State.withHand_xchgs (s : State) (h : Hand) : (s.withHand h).xchgs = s.xchgs := rfl
@[simp] theorem State.withHand_seats (s : State) (h : Hand) : (s.withHand h).seats = s.seats := rfl
@[simp] theorem State.withHand_regions (s : State) (h : Hand) : (s.withHand h).regions = s.regions := rfl
@[simp] theorem State.withHand_boot (s : State) (h : Hand) : (s.withHand h).boot = s.boot := rfl
@[simp] theorem State.withHand_measured (s : State) (h : Hand) : (s.withHand h).measured = s.measured := rfl
@[simp] theorem State.withHand_firstUp (s : State) (h : Hand) : (s.withHand h).firstUp = s.firstUp := rfl
@[simp] theorem State.withHand_mem (s : State) (h : Hand) : (s.withHand h).mem = s.mem := rfl
@[simp] theorem State.withHand_faults (s : State) (h : Hand) : (s.withHand h).faults = s.faults := rfl
@[simp] theorem State.withHand_pool (s : State) (h : Hand) : (s.withHand h).pool = s.pool := rfl
@[simp] theorem State.withHand_pod (s : State) (h : Hand) : (s.withHand h).pod = s.pod := rfl
@[simp] theorem State.withHand_dudel (s : State) (h : Hand) : (s.withHand h).dudel = s.dudel := rfl

/-! ### State.setStream -/

@[simp] theorem State.setStream_others (s : State) (n : Nat) (b : Option Stream) : (s.setStream n b).others = s.others := rfl
@[simp] theorem State.setStream_agenda (s : State) (n : Nat) (b : Option Stream) : (s.setStream n b).agenda = s.agenda := rfl
@[simp] theorem State.setStream_latch (s : State) (n : Nat) (b : Option Stream) : (s.setStream n b).latch = s.latch := rfl
@[simp] theorem State.setStream_freeCtr (s : State) (n : Nat) (b : Option Stream) : (s.setStream n b).freeCtr = s.freeCtr := rfl
@[simp] theorem State.setStream_cores (s : State) (n : Nat) (b : Option Stream) : (s.setStream n b).cores = s.cores := rfl
@[simp] theorem State.setStream_fields (s : State) (n : Nat) (b : Option Stream) : (s.setStream n b).fields = s.fields := rfl
@[simp] theorem State.setStream_serials (s : State) (n : Nat) (b : Option Stream) : (s.setStream n b).serials = s.serials := rfl
@[simp] theorem State.setStream_asids (s : State) (n : Nat) (b : Option Stream) : (s.setStream n b).asids = s.asids := rfl
@[simp] theorem State.setStream_cached (s : State) (n : Nat) (b : Option Stream) : (s.setStream n b).cached = s.cached := rfl
@[simp] theorem State.setStream_queues (s : State) (n : Nat) (b : Option Stream) : (s.setStream n b).queues = s.queues := rfl
@[simp] theorem State.setStream_ctlSeq (s : State) (n : Nat) (b : Option Stream) : (s.setStream n b).ctlSeq = s.ctlSeq := rfl
@[simp] theorem State.setStream_tasks (s : State) (n : Nat) (b : Option Stream) : (s.setStream n b).tasks = s.tasks := rfl
@[simp] theorem State.setStream_copies (s : State) (n : Nat) (b : Option Stream) : (s.setStream n b).copies = s.copies := rfl
@[simp] theorem State.setStream_xchgs (s : State) (n : Nat) (b : Option Stream) : (s.setStream n b).xchgs = s.xchgs := rfl
@[simp] theorem State.setStream_seats (s : State) (n : Nat) (b : Option Stream) : (s.setStream n b).seats = s.seats := rfl
@[simp] theorem State.setStream_regions (s : State) (n : Nat) (b : Option Stream) : (s.setStream n b).regions = s.regions := rfl
@[simp] theorem State.setStream_boot (s : State) (n : Nat) (b : Option Stream) : (s.setStream n b).boot = s.boot := rfl
@[simp] theorem State.setStream_measured (s : State) (n : Nat) (b : Option Stream) : (s.setStream n b).measured = s.measured := rfl
@[simp] theorem State.setStream_firstUp (s : State) (n : Nat) (b : Option Stream) : (s.setStream n b).firstUp = s.firstUp := rfl
@[simp] theorem State.setStream_mem (s : State) (n : Nat) (b : Option Stream) : (s.setStream n b).mem = s.mem := rfl
@[simp] theorem State.setStream_faults (s : State) (n : Nat) (b : Option Stream) : (s.setStream n b).faults = s.faults := rfl
@[simp] theorem State.setStream_pool (s : State) (n : Nat) (b : Option Stream) : (s.setStream n b).pool = s.pool := rfl
@[simp] theorem State.setStream_pod (s : State) (n : Nat) (b : Option Stream) : (s.setStream n b).pod = s.pod := rfl
@[simp] theorem State.setStream_dudel (s : State) (n : Nat) (b : Option Stream) : (s.setStream n b).dudel = s.dudel := rfl

/-! ### State.modCore -/

@[simp] theorem State.modCore_hand (s : State) (c : Nat) (f : Core → Core) : (s.modCore c f).hand = s.hand := rfl
@[simp] theorem State.modCore_others (s : State) (c : Nat) (f : Core → Core) : (s.modCore c f).others = s.others := rfl
@[simp] theorem State.modCore_agenda (s : State) (c : Nat) (f : Core → Core) : (s.modCore c f).agenda = s.agenda := rfl
@[simp] theorem State.modCore_latch (s : State) (c : Nat) (f : Core → Core) : (s.modCore c f).latch = s.latch := rfl
@[simp] theorem State.modCore_freeCtr (s : State) (c : Nat) (f : Core → Core) : (s.modCore c f).freeCtr = s.freeCtr := rfl
@[simp] theorem State.modCore_fields (s : State) (c : Nat) (f : Core → Core) : (s.modCore c f).fields = s.fields := rfl
@[simp] theorem State.modCore_serials (s : State) (c : Nat) (f : Core → Core) : (s.modCore c f).serials = s.serials := rfl
@[simp] theorem State.modCore_asids (s : State) (c : Nat) (f : Core → Core) : (s.modCore c f).asids = s.asids := rfl
@[simp] theorem State.modCore_cached (s : State) (c : Nat) (f : Core → Core) : (s.modCore c f).cached = s.cached := rfl
@[simp] theorem State.modCore_queues (s : State) (c : Nat) (f : Core → Core) : (s.modCore c f).queues = s.queues := rfl
@[simp] theorem State.modCore_ctlSeq (s : State) (c : Nat) (f : Core → Core) : (s.modCore c f).ctlSeq = s.ctlSeq := rfl
@[simp] theorem State.modCore_tasks (s : State) (c : Nat) (f : Core → Core) : (s.modCore c f).tasks = s.tasks := rfl
@[simp] theorem State.modCore_copies (s : State) (c : Nat) (f : Core → Core) : (s.modCore c f).copies = s.copies := rfl
@[simp] theorem State.modCore_xchgs (s : State) (c : Nat) (f : Core → Core) : (s.modCore c f).xchgs = s.xchgs := rfl
@[simp] theorem State.modCore_seats (s : State) (c : Nat) (f : Core → Core) : (s.modCore c f).seats = s.seats := rfl
@[simp] theorem State.modCore_regions (s : State) (c : Nat) (f : Core → Core) : (s.modCore c f).regions = s.regions := rfl
@[simp] theorem State.modCore_boot (s : State) (c : Nat) (f : Core → Core) : (s.modCore c f).boot = s.boot := rfl
@[simp] theorem State.modCore_measured (s : State) (c : Nat) (f : Core → Core) : (s.modCore c f).measured = s.measured := rfl
@[simp] theorem State.modCore_firstUp (s : State) (c : Nat) (f : Core → Core) : (s.modCore c f).firstUp = s.firstUp := rfl
@[simp] theorem State.modCore_mem (s : State) (c : Nat) (f : Core → Core) : (s.modCore c f).mem = s.mem := rfl
@[simp] theorem State.modCore_faults (s : State) (c : Nat) (f : Core → Core) : (s.modCore c f).faults = s.faults := rfl
@[simp] theorem State.modCore_pool (s : State) (c : Nat) (f : Core → Core) : (s.modCore c f).pool = s.pool := rfl
@[simp] theorem State.modCore_pod (s : State) (c : Nat) (f : Core → Core) : (s.modCore c f).pod = s.pod := rfl
@[simp] theorem State.modCore_dudel (s : State) (c : Nat) (f : Core → Core) : (s.modCore c f).dudel = s.dudel := rfl

/-! ### State.modTile -/

@[simp] theorem State.modTile_hand (s : State) (c t : Nat) (f : Tile → Tile) : (s.modTile c t f).hand = s.hand := rfl
@[simp] theorem State.modTile_others (s : State) (c t : Nat) (f : Tile → Tile) : (s.modTile c t f).others = s.others := rfl
@[simp] theorem State.modTile_agenda (s : State) (c t : Nat) (f : Tile → Tile) : (s.modTile c t f).agenda = s.agenda := rfl
@[simp] theorem State.modTile_latch (s : State) (c t : Nat) (f : Tile → Tile) : (s.modTile c t f).latch = s.latch := rfl
@[simp] theorem State.modTile_freeCtr (s : State) (c t : Nat) (f : Tile → Tile) : (s.modTile c t f).freeCtr = s.freeCtr := rfl
@[simp] theorem State.modTile_fields (s : State) (c t : Nat) (f : Tile → Tile) : (s.modTile c t f).fields = s.fields := rfl
@[simp] theorem State.modTile_serials (s : State) (c t : Nat) (f : Tile → Tile) : (s.modTile c t f).serials = s.serials := rfl
@[simp] theorem State.modTile_asids (s : State) (c t : Nat) (f : Tile → Tile) : (s.modTile c t f).asids = s.asids := rfl
@[simp] theorem State.modTile_cached (s : State) (c t : Nat) (f : Tile → Tile) : (s.modTile c t f).cached = s.cached := rfl
@[simp] theorem State.modTile_queues (s : State) (c t : Nat) (f : Tile → Tile) : (s.modTile c t f).queues = s.queues := rfl
@[simp] theorem State.modTile_ctlSeq (s : State) (c t : Nat) (f : Tile → Tile) : (s.modTile c t f).ctlSeq = s.ctlSeq := rfl
@[simp] theorem State.modTile_tasks (s : State) (c t : Nat) (f : Tile → Tile) : (s.modTile c t f).tasks = s.tasks := rfl
@[simp] theorem State.modTile_copies (s : State) (c t : Nat) (f : Tile → Tile) : (s.modTile c t f).copies = s.copies := rfl
@[simp] theorem State.modTile_xchgs (s : State) (c t : Nat) (f : Tile → Tile) : (s.modTile c t f).xchgs = s.xchgs := rfl
@[simp] theorem State.modTile_seats (s : State) (c t : Nat) (f : Tile → Tile) : (s.modTile c t f).seats = s.seats := rfl
@[simp] theorem State.modTile_regions (s : State) (c t : Nat) (f : Tile → Tile) : (s.modTile c t f).regions = s.regions := rfl
@[simp] theorem State.modTile_boot (s : State) (c t : Nat) (f : Tile → Tile) : (s.modTile c t f).boot = s.boot := rfl
@[simp] theorem State.modTile_measured (s : State) (c t : Nat) (f : Tile → Tile) : (s.modTile c t f).measured = s.measured := rfl
@[simp] theorem State.modTile_firstUp (s : State) (c t : Nat) (f : Tile → Tile) : (s.modTile c t f).firstUp = s.firstUp := rfl
@[simp] theorem State.modTile_mem (s : State) (c t : Nat) (f : Tile → Tile) : (s.modTile c t f).mem = s.mem := rfl
@[simp] theorem State.modTile_faults (s : State) (c t : Nat) (f : Tile → Tile) : (s.modTile c t f).faults = s.faults := rfl
@[simp] theorem State.modTile_pool (s : State) (c t : Nat) (f : Tile → Tile) : (s.modTile c t f).pool = s.pool := rfl
@[simp] theorem State.modTile_pod (s : State) (c t : Nat) (f : Tile → Tile) : (s.modTile c t f).pod = s.pod := rfl
@[simp] theorem State.modTile_dudel (s : State) (c t : Nat) (f : Tile → Tile) : (s.modTile c t f).dudel = s.dudel := rfl

/-! ### State.modField -/

@[simp] theorem State.modField_hand (s : State) (f : Nat) (g : Field → Field) : (s.modField f g).hand = s.hand := rfl
@[simp] theorem State.modField_others (s : State) (f : Nat) (g : Field → Field) : (s.modField f g).others = s.others := rfl
@[simp] theorem State.modField_agenda (s : State) (f : Nat) (g : Field → Field) : (s.modField f g).agenda = s.agenda := rfl
@[simp] theorem State.modField_latch (s : State) (f : Nat) (g : Field → Field) : (s.modField f g).latch = s.latch := rfl
@[simp] theorem State.modField_freeCtr (s : State) (f : Nat) (g : Field → Field) : (s.modField f g).freeCtr = s.freeCtr := rfl
@[simp] theorem State.modField_cores (s : State) (f : Nat) (g : Field → Field) : (s.modField f g).cores = s.cores := rfl
@[simp] theorem State.modField_serials (s : State) (f : Nat) (g : Field → Field) : (s.modField f g).serials = s.serials := rfl
@[simp] theorem State.modField_asids (s : State) (f : Nat) (g : Field → Field) : (s.modField f g).asids = s.asids := rfl
@[simp] theorem State.modField_cached (s : State) (f : Nat) (g : Field → Field) : (s.modField f g).cached = s.cached := rfl
@[simp] theorem State.modField_queues (s : State) (f : Nat) (g : Field → Field) : (s.modField f g).queues = s.queues := rfl
@[simp] theorem State.modField_ctlSeq (s : State) (f : Nat) (g : Field → Field) : (s.modField f g).ctlSeq = s.ctlSeq := rfl
@[simp] theorem State.modField_tasks (s : State) (f : Nat) (g : Field → Field) : (s.modField f g).tasks = s.tasks := rfl
@[simp] theorem State.modField_copies (s : State) (f : Nat) (g : Field → Field) : (s.modField f g).copies = s.copies := rfl
@[simp] theorem State.modField_xchgs (s : State) (f : Nat) (g : Field → Field) : (s.modField f g).xchgs = s.xchgs := rfl
@[simp] theorem State.modField_seats (s : State) (f : Nat) (g : Field → Field) : (s.modField f g).seats = s.seats := rfl
@[simp] theorem State.modField_regions (s : State) (f : Nat) (g : Field → Field) : (s.modField f g).regions = s.regions := rfl
@[simp] theorem State.modField_boot (s : State) (f : Nat) (g : Field → Field) : (s.modField f g).boot = s.boot := rfl
@[simp] theorem State.modField_measured (s : State) (f : Nat) (g : Field → Field) : (s.modField f g).measured = s.measured := rfl
@[simp] theorem State.modField_firstUp (s : State) (f : Nat) (g : Field → Field) : (s.modField f g).firstUp = s.firstUp := rfl
@[simp] theorem State.modField_mem (s : State) (f : Nat) (g : Field → Field) : (s.modField f g).mem = s.mem := rfl
@[simp] theorem State.modField_faults (s : State) (f : Nat) (g : Field → Field) : (s.modField f g).faults = s.faults := rfl
@[simp] theorem State.modField_pool (s : State) (f : Nat) (g : Field → Field) : (s.modField f g).pool = s.pool := rfl
@[simp] theorem State.modField_pod (s : State) (f : Nat) (g : Field → Field) : (s.modField f g).pod = s.pod := rfl
@[simp] theorem State.modField_dudel (s : State) (f : Nat) (g : Field → Field) : (s.modField f g).dudel = s.dudel := rfl

/-! ### State.modTask -/

@[simp] theorem State.modTask_hand (s : State) (n : Nat) (f : Task → Task) : (s.modTask n f).hand = s.hand := rfl
@[simp] theorem State.modTask_others (s : State) (n : Nat) (f : Task → Task) : (s.modTask n f).others = s.others := rfl
@[simp] theorem State.modTask_agenda (s : State) (n : Nat) (f : Task → Task) : (s.modTask n f).agenda = s.agenda := rfl
@[simp] theorem State.modTask_latch (s : State) (n : Nat) (f : Task → Task) : (s.modTask n f).latch = s.latch := rfl
@[simp] theorem State.modTask_freeCtr (s : State) (n : Nat) (f : Task → Task) : (s.modTask n f).freeCtr = s.freeCtr := rfl
@[simp] theorem State.modTask_cores (s : State) (n : Nat) (f : Task → Task) : (s.modTask n f).cores = s.cores := rfl
@[simp] theorem State.modTask_fields (s : State) (n : Nat) (f : Task → Task) : (s.modTask n f).fields = s.fields := rfl
@[simp] theorem State.modTask_serials (s : State) (n : Nat) (f : Task → Task) : (s.modTask n f).serials = s.serials := rfl
@[simp] theorem State.modTask_asids (s : State) (n : Nat) (f : Task → Task) : (s.modTask n f).asids = s.asids := rfl
@[simp] theorem State.modTask_cached (s : State) (n : Nat) (f : Task → Task) : (s.modTask n f).cached = s.cached := rfl
@[simp] theorem State.modTask_queues (s : State) (n : Nat) (f : Task → Task) : (s.modTask n f).queues = s.queues := rfl
@[simp] theorem State.modTask_ctlSeq (s : State) (n : Nat) (f : Task → Task) : (s.modTask n f).ctlSeq = s.ctlSeq := rfl
@[simp] theorem State.modTask_copies (s : State) (n : Nat) (f : Task → Task) : (s.modTask n f).copies = s.copies := rfl
@[simp] theorem State.modTask_xchgs (s : State) (n : Nat) (f : Task → Task) : (s.modTask n f).xchgs = s.xchgs := rfl
@[simp] theorem State.modTask_seats (s : State) (n : Nat) (f : Task → Task) : (s.modTask n f).seats = s.seats := rfl
@[simp] theorem State.modTask_regions (s : State) (n : Nat) (f : Task → Task) : (s.modTask n f).regions = s.regions := rfl
@[simp] theorem State.modTask_boot (s : State) (n : Nat) (f : Task → Task) : (s.modTask n f).boot = s.boot := rfl
@[simp] theorem State.modTask_measured (s : State) (n : Nat) (f : Task → Task) : (s.modTask n f).measured = s.measured := rfl
@[simp] theorem State.modTask_firstUp (s : State) (n : Nat) (f : Task → Task) : (s.modTask n f).firstUp = s.firstUp := rfl
@[simp] theorem State.modTask_mem (s : State) (n : Nat) (f : Task → Task) : (s.modTask n f).mem = s.mem := rfl
@[simp] theorem State.modTask_faults (s : State) (n : Nat) (f : Task → Task) : (s.modTask n f).faults = s.faults := rfl
@[simp] theorem State.modTask_pool (s : State) (n : Nat) (f : Task → Task) : (s.modTask n f).pool = s.pool := rfl
@[simp] theorem State.modTask_pod (s : State) (n : Nat) (f : Task → Task) : (s.modTask n f).pod = s.pod := rfl
@[simp] theorem State.modTask_dudel (s : State) (n : Nat) (f : Task → Task) : (s.modTask n f).dudel = s.dudel := rfl

/-! ### State.modQueue -/

@[simp] theorem State.modQueue_hand (s : State) (q : Nat) (f : Queue → Queue) : (s.modQueue q f).hand = s.hand := rfl
@[simp] theorem State.modQueue_others (s : State) (q : Nat) (f : Queue → Queue) : (s.modQueue q f).others = s.others := rfl
@[simp] theorem State.modQueue_agenda (s : State) (q : Nat) (f : Queue → Queue) : (s.modQueue q f).agenda = s.agenda := rfl
@[simp] theorem State.modQueue_latch (s : State) (q : Nat) (f : Queue → Queue) : (s.modQueue q f).latch = s.latch := rfl
@[simp] theorem State.modQueue_freeCtr (s : State) (q : Nat) (f : Queue → Queue) : (s.modQueue q f).freeCtr = s.freeCtr := rfl
@[simp] theorem State.modQueue_cores (s : State) (q : Nat) (f : Queue → Queue) : (s.modQueue q f).cores = s.cores := rfl
@[simp] theorem State.modQueue_fields (s : State) (q : Nat) (f : Queue → Queue) : (s.modQueue q f).fields = s.fields := rfl
@[simp] theorem State.modQueue_serials (s : State) (q : Nat) (f : Queue → Queue) : (s.modQueue q f).serials = s.serials := rfl
@[simp] theorem State.modQueue_asids (s : State) (q : Nat) (f : Queue → Queue) : (s.modQueue q f).asids = s.asids := rfl
@[simp] theorem State.modQueue_cached (s : State) (q : Nat) (f : Queue → Queue) : (s.modQueue q f).cached = s.cached := rfl
@[simp] theorem State.modQueue_ctlSeq (s : State) (q : Nat) (f : Queue → Queue) : (s.modQueue q f).ctlSeq = s.ctlSeq := rfl
@[simp] theorem State.modQueue_tasks (s : State) (q : Nat) (f : Queue → Queue) : (s.modQueue q f).tasks = s.tasks := rfl
@[simp] theorem State.modQueue_copies (s : State) (q : Nat) (f : Queue → Queue) : (s.modQueue q f).copies = s.copies := rfl
@[simp] theorem State.modQueue_xchgs (s : State) (q : Nat) (f : Queue → Queue) : (s.modQueue q f).xchgs = s.xchgs := rfl
@[simp] theorem State.modQueue_seats (s : State) (q : Nat) (f : Queue → Queue) : (s.modQueue q f).seats = s.seats := rfl
@[simp] theorem State.modQueue_regions (s : State) (q : Nat) (f : Queue → Queue) : (s.modQueue q f).regions = s.regions := rfl
@[simp] theorem State.modQueue_boot (s : State) (q : Nat) (f : Queue → Queue) : (s.modQueue q f).boot = s.boot := rfl
@[simp] theorem State.modQueue_measured (s : State) (q : Nat) (f : Queue → Queue) : (s.modQueue q f).measured = s.measured := rfl
@[simp] theorem State.modQueue_firstUp (s : State) (q : Nat) (f : Queue → Queue) : (s.modQueue q f).firstUp = s.firstUp := rfl
@[simp] theorem State.modQueue_mem (s : State) (q : Nat) (f : Queue → Queue) : (s.modQueue q f).mem = s.mem := rfl
@[simp] theorem State.modQueue_faults (s : State) (q : Nat) (f : Queue → Queue) : (s.modQueue q f).faults = s.faults := rfl
@[simp] theorem State.modQueue_pool (s : State) (q : Nat) (f : Queue → Queue) : (s.modQueue q f).pool = s.pool := rfl
@[simp] theorem State.modQueue_pod (s : State) (q : Nat) (f : Queue → Queue) : (s.modQueue q f).pod = s.pod := rfl
@[simp] theorem State.modQueue_dudel (s : State) (q : Nat) (f : Queue → Queue) : (s.modQueue q f).dudel = s.dudel := rfl

/-! ### State.forget -/

@[simp] theorem State.forget_hand (s : State) (t m : Nat) (l : List Nat) : (s.forget t m l).hand = s.hand := rfl
@[simp] theorem State.forget_others (s : State) (t m : Nat) (l : List Nat) : (s.forget t m l).others = s.others := rfl
@[simp] theorem State.forget_agenda (s : State) (t m : Nat) (l : List Nat) : (s.forget t m l).agenda = s.agenda := rfl
@[simp] theorem State.forget_latch (s : State) (t m : Nat) (l : List Nat) : (s.forget t m l).latch = s.latch := rfl
@[simp] theorem State.forget_freeCtr (s : State) (t m : Nat) (l : List Nat) : (s.forget t m l).freeCtr = s.freeCtr := rfl
@[simp] theorem State.forget_cores (s : State) (t m : Nat) (l : List Nat) : (s.forget t m l).cores = s.cores := rfl
@[simp] theorem State.forget_fields (s : State) (t m : Nat) (l : List Nat) : (s.forget t m l).fields = s.fields := rfl
@[simp] theorem State.forget_serials (s : State) (t m : Nat) (l : List Nat) : (s.forget t m l).serials = s.serials := rfl
@[simp] theorem State.forget_asids (s : State) (t m : Nat) (l : List Nat) : (s.forget t m l).asids = s.asids := rfl
@[simp] theorem State.forget_cached (s : State) (t m : Nat) (l : List Nat) : (s.forget t m l).cached = s.cached := rfl
@[simp] theorem State.forget_queues (s : State) (t m : Nat) (l : List Nat) : (s.forget t m l).queues = s.queues := rfl
@[simp] theorem State.forget_ctlSeq (s : State) (t m : Nat) (l : List Nat) : (s.forget t m l).ctlSeq = s.ctlSeq := rfl
@[simp] theorem State.forget_copies (s : State) (t m : Nat) (l : List Nat) : (s.forget t m l).copies = s.copies := rfl
@[simp] theorem State.forget_xchgs (s : State) (t m : Nat) (l : List Nat) : (s.forget t m l).xchgs = s.xchgs := rfl
@[simp] theorem State.forget_seats (s : State) (t m : Nat) (l : List Nat) : (s.forget t m l).seats = s.seats := rfl
@[simp] theorem State.forget_regions (s : State) (t m : Nat) (l : List Nat) : (s.forget t m l).regions = s.regions := rfl
@[simp] theorem State.forget_boot (s : State) (t m : Nat) (l : List Nat) : (s.forget t m l).boot = s.boot := rfl
@[simp] theorem State.forget_measured (s : State) (t m : Nat) (l : List Nat) : (s.forget t m l).measured = s.measured := rfl
@[simp] theorem State.forget_firstUp (s : State) (t m : Nat) (l : List Nat) : (s.forget t m l).firstUp = s.firstUp := rfl
@[simp] theorem State.forget_mem (s : State) (t m : Nat) (l : List Nat) : (s.forget t m l).mem = s.mem := rfl
@[simp] theorem State.forget_faults (s : State) (t m : Nat) (l : List Nat) : (s.forget t m l).faults = s.faults := rfl
@[simp] theorem State.forget_pool (s : State) (t m : Nat) (l : List Nat) : (s.forget t m l).pool = s.pool := rfl
@[simp] theorem State.forget_pod (s : State) (t m : Nat) (l : List Nat) : (s.forget t m l).pod = s.pod := rfl
@[simp] theorem State.forget_dudel (s : State) (t m : Nat) (l : List Nat) : (s.forget t m l).dudel = s.dudel := rfl

/-! ### State.issueJob -/

@[simp] theorem State.issueJob_others (s : State) (w : Word) (o : MmaOp) (fo : Option Nat) : (s.issueJob w o fo).others = s.others := rfl
@[simp] theorem State.issueJob_agenda (s : State) (w : Word) (o : MmaOp) (fo : Option Nat) : (s.issueJob w o fo).agenda = s.agenda := rfl
@[simp] theorem State.issueJob_latch (s : State) (w : Word) (o : MmaOp) (fo : Option Nat) : (s.issueJob w o fo).latch = s.latch := rfl
@[simp] theorem State.issueJob_freeCtr (s : State) (w : Word) (o : MmaOp) (fo : Option Nat) : (s.issueJob w o fo).freeCtr = s.freeCtr := rfl
@[simp] theorem State.issueJob_cores (s : State) (w : Word) (o : MmaOp) (fo : Option Nat) : (s.issueJob w o fo).cores = s.cores := rfl
@[simp] theorem State.issueJob_fields (s : State) (w : Word) (o : MmaOp) (fo : Option Nat) : (s.issueJob w o fo).fields = s.fields := rfl
@[simp] theorem State.issueJob_serials (s : State) (w : Word) (o : MmaOp) (fo : Option Nat) : (s.issueJob w o fo).serials = s.serials := rfl
@[simp] theorem State.issueJob_asids (s : State) (w : Word) (o : MmaOp) (fo : Option Nat) : (s.issueJob w o fo).asids = s.asids := rfl
@[simp] theorem State.issueJob_cached (s : State) (w : Word) (o : MmaOp) (fo : Option Nat) : (s.issueJob w o fo).cached = s.cached := rfl
@[simp] theorem State.issueJob_queues (s : State) (w : Word) (o : MmaOp) (fo : Option Nat) : (s.issueJob w o fo).queues = s.queues := rfl
@[simp] theorem State.issueJob_ctlSeq (s : State) (w : Word) (o : MmaOp) (fo : Option Nat) : (s.issueJob w o fo).ctlSeq = s.ctlSeq := rfl
@[simp] theorem State.issueJob_tasks (s : State) (w : Word) (o : MmaOp) (fo : Option Nat) : (s.issueJob w o fo).tasks = s.tasks := rfl
@[simp] theorem State.issueJob_copies (s : State) (w : Word) (o : MmaOp) (fo : Option Nat) : (s.issueJob w o fo).copies = s.copies := rfl
@[simp] theorem State.issueJob_xchgs (s : State) (w : Word) (o : MmaOp) (fo : Option Nat) : (s.issueJob w o fo).xchgs = s.xchgs := rfl
@[simp] theorem State.issueJob_seats (s : State) (w : Word) (o : MmaOp) (fo : Option Nat) : (s.issueJob w o fo).seats = s.seats := rfl
@[simp] theorem State.issueJob_regions (s : State) (w : Word) (o : MmaOp) (fo : Option Nat) : (s.issueJob w o fo).regions = s.regions := rfl
@[simp] theorem State.issueJob_boot (s : State) (w : Word) (o : MmaOp) (fo : Option Nat) : (s.issueJob w o fo).boot = s.boot := rfl
@[simp] theorem State.issueJob_measured (s : State) (w : Word) (o : MmaOp) (fo : Option Nat) : (s.issueJob w o fo).measured = s.measured := rfl
@[simp] theorem State.issueJob_firstUp (s : State) (w : Word) (o : MmaOp) (fo : Option Nat) : (s.issueJob w o fo).firstUp = s.firstUp := rfl
@[simp] theorem State.issueJob_faults (s : State) (w : Word) (o : MmaOp) (fo : Option Nat) : (s.issueJob w o fo).faults = s.faults := rfl
@[simp] theorem State.issueJob_pool (s : State) (w : Word) (o : MmaOp) (fo : Option Nat) : (s.issueJob w o fo).pool = s.pool := rfl
@[simp] theorem State.issueJob_pod (s : State) (w : Word) (o : MmaOp) (fo : Option Nat) : (s.issueJob w o fo).pod = s.pod := rfl
@[simp] theorem State.issueJob_dudel (s : State) (w : Word) (o : MmaOp) (fo : Option Nat) : (s.issueJob w o fo).dudel = s.dudel := rfl

/-! ### State.modHand -/

@[simp] theorem State.modHand_agenda (s : State) (n : Nat) (f : Hand → Hand) : (s.modHand n f).agenda = s.agenda := by
  unfold State.modHand; split <;> rfl
@[simp] theorem State.modHand_latch (s : State) (n : Nat) (f : Hand → Hand) : (s.modHand n f).latch = s.latch := by
  unfold State.modHand; split <;> rfl
@[simp] theorem State.modHand_freeCtr (s : State) (n : Nat) (f : Hand → Hand) : (s.modHand n f).freeCtr = s.freeCtr := by
  unfold State.modHand; split <;> rfl
@[simp] theorem State.modHand_cores (s : State) (n : Nat) (f : Hand → Hand) : (s.modHand n f).cores = s.cores := by
  unfold State.modHand; split <;> rfl
@[simp] theorem State.modHand_fields (s : State) (n : Nat) (f : Hand → Hand) : (s.modHand n f).fields = s.fields := by
  unfold State.modHand; split <;> rfl
@[simp] theorem State.modHand_serials (s : State) (n : Nat) (f : Hand → Hand) : (s.modHand n f).serials = s.serials := by
  unfold State.modHand; split <;> rfl
@[simp] theorem State.modHand_asids (s : State) (n : Nat) (f : Hand → Hand) : (s.modHand n f).asids = s.asids := by
  unfold State.modHand; split <;> rfl
@[simp] theorem State.modHand_cached (s : State) (n : Nat) (f : Hand → Hand) : (s.modHand n f).cached = s.cached := by
  unfold State.modHand; split <;> rfl
@[simp] theorem State.modHand_queues (s : State) (n : Nat) (f : Hand → Hand) : (s.modHand n f).queues = s.queues := by
  unfold State.modHand; split <;> rfl
@[simp] theorem State.modHand_ctlSeq (s : State) (n : Nat) (f : Hand → Hand) : (s.modHand n f).ctlSeq = s.ctlSeq := by
  unfold State.modHand; split <;> rfl
@[simp] theorem State.modHand_tasks (s : State) (n : Nat) (f : Hand → Hand) : (s.modHand n f).tasks = s.tasks := by
  unfold State.modHand; split <;> rfl
@[simp] theorem State.modHand_copies (s : State) (n : Nat) (f : Hand → Hand) : (s.modHand n f).copies = s.copies := by
  unfold State.modHand; split <;> rfl
@[simp] theorem State.modHand_xchgs (s : State) (n : Nat) (f : Hand → Hand) : (s.modHand n f).xchgs = s.xchgs := by
  unfold State.modHand; split <;> rfl
@[simp] theorem State.modHand_seats (s : State) (n : Nat) (f : Hand → Hand) : (s.modHand n f).seats = s.seats := by
  unfold State.modHand; split <;> rfl
@[simp] theorem State.modHand_regions (s : State) (n : Nat) (f : Hand → Hand) : (s.modHand n f).regions = s.regions := by
  unfold State.modHand; split <;> rfl
@[simp] theorem State.modHand_boot (s : State) (n : Nat) (f : Hand → Hand) : (s.modHand n f).boot = s.boot := by
  unfold State.modHand; split <;> rfl
@[simp] theorem State.modHand_measured (s : State) (n : Nat) (f : Hand → Hand) : (s.modHand n f).measured = s.measured := by
  unfold State.modHand; split <;> rfl
@[simp] theorem State.modHand_firstUp (s : State) (n : Nat) (f : Hand → Hand) : (s.modHand n f).firstUp = s.firstUp := by
  unfold State.modHand; split <;> rfl
@[simp] theorem State.modHand_mem (s : State) (n : Nat) (f : Hand → Hand) : (s.modHand n f).mem = s.mem := by
  unfold State.modHand; split <;> rfl
@[simp] theorem State.modHand_faults (s : State) (n : Nat) (f : Hand → Hand) : (s.modHand n f).faults = s.faults := by
  unfold State.modHand; split <;> rfl
@[simp] theorem State.modHand_pool (s : State) (n : Nat) (f : Hand → Hand) : (s.modHand n f).pool = s.pool := by
  unfold State.modHand; split <;> rfl
@[simp] theorem State.modHand_pod (s : State) (n : Nat) (f : Hand → Hand) : (s.modHand n f).pod = s.pod := by
  unfold State.modHand; split <;> rfl
@[simp] theorem State.modHand_dudel (s : State) (n : Nat) (f : Hand → Hand) : (s.modHand n f).dudel = s.dudel := by
  unfold State.modHand; split <;> rfl

/-! ### State.clearTag -/

@[simp] theorem State.clearTag_agenda (s : State) (line : Nat) : (s.clearTag line).agenda = s.agenda := by
  unfold State.clearTag; split <;> simp
@[simp] theorem State.clearTag_latch (s : State) (line : Nat) : (s.clearTag line).latch = s.latch := by
  unfold State.clearTag; split <;> simp
@[simp] theorem State.clearTag_freeCtr (s : State) (line : Nat) : (s.clearTag line).freeCtr = s.freeCtr := by
  unfold State.clearTag; split <;> simp
@[simp] theorem State.clearTag_cores (s : State) (line : Nat) : (s.clearTag line).cores = s.cores := by
  unfold State.clearTag; split <;> simp
@[simp] theorem State.clearTag_fields (s : State) (line : Nat) : (s.clearTag line).fields = s.fields := by
  unfold State.clearTag; split <;> simp
@[simp] theorem State.clearTag_serials (s : State) (line : Nat) : (s.clearTag line).serials = s.serials := by
  unfold State.clearTag; split <;> simp
@[simp] theorem State.clearTag_asids (s : State) (line : Nat) : (s.clearTag line).asids = s.asids := by
  unfold State.clearTag; split <;> simp
@[simp] theorem State.clearTag_cached (s : State) (line : Nat) : (s.clearTag line).cached = s.cached := by
  unfold State.clearTag; split <;> simp
@[simp] theorem State.clearTag_queues (s : State) (line : Nat) : (s.clearTag line).queues = s.queues := by
  unfold State.clearTag; split <;> simp
@[simp] theorem State.clearTag_ctlSeq (s : State) (line : Nat) : (s.clearTag line).ctlSeq = s.ctlSeq := by
  unfold State.clearTag; split <;> simp
@[simp] theorem State.clearTag_tasks (s : State) (line : Nat) : (s.clearTag line).tasks = s.tasks := by
  unfold State.clearTag; split <;> simp
@[simp] theorem State.clearTag_copies (s : State) (line : Nat) : (s.clearTag line).copies = s.copies := by
  unfold State.clearTag; split <;> simp
@[simp] theorem State.clearTag_xchgs (s : State) (line : Nat) : (s.clearTag line).xchgs = s.xchgs := by
  unfold State.clearTag; split <;> simp
@[simp] theorem State.clearTag_seats (s : State) (line : Nat) : (s.clearTag line).seats = s.seats := by
  unfold State.clearTag; split <;> simp
@[simp] theorem State.clearTag_regions (s : State) (line : Nat) : (s.clearTag line).regions = s.regions := by
  unfold State.clearTag; split <;> simp
@[simp] theorem State.clearTag_boot (s : State) (line : Nat) : (s.clearTag line).boot = s.boot := by
  unfold State.clearTag; split <;> simp
@[simp] theorem State.clearTag_measured (s : State) (line : Nat) : (s.clearTag line).measured = s.measured := by
  unfold State.clearTag; split <;> simp
@[simp] theorem State.clearTag_firstUp (s : State) (line : Nat) : (s.clearTag line).firstUp = s.firstUp := by
  unfold State.clearTag; split <;> simp
@[simp] theorem State.clearTag_faults (s : State) (line : Nat) : (s.clearTag line).faults = s.faults := by
  unfold State.clearTag; split <;> simp
@[simp] theorem State.clearTag_pool (s : State) (line : Nat) : (s.clearTag line).pool = s.pool := by
  unfold State.clearTag; split <;> simp
@[simp] theorem State.clearTag_pod (s : State) (line : Nat) : (s.clearTag line).pod = s.pod := by
  unfold State.clearTag; split <;> simp
@[simp] theorem State.clearTag_dudel (s : State) (line : Nat) : (s.clearTag line).dudel = s.dudel := by
  unfold State.clearTag; split <;> simp

/-! ### State.putLive -/

@[simp] theorem State.putLive_agenda (s : State) (k : Nat) (b : Byte) : (s.putLive k b).agenda = s.agenda := by
  unfold State.putLive; simp only; repeat (first | split | simp)
@[simp] theorem State.putLive_latch (s : State) (k : Nat) (b : Byte) : (s.putLive k b).latch = s.latch := by
  unfold State.putLive; simp only; repeat (first | split | simp)
@[simp] theorem State.putLive_freeCtr (s : State) (k : Nat) (b : Byte) : (s.putLive k b).freeCtr = s.freeCtr := by
  unfold State.putLive; simp only; repeat (first | split | simp)
@[simp] theorem State.putLive_fields (s : State) (k : Nat) (b : Byte) : (s.putLive k b).fields = s.fields := by
  unfold State.putLive; simp only; repeat (first | split | simp)
@[simp] theorem State.putLive_serials (s : State) (k : Nat) (b : Byte) : (s.putLive k b).serials = s.serials := by
  unfold State.putLive; simp only; repeat (first | split | simp)
@[simp] theorem State.putLive_asids (s : State) (k : Nat) (b : Byte) : (s.putLive k b).asids = s.asids := by
  unfold State.putLive; simp only; repeat (first | split | simp)
@[simp] theorem State.putLive_cached (s : State) (k : Nat) (b : Byte) : (s.putLive k b).cached = s.cached := by
  unfold State.putLive; simp only; repeat (first | split | simp)
@[simp] theorem State.putLive_queues (s : State) (k : Nat) (b : Byte) : (s.putLive k b).queues = s.queues := by
  unfold State.putLive; simp only; repeat (first | split | simp)
@[simp] theorem State.putLive_ctlSeq (s : State) (k : Nat) (b : Byte) : (s.putLive k b).ctlSeq = s.ctlSeq := by
  unfold State.putLive; simp only; repeat (first | split | simp)
@[simp] theorem State.putLive_tasks (s : State) (k : Nat) (b : Byte) : (s.putLive k b).tasks = s.tasks := by
  unfold State.putLive; simp only; repeat (first | split | simp)
@[simp] theorem State.putLive_copies (s : State) (k : Nat) (b : Byte) : (s.putLive k b).copies = s.copies := by
  unfold State.putLive; simp only; repeat (first | split | simp)
@[simp] theorem State.putLive_xchgs (s : State) (k : Nat) (b : Byte) : (s.putLive k b).xchgs = s.xchgs := by
  unfold State.putLive; simp only; repeat (first | split | simp)
@[simp] theorem State.putLive_seats (s : State) (k : Nat) (b : Byte) : (s.putLive k b).seats = s.seats := by
  unfold State.putLive; simp only; repeat (first | split | simp)
@[simp] theorem State.putLive_regions (s : State) (k : Nat) (b : Byte) : (s.putLive k b).regions = s.regions := by
  unfold State.putLive; simp only; repeat (first | split | simp)
@[simp] theorem State.putLive_boot (s : State) (k : Nat) (b : Byte) : (s.putLive k b).boot = s.boot := by
  unfold State.putLive; simp only; repeat (first | split | simp)
@[simp] theorem State.putLive_measured (s : State) (k : Nat) (b : Byte) : (s.putLive k b).measured = s.measured := by
  unfold State.putLive; simp only; repeat (first | split | simp)
@[simp] theorem State.putLive_firstUp (s : State) (k : Nat) (b : Byte) : (s.putLive k b).firstUp = s.firstUp := by
  unfold State.putLive; simp only; repeat (first | split | simp)
@[simp] theorem State.putLive_faults (s : State) (k : Nat) (b : Byte) : (s.putLive k b).faults = s.faults := by
  unfold State.putLive; simp only; repeat (first | split | simp)
@[simp] theorem State.putLive_pool (s : State) (k : Nat) (b : Byte) : (s.putLive k b).pool = s.pool := by
  unfold State.putLive; simp only; repeat (first | split | simp)
@[simp] theorem State.putLive_pod (s : State) (k : Nat) (b : Byte) : (s.putLive k b).pod = s.pod := by
  unfold State.putLive; simp only; repeat (first | split | simp)
@[simp] theorem State.putLive_dudel (s : State) (k : Nat) (b : Byte) : (s.putLive k b).dudel = s.dudel := by
  unfold State.putLive; simp only; repeat (first | split | simp)

/-! ### State.stamp -/

@[simp] theorem State.stamp_agenda (s : State) (t m q k : Nat) (b : Byte) (p : Bool) : (s.stamp t m q k b p).agenda = s.agenda := by
  unfold State.stamp; simp
@[simp] theorem State.stamp_latch (s : State) (t m q k : Nat) (b : Byte) (p : Bool) : (s.stamp t m q k b p).latch = s.latch := by
  unfold State.stamp; simp
@[simp] theorem State.stamp_freeCtr (s : State) (t m q k : Nat) (b : Byte) (p : Bool) : (s.stamp t m q k b p).freeCtr = s.freeCtr := by
  unfold State.stamp; simp
@[simp] theorem State.stamp_fields (s : State) (t m q k : Nat) (b : Byte) (p : Bool) : (s.stamp t m q k b p).fields = s.fields := by
  unfold State.stamp; simp
@[simp] theorem State.stamp_serials (s : State) (t m q k : Nat) (b : Byte) (p : Bool) : (s.stamp t m q k b p).serials = s.serials := by
  unfold State.stamp; simp
@[simp] theorem State.stamp_asids (s : State) (t m q k : Nat) (b : Byte) (p : Bool) : (s.stamp t m q k b p).asids = s.asids := by
  unfold State.stamp; simp
@[simp] theorem State.stamp_cached (s : State) (t m q k : Nat) (b : Byte) (p : Bool) : (s.stamp t m q k b p).cached = s.cached := by
  unfold State.stamp; simp
@[simp] theorem State.stamp_queues (s : State) (t m q k : Nat) (b : Byte) (p : Bool) : (s.stamp t m q k b p).queues = s.queues := by
  unfold State.stamp; simp
@[simp] theorem State.stamp_ctlSeq (s : State) (t m q k : Nat) (b : Byte) (p : Bool) : (s.stamp t m q k b p).ctlSeq = s.ctlSeq := by
  unfold State.stamp; simp
@[simp] theorem State.stamp_copies (s : State) (t m q k : Nat) (b : Byte) (p : Bool) : (s.stamp t m q k b p).copies = s.copies := by
  unfold State.stamp; simp
@[simp] theorem State.stamp_xchgs (s : State) (t m q k : Nat) (b : Byte) (p : Bool) : (s.stamp t m q k b p).xchgs = s.xchgs := by
  unfold State.stamp; simp
@[simp] theorem State.stamp_seats (s : State) (t m q k : Nat) (b : Byte) (p : Bool) : (s.stamp t m q k b p).seats = s.seats := by
  unfold State.stamp; simp
@[simp] theorem State.stamp_regions (s : State) (t m q k : Nat) (b : Byte) (p : Bool) : (s.stamp t m q k b p).regions = s.regions := by
  unfold State.stamp; simp
@[simp] theorem State.stamp_boot (s : State) (t m q k : Nat) (b : Byte) (p : Bool) : (s.stamp t m q k b p).boot = s.boot := by
  unfold State.stamp; simp
@[simp] theorem State.stamp_measured (s : State) (t m q k : Nat) (b : Byte) (p : Bool) : (s.stamp t m q k b p).measured = s.measured := by
  unfold State.stamp; simp
@[simp] theorem State.stamp_firstUp (s : State) (t m q k : Nat) (b : Byte) (p : Bool) : (s.stamp t m q k b p).firstUp = s.firstUp := by
  unfold State.stamp; simp
@[simp] theorem State.stamp_faults (s : State) (t m q k : Nat) (b : Byte) (p : Bool) : (s.stamp t m q k b p).faults = s.faults := by
  unfold State.stamp; simp
@[simp] theorem State.stamp_pool (s : State) (t m q k : Nat) (b : Byte) (p : Bool) : (s.stamp t m q k b p).pool = s.pool := by
  unfold State.stamp; simp
@[simp] theorem State.stamp_pod (s : State) (t m q k : Nat) (b : Byte) (p : Bool) : (s.stamp t m q k b p).pod = s.pod := by
  unfold State.stamp; simp
@[simp] theorem State.stamp_dudel (s : State) (t m q k : Nat) (b : Byte) (p : Bool) : (s.stamp t m q k b p).dudel = s.dudel := by
  unfold State.stamp; simp

/-! ### Hand.setX -/

@[simp] theorem Hand.setX_status (h : Hand) (r : Fld5) (v : Reg64) : (h.setX r v).status = h.status := by
  unfold Hand.setX; split <;> rfl
@[simp] theorem Hand.setX_id (h : Hand) (r : Fld5) (v : Reg64) : (h.setX r v).id = h.id := by
  unfold Hand.setX; split <;> rfl
@[simp] theorem Hand.setX_core (h : Hand) (r : Fld5) (v : Reg64) : (h.setX r v).core = h.core := by
  unfold Hand.setX; split <;> rfl
@[simp] theorem Hand.setX_slot (h : Hand) (r : Fld5) (v : Reg64) : (h.setX r v).slot = h.slot := by
  unfold Hand.setX; split <;> rfl
@[simp] theorem Hand.setX_dispatchCore (h : Hand) (r : Fld5) (v : Reg64) : (h.setX r v).dispatchCore = h.dispatchCore := by
  unfold Hand.setX; split <;> rfl
@[simp] theorem Hand.setX_task (h : Hand) (r : Fld5) (v : Reg64) : (h.setX r v).task = h.task := by
  unfold Hand.setX; split <;> rfl
@[simp] theorem Hand.setX_asid (h : Hand) (r : Fld5) (v : Reg64) : (h.setX r v).asid = h.asid := by
  unfold Hand.setX; split <;> rfl
@[simp] theorem Hand.setX_taskid (h : Hand) (r : Fld5) (v : Reg64) : (h.setX r v).taskid = h.taskid := by
  unfold Hand.setX; split <;> rfl
@[simp] theorem Hand.setX_member (h : Hand) (r : Fld5) (v : Reg64) : (h.setX r v).member = h.member := by
  unfold Hand.setX; split <;> rfl
@[simp] theorem Hand.setX_prio (h : Hand) (r : Fld5) (v : Reg64) : (h.setX r v).prio = h.prio := by
  unfold Hand.setX; split <;> rfl
@[simp] theorem Hand.setX_v (h : Hand) (r : Fld5) (v : Reg64) : (h.setX r v).v = h.v := by
  unfold Hand.setX; split <;> rfl
@[simp] theorem Hand.setX_p (h : Hand) (r : Fld5) (v : Reg64) : (h.setX r v).p = h.p := by
  unfold Hand.setX; split <;> rfl
@[simp] theorem Hand.setX_producers (h : Hand) (r : Fld5) (v : Reg64) : (h.setX r v).producers = h.producers := by
  unfold Hand.setX; split <;> rfl
@[simp] theorem Hand.setX_streams (h : Hand) (r : Fld5) (v : Reg64) : (h.setX r v).streams = h.streams := by
  unfold Hand.setX; split <;> rfl
@[simp] theorem Hand.setX_lq (h : Hand) (r : Fld5) (v : Reg64) : (h.setX r v).lq = h.lq := by
  unfold Hand.setX; split <;> rfl
@[simp] theorem Hand.setX_handles (h : Hand) (r : Fld5) (v : Reg64) : (h.setX r v).handles = h.handles := by
  unfold Hand.setX; split <;> rfl
@[simp] theorem Hand.setX_bound (h : Hand) (r : Fld5) (v : Reg64) : (h.setX r v).bound = h.bound := by
  unfold Hand.setX; split <;> rfl
@[simp] theorem Hand.setX_dealer (h : Hand) (r : Fld5) (v : Reg64) : (h.setX r v).dealer = h.dealer := by
  unfold Hand.setX; split <;> rfl
@[simp] theorem Hand.setX_inbox (h : Hand) (r : Fld5) (v : Reg64) : (h.setX r v).inbox = h.inbox := by
  unfold Hand.setX; split <;> rfl
@[simp] theorem Hand.setX_pc (h : Hand) (r : Fld5) (v : Reg64) : (h.setX r v).pc = h.pc := by
  unfold Hand.setX; split <;> rfl
@[simp] theorem Hand.setX_loops (h : Hand) (r : Fld5) (v : Reg64) : (h.setX r v).loops = h.loops := by
  unfold Hand.setX; split <;> rfl
@[simp] theorem Hand.setX_frame (h : Hand) (r : Fld5) (v : Reg64) : (h.setX r v).frame = h.frame := by
  unfold Hand.setX; split <;> rfl
@[simp] theorem Hand.setX_convoy (h : Hand) (r : Fld5) (v : Reg64) : (h.setX r v).convoy = h.convoy := by
  unfold Hand.setX; split <;> rfl
@[simp] theorem Hand.setX_arrived (h : Hand) (r : Fld5) (v : Reg64) : (h.setX r v).arrived = h.arrived := by
  unfold Hand.setX; split <;> rfl
@[simp] theorem Hand.setX_csr (h : Hand) (r : Fld5) (v : Reg64) : (h.setX r v).csr = h.csr := by
  unfold Hand.setX; split <;> rfl
@[simp] theorem Hand.setX_strip (h : Hand) (r : Fld5) (v : Reg64) : (h.setX r v).strip = h.strip := by
  unfold Hand.setX; split <;> rfl
@[simp] theorem Hand.setX_ord (h : Hand) (r : Fld5) (v : Reg64) : (h.setX r v).ord = h.ord := by
  unfold Hand.setX; split <;> rfl
@[simp] theorem Hand.setX_jobs (h : Hand) (r : Fld5) (v : Reg64) : (h.setX r v).jobs = h.jobs := by
  unfold Hand.setX; split <;> rfl
@[simp] theorem Hand.setX_sched (h : Hand) (r : Fld5) (v : Reg64) : (h.setX r v).sched = h.sched := by
  unfold Hand.setX; split <;> rfl

/-! ### Hand.setP -/

@[simp] theorem Hand.setP_status (h : Hand) (r : Nat) (v : BitVec 1024) : (h.setP r v).status = h.status := by
  unfold Hand.setP; split <;> rfl
@[simp] theorem Hand.setP_id (h : Hand) (r : Nat) (v : BitVec 1024) : (h.setP r v).id = h.id := by
  unfold Hand.setP; split <;> rfl
@[simp] theorem Hand.setP_core (h : Hand) (r : Nat) (v : BitVec 1024) : (h.setP r v).core = h.core := by
  unfold Hand.setP; split <;> rfl
@[simp] theorem Hand.setP_slot (h : Hand) (r : Nat) (v : BitVec 1024) : (h.setP r v).slot = h.slot := by
  unfold Hand.setP; split <;> rfl
@[simp] theorem Hand.setP_dispatchCore (h : Hand) (r : Nat) (v : BitVec 1024) : (h.setP r v).dispatchCore = h.dispatchCore := by
  unfold Hand.setP; split <;> rfl
@[simp] theorem Hand.setP_task (h : Hand) (r : Nat) (v : BitVec 1024) : (h.setP r v).task = h.task := by
  unfold Hand.setP; split <;> rfl
@[simp] theorem Hand.setP_asid (h : Hand) (r : Nat) (v : BitVec 1024) : (h.setP r v).asid = h.asid := by
  unfold Hand.setP; split <;> rfl
@[simp] theorem Hand.setP_taskid (h : Hand) (r : Nat) (v : BitVec 1024) : (h.setP r v).taskid = h.taskid := by
  unfold Hand.setP; split <;> rfl
@[simp] theorem Hand.setP_member (h : Hand) (r : Nat) (v : BitVec 1024) : (h.setP r v).member = h.member := by
  unfold Hand.setP; split <;> rfl
@[simp] theorem Hand.setP_prio (h : Hand) (r : Nat) (v : BitVec 1024) : (h.setP r v).prio = h.prio := by
  unfold Hand.setP; split <;> rfl
@[simp] theorem Hand.setP_x (h : Hand) (r : Nat) (v : BitVec 1024) : (h.setP r v).x = h.x := by
  unfold Hand.setP; split <;> rfl
@[simp] theorem Hand.setP_v (h : Hand) (r : Nat) (v : BitVec 1024) : (h.setP r v).v = h.v := by
  unfold Hand.setP; split <;> rfl
@[simp] theorem Hand.setP_producers (h : Hand) (r : Nat) (v : BitVec 1024) : (h.setP r v).producers = h.producers := by
  unfold Hand.setP; split <;> rfl
@[simp] theorem Hand.setP_streams (h : Hand) (r : Nat) (v : BitVec 1024) : (h.setP r v).streams = h.streams := by
  unfold Hand.setP; split <;> rfl
@[simp] theorem Hand.setP_lq (h : Hand) (r : Nat) (v : BitVec 1024) : (h.setP r v).lq = h.lq := by
  unfold Hand.setP; split <;> rfl
@[simp] theorem Hand.setP_handles (h : Hand) (r : Nat) (v : BitVec 1024) : (h.setP r v).handles = h.handles := by
  unfold Hand.setP; split <;> rfl
@[simp] theorem Hand.setP_bound (h : Hand) (r : Nat) (v : BitVec 1024) : (h.setP r v).bound = h.bound := by
  unfold Hand.setP; split <;> rfl
@[simp] theorem Hand.setP_dealer (h : Hand) (r : Nat) (v : BitVec 1024) : (h.setP r v).dealer = h.dealer := by
  unfold Hand.setP; split <;> rfl
@[simp] theorem Hand.setP_inbox (h : Hand) (r : Nat) (v : BitVec 1024) : (h.setP r v).inbox = h.inbox := by
  unfold Hand.setP; split <;> rfl
@[simp] theorem Hand.setP_pc (h : Hand) (r : Nat) (v : BitVec 1024) : (h.setP r v).pc = h.pc := by
  unfold Hand.setP; split <;> rfl
@[simp] theorem Hand.setP_loops (h : Hand) (r : Nat) (v : BitVec 1024) : (h.setP r v).loops = h.loops := by
  unfold Hand.setP; split <;> rfl
@[simp] theorem Hand.setP_frame (h : Hand) (r : Nat) (v : BitVec 1024) : (h.setP r v).frame = h.frame := by
  unfold Hand.setP; split <;> rfl
@[simp] theorem Hand.setP_convoy (h : Hand) (r : Nat) (v : BitVec 1024) : (h.setP r v).convoy = h.convoy := by
  unfold Hand.setP; split <;> rfl
@[simp] theorem Hand.setP_arrived (h : Hand) (r : Nat) (v : BitVec 1024) : (h.setP r v).arrived = h.arrived := by
  unfold Hand.setP; split <;> rfl
@[simp] theorem Hand.setP_csr (h : Hand) (r : Nat) (v : BitVec 1024) : (h.setP r v).csr = h.csr := by
  unfold Hand.setP; split <;> rfl
@[simp] theorem Hand.setP_strip (h : Hand) (r : Nat) (v : BitVec 1024) : (h.setP r v).strip = h.strip := by
  unfold Hand.setP; split <;> rfl
@[simp] theorem Hand.setP_ord (h : Hand) (r : Nat) (v : BitVec 1024) : (h.setP r v).ord = h.ord := by
  unfold Hand.setP; split <;> rfl
@[simp] theorem Hand.setP_jobs (h : Hand) (r : Nat) (v : BitVec 1024) : (h.setP r v).jobs = h.jobs := by
  unfold Hand.setP; split <;> rfl
@[simp] theorem Hand.setP_sched (h : Hand) (r : Nat) (v : BitVec 1024) : (h.setP r v).sched = h.sched := by
  unfold Hand.setP; split <;> rfl

/-! ### Hand.setVB -/

@[simp] theorem Hand.setVB_status (h : Hand) (r o : Nat) (b : Byte) : (h.setVB r o b).status = h.status := rfl
@[simp] theorem Hand.setVB_id (h : Hand) (r o : Nat) (b : Byte) : (h.setVB r o b).id = h.id := rfl
@[simp] theorem Hand.setVB_core (h : Hand) (r o : Nat) (b : Byte) : (h.setVB r o b).core = h.core := rfl
@[simp] theorem Hand.setVB_slot (h : Hand) (r o : Nat) (b : Byte) : (h.setVB r o b).slot = h.slot := rfl
@[simp] theorem Hand.setVB_dispatchCore (h : Hand) (r o : Nat) (b : Byte) : (h.setVB r o b).dispatchCore = h.dispatchCore := rfl
@[simp] theorem Hand.setVB_task (h : Hand) (r o : Nat) (b : Byte) : (h.setVB r o b).task = h.task := rfl
@[simp] theorem Hand.setVB_asid (h : Hand) (r o : Nat) (b : Byte) : (h.setVB r o b).asid = h.asid := rfl
@[simp] theorem Hand.setVB_taskid (h : Hand) (r o : Nat) (b : Byte) : (h.setVB r o b).taskid = h.taskid := rfl
@[simp] theorem Hand.setVB_member (h : Hand) (r o : Nat) (b : Byte) : (h.setVB r o b).member = h.member := rfl
@[simp] theorem Hand.setVB_prio (h : Hand) (r o : Nat) (b : Byte) : (h.setVB r o b).prio = h.prio := rfl
@[simp] theorem Hand.setVB_x (h : Hand) (r o : Nat) (b : Byte) : (h.setVB r o b).x = h.x := rfl
@[simp] theorem Hand.setVB_p (h : Hand) (r o : Nat) (b : Byte) : (h.setVB r o b).p = h.p := rfl
@[simp] theorem Hand.setVB_producers (h : Hand) (r o : Nat) (b : Byte) : (h.setVB r o b).producers = h.producers := rfl
@[simp] theorem Hand.setVB_streams (h : Hand) (r o : Nat) (b : Byte) : (h.setVB r o b).streams = h.streams := rfl
@[simp] theorem Hand.setVB_lq (h : Hand) (r o : Nat) (b : Byte) : (h.setVB r o b).lq = h.lq := rfl
@[simp] theorem Hand.setVB_handles (h : Hand) (r o : Nat) (b : Byte) : (h.setVB r o b).handles = h.handles := rfl
@[simp] theorem Hand.setVB_bound (h : Hand) (r o : Nat) (b : Byte) : (h.setVB r o b).bound = h.bound := rfl
@[simp] theorem Hand.setVB_dealer (h : Hand) (r o : Nat) (b : Byte) : (h.setVB r o b).dealer = h.dealer := rfl
@[simp] theorem Hand.setVB_inbox (h : Hand) (r o : Nat) (b : Byte) : (h.setVB r o b).inbox = h.inbox := rfl
@[simp] theorem Hand.setVB_pc (h : Hand) (r o : Nat) (b : Byte) : (h.setVB r o b).pc = h.pc := rfl
@[simp] theorem Hand.setVB_loops (h : Hand) (r o : Nat) (b : Byte) : (h.setVB r o b).loops = h.loops := rfl
@[simp] theorem Hand.setVB_frame (h : Hand) (r o : Nat) (b : Byte) : (h.setVB r o b).frame = h.frame := rfl
@[simp] theorem Hand.setVB_convoy (h : Hand) (r o : Nat) (b : Byte) : (h.setVB r o b).convoy = h.convoy := rfl
@[simp] theorem Hand.setVB_arrived (h : Hand) (r o : Nat) (b : Byte) : (h.setVB r o b).arrived = h.arrived := rfl
@[simp] theorem Hand.setVB_csr (h : Hand) (r o : Nat) (b : Byte) : (h.setVB r o b).csr = h.csr := rfl
@[simp] theorem Hand.setVB_strip (h : Hand) (r o : Nat) (b : Byte) : (h.setVB r o b).strip = h.strip := rfl
@[simp] theorem Hand.setVB_ord (h : Hand) (r o : Nat) (b : Byte) : (h.setVB r o b).ord = h.ord := rfl
@[simp] theorem Hand.setVB_jobs (h : Hand) (r o : Nat) (b : Byte) : (h.setVB r o b).jobs = h.jobs := rfl
@[simp] theorem Hand.setVB_sched (h : Hand) (r o : Nat) (b : Byte) : (h.setVB r o b).sched = h.sched := rfl

/-! ### Hand.setVN -/

@[simp] theorem Hand.setVN_status (h : Hand) (r o w n : Nat) : (h.setVN r o w n).status = h.status := rfl
@[simp] theorem Hand.setVN_id (h : Hand) (r o w n : Nat) : (h.setVN r o w n).id = h.id := rfl
@[simp] theorem Hand.setVN_core (h : Hand) (r o w n : Nat) : (h.setVN r o w n).core = h.core := rfl
@[simp] theorem Hand.setVN_slot (h : Hand) (r o w n : Nat) : (h.setVN r o w n).slot = h.slot := rfl
@[simp] theorem Hand.setVN_dispatchCore (h : Hand) (r o w n : Nat) : (h.setVN r o w n).dispatchCore = h.dispatchCore := rfl
@[simp] theorem Hand.setVN_task (h : Hand) (r o w n : Nat) : (h.setVN r o w n).task = h.task := rfl
@[simp] theorem Hand.setVN_asid (h : Hand) (r o w n : Nat) : (h.setVN r o w n).asid = h.asid := rfl
@[simp] theorem Hand.setVN_taskid (h : Hand) (r o w n : Nat) : (h.setVN r o w n).taskid = h.taskid := rfl
@[simp] theorem Hand.setVN_member (h : Hand) (r o w n : Nat) : (h.setVN r o w n).member = h.member := rfl
@[simp] theorem Hand.setVN_prio (h : Hand) (r o w n : Nat) : (h.setVN r o w n).prio = h.prio := rfl
@[simp] theorem Hand.setVN_x (h : Hand) (r o w n : Nat) : (h.setVN r o w n).x = h.x := rfl
@[simp] theorem Hand.setVN_p (h : Hand) (r o w n : Nat) : (h.setVN r o w n).p = h.p := rfl
@[simp] theorem Hand.setVN_producers (h : Hand) (r o w n : Nat) : (h.setVN r o w n).producers = h.producers := rfl
@[simp] theorem Hand.setVN_streams (h : Hand) (r o w n : Nat) : (h.setVN r o w n).streams = h.streams := rfl
@[simp] theorem Hand.setVN_lq (h : Hand) (r o w n : Nat) : (h.setVN r o w n).lq = h.lq := rfl
@[simp] theorem Hand.setVN_handles (h : Hand) (r o w n : Nat) : (h.setVN r o w n).handles = h.handles := rfl
@[simp] theorem Hand.setVN_bound (h : Hand) (r o w n : Nat) : (h.setVN r o w n).bound = h.bound := rfl
@[simp] theorem Hand.setVN_dealer (h : Hand) (r o w n : Nat) : (h.setVN r o w n).dealer = h.dealer := rfl
@[simp] theorem Hand.setVN_inbox (h : Hand) (r o w n : Nat) : (h.setVN r o w n).inbox = h.inbox := rfl
@[simp] theorem Hand.setVN_pc (h : Hand) (r o w n : Nat) : (h.setVN r o w n).pc = h.pc := rfl
@[simp] theorem Hand.setVN_loops (h : Hand) (r o w n : Nat) : (h.setVN r o w n).loops = h.loops := rfl
@[simp] theorem Hand.setVN_frame (h : Hand) (r o w n : Nat) : (h.setVN r o w n).frame = h.frame := rfl
@[simp] theorem Hand.setVN_convoy (h : Hand) (r o w n : Nat) : (h.setVN r o w n).convoy = h.convoy := rfl
@[simp] theorem Hand.setVN_arrived (h : Hand) (r o w n : Nat) : (h.setVN r o w n).arrived = h.arrived := rfl
@[simp] theorem Hand.setVN_csr (h : Hand) (r o w n : Nat) : (h.setVN r o w n).csr = h.csr := rfl
@[simp] theorem Hand.setVN_strip (h : Hand) (r o w n : Nat) : (h.setVN r o w n).strip = h.strip := rfl
@[simp] theorem Hand.setVN_ord (h : Hand) (r o w n : Nat) : (h.setVN r o w n).ord = h.ord := rfl
@[simp] theorem Hand.setVN_jobs (h : Hand) (r o w n : Nat) : (h.setVN r o w n).jobs = h.jobs := rfl
@[simp] theorem Hand.setVN_sched (h : Hand) (r o w n : Nat) : (h.setVN r o w n).sched = h.sched := rfl

/-! ### Hand.setElem -/

@[simp] theorem Hand.setElem_status (h : Hand) (r : Fld5) (e n : Nat) : (h.setElem r e n).status = h.status := rfl
@[simp] theorem Hand.setElem_id (h : Hand) (r : Fld5) (e n : Nat) : (h.setElem r e n).id = h.id := rfl
@[simp] theorem Hand.setElem_core (h : Hand) (r : Fld5) (e n : Nat) : (h.setElem r e n).core = h.core := rfl
@[simp] theorem Hand.setElem_slot (h : Hand) (r : Fld5) (e n : Nat) : (h.setElem r e n).slot = h.slot := rfl
@[simp] theorem Hand.setElem_dispatchCore (h : Hand) (r : Fld5) (e n : Nat) : (h.setElem r e n).dispatchCore = h.dispatchCore := rfl
@[simp] theorem Hand.setElem_task (h : Hand) (r : Fld5) (e n : Nat) : (h.setElem r e n).task = h.task := rfl
@[simp] theorem Hand.setElem_asid (h : Hand) (r : Fld5) (e n : Nat) : (h.setElem r e n).asid = h.asid := rfl
@[simp] theorem Hand.setElem_taskid (h : Hand) (r : Fld5) (e n : Nat) : (h.setElem r e n).taskid = h.taskid := rfl
@[simp] theorem Hand.setElem_member (h : Hand) (r : Fld5) (e n : Nat) : (h.setElem r e n).member = h.member := rfl
@[simp] theorem Hand.setElem_prio (h : Hand) (r : Fld5) (e n : Nat) : (h.setElem r e n).prio = h.prio := rfl
@[simp] theorem Hand.setElem_x (h : Hand) (r : Fld5) (e n : Nat) : (h.setElem r e n).x = h.x := rfl
@[simp] theorem Hand.setElem_p (h : Hand) (r : Fld5) (e n : Nat) : (h.setElem r e n).p = h.p := rfl
@[simp] theorem Hand.setElem_producers (h : Hand) (r : Fld5) (e n : Nat) : (h.setElem r e n).producers = h.producers := rfl
@[simp] theorem Hand.setElem_streams (h : Hand) (r : Fld5) (e n : Nat) : (h.setElem r e n).streams = h.streams := rfl
@[simp] theorem Hand.setElem_lq (h : Hand) (r : Fld5) (e n : Nat) : (h.setElem r e n).lq = h.lq := rfl
@[simp] theorem Hand.setElem_handles (h : Hand) (r : Fld5) (e n : Nat) : (h.setElem r e n).handles = h.handles := rfl
@[simp] theorem Hand.setElem_bound (h : Hand) (r : Fld5) (e n : Nat) : (h.setElem r e n).bound = h.bound := rfl
@[simp] theorem Hand.setElem_dealer (h : Hand) (r : Fld5) (e n : Nat) : (h.setElem r e n).dealer = h.dealer := rfl
@[simp] theorem Hand.setElem_inbox (h : Hand) (r : Fld5) (e n : Nat) : (h.setElem r e n).inbox = h.inbox := rfl
@[simp] theorem Hand.setElem_pc (h : Hand) (r : Fld5) (e n : Nat) : (h.setElem r e n).pc = h.pc := rfl
@[simp] theorem Hand.setElem_loops (h : Hand) (r : Fld5) (e n : Nat) : (h.setElem r e n).loops = h.loops := rfl
@[simp] theorem Hand.setElem_frame (h : Hand) (r : Fld5) (e n : Nat) : (h.setElem r e n).frame = h.frame := rfl
@[simp] theorem Hand.setElem_convoy (h : Hand) (r : Fld5) (e n : Nat) : (h.setElem r e n).convoy = h.convoy := rfl
@[simp] theorem Hand.setElem_arrived (h : Hand) (r : Fld5) (e n : Nat) : (h.setElem r e n).arrived = h.arrived := rfl
@[simp] theorem Hand.setElem_csr (h : Hand) (r : Fld5) (e n : Nat) : (h.setElem r e n).csr = h.csr := rfl
@[simp] theorem Hand.setElem_strip (h : Hand) (r : Fld5) (e n : Nat) : (h.setElem r e n).strip = h.strip := rfl
@[simp] theorem Hand.setElem_ord (h : Hand) (r : Fld5) (e n : Nat) : (h.setElem r e n).ord = h.ord := rfl
@[simp] theorem Hand.setElem_jobs (h : Hand) (r : Fld5) (e n : Nat) : (h.setElem r e n).jobs = h.jobs := rfl
@[simp] theorem Hand.setElem_sched (h : Hand) (r : Fld5) (e n : Nat) : (h.setElem r e n).sched = h.sched := rfl

/-! ### Hand.produce -/

@[simp] theorem Hand.produce_status (h : Hand) (d : Dest) (c : Option Nat) : (h.produce d c).status = h.status := by
  unfold Hand.produce; split <;> rfl
@[simp] theorem Hand.produce_id (h : Hand) (d : Dest) (c : Option Nat) : (h.produce d c).id = h.id := by
  unfold Hand.produce; split <;> rfl
@[simp] theorem Hand.produce_core (h : Hand) (d : Dest) (c : Option Nat) : (h.produce d c).core = h.core := by
  unfold Hand.produce; split <;> rfl
@[simp] theorem Hand.produce_slot (h : Hand) (d : Dest) (c : Option Nat) : (h.produce d c).slot = h.slot := by
  unfold Hand.produce; split <;> rfl
@[simp] theorem Hand.produce_dispatchCore (h : Hand) (d : Dest) (c : Option Nat) : (h.produce d c).dispatchCore = h.dispatchCore := by
  unfold Hand.produce; split <;> rfl
@[simp] theorem Hand.produce_task (h : Hand) (d : Dest) (c : Option Nat) : (h.produce d c).task = h.task := by
  unfold Hand.produce; split <;> rfl
@[simp] theorem Hand.produce_asid (h : Hand) (d : Dest) (c : Option Nat) : (h.produce d c).asid = h.asid := by
  unfold Hand.produce; split <;> rfl
@[simp] theorem Hand.produce_taskid (h : Hand) (d : Dest) (c : Option Nat) : (h.produce d c).taskid = h.taskid := by
  unfold Hand.produce; split <;> rfl
@[simp] theorem Hand.produce_member (h : Hand) (d : Dest) (c : Option Nat) : (h.produce d c).member = h.member := by
  unfold Hand.produce; split <;> rfl
@[simp] theorem Hand.produce_prio (h : Hand) (d : Dest) (c : Option Nat) : (h.produce d c).prio = h.prio := by
  unfold Hand.produce; split <;> rfl
@[simp] theorem Hand.produce_x (h : Hand) (d : Dest) (c : Option Nat) : (h.produce d c).x = h.x := by
  unfold Hand.produce; split <;> rfl
@[simp] theorem Hand.produce_v (h : Hand) (d : Dest) (c : Option Nat) : (h.produce d c).v = h.v := by
  unfold Hand.produce; split <;> rfl
@[simp] theorem Hand.produce_p (h : Hand) (d : Dest) (c : Option Nat) : (h.produce d c).p = h.p := by
  unfold Hand.produce; split <;> rfl
@[simp] theorem Hand.produce_streams (h : Hand) (d : Dest) (c : Option Nat) : (h.produce d c).streams = h.streams := by
  unfold Hand.produce; split <;> rfl
@[simp] theorem Hand.produce_lq (h : Hand) (d : Dest) (c : Option Nat) : (h.produce d c).lq = h.lq := by
  unfold Hand.produce; split <;> rfl
@[simp] theorem Hand.produce_handles (h : Hand) (d : Dest) (c : Option Nat) : (h.produce d c).handles = h.handles := by
  unfold Hand.produce; split <;> rfl
@[simp] theorem Hand.produce_bound (h : Hand) (d : Dest) (c : Option Nat) : (h.produce d c).bound = h.bound := by
  unfold Hand.produce; split <;> rfl
@[simp] theorem Hand.produce_dealer (h : Hand) (d : Dest) (c : Option Nat) : (h.produce d c).dealer = h.dealer := by
  unfold Hand.produce; split <;> rfl
@[simp] theorem Hand.produce_inbox (h : Hand) (d : Dest) (c : Option Nat) : (h.produce d c).inbox = h.inbox := by
  unfold Hand.produce; split <;> rfl
@[simp] theorem Hand.produce_pc (h : Hand) (d : Dest) (c : Option Nat) : (h.produce d c).pc = h.pc := by
  unfold Hand.produce; split <;> rfl
@[simp] theorem Hand.produce_loops (h : Hand) (d : Dest) (c : Option Nat) : (h.produce d c).loops = h.loops := by
  unfold Hand.produce; split <;> rfl
@[simp] theorem Hand.produce_frame (h : Hand) (d : Dest) (c : Option Nat) : (h.produce d c).frame = h.frame := by
  unfold Hand.produce; split <;> rfl
@[simp] theorem Hand.produce_convoy (h : Hand) (d : Dest) (c : Option Nat) : (h.produce d c).convoy = h.convoy := by
  unfold Hand.produce; split <;> rfl
@[simp] theorem Hand.produce_arrived (h : Hand) (d : Dest) (c : Option Nat) : (h.produce d c).arrived = h.arrived := by
  unfold Hand.produce; split <;> rfl
@[simp] theorem Hand.produce_csr (h : Hand) (d : Dest) (c : Option Nat) : (h.produce d c).csr = h.csr := by
  unfold Hand.produce; split <;> rfl
@[simp] theorem Hand.produce_strip (h : Hand) (d : Dest) (c : Option Nat) : (h.produce d c).strip = h.strip := by
  unfold Hand.produce; split <;> rfl
@[simp] theorem Hand.produce_ord (h : Hand) (d : Dest) (c : Option Nat) : (h.produce d c).ord = h.ord := by
  unfold Hand.produce; split <;> rfl
@[simp] theorem Hand.produce_jobs (h : Hand) (d : Dest) (c : Option Nat) : (h.produce d c).jobs = h.jobs := by
  unfold Hand.produce; split <;> rfl
@[simp] theorem Hand.produce_sched (h : Hand) (d : Dest) (c : Option Nat) : (h.produce d c).sched = h.sched := by
  unfold Hand.produce; split <;> rfl

/-! ### Hand.clearStripLocal -/

@[simp] theorem Hand.clearStripLocal_status (h : Hand) : (h.clearStripLocal).status = h.status := rfl
@[simp] theorem Hand.clearStripLocal_id (h : Hand) : (h.clearStripLocal).id = h.id := rfl
@[simp] theorem Hand.clearStripLocal_core (h : Hand) : (h.clearStripLocal).core = h.core := rfl
@[simp] theorem Hand.clearStripLocal_slot (h : Hand) : (h.clearStripLocal).slot = h.slot := rfl
@[simp] theorem Hand.clearStripLocal_dispatchCore (h : Hand) : (h.clearStripLocal).dispatchCore = h.dispatchCore := rfl
@[simp] theorem Hand.clearStripLocal_task (h : Hand) : (h.clearStripLocal).task = h.task := rfl
@[simp] theorem Hand.clearStripLocal_asid (h : Hand) : (h.clearStripLocal).asid = h.asid := rfl
@[simp] theorem Hand.clearStripLocal_taskid (h : Hand) : (h.clearStripLocal).taskid = h.taskid := rfl
@[simp] theorem Hand.clearStripLocal_member (h : Hand) : (h.clearStripLocal).member = h.member := rfl
@[simp] theorem Hand.clearStripLocal_prio (h : Hand) : (h.clearStripLocal).prio = h.prio := rfl
@[simp] theorem Hand.clearStripLocal_x (h : Hand) : (h.clearStripLocal).x = h.x := rfl
@[simp] theorem Hand.clearStripLocal_streams (h : Hand) : (h.clearStripLocal).streams = h.streams := rfl
@[simp] theorem Hand.clearStripLocal_lq (h : Hand) : (h.clearStripLocal).lq = h.lq := rfl
@[simp] theorem Hand.clearStripLocal_handles (h : Hand) : (h.clearStripLocal).handles = h.handles := rfl
@[simp] theorem Hand.clearStripLocal_bound (h : Hand) : (h.clearStripLocal).bound = h.bound := rfl
@[simp] theorem Hand.clearStripLocal_dealer (h : Hand) : (h.clearStripLocal).dealer = h.dealer := rfl
@[simp] theorem Hand.clearStripLocal_inbox (h : Hand) : (h.clearStripLocal).inbox = h.inbox := rfl
@[simp] theorem Hand.clearStripLocal_pc (h : Hand) : (h.clearStripLocal).pc = h.pc := rfl
@[simp] theorem Hand.clearStripLocal_loops (h : Hand) : (h.clearStripLocal).loops = h.loops := rfl
@[simp] theorem Hand.clearStripLocal_frame (h : Hand) : (h.clearStripLocal).frame = h.frame := rfl
@[simp] theorem Hand.clearStripLocal_convoy (h : Hand) : (h.clearStripLocal).convoy = h.convoy := rfl
@[simp] theorem Hand.clearStripLocal_arrived (h : Hand) : (h.clearStripLocal).arrived = h.arrived := rfl
@[simp] theorem Hand.clearStripLocal_csr (h : Hand) : (h.clearStripLocal).csr = h.csr := rfl
@[simp] theorem Hand.clearStripLocal_strip (h : Hand) : (h.clearStripLocal).strip = h.strip := rfl
@[simp] theorem Hand.clearStripLocal_ord (h : Hand) : (h.clearStripLocal).ord = h.ord := rfl
@[simp] theorem Hand.clearStripLocal_jobs (h : Hand) : (h.clearStripLocal).jobs = h.jobs := rfl
@[simp] theorem Hand.clearStripLocal_sched (h : Hand) : (h.clearStripLocal).sched = h.sched := rfl

/-! ### Csrs.raise -/

@[simp] theorem Csrs.raise_vl (c : Csrs) (fl : List (Nat × Nat)) : (c.raise fl).vl = c.vl := rfl
@[simp] theorem Csrs.raise_sew (c : Csrs) (fl : List (Nat × Nat)) : (c.raise fl).sew = c.sew := rfl
@[simp] theorem Csrs.raise_grp (c : Csrs) (fl : List (Nat × Nat)) : (c.raise fl).grp = c.grp := rfl
@[simp] theorem Csrs.raise_fz (c : Csrs) (fl : List (Nat × Nat)) : (c.raise fl).fz = c.fz := rfl
@[simp] theorem Csrs.raise_fh (c : Csrs) (fl : List (Nat × Nat)) : (c.raise fl).fh = c.fh := rfl
@[simp] theorem Csrs.raise_vprof (c : Csrs) (fl : List (Nat × Nat)) : (c.raise fl).vprof = c.vprof := rfl
@[simp] theorem Csrs.raise_vstart (c : Csrs) (fl : List (Nat × Nat)) : (c.raise fl).vstart = c.vstart := rfl
@[simp] theorem Csrs.raise_stripno (c : Csrs) (fl : List (Nat × Nat)) : (c.raise fl).stripno = c.stripno := rfl
@[simp] theorem Csrs.raise_ordbase (c : Csrs) (fl : List (Nat × Nat)) : (c.raise fl).ordbase = c.ordbase := rfl
@[simp] theorem Csrs.raise_orun (c : Csrs) (fl : List (Nat × Nat)) : (c.raise fl).orun = c.orun := rfl
@[simp] theorem Csrs.raise_onext (c : Csrs) (fl : List (Nat × Nat)) : (c.raise fl).onext = c.onext := rfl
@[simp] theorem Csrs.raise_mismatch (c : Csrs) (fl : List (Nat × Nat)) : (c.raise fl).mismatch = c.mismatch := rfl
@[simp] theorem Csrs.raise_active (c : Csrs) (fl : List (Nat × Nat)) : (c.raise fl).active = c.active := rfl
@[simp] theorem Csrs.raise_fpcr (c : Csrs) (fl : List (Nat × Nat)) : (c.raise fl).fpcr = c.fpcr := rfl
@[simp] theorem Csrs.raise_cyc (c : Csrs) (fl : List (Nat × Nat)) : (c.raise fl).cyc = c.cyc := rfl
@[simp] theorem Csrs.raise_wdog (c : Csrs) (fl : List (Nat × Nat)) : (c.raise fl).wdog = c.wdog := rfl
@[simp] theorem Csrs.raise_tvec (c : Csrs) (fl : List (Nat × Nat)) : (c.raise fl).tvec = c.tvec := rfl
@[simp] theorem Csrs.raise_tpc (c : Csrs) (fl : List (Nat × Nat)) : (c.raise fl).tpc = c.tpc := rfl
@[simp] theorem Csrs.raise_tcause (c : Csrs) (fl : List (Nat × Nat)) : (c.raise fl).tcause = c.tcause := rfl
@[simp] theorem Csrs.raise_tval (c : Csrs) (fl : List (Nat × Nat)) : (c.raise fl).tval = c.tval := rfl
@[simp] theorem Csrs.raise_tidx0 (c : Csrs) (fl : List (Nat × Nat)) : (c.raise fl).tidx0 = c.tidx0 := rfl
@[simp] theorem Csrs.raise_tidx1 (c : Csrs) (fl : List (Nat × Nat)) : (c.raise fl).tidx1 = c.tidx1 := rfl
@[simp] theorem Csrs.raise_tidx2 (c : Csrs) (fl : List (Nat × Nat)) : (c.raise fl).tidx2 = c.tidx2 := rfl
@[simp] theorem Csrs.raise_tstatus (c : Csrs) (fl : List (Nat × Nat)) : (c.raise fl).tstatus = c.tstatus := rfl
@[simp] theorem Csrs.raise_repidx (c : Csrs) (fl : List (Nat × Nat)) : (c.raise fl).repidx = c.repidx := rfl
@[simp] theorem Csrs.raise_cpyseq (c : Csrs) (fl : List (Nat × Nat)) : (c.raise fl).cpyseq = c.cpyseq := rfl
@[simp] theorem Csrs.raise_cpydone (c : Csrs) (fl : List (Nat × Nat)) : (c.raise fl).cpydone = c.cpydone := rfl
@[simp] theorem Csrs.raise_cpyEnded (c : Csrs) (fl : List (Nat × Nat)) : (c.raise fl).cpyEnded = c.cpyEnded := rfl
@[simp] theorem Csrs.raise_srecbase (c : Csrs) (fl : List (Nat × Nat)) : (c.raise fl).srecbase = c.srecbase := rfl
@[simp] theorem Csrs.raise_srecctl (c : Csrs) (fl : List (Nat × Nat)) : (c.raise fl).srecctl = c.srecctl := rfl

end Sys2Proof.Machine
end

