-- ==== Sys2Proof/Laws/Ops.lean ====
section
/-! SUPPORT. What the shared operations can do, said once: guards and sources, how an instruction ends, the commit point, the ways of
taking an exception, the PC's advance. -/

namespace Sys2Proof.Machine

/-! ## Guards and sources -/

/-- Everything that a guard can answer (R168). -/
theorem guard_cases (s : State) (g : BitVec 3) :
    (s.goes g ∧ s.guard g = .ok true) ∨ (s.goesNot g ∧ s.guard g = .ok false) ∨
    (g ≠ 0 ∧ s.hand.xEmpty (g.setWidth 5) = true ∧ s.guard g = .error (.wait .register s)) := by
  by_cases h0 : g = 0
  · exact .inl ⟨.inl h0, by simp [State.guard, h0]⟩
  · by_cases he : s.hand.xEmpty (g.setWidth 5) = true
    · exact .inr (.inr ⟨h0, he, by unfold State.guard; rw [if_neg h0]; exact if_pos he⟩)
    · have hf : s.hand.xEmpty (g.setWidth 5) = false := by simpa using he
      by_cases hz : s.hand.getX (g.setWidth 5) = 0
      · exact .inr (.inl ⟨⟨h0, hf, hz⟩, by unfold State.guard; rw [if_neg h0]; simp only [hf, hz]; rfl⟩)
      · exact .inl ⟨.inr ⟨hf, hz⟩, by unfold State.guard; rw [if_neg h0]; simp only [hf]; simpa using hz⟩

theorem guard_goes (s : State) (g : BitVec 3) (h : s.goes g) : s.guard g = .ok true := by
  rcases h with h | ⟨h1, h2⟩
  · simp [State.guard, h]
  · by_cases h0 : g = 0
    · simp [State.guard, h0]
    · simp only [Hand.full] at h1
      unfold State.guard
      rw [if_neg h0]
      simp only [h1]
      simpa using h2

theorem guard_goesNot (s : State) (g : BitVec 3) (h : s.goesNot g) : s.guard g = .ok false := by
  obtain ⟨h0, h1, h2⟩ := h
  simp only [Hand.full] at h1
  unfold State.guard
  rw [if_neg h0]
  simp only [h1, h2]
  rfl

/-- A full scalar source gives its register (R157). -/
theorem src_full (s : State) (i : Nat) (r : Fld5) (t : Bit) (h : s.hand.full r) : s.src i r t = .ok (s.hand.getX r) := by
  simp only [Hand.full] at h
  simp [State.src, h]

/-- An empty scalar source traps or waits (R157, R83). -/
theorem src_empty (s : State) (i : Nat) (r : Fld5) (t : Bit) (h : s.hand.xEmpty r = true) :
    s.src i r t = if t = 1 then .error (.trap (Trap.mk' .emptyRead (BitVec.ofNat 64 (32 * i + r.toNat))) s)
      else .error (.wait .register s) := by
  simp [State.src, h]

theorem dest_full (s : State) (r : Fld5) (h : s.hand.full r) : s.dest r = .ok () := by
  simp only [Hand.full] at h
  simp [State.dest, h]

theorem dest_empty (s : State) (r : Fld5) (h : s.hand.xEmpty r = true) : s.dest r = .error (.wait .register s) := by
  simp [State.dest, h]

@[simp] theorem full_zero (h : Hand) : h.full 0 := by simp [Hand.full, Hand.xEmpty]

/-! ## How an instruction ends -/

@[simp] theorem finish_ok (s : State) : finish (.ok s) = .next s := rfl
@[simp] theorem finish_wait (s : State) (w : Wait) : finish (.error (.wait w s)) = .next (s.waits w) := rfl
@[simp] theorem finish_rewound (s : State) : finish (.error (.rewound s)) = .next { s with latch := .waited .rewound } := rfl

/-- A trap ends the instruction as `State.trapped` says. -/
@[simp] theorem finish_trap (s : State) (t : Trap) : finish (.error (.trap t s)) = .next (s.trapped t) := rfl

/-- Of an instruction that is no member of a convoy it is taken, once no earlier spawn awaits its status (R357). -/
theorem trapped_taken (s : State) (t : Trap) (hc : s.hand.convoy = none) (h : s.hand.spawnless) :
    s.trapped t = { s.take t with latch := .trapped t } := by
  unfold State.trapped
  rw [if_neg (by simp [hc]), if_neg (by simpa [Hand.spawning] using h)]

/-- However an instruction ends, the device goes on. -/
theorem finish_next (r : Run State) : ∃ t, finish r = .next t := by
  match r with
  | .ok _ | .error (.trap _ _) | .error (.wait _ _) | .error (.rewound _) => exact ⟨_, rfl⟩

/-- A guarded instruction that executes is its body. -/
theorem guarded_goes (s : State) (g : BitVec 3) (body : State → Run State) (h : s.goes g) : guarded s g body = finish (body s) := by
  unfold guarded
  rw [guard_goes s g h]
  rfl

/-- A guarded-off instruction only moves on (R168). -/
theorem guarded_goesNot (s : State) (g : BitVec 3) (body : State → Run State) (h : s.goesNot g) :
    guarded s g body = .next (s.retire 4) := by
  unfold guarded
  rw [guard_goesNot s g h]
  rfl

/-! ## The commit point (R147) -/

/-- Of the current hand, a state differs from another in its ordering and its strip alone. -/
def SameButStrip (s t : State) : Prop := ∃ o st, t.hand = { s.hand with ord := o, strip := st }

theorem SameButStrip.rfl' (s : State) : SameButStrip s s := ⟨s.hand.ord, s.hand.strip, rfl⟩

theorem SameButStrip.trans {s t u : State} (h : SameButStrip s t) (k : SameButStrip t u) : SameButStrip s u := by
  obtain ⟨o, st, h⟩ := h
  obtain ⟨o', st', k⟩ := k
  exact ⟨o', st', by rw [k, h]⟩

theorem clearTag_sameButStrip (s : State) (line : Nat) : SameButStrip s (s.clearTag line) := by
  unfold State.clearTag
  split
  · exact .rfl' s
  · simp only [State.modHand]
    split
    · exact ⟨_, s.hand.strip, rfl⟩
    · exact .rfl' s

theorem putLive_sameButStrip (s : State) (k : Nat) (b : Byte) : SameButStrip s (s.putLive k b) := by
  obtain ⟨o, st, h⟩ := clearTag_sameButStrip s (lineOf k)
  refine ⟨o, st, Eq.trans ?_ h⟩
  unfold State.putLive
  simp only
  repeat (first | split | rfl)

theorem retain_hand (s t : State) (w : Writer) (k : Nat) (h : s.retain w k = some t) : t.hand = s.hand := by
  unfold State.retain at h
  simp only at h
  repeat' split at h
  all_goals first | exact (congrArg State.hand (Option.some.inj h)).symm | exact absurd h nofun

theorem performByte_sameButStrip (s : State) (b : Buffered) : SameButStrip s (s.performByte b) := by
  unfold State.performByte
  simp only
  split
  · rename_i t ht
    obtain ⟨o, st, h⟩ := putLive_sameButStrip t b.key b.val
    exact ⟨o, st, h.trans (by rw [retain_hand _ _ _ _ ht])⟩
  · exact ⟨s.hand.ord, _, rfl⟩

theorem foldl_performByte_sameButStrip (l : List Buffered) (s : State) : SameButStrip s (l.foldl State.performByte s) := by
  induction l generalizing s with
  | nil => exact .rfl' s
  | cons b l ih => exact (performByte_sameButStrip s b).trans (ih _)

theorem drain_sameButStrip (s : State) : SameButStrip s s.drain := by
  unfold State.drain
  simp only
  split
  · exact .rfl' s
  · refine SameButStrip.trans (t := _) ?_ ⟨_, _, rfl⟩
    refine SameButStrip.trans (t := _) ⟨s.hand.ord, _, rfl⟩ (foldl_performByte_sameButStrip _ _)

/-- A commit point changes, of the current hand, its ordering and its strip alone. -/
theorem commit_sameButStrip (s : State) : SameButStrip s s.commit := by
  unfold State.commit
  split
  · exact (drain_sameButStrip s).trans ⟨_, _, rfl⟩
  · exact .rfl' s

/-- Outside a protected strip a commit point does nothing. -/
theorem commit_of_not_prot (s : State) (h : s.hand.strip.prot = false) : s.commit = s := by
  simp [State.commit, h]

@[simp] theorem commit_prot (s : State) : s.commit.hand.strip.prot = false := by
  unfold State.commit
  split
  · rfl
  · rename_i h; simpa using h

/-- The registers, the position and the CSRs that a commit point leaves. -/
theorem commit_regs (s : State) : s.commit.hand.x = s.hand.x ∧ s.commit.hand.v = s.hand.v ∧ s.commit.hand.p = s.hand.p ∧
    s.commit.hand.csr = s.hand.csr ∧ s.commit.hand.pc = s.hand.pc ∧ s.commit.hand.loops = s.hand.loops ∧
    s.commit.hand.frame = s.hand.frame ∧ s.commit.hand.convoy = s.hand.convoy ∧ s.commit.hand.producers = s.hand.producers ∧
    s.commit.hand.streams = s.hand.streams ∧ s.commit.hand.lq = s.hand.lq ∧ s.commit.hand.handles = s.hand.handles ∧
    s.commit.hand.sched = s.hand.sched ∧ s.commit.hand.status = s.hand.status := by
  obtain ⟨o, st, h⟩ := commit_sameButStrip s
  rw [h]
  exact ⟨rfl, rfl, rfl, rfl, rfl, rfl, rfl, rfl, rfl, rfl, rfl, rfl, rfl, rfl⟩

/-! ## Taking an exception (R356 to R362) -/

/-- Counting an uncorrectable read touches no hand. -/
@[simp] theorem countBad_hand (s : State) (t : Trap) : (s.countBad t).hand = s.hand := by
  unfold State.countBad State.countBadAt
  repeat (first | split | rfl)

/-- An error of another cause is not counted. -/
theorem countBad_other (s : State) (t : Trap) (h : t.cause ≠ .uncorrectable) : s.countBad t = s := if_pos h

/-- The checkpoint's PC, which a protected strip goes back to (R148). -/
abbrev Hand.ckptPc (h : Hand) : Reg64 := (h.strip.ckpt.map (·.pc)).getD h.pc

/-- An uncorrectable error that a protected strip retries (R362). -/
theorem take_retry (s : State) (t : Trap) (hu : t.cause = .uncorrectable) (hp : s.hand.strip.prot = true) (hr : t.retries = true) :
    s.take t = if 4 ≤ s.hand.strip.retries + 1
      then (s.countBad t).toSystem (Trap.mk' .stripRetryExhausted s.hand.ckptPc) true
      else (s.countBad t).rewind.retry (s.hand.strip.retries + 1) := by
  unfold State.take
  simp only [countBad_hand]
  rw [if_pos ⟨hu, hp, hr⟩]
  simp [State.retried]

/-- Any other uncorrectable error is posted (R362). -/
theorem take_uncorrectable (s : State) (t : Trap) (hu : t.cause = .uncorrectable)
    (h : s.hand.strip.prot = false ∨ t.retries = false) : s.take t = (s.countBad t).toSystem t s.hand.strip.prot := by
  unfold State.take
  simp only [countBad_hand]
  rw [if_neg, if_pos hu]
  rintro ⟨-, hp, hr⟩
  rcases h with h | h <;> simp_all

/-- GANG-ABORT in a protected strip rewinds it and names the checkpointed PC (R367). -/
theorem take_gangAbort (s : State) (t : Trap) (hg : t.cause = .gangAbort) (hp : s.hand.strip.prot = true) :
    s.take t = if s.hand.csr.tvec = 0 ∨ s.hand.csr.hm = true then s.toSystemAt t true s.hand.ckptPc
      else s.rewind.inHand t s.rewind.hand.pc true := by
  have hu : t.cause ≠ .uncorrectable := by rw [hg]; decide
  unfold State.take
  simp only [countBad_other s t hu]
  rw [if_neg (fun h => hu h.1), if_neg hu, if_pos ⟨hg, hp⟩]

/-- A cause of the system fault queue, or one with no handler to go to, is posted (R356, R359, R361). -/
theorem take_system (s : State) (t : Trap) (hu : t.cause ≠ .uncorrectable) (hg : t.cause ≠ .gangAbort ∨ s.hand.strip.prot = false)
    (h : t.cause.toSystem = true ∨ s.hand.csr.tvec = 0 ∨ s.hand.csr.hm = true) : s.take t = s.toSystem t true := by
  unfold State.take
  simp only [countBad_other s t hu]
  rw [if_neg (fun k => hu k.1), if_neg hu, if_neg (by rintro ⟨k, p⟩; rcases hg with g | g <;> simp_all), if_pos h]

/-- Every other trap goes to the hand's own handler (R358), while the buffer that its delivery drains decodes. -/
theorem take_inHand (s : State) (t : Trap) (hd : s.drains) (hu : t.cause ≠ .uncorrectable) (hg : t.cause ≠ .gangAbort ∨
  s.hand.strip.prot = false)
    (h : t.cause.toSystem = false ∧ s.hand.csr.tvec ≠ 0 ∧ s.hand.csr.hm = false) : s.take t = s.inHand t s.hand.trapPc false := by
  unfold State.take
  simp only [countBad_other s t hu]
  rw [if_neg (fun k => hu k.1), if_neg hu, if_neg (by rintro ⟨k, p⟩; rcases hg with g | g <;> simp_all),
    if_neg (by rintro (k | k | k); exacts [Bool.noConfusion (h.1.symm.trans k), h.2.1 k, Bool.noConfusion (h.2.2.symm.trans k)])]
  simp only [hd]

/-! ## The PC -/

/-- Outside a frame and a convoy, with no loop, an instruction's successor is the next word. -/
theorem advance_next (h : Hand) (n : Nat) (hf : h.frame = none) (hc : h.convoy = none) (hl : h.loops = []) :
    h.advance n = { h with pc := h.pc + BitVec.ofNat 64 n } := by
  simp [Hand.advance, hf, hc, Hand.iterEnd, hl]

/-- Completing changes, of the current hand, its position, its status and its count alone. -/
theorem retire_hand (s : State) (n : Nat) : (s.retire n).hand = { s.hand with
    pc := (s.hand.advance n).pc, loops := (s.hand.advance n).loops, frame := (s.hand.advance n).frame, status := .running,
    sched := { s.hand.sched with retiredCount := s.hand.sched.retiredCount + 1 } } := by
  have key : ∀ h : Hand, ∀ a b, h.iterEnd a b = { h with pc := (h.iterEnd a b).pc, loops := (h.iterEnd a b).loops } := by
    intro h a b
    unfold Hand.iterEnd
    split
    · rfl
    · split
      · rfl
      · rfl
  have adv : ∀ h : Hand, h.advance n =
      { h with pc := (h.advance n).pc, loops := (h.advance n).loops, frame := (h.advance n).frame } := by
    intro h
    unfold Hand.advance
    split
    · split
      · rfl
      · split
        · rfl
        · simp only
          rw [key]
    · rename_i hf
      split
      · rfl
      · rw [key]
  unfold State.retire
  simp only
  rw [adv s.hand]

end Sys2Proof.Machine
end

