-- ==== Sys2Proof/Laws/Rv.lean ====
section
/-! SUPPORT. What the shared operations on memory's lines and on a thread can do, said once: the lines that an access uses, publication,
reservations, a thread's registers, and every way in which an instruction of a thread can end. -/

namespace Sys2Proof.Machine

/-! ## Lines in use (R57) -/

/-- Using a line changes, of memory, which tagged line was used when alone. -/
theorem useLine_tags (m : MemState) (line : Nat) : m.useLine line = { m with tags := (m.useLine line).tags } := by
  unfold MemState.useLine
  split <;> rfl

theorem foldl_useLine_tags (l : List Nat) (m : MemState) :
    l.foldl MemState.useLine m = { m with tags := (l.foldl MemState.useLine m).tags } := by
  induction l generalizing m with
  | nil => rfl
  | cons a l ih =>
    rw [List.foldl_cons, ih, useLine_tags m a]

/-- An access through the cache changes, of the state, the tags of its lines alone. -/
theorem uses_mem (s : State) (key n : Nat) : s.uses key n = { s with mem := { s.mem with tags := (s.uses key n).mem.tags } } :=
  congrArg (fun m => { s with mem := m }) (foldl_useLine_tags _ _)

@[simp] theorem uses_hand (s : State) (key n : Nat) : (s.uses key n).hand = s.hand := rfl
@[simp] theorem uses_others (s : State) (key n : Nat) : (s.uses key n).others = s.others := rfl
@[simp] theorem uses_pool (s : State) (key n : Nat) : (s.uses key n).pool = s.pool := rfl
@[simp] theorem uses_live (s : State) (key n : Nat) : (s.uses key n).mem.live = s.mem.live := by rw [uses_mem]
@[simp] theorem uses_pub (s : State) (key n : Nat) : (s.uses key n).mem.pub = s.mem.pub := by rw [uses_mem]
@[simp] theorem uses_reserved (s : State) (key n : Nat) : (s.uses key n).mem.reserved = s.mem.reserved := by rw [uses_mem]

/-- Counting an element read changes, of the hand, that count alone (R82). -/
theorem readDone_hand (s : State) :
    s.readDone = { s with hand := { s.hand with strip := { s.hand.strip with drawn := s.readDone.hand.strip.drawn } } } := by
  unfold State.readDone
  split <;> rfl

/-! ## What the device writes -/

/-- The device's own write is published where memory serves it, and lost elsewhere. -/
theorem physWrite_cases (s : State) (a : Nat) (l : List Byte) :
    (s.memUp a l.length = some true ∧ s.physWrite a l = s.putPubAll (atAddr a l)) ∨
    (s.memUp a l.length ≠ some true ∧ s.physWrite a l = s) := by
  by_cases h : s.memUp a l.length = some true
  · exact .inl ⟨h, if_pos h⟩
  · exact .inr ⟨h, if_neg h⟩

/-- A published byte breaks every reservation of it, and no other one. -/
theorem publish_reserved (m : MemState) (key : Nat) (b : Byte) (r : Nat × Nat × Nat) :
    r ∈ (m.publish key b).reserved ↔ r ∈ m.reserved ∧ ¬ (r.2.1 ≤ key ∧ key < r.2.1 + r.2.2) := by
  simp only [MemState.publish, List.mem_filter, Bool.not_eq_true', decide_eq_false_iff_not]

/-! ## Threads (R395) -/

@[simp] theorem unreserve_hand (s : State) (k : Nat) : (s.unreserve k).hand = s.hand := rfl
@[simp] theorem unreserve_pool (s : State) (k : Nat) : (s.unreserve k).pool = s.pool := rfl
@[simp] theorem unreserve_live (s : State) (k : Nat) : (s.unreserve k).mem.live = s.mem.live := rfl
@[simp] theorem unreserve_pub (s : State) (k : Nat) : (s.unreserve k).mem.pub = s.mem.pub := rfl
@[simp] theorem unreserve_reserved (s : State) (k : Nat) : (s.unreserve k).mem.reserved = mdel s.mem.reserved k := rfl
@[simp] theorem setThread_hand (s : State) (t : Thread) : (s.setThread t).hand = s.hand := rfl
@[simp] theorem setThread_mem (s : State) (t : Thread) : (s.setThread t).mem = s.mem := rfl
@[simp] theorem setThread_threads (s : State) (t : Thread) :
    (s.setThread t).pool.threads = s.pool.threads.map (fun x => if x.core = t.core then t else x) := rfl

@[simp] theorem Thread.getX_zero (t : Thread) : t.getX 0 = 0 := rfl
@[simp] theorem Thread.setX_zero (t : Thread) (v : Reg64) : t.setX 0 v = t := rfl
/-- A written register reads as written, x0 as zero. -/
theorem Thread.getX_setX (t : Thread) (r : Fld5) (v : Reg64) : (t.setX r v).getX r = if r = 0 then 0 else v := by
  unfold Thread.getX Thread.setX
  by_cases h : r = 0
  · rw [if_pos h, if_pos h]
  · rw [if_neg h, if_neg h, if_neg h]
    exact Vector.getElem_set_self ..
/-- Every other register stays. -/
theorem Thread.getX_setX_other (t : Thread) (r q : Fld5) (v : Reg64) (h : q ≠ r) : (t.setX r v).getX q = t.getX q := by
  unfold Thread.getX Thread.setX
  by_cases h0 : r = 0
  · rw [if_pos h0]
  · rw [if_neg h0]
    by_cases hq : q = 0
    · rw [if_pos hq, if_pos hq]
    · rw [if_neg hq, if_neg hq]
      exact Vector.getElem_set_ne r.isLt q.isLt (fun e => h (BitVec.eq_of_toNat_eq e.symm))
@[simp] theorem Thread.setX_core (t : Thread) (r : Fld5) (v : Reg64) : (t.setX r v).core = t.core := by unfold Thread.setX; split <;> rfl
@[simp] theorem Thread.setX_pc (t : Thread) (r : Fld5) (v : Reg64) : (t.setX r v).pc = t.pc := by unfold Thread.setX; split <;> rfl
@[simp] theorem Thread.setX_f (t : Thread) (r : Fld5) (v : Reg64) : (t.setX r v).f = t.f := by unfold Thread.setX; split <;> rfl

/-- Every way in which a thread's step can end: it waits for a stack; an exception leaves the thread before its instruction; or the
instruction that the bytes at its pc hold has run. -/
theorem threadStep_cases (s : State) (t : Thread) :
    s.threadStep t = s ∨
    (∃ u n, s.threadStep t = (State.unreserve u t.core).setThread { t with cause := some n }) ∨
    (∃ u w len i v t', s.threadFetch t = .ok (u, w, len) ∧ rvDecode w = some i ∧ u.threadExec t i len = .ok (v, t') ∧
      s.threadStep t = v.setThread t') := by
  unfold State.threadStep
  dsimp only
  split
  · exact .inl rfl
  · exact .inr (.inl ⟨_, _, rfl⟩)
  · rename_i u w len hf
    split
    · exact .inr (.inl ⟨_, _, rfl⟩)
    · rename_i i hi
      split
      · rename_i v t' he
        exact .inr (.inr ⟨u, w, len, i, v, t', hf, hi, he, rfl⟩)
      · exact .inl rfl
      · exact .inr (.inl ⟨_, _, rfl⟩)

end Sys2Proof.Machine
end

