-- ==== Sys2Proof/Laws/Words.lean ====
section
/-! SUPPORT. An instruction word and its fields: taking a word apart and putting it together again. -/

namespace Sys2Proof

/-- The fields of a word that was put together from fields are those fields. -/
theorem splitWord_joinWord (r : Raw) : splitWord (joinWord r) = r := by
  obtain ⟨c, maj, d, a, b, fn, ta, tb, g⟩ := r
  simp only [splitWord, joinWord, Raw.mk.injEq]
  refine ⟨?_, ?_, ?_, ?_, ?_, ?_, ?_, ?_, ?_⟩ <;>
    (apply BitVec.eq_of_getLsbD_eq
     intro i hi
     simp only [BitVec.getLsbD_cast, BitVec.getLsbD_append, BitVec.getLsbD_extractLsb']
     interval_cases i <;> simp only [Nat.reduceLT, Nat.reduceSub, Nat.reduceAdd, decide_true, Bool.true_and, ↓reduceIte])

/-- A word is the word of its fields. -/
theorem joinWord_splitWord (w : Word) : joinWord (splitWord w) = w := by
  apply BitVec.eq_of_getLsbD_eq
  intro i hi
  simp only [splitWord, joinWord, BitVec.getLsbD_cast, BitVec.getLsbD_append, BitVec.getLsbD_extractLsb']
  interval_cases i <;> simp only [Nat.reduceLT, Nat.reduceSub, Nat.reduceAdd, decide_true, Bool.true_and, ↓reduceIte]

end Sys2Proof
end

