-- ==== Sys2Proof/Tests/Slice0.lean ====
section
/-! SUPPORT. Tests: words that the spec writes out, decoded field by field; a term that each check of WellFormed refuses; results of
the spec's examples and tables. The expected values come from the spec. -/

namespace Sys2Proof.Tests

set_option Elab.async false

open Sys2Proof Sys2Proof.Machine

/-! ## Decoding -/

/-- Does a word decode to the instruction, and does the instruction's word give it back? -/
abbrev decodes (w : Word) (i : Instr) : Prop := (decodeWords w 0).toOption = some i ∧ encodeWord i = w

/-- R181's example: add x7, x7, x6. -/
theorem test_decode_add : decodes 0x02739800 (.add ⟨7, 7, 6, 0, 0, 0⟩) := by decide +kernel
/-- Spec file 24, line n29: addi x5, !x2, 0. -/
theorem test_decode_addi : decodes 0x04510008 (.addi ⟨5, 2, 0, 1, 0⟩) := by decide +kernel
/-- Line n38: (x7) stw x8, [x3+8]. -/
theorem test_decode_stw : decodes 0x2A818087 (.stw ⟨8, 3, 8, 0, 7⟩) := by decide +kernel
/-- R186's form, major 11 = 001011, A = 1: lith x5. -/
theorem test_decode_lith : (decodeWords 0x16508000 0x12345678).toOption = some (.lith ⟨5, 0, 0x12345678⟩) := by decide +kernel
/-- R188: jalr x0, x31, 0. -/
theorem test_decode_jalr : decodes 0x340F8000 (.jalr ⟨0, 31, 0, 0, 0⟩) := by decide +kernel
/-- Line n33: vloop x5, x6 three words back. -/
theorem test_decode_vloop : decodes 0x38537FE8 (.vloop ⟨5, 6, -3⟩) := by decide +kernel
/-- Line n30: vsetl x6, x5, e32, g1. -/
theorem test_decode_vsetl : decodes 0x3A62C000 (.vsetl ⟨6, 5, 2, 0, 0, 0⟩) := by decide +kernel
/-- R166's listing: vadd v4, v0, v20. -/
theorem test_decode_vadd : decodes 0x3C405000 (.vadd ⟨0, 4, 0, 20, 0, 0, 0⟩) := by decide +kernel
/-- Line n31: vmov v2, st0. -/
theorem test_decode_vmov_stream : decodes 0x3C204320 (.vmovStream ⟨0, 2, 0, 0⟩) := by decide +kernel
/-- R249's example: vclt p2, v1, v4. -/
theorem test_decode_vclt : decodes 0x42209040 (.vclt ⟨0, 2, 1, 4, 0, 0, 0⟩) := by decide +kernel
/-- R228's example: vgl v1, [x1], v2. -/
theorem test_decode_vgl : decodes 0x4E1088A0 (.vgl ⟨0, 1, 1, 2, 0, 0, 0⟩) := by decide +kernel
/-- R285's example: xchg t2, t1, x9. -/
theorem test_decode_xchg : decodes 0x6020A400 (.xchg ⟨2, 1, 9, 0, 0, 0, 0⟩) := by decide +kernel
/-- Table 15.4: sdecl s1, x10, x0. -/
theorem test_decode_sdecl : decodes 0x62150000 (.sdecl ⟨1, 10, 0, 0, 0, 0⟩) := by decide +kernel
/-- Line n32: + supd.mom s1, v2. -/
theorem test_decode_supd : decodes 0xE4110000 (.supdMom ⟨1, 1, 2, 0, 0⟩) := by decide +kernel
/-- Table 15.6: sq.mom x8, s1, 1. -/
theorem test_decode_sqMom : decodes 0x66808400 (.sqMom ⟨8, 1, 1, 0⟩) := by decide +kernel
/-- Table 15.6: sq.topk v8, s3. -/
theorem test_decode_sqTopk : decodes 0x66818060 (.sqTopk ⟨8, 3, 0⟩) := by decide +kernel
/-- Table 15.6: sq.qh x5, s4, x6. -/
theorem test_decode_sqQh : decodes 0x66521880 (.sqQh ⟨5, 4, 6, 0, 0⟩) := by decide +kernel
/-- Table 15.6: sq.cms v6, s5, v7. -/
theorem test_decode_sqCms : decodes 0x66629CA0 (.sqCms ⟨6, 5, 7, 0, 0⟩) := by decide +kernel
/-- Table 15.6: sq.vacc v2, s1, x4; sq.tile t6, s1; sq.flags x5, s1. -/
theorem test_decode_sq : decodes 0x662090C0 (.sqVacc ⟨2, 1, 4, 0, 0⟩) ∧ decodes 0x666080E0 (.sqTile ⟨6, 1, 0⟩) ∧
    decodes 0x66508100 (.sqFlags ⟨5, 1, 0⟩) := by decide +kernel
/-- R316's table: qdeal v4, x6. -/
theorem test_decode_qdeal : decodes 0x68430000 (.qdeal ⟨0, 4, 6, 0, 0, 0, 0⟩) := by decide +kernel
/-- R329's table: seatq x5, x4. -/
theorem test_decode_seatq : decodes 0x6A520000 (.seatq ⟨5, 4, 0, 0⟩) := by decide +kernel
/-- R166's listing: rep 2, x9, 4, da. -/
theorem test_decode_rep : decodes 0x6C148098 (.rep ⟨1, 9, 4, 1, 1, 0⟩) := by decide +kernel
/-- R169's examples: csrr x11, CPYDONE; csrw x5, FPCR. -/
theorem test_decode_csr : decodes 0x6EB16420 (.csrr ⟨11, 2, 25, 0⟩) ∧ decodes 0x6E504040 (.csrw ⟨5, 0, 16, 0⟩) := by
  decide +kernel
/-- R175, R179, R192: trap 3; nop; lbrk. -/
theorem test_decode_sys : decodes 0x6E000C00 (.trap ⟨3, 0⟩) ∧ decodes 0x6E000140 .nop ∧
    decodes 0x6E000100 (.lbrk ⟨0⟩) := by decide +kernel

/-- R244, IMM8 in bits 14:7 and sub in bits 6:3, major 56 = 111000: vslli v3, v2, 5 under mask p1 (sub 4). -/
theorem test_decode_vslli : (decodeWords 0x703102A1 0).toOption = some (.vslli ⟨0, 3, 2, 5, 1⟩) := by decide +kernel

/-! ## Words that are no instruction -/

/-- R164: the zero word; a major that Table 8.3 gives to nobody; a compare into p0 (R249); a reserved field that is not zero. -/
theorem test_decode_refused : decodeWords 0 0 = .error .zero ∧ decodeWords 0x7E000000 0 = .error .illegal ∧
    decodeWords 0x42009040 0 = .error .illegal ∧ decodeWords 0x6E000141 0 = .error .reserved :=
  ⟨rfl, rfl, rfl, rfl⟩

/-- For each check of WellFormed a term that it refuses. -/
theorem test_illFormed : [Instr.vceq ⟨0, 0, 1, 2, 0, 0, 0⟩, .vcne ⟨0, 0, 1, 2, 0, 0, 0⟩, .vclt ⟨0, 0, 1, 2, 0, 0, 0⟩,
    .vcle ⟨0, 0, 1, 2, 0, 0, 0⟩, .vcltn ⟨0, 0, 1, 2, 0, 0, 0⟩, .vclen ⟨0, 0, 1, 2, 0, 0, 0⟩, .vfceq ⟨0, 0, 1, 2, 0, 0, 0⟩,
    .vfclt ⟨0, 0, 1, 2, 0, 0, 0⟩, .vfcle ⟨0, 0, 1, 2, 0, 0, 0⟩, .vfcun ⟨0, 0, 1, 2, 0, 0, 0⟩, .pand ⟨0, 0, 1, 2, 0⟩,
    .por ⟨0, 0, 1, 2, 0⟩, .pxor ⟨0, 0, 1, 2, 0⟩, .pandn ⟨0, 0, 1, 2, 0⟩, .pnot ⟨0, 0, 1, 0⟩, .pset ⟨0, 0, 0⟩,
    .vceqi ⟨0, 0, 1, 0, 0⟩, .vsc ⟨0, 1, 1, 2, 0, 0, 0, 0⟩, .loop ⟨1, 0⟩, .vsetl ⟨1, 1, 2, 0, 0, 1⟩,
    .vsetlq ⟨1, 4, 1, 0, 0, 0⟩, .vpopq ⟨0, 4, 1, 0⟩].all (fun i => !wellFormed i) = true := by decide +kernel

theorem test_illFormed_more : [Instr.lace ⟨4, 1, 1, 0, 0, 0, 0⟩, .sunbind ⟨4, 0⟩, .spos ⟨1, 4, 0⟩, .sadv ⟨4, 1, 0, 0⟩,
    .stabl ⟨4, 0, 0⟩, .vcvtff ⟨0, 1, 2, 2, 0, 0⟩, .vquant ⟨0, 1, 2, 1, 0, 0⟩, .vdequant ⟨0, 1, 2, 9, 0, 0⟩,
    .vsortk ⟨0, 2, 1, 0, 0, 1, 0⟩, .xfence ⟨7, 0, 0⟩, .phend ⟨0, 0⟩, .phase ⟨1, 6, 0⟩, .supdTopk ⟨0, 1, 1, 0, 0, 1, 0⟩,
    .supdQh ⟨0, 1, 1, 0, 0, 1, 0⟩, .supdCms ⟨0, 1, 1, 0, 0, 1, 0⟩, .supdVacc ⟨0, 1, 1, 0, 0, 1, 0⟩,
    .supdVaccm ⟨0, 1, 1, 0, 0, 1, 0⟩, .qdeal ⟨0, 1, 1, 0, 0, 1, 0⟩, .qdealf ⟨0, 1, 1, 0, 0, 1, 0⟩, .sqTopk ⟨31, 1, 0⟩,
    .rep ⟨16, 1, 0, 0, 0, 0⟩, .csrr ⟨1, 0, 7, 0⟩, .csrw ⟨1, 0, 0, 0⟩, .csrx ⟨1, 2, 25, 0⟩].all (fun i => !wellFormed i) = true := by
  decide +kernel

/-! ## Small states -/

/-- The device of log 26: one running hand, its code and data in one range. -/
def base : State := State.reset.launch
/-- Changing the hand. -/
def hand (f : Hand → Hand) (s : State) : State := { s with hand := f s.hand }
/-- Setting a scalar register. -/
def x (r : Fld5) (v : Reg64) (s : State) : State := s.setX r v
/-- The strip's shape. -/
def strip (sew grp : BitVec 2) (vl : Nat) (s : State) : State :=
  hand (fun h => { h with csr := { h.csr with sew := sew, grp := grp, vl := vl } }) s
/-- Vector elements of 32 bits from position 0 on. -/
def v (r : Fld5) (l : List Nat) (s : State) : State :=
  hand (fun h => l.zipIdx.foldl (fun h ei => h.setVN r.toNat (4 * ei.2) 4 ei.1) h) s
/-- A producer that no other one holds up. -/
def pending (d : Dest) : Producer := ⟨d, none, none, [], false, []⟩
/-- The next state, where there is one. -/
def after (o : Host.Outcome State Fault Refusal) : State :=
  match o with
  | .next s => s
  | _ => base
/-- A scalar register after an instruction. -/
def gives (i : Instr) (s : State) (r : Fld5) : Reg64 := (after (exec i s)).hand.getX r
/-- A 32-bit element after an instruction. -/
def element (i : Instr) (s : State) (r : Fld5) (e : Nat) : Nat := (after (exec i s)).hand.getVN r.toNat (4 * e) 4

/-! ## Results -/

/-- R182: −2^63 by −1 gives −2^63, and the remainder 0; by zero, all ones. -/
theorem test_div : gives (.div ⟨3, 1, 2, 0, 0, 0⟩) (x 1 0x8000000000000000 (x 2 (-1) base)) 3 = 0x8000000000000000 ∧
    gives (.rem ⟨3, 1, 2, 0, 0, 0⟩) (x 1 0x8000000000000000 (x 2 (-1) base)) 3 = 0 ∧
    gives (.divn ⟨3, 1, 0, 0, 0, 0⟩) (x 1 7 base) 3 = BitVec.allOnes 64 := by decide +kernel
/-- R181: addw wraps at 32 bits and sign-extends. -/
theorem test_addw : gives (.addw ⟨3, 1, 2, 0, 0, 0⟩) (x 1 0x7FFFFFFF (x 2 1 base)) 3 = 0xFFFFFFFF80000000 := by decide +kernel
/-- R181: mulhn of the largest numbers; sra fills with the sign; the shift is taken modulo 64. -/
theorem test_mulhn : gives (.mulhn ⟨3, 1, 1, 0, 0, 0⟩) (x 1 (-1) base) 3 = 0xFFFFFFFFFFFFFFFE ∧
    gives (.sra ⟨3, 1, 2, 0, 0, 0⟩) (x 1 (-8) (x 2 66 base)) 3 = -2 := by decide +kernel
/-- R181: ctz and clz of zero are 64. -/
theorem test_clz : gives (.clz ⟨3, 1, 0, 0⟩) base 3 = 64 ∧ gives (.ctz ⟨3, 1, 0, 0⟩) base 3 = 64 := by decide +kernel
/-- R183: sltni compares unsigned with the sign-extended immediate. -/
theorem test_sltni : gives (.sltni ⟨3, 1, -1, 0, 0⟩) (x 1 5 base) 3 = 1 := by decide +kernel
/-- R188: jalr whose source is its destination goes to the old value. -/
theorem test_jalr : (after (exec (.jalr ⟨1, 1, 4, 0, 0⟩) (x 1 0x100000040 base))).hand.pc = 0x100000044 ∧
    gives (.jalr ⟨1, 1, 4, 0, 0⟩) (x 1 0x100000040 base) 1 = 0x100000004 := by decide +kernel
/-- R157: an empty source with its trap bit raises EMPTY-READ; the record goes to the system queue while TVEC is 0 (R358). -/
theorem test_empty_read : (after (exec (.add ⟨3, 1, 2, 0, 1, 0⟩)
    (hand (fun h => { h with producers := [pending (.scalar 2)] }) base))).faults.pending.map (fun r => (r.trap.cause, r.trap.tval)) =
    [(.emptyRead, 34)] := by decide +kernel
/-- R358: with TVEC set the trap is taken in the hand; TCAUSE is the sub-code and the cause. -/
theorem test_trap : (after (exec (.trap ⟨3, 0⟩) (hand (fun h => { h with csr := { h.csr with tvec := 0x100000100 } }) base))).hand.pc =
      0x100000100 ∧
    (after (exec (.trap ⟨3, 0⟩) (hand (fun h => { h with csr := { h.csr with tvec := 0x100000100 } }) base))).hand.csr.tcause = 8 := by
  decide +kernel
/-- Table 7.7: VPROF 4, SEW 64, GRP 8 grants 4,096; VPROF 0, SEW 16, GRP 1 grants 128. -/
theorem test_cap : grantOf 4 3 3 100000 = 4096 ∧ grantOf 0 1 0 100000 = 128 := by decide +kernel
/-- R243: vadd wraps at SEW; an element above VL stays. -/
theorem test_vadd : element (.vadd ⟨0, 3, 1, 2, 0, 0, 0⟩) (v 1 [0xFFFFFFFF, 1] (v 2 [2, 2] (v 3 [9, 9] (strip 2 0 1 base)))) 3 0 = 1 ∧
    element (.vadd ⟨0, 3, 1, 2, 0, 0, 0⟩) (v 1 [0xFFFFFFFF, 1] (v 2 [2, 2] (v 3 [9, 9] (strip 2 0 1 base)))) 3 1 = 9 := by
  decide +kernel
/-- R202: 1 + 2^-24 in F32 is a tie and goes to even, with NX. -/
theorem test_vfadd : element (.vfadd ⟨0, 3, 1, 2, 0, 0, 0⟩) (v 1 [0x3F800000] (v 2 [0x33800000] (strip 2 0 1 base))) 3 0 = 0x3F800000 ∧
    (after (exec (.vfadd ⟨0, 3, 1, 2, 0, 0, 0⟩) (v 1 [0x3F800000] (v 2 [0x33800000] (strip 2 0 1 base))))).hand.csr.fstat = 16 := by
  decide +kernel
/-- R219: a store in a protected strip is seen by the hand's own load, and memory is as it was until the commit point. -/
theorem test_store_forward :
    let s := x 1 0x100000100 (x 2 0x80 (hand (fun h => { h with strip := { h.strip with prot := true } }) base))
    gives (.ldb ⟨3, 1, 0, 0, 0⟩) (after (exec (.stb ⟨2, 1, 0, 0, 0⟩) s)) 3 = 0xFFFFFFFFFFFFFF80 ∧
    (after (exec (.stb ⟨2, 1, 0, 0, 0⟩) s)).mem.live = [] ∧
    (after (exec (.nop) (after (exec (.stb ⟨2, 1, 0, 0, 0⟩) s)).commit)).mem.live = [(0x10000100, 0x80)] := by decide +kernel
/-- R191: the last word of a body goes back to its start. -/
theorem test_loop : (after (exec .nop (hand (fun h => { h with loops := [⟨0xFFFFFFF0, 0x100000000, 2, 0⟩] }) base))).hand.pc =
    0xFFFFFFF0 := by decide +kernel
/-- R112: vstsq draws one ticket for each element. -/
theorem test_ticket : (after (exec (.vstsq ⟨0, 1, 1, 0, 0⟩) (x 1 0x100000100 (strip 2 0 3 base)))).mem.ticket = 3 := by decide +kernel

/-! ## Threads of system cores (R395, log 88): the expected values are those of the RISC-V specification -/

theorem test_rv_decode : rvDecode 0x002081B3 = some (.alu .add false 3 1 (.reg 2)) ∧ rvDecode 0x00813503 = some (.load 8 true 10 2 8) ∧
    rvDecode 0x8082 = some (.jalr 0 1 0) ∧ rvDecode 0 = none := by decide +kernel
/-- A thread whose pc is at a word. -/
def thread (w : Nat) : State :=
  let l := atAddr 0x1000_0000 (leBytes 4 w)
  { base with
    mem := { base.mem with live := base.mem.live.putAll l, pub := base.mem.pub.putAll l }
    pool := { base.pool with threads := [⟨31, 1, 1, 0x1_0000_0000, Vector.replicate 32 7, Vector.replicate 32 0, 0, none⟩] } }
def stepped (w : Nat) : Option Thread := ((thread w).threadStep (((thread w).pool.threads.head?).getD ⟨0, 0, 0, 0, Vector.replicate 32 0,
  Vector.replicate 32 0, 0, none⟩)).pool.threads.head?
/-- addi x5, x0, -1; ecall leaves the thread before it, with cause 8. -/
theorem test_rv_step : (stepped 0xFFF00293).map (fun t => (t.getX 5, t.pc, t.cause)) = some (-1, 0x1_0000_0004, none) ∧
    (stepped 0x73).map (fun t => (t.getX 5, t.pc, t.cause)) = some (7, 0x1_0000_0000, some 8) := by decide +kernel

end Sys2Proof.Tests
end

