-- ==== Sys2Proof/Tests/WitnessScalar.lean ====
section
/-! SUPPORT. For each statement about encodings, the step, the invariants, the scalar registers and control: a concrete state and
operands that meet the hypotheses of each of its clauses, at the bounds of their ranges. -/

namespace Sys2Proof.Tests

set_option Elab.async false

open Sys2Proof Sys2Proof.Machine

/-- What a computation gives, where it gives something. -/
def got {ε α : Type} (x : Except ε α) (d : α) : α := x.toOption.getD d
theorem got_ok {ε α : Type} (d : α) : ∀ {x : Except ε α}, x.toOption.isSome → x = .ok (got x d)
  | .ok _, _ => rfl
theorem got_pair {ε α β : Type} (d : α × β) {x : Except ε (α × β)} (h : x.toOption.isSome) : x = .ok ((got x d).1, (got x d).2) :=
  got_ok d h
theorem ok_of {ε α : Type} {a : α} {x : Except ε α} (h : x.toOption = some a) : x = .ok a :=
  (got_ok a (h ▸ rfl)).trans (congrArg Except.ok (congrArg (·.getD a) h))
/-- The error of a computation that stopped. -/
def failure {ε α : Type} : Except ε α → Option ε
  | .error e => some e
  | .ok _ => none
theorem error_of {ε α : Type} {e : ε} : ∀ {x : Except ε α}, failure x = some e → x = .error e
  | .error _, h => congrArg Except.error (Option.some.inj h)

/-- What an answer gives that need not come, what stopped it, and that none came. -/
theorem answer_ok {σ ε α : Type} (d : α) : ∀ {r : σ × Option (Except ε α)}, (r.2.bind Except.toOption).isSome →
    r = (r.1, some (.ok ((r.2.bind Except.toOption).getD d)))
  | (_, some (.ok _)), _ => rfl
theorem answer_error {σ ε δ α : Type} [Inhabited (ε × δ)] : ∀ {r : σ × Option (Except (ε × δ) α)}, (r.2.bind failure).isSome →
    ∃ t j st, r = (t, some (.error (j, st)))
  | (_, some (.error _)), _ => ⟨_, _, _, rfl⟩
theorem answer_none {σ α : Type} : ∀ {r : σ × Option α}, r.2.isNone → r = (r.1, none)
  | (_, none), _ => rfl

/-- Registers that an outstanding producer will fill. -/
def empty (rs : List Nat) (s : State) : State :=
  hand (fun h => { h with producers := rs.map (fun r => pending (.scalar r)) }) s
/-- A word where the hand issues next. -/
def at' (w : Nat) : State := base.withFetchWord 32 w
/-- A word and the one after it. -/
def at2 (w l : Nat) : State := base.withFetchWord 64 (l * 2 ^ 32 + w)
def fetched (s : State) : State × Word := got (({ s with latch := .clear } : State).fetchWord s.hand.pc) (s, 1)

theorem witness_DecodeOfEncode : ∀ i ∈ ([.add ⟨31, 31, 31, 1, 1, 7⟩, .lith ⟨31, 7, 0xFFFFFFFF⟩, .addi ⟨0, 0, -2048, 0, 0⟩,
    .rep ⟨7, 31, 7, 1, 1, 1⟩, .mmav ⟨31, 31, 31, 1, 1, 1⟩] : List Instr), isEvent i = false ∧ wellFormed i = true := by decide +kernel
theorem witness_DecodeIsExact : decode (encode (.lith ⟨31, 7, 0xFFFFFFFF⟩) ++ [7]) = .ok (.lith ⟨31, 7, 0xFFFFFFFF⟩, [7]) ∧
    decode (encode (.add ⟨31, 31, 31, 1, 1, 7⟩)) = .ok (.add ⟨31, 31, 31, 1, 1, 7⟩, []) :=
  ⟨ok_of (by decide +kernel), ok_of (by decide +kernel)⟩
theorem witness_ZeroWordTraps : base.dead = false ∧ base.agenda = [] ∧ base.hand.status = .running ∧
    base.hand.sched.unrecoverable = none ∧ base.hand.sched.due = none ∧ base.hand.frame = none ∧ (fetched base).1.hand.convoy = none ∧
    ({ base with latch := .clear } : State).fetchWord base.hand.pc = .ok ((fetched base).1, 0) ∧ (fetched base).1.hand.spawnless :=
  ⟨by decide +kernel, by decide +kernel, by decide +kernel, by decide +kernel, by decide +kernel, by decide +kernel, by decide +kernel,
    (got_ok (base, 1) (by decide +kernel)).trans (congrArg Except.ok (Prod.ext rfl (by decide +kernel))), by decide +kernel⟩

/-- The conditions under which a hand fetches. -/
abbrev fetches (s : State) : Prop := s.dead = false ∧ s.agenda = [] ∧ s.hand.status = .running ∧
  s.hand.sched.unrecoverable = none ∧ s.hand.sched.due = none ∧ s.hand.frame = none
theorem fetched_ok {s : State} (h : (({ s with latch := .clear } : State).fetchWord s.hand.pc).toOption.isSome = true) :
    ({ s with latch := .clear } : State).fetchWord s.hand.pc = .ok ((fetched s).1, (fetched s).2) := got_ok (s, 1) h

/-- add x7, x7, x6. -/
theorem witness_StepRunsTheDecodedInstruction_scalar : let s := at' 0x02739800
    fetches s ∧ ({ s with latch := .clear } : State).fetchWord s.hand.pc = .ok ((fetched s).1, (fetched s).2) ∧
    takesLiteral (fetched s).2 = false ∧ cOf (fetched s).2 = false ∧ decodeWords (fetched s).2 0 = .ok (.add ⟨7, 7, 6, 0, 0, 0⟩) ∧
    encFault (.add ⟨7, 7, 6, 0, 0, 0⟩) (fetched s).1.hand = none ∧ vectorWord (fetched s).2 = false :=
  ⟨by decide +kernel, fetched_ok (by decide +kernel), by decide +kernel, by decide +kernel, ok_of (by decide +kernel),
    by decide +kernel, by decide +kernel⟩
/-- vadd v4, v0, v20, with nothing chained after it. -/
theorem witness_StepRunsTheDecodedInstruction_vector : let s := at' 0x3C405000
    let s1 := (fetched s).1
    fetches s ∧ ({ s with latch := .clear } : State).fetchWord s.hand.pc = .ok (s1, (fetched s).2) ∧
    takesLiteral (fetched s).2 = false ∧ cOf (fetched s).2 = false ∧ decodeWords (fetched s).2 0 = .ok (.vadd ⟨0, 4, 0, 20, 0, 0, 0⟩) ∧
    encFault (.vadd ⟨0, 4, 0, 20, 0, 0, 0⟩) s1.hand = none ∧ vectorWord (fetched s).2 = true ∧
    (let s2 := (s1.followers 4 (s1.hand.pc + 4)).1
     s1.followers 4 (s1.hand.pc + 4) = (s2, []) ∧ encFault (.vadd ⟨0, 4, 0, 20, 0, 0, 0⟩) s2.hand = none ∧
     s2.grant (fetched s).2 = ((s2.grant (fetched s).2).1, true)) :=
  ⟨by decide +kernel, fetched_ok (by decide +kernel), by decide +kernel, by decide +kernel, ok_of (by decide +kernel),
    by decide +kernel, by decide +kernel, Prod.ext rfl (by decide +kernel), by decide +kernel, Prod.ext rfl (by decide +kernel)⟩
/-- lit x5, 0x1234_5678. -/
theorem witness_StepRunsTheDecodedInstruction_literal : let s := at2 0x16500000 0x12345678
    let s1 := (fetched s).1
    let s2 := got (s1.fetchWord (s1.hand.pc + 4)) (s, 0)
    fetches s ∧ ({ s with latch := .clear } : State).fetchWord s.hand.pc = .ok (s1, (fetched s).2) ∧
    takesLiteral (fetched s).2 = true ∧ cOf (fetched s).2 = false ∧ s1.fetchWord (s1.hand.pc + 4) = .ok (s2.1, s2.2) ∧
    (∃ j, decodeWords (fetched s).2 0 = .ok j) ∧ decodeWords (fetched s).2 s2.2 = .ok (.lit ⟨5, 0, 0x12345678⟩) ∧
    vshape (.lit ⟨5, 0, 0x12345678⟩) = none ∧ (∀ j, decodeWords (fetched s).2 0 = .ok j → vshape j = none) :=
  ⟨by decide +kernel, fetched_ok (by decide +kernel), by decide +kernel, by decide +kernel, got_ok (at2 0x16500000 0x12345678,
    0) (by decide +kernel),
    ⟨.lit ⟨5, 0, 0⟩, ok_of (by decide +kernel)⟩, ok_of (by decide +kernel), by decide +kernel,
    fun j h => by
      have : decodeWords (fetched (at2 0x16500000 0x12345678)).2 0 = .ok (.lit ⟨5, 0, 0⟩) := ok_of (by decide +kernel)
      rw [this] at h; cases h; rfl⟩
/-- A taken backward branch, and states in which no request stands, one that waits, and an instruction that ends at no point. -/
theorem witness_StepRunsTheDecodedInstruction_end : endsAtPoint .nop base.hand base.hand = false ∧ (base.waits .register).latch ≠ .clear ∧
    base.hand.unasked ∧ (∀ ck ∈ base.cores, ck.2.granted.isSome = true → (base.core ck.1).granted.isSome = true) := by decide +kernel

theorem witness_StepKeepsMemoryCanonical : base.canonical = true ∧ (at' 0x02739800).canonical = true := by decide +kernel
theorem witness_StepKeepsBounds : base.bounded = true ∧
    (hand (fun h => { h with loops := List.replicate 6 ⟨0, 0, 1, 0⟩, inbox := List.replicate 16 0 }) base).bounded = true := by
  decide +kernel
theorem witness_NothingIsRefused : base.dead = false ∧
    ({ base with fields := base.fields.setIfInBounds 0 { base.field 0 with state := 6 } } : State).dead = true := by decide +kernel
theorem witness_OtherHandsKeepTheirRegisters : isEvent (.add ⟨3, 1, 2, 0, 0, 0⟩) = false ∧
    ∃ t, exec (.add ⟨3, 1, 2, 0, 0, 0⟩) { base with others := [base.hand] } = .next t := ⟨by decide +kernel, _, rfl⟩
theorem witness_RegisterFile : (31 : Fld5) ≠ 0 ∧ (1 : Fld5) ≠ 0 := by decide

theorem witness_GuardedOff : guardOf (.add ⟨3, 1, 2, 0, 0, 7⟩) = some 7 ∧ guardOf (.lith ⟨3, 1, 0⟩) = some 1 ∧ base.goesNot 7 ∧
    base.goesNot 1 ∧ (⟨0, 1, 2, 0, 1, 0, 0, 0⟩ : CpyInF).k = 0 ∧ encFault (.sqCms ⟨1, 2, 3, 0, 7⟩) (strip 2 0 1 base).hand = none ∧
    encFault (.sqVacc ⟨1, 2, 3, 0, 7⟩) (strip 2 0 1 base).hand = none := by decide +kernel
/-- cpy.in.m and cpy.inp.m with an mma after them (R271). -/
theorem witness_GuardedOff_pair : let f : CpyInF := ⟨1, 1, 2, 1, 0, 0, 0, 1⟩
    let r := fun i => (base.withFetchWord 64 (0x5E000000 * 2 ^ 32 + (encodeWord i).toNat)).followWord (encodeWord i)
    f.k = 1 ∧ r (.cpyIn f) = .ok ((got (r (.cpyIn f)) (base, 0)).1, (got (r (.cpyIn f)) (base, 0)).2) ∧
    (got (r (.cpyIn f)) (base, 0)).1.goesNot f.g ∧
    r (.cpyInp f) = .ok ((got (r (.cpyInp f)) (base, 0)).1, (got (r (.cpyInp f)) (base, 0)).2) ∧
    (got (r (.cpyInp f)) (base, 0)).1.goesNot f.g := by
  and_intros <;> first | exact got_pair (base, 0) (by decide +kernel) | decide +kernel
theorem witness_EmptySources :
    (twoSource (.add ⟨3, 1, 2, 1, 1, 0⟩) = some ⟨3, 1, 2, 1, 1, 0⟩ ∧ (empty [1, 2, 3, 31] base).goes 0 ∧ (x 7 1 base).goes 7) ∧
    ¬ (empty [1, 2, 3] base).hand.full 1 ∧ ((empty [2, 3] base).hand.full 1 ∧ ¬ (empty [2, 3] base).hand.full 2) ∧
    ((empty [31] base).hand.full 1 ∧ (empty [31] base).hand.full 30 ∧ ¬ (empty [31] base).hand.full 31) := by decide +kernel
/-- Registers full, unguarded or with a guard register that is not zero; the largest operands and equal ones. -/
theorem witness_ScalarTwoSourceResults : base.ready 0 [1, 2, 3] ∧ (x 7 1 (x 1 (-1) (x 2 (-1) base))).ready 7 [1, 2, 31] := by
  decide +kernel
theorem witness_DivisionNeverTraps :
    decodeWords (encodeWord (.clz ⟨31, 31, 0, 0⟩)) 0 = .ok (.clz ⟨31, 31, 0, 0⟩) ∧ oneSource (.clz ⟨31, 31, 0, 0⟩) = true ∧
    twoSource (.remn ⟨3, 1, 2, 0, 0, 1⟩) = some ⟨3, 1, 2, 0, 0, 1⟩ ∧ base.goesNot 1 ∧
    base.ready 0 [1, 0, 3] ∧ (x 1 0x8000000000000000 (x 2 (-1) base)).ready 0 [1, 2, 3] :=
  by refine ⟨ok_of (by decide +kernel), ?_, ?_, ?_, ?_, ?_⟩ <;> decide +kernel
theorem witness_ScalarUnaryAndImmediates : base.ready 0 [1, 3] ∧ (x 1 (-1) base).ready 0 [1, 3] ∧ base.hand.full 31 ∧
    base.ready 0 [5] := by decide +kernel
theorem witness_ScalarFrame : scalarDest (.add ⟨3, 1, 2, 0, 0, 0⟩) = some 3 ∧ scalarDest (.jal ⟨-1, 0⟩) = some 31 ∧
    base.latch = .clear ∧ (∃ t, exec (.add ⟨3, 1, 2, 0, 0, 0⟩) base = .next t ∧ ∀ tr, t.latch ≠ .trapped tr) := by
  refine ⟨by decide +kernel, by decide +kernel, by decide +kernel, after (exec (.add ⟨3, 1, 2, 0, 0, 0⟩) base), rfl, fun tr => ?_⟩
  have : (after (exec (.add ⟨3, 1, 2, 0, 0, 0⟩) base)).latch = .clear := by decide +kernel
  rw [this]; exact fun h => nomatch h

/-- A hand with a loop stack. -/
def loops (l : List LoopEntry) (s : State) : State := hand (fun h => { h with loops := l }) s
theorem witness_IterationEnds : (base.hand.frame = none ∧ base.hand.convoy = none ∧ base.hand.pc.toNat + 4 < 2 ^ 64 ∧
      base.hand.loops = []) ∧
    (let e : LoopEntry := ⟨0, 0x1_0000_0004, 2, 0⟩
     (loops [e] base).hand.loops = e :: [] ∧ e.stop ≠ base.hand.pc ∧ base.hand.pc.toNat + 4 ≤ e.stop.toNat) ∧
    (let e : LoopEntry := ⟨0, 0xFFFF_FFFC, 2, 0⟩
     (loops [e] base).hand.loops = e :: [] ∧ e.stop ≠ base.hand.pc ∧ e.stop.toNat < base.hand.pc.toNat) ∧
    (let e : LoopEntry := ⟨0xFFFF_FFF0, 0x1_0000_0000, 2, 0⟩
     (loops [e] base).hand.loops = e :: [] ∧ e.stop = base.hand.pc ∧ (e.index + 1).toNat < e.count.toNat) ∧
    (let e : LoopEntry := ⟨0xFFFF_FFF0, 0x1_0000_0000, 2, 1⟩
     let f : LoopEntry := ⟨0xFFFF_FF00, 0x1_0000_0000, 2, 0⟩
     (loops [e] base).hand.loops = [e] ∧ e.count.toNat ≤ (e.index + 1).toNat ∧
     (loops [e, f] base).hand.loops = e :: f :: [] ∧ e.stop = base.hand.pc ∧ f.stop = base.hand.pc ∧
     (f.index + 1).toNat < f.count.toNat) ∧
    (let e : LoopEntry := ⟨0xFFFF_FFF0, 0x1_0000_0000, 2, 1⟩
     let f : LoopEntry := ⟨0xFFFF_FF00, 0x1_0000_0010, 2, 0⟩
     (∀ ended ∈ [[e], [e, e, e, e, e, e]], ended ≠ [] ∧ ended.length ≤ 6 ∧
       ∀ d ∈ ended, d.stop = base.hand.pc ∧ d.count.toNat ≤ (d.index + 1).toNat) ∧ f.stop ≠ base.hand.pc ∧
     (loops [e, f] base).hand.loops = [e] ++ f :: [] ∧ (loops [e, e, e, e, e, e] base).hand.loops = [e, e, e, e, e, e] ++ []) := by
  decide +kernel
theorem witness_BranchesAndJumps : base.hand.full 1 ∧ base.hand.full 2 ∧ base.ready 0 [31] ∧ base.ready 0 [1, 31] ∧
    (base.hand.getX 1 = base.hand.getX 2) ∧ ((x 1 (-1) base).hand.getX 1 ≠ (x 1 (-1) base).hand.getX 2) ∧
    ((x 1 4 base).hand.getX 1 + BitVec.ofInt 64 (-4)).toNat % 4 = 0 ∧ ((x 1 4 base).hand.getX 1 + BitVec.ofInt 64 (-3)).toNat % 4 ≠ 0 := by
  decide +kernel
theorem witness_LoopStack : (base.hand.full 1 ∧ base.hand.loops.length < 6 ∧ base.hand.getX 1 = 0 ∧ (x 1 (-1) base).hand.getX 1 ≠ 0) ∧
    (loops (List.replicate 5 ⟨0, 0, 1, 0⟩) base).hand.loops.length < 6 ∧
    6 ≤ (loops (List.replicate 6 ⟨0, 0, 1, 0⟩) base).hand.loops.length ∧
    (base.goes 0 ∧ base.drains ∧ (loops [⟨0, 0, 1, 0⟩] base).commit.hand.loops = ⟨0, 0, 1, 0⟩ :: [] ∧ base.commit.hand.loops = []) ∧
    base.goesNot 7 := by decide +kernel

/-- An opening that nothing holds, with a queue that has a count, and a strip whose last pass is done. -/
def queue (n : Nat) (l : List Word) (s : State) : State :=
  hand (fun h => { h with lq := h.lq.setIfInBounds n l }) s
theorem opens_free (s : State) (h : srecEn s.hand.csr.srecctl = false ∧ s.hand.unasked ∧ s.hand.breaksAt s.hand.pc = false ∧
    s.hand.watched = false ∧ (s.scalarsFull .opening).toOption = some () ∧ s.drains ∧ s.hand.frame = none ∧ s.hand.convoy = none) :
    opensFreely s := h.imp_right (And.imp_right (And.imp_right (And.imp_right (And.imp_left ok_of))))
theorem witness_StripOpenings : opensFreely (queue 3 [1000] base) ∧ opensFreely (x 1 5 (x 2 5 (strip 2 0 5 base))) ∧
    (base.hand.full 1 ∧ base.hand.full 2) ∧
    ((3 : Fld5).toNat < 4 ∧ (queue 3 [1000] base).hand.lq.toArray.getD 3 [] = 1000 :: [] ∧ base.hand.status ≠ .waiting .room) ∧
    (let s := x 1 6 (x 2 5 (strip 2 0 5 base))
     s.hand.csr.vl ≠ 0 ∧ (if (s.hand.getX 1).toNat ≤ (s.hand.getX 2).toNat then (0 : Reg64) else s.hand.getX 1 - s.hand.getX 2) ≠ 0) ∧
    (let s := x 1 5 (x 2 5 (strip 2 0 5 base))
     (if (s.hand.getX 1).toNat ≤ (s.hand.getX 2).toNat then (0 : Reg64) else s.hand.getX 1 - s.hand.getX 2) = 0) ∧
    base.hand.csr.vl = 0 ∧ (4 ≤ 4) ∧
    (let s := x 5 5 base
     s.ready 0 [5] ∧ s.drains ∧ csrNum ⟨5, 0, 2, 0⟩ = 0x002 ∧ 4 < (s.hand.getX 5).toNat) :=
  ⟨opens_free _ (by decide +kernel), opens_free _ (by decide +kernel), by decide +kernel, by decide +kernel, by decide +kernel,
    by decide +kernel, by decide +kernel, by decide, by decide +kernel⟩

end Sys2Proof.Tests
end

