-- ==== Sys2Proof/Tests/WitnessVector.lean ====
section
/-! SUPPORT. For each statement about vector and predicate registers: a concrete state and operands that meet the hypotheses of
each of its clauses, at the bounds of their ranges. -/

namespace Sys2Proof.Tests

set_option Elab.async false

open Sys2Proof Sys2Proof.Machine

/-- Vector operands with numbers in v1 and v2, one element and more, at the smallest and the largest grant. -/
def vecs : State := v 1 [0x3F800000, 0xBF800000] (v 2 [0x7FC00000, 0x3F000000] (strip 2 0 2 base))
/-- A predicate register. -/
def pr (r : Nat) (m : BitVec 1024) (s : State) : State := hand (fun h => h.setP r m) s
/-- VL and GRP at the bound of SEW. -/
def wide (sew grp : BitVec 2) : State := strip sew grp (4096 * 2 ^ grp.toNat / 2 ^ sew.toNat) base

theorem witness_VectorInteger : vecs.groupsAB (.vadd ⟨0, 3, 1, 2, 1, 1, 0⟩) ⟨0, 3, 1, 2, 1, 1, 0⟩ ∧
    (wide 0 0).groupsAB (.vaddb ⟨0, 31, 30, 29, 1, 1, 0⟩) ⟨0, 31, 30, 29, 1, 1, 0⟩ ∧
    (wide 3 3).groupsAB (.vmulh ⟨0, 24, 0, 8, 0, 0, 0⟩) ⟨0, 24, 0, 8, 0, 0, 0⟩ ∧
    vecs.groupsAB (.vsel ⟨0, 3, 1, 2, 0, 0, 4⟩) ⟨0, 3, 1, 2, 0, 0, 4⟩ ∧
    base.groupsAB (.vincw ⟨0, 3, 1, 2, 0, 0, 0⟩) ⟨0, 3, 1, 2, 0, 0, 0⟩ := by decide +kernel
theorem witness_SaturatingAndWidening : vecs.groupsAB (.vsadd ⟨0, 3, 1, 2, 0, 0, 0⟩) ⟨0, 3, 1, 2, 0, 0, 0⟩ ∧
    (wide 0 0).groupsAB (.vssubn ⟨0, 3, 1, 2, 0, 0, 0⟩) ⟨0, 3, 1, 2, 0, 0, 0⟩ ∧
    (strip 2 0 2 base).groupsAB (.vwmac ⟨0, 4, 1, 2, 0, 0, 0⟩) ⟨0, 4, 1, 2, 0, 0, 0⟩ ∧
    (strip 0 2 16384 base).groupsAB (.vwaddn ⟨0, 24, 0, 4, 0, 0, 0⟩) ⟨0, 24, 0, 4, 0, 0, 0⟩ := by decide +kernel
theorem witness_VectorUnaryAndImmediate : vecs.groupA (.vabs ⟨0, 3, 1, 1, 0⟩) 1 1 ∧ (wide 3 0).groupA (.vclz ⟨0, 3, 1, 0, 7⟩) 1 0 ∧
    vecs.groupA (.vaddi ⟨0, 3, 1, -128, 0⟩) 1 0 ∧ vecs.groupA (.vceqi ⟨0, 31, 1, 127, 0⟩) 1 0 ∧
    vecs.groupA (.vslli ⟨0, 3, 1, 63, 0⟩) 1 0 := by decide +kernel
theorem witness_FloatArithmetic : vecs.groupsAB (.vfadd ⟨0, 3, 1, 2, 0, 0, 0⟩) ⟨0, 3, 1, 2, 0, 0, 0⟩ ∧
    (wide 1 1).groupsAB (.vfma ⟨0, 4, 0, 2, 0, 0, 0⟩) ⟨0, 4, 0, 2, 0, 0, 0⟩ ∧ vecs.groupA (.vfsqrt ⟨0, 3, 1, 0, 0⟩) 1 0 ∧
    (wide 1 0).groupA (.vflog2 ⟨0, 3, 1, 0, 0⟩) 1 0 ∧ vecs.groupA (.vfclass ⟨0, 3, 1, 0, 0⟩) 1 0 ∧
    (FVal.zero true).isSig = false ∧ (1 ≠ 0) ∧ 2 ^ 15 < 2 ^ f16.width ∧ (f16.value (2 ^ 15)).isNan = false ∧
    (f32.value 0x7F7FFFFF).isNan = false ∧ f32.subnormal 0x7F7FFFFF = false := by decide +kernel
theorem witness_FloatArithmetic_bounds : (0x3F800000 < 2 ^ f32.width ∧ f32.value 0x3F800000 = .fin false (2 ^ 23) (-23)) ∧
    (1 < 2 ^ f16.width ∧ f16.value 1 = .fin false 1 (-24)) ∧ (0x7F7F < 2 ^ bf16.width ∧ bf16.value 0x7F7F = .fin false 255 120) ∧
    (1 - (f32.bias : Int) ≤ -126 ∧ (127 : Int) ≤ f32.bias ∧ (f32.bias : Int) < 128) ∧
    ((FVal.zero false).ltV (f32.value 0x3F000000) = true ∧ (f32.value 0x3F000000).ltV (.fin false 1 0) = true) ∧
    (-149 : Int) ≠ 0 ∧ (-149 : Int).natAbs < 2 ^ (f32.mb + 1) ∧
    (f32.input false 0x80000000).isNan = false ∧ (f32.input false 0x7F800001).isNan = true := by decide +kernel
theorem witness_ComparesAndPredicates : vecs.groupsAB (.vclt ⟨0, 31, 1, 2, 0, 0, 0⟩) ⟨0, 31, 1, 2, 0, 0, 0⟩ ∧
    vecs.groupsAB (.vfcun ⟨0, 1, 1, 2, 0, 0, 0⟩) ⟨0, 1, 1, 2, 0, 0, 0⟩ ∧
    vecs.mayRun (.pand ⟨0, 0, 1, 2, 0⟩) ∧ base.mayRun (.pset ⟨0, 31, 0⟩) ∧ vecs.mayRun (.pnot ⟨0, 31, 0, 0⟩) ∧
    vecs.mayRun (.ppopc ⟨0, 31, 31, 0⟩) ∧ vecs.hand.full 31 ∧ vecs.mayRun (.pfirst ⟨0, 0, 0, 7⟩) ∧ vecs.mayRun (.pmvx ⟨0, 5, 1, 0⟩) ∧
    (let s := queue 3 [1, 2, 3, 4, 5, 6, 7] vecs
     s.mayRun (.vpopq ⟨0, 3, 1, 0⟩) ∧ (3 : Fld5).toNat < 4 ∧ (s.hand.lq.toArray.getD 3 []).length < 8) ∧
    (let s := queue 3 [1, 2, 3, 4, 5, 6, 7, 8] vecs
     s.mayRun (.vpopq ⟨0, 3, 1, 0⟩) ∧ 8 ≤ (s.hand.lq.toArray.getD 3 []).length) ∧
    (majOf 0x42009040 = 33 ∧ fnOf 0x42009040 ≤ 9 ∧ dOf 0x42009040 = 0) := by and_intros <;> decide +kernel
theorem witness_PermutesAndSorting : vecs.groupA (.vslup ⟨0, 3, 1, 2, 0, 0, 0⟩) 1 0 ∧ vecs.hand.full 2 ∧
    vecs.groupsAB (.vperm ⟨0, 3, 1, 2, 0, 0, 0⟩) ⟨0, 3, 1, 2, 0, 0, 0⟩ ∧
    (let s := x 2 2 vecs
     s.groupA (.vrshp ⟨0, 3, 1, 2, 0, 0, 0⟩) 1 0 ∧ (s.hand.getX 2).toNat ≠ 0 ∧ s.hand.csr.vl % (s.hand.getX 2).toNat = 0) ∧
    (vecs.groupA (.vrshp ⟨0, 3, 1, 2, 0, 0, 0⟩) 1 0 ∧ (vecs.hand.getX 2).toNat = 0 ∧ vecs.hand.csr.vl ≠ 0) ∧
    vecs.groupA (.vcomp ⟨0, 3, 1, 0, 2⟩) 1 0 ∧ vecs.groupA (.vexpd ⟨0, 3, 1, 0, 2⟩) 1 0 ∧
    (vecs.groupA (.vsortk ⟨0, 4, 1, 0, 0, 0, 2⟩) 1 0 ∧ (0 : Fld5) = 0 ∧ vecs.hand.csr.vl * vecs.hand.sewBytes ≤ 4096 * vecs.hand.grpN) ∧
    (vecs.groupA (.vsortk ⟨0, 4, 1, 2, 0, 1, 0⟩) 1 0 ∧ vecs.hand.chains 2 vecs.hand.grpN 1) := by and_intros <;> decide +kernel
theorem witness_ReductionsAndMoves : vecs.hand.full 31 ∧ vecs.groupA (.vredadd ⟨0, 31, 1, 0, 0⟩) 1 0 ∧
    vecs.groupA (.vredand ⟨0, 31, 1, 0, 7⟩) 1 0 ∧ vecs.groupA (.vfredadd ⟨0, 5, 1, 1, 0⟩) 1 1 ∧
    vecs.groupA (.vfredmin ⟨0, 5, 1, 0, 0⟩) 1 0 ∧ vecs.groupA (.vfredmax ⟨0, 5, 1, 0, 0⟩) 1 0 ∧ vecs.mayRun (.vsplat ⟨0, 3, 1, 0, 0⟩) ∧
    vecs.mayRun (.vins ⟨0, 3, 1, 2, 0, 0, 0⟩) ∧ vecs.hand.full 1 ∧ vecs.hand.full 2 ∧ vecs.groupA (.vext ⟨0, 5, 1, 2, 0, 0, 0⟩) 1 0 ∧
    vecs.mayRun (.viota ⟨0, 3, 7⟩) ∧ vecs.mayRun (.vord ⟨0, 3, 0⟩) := by and_intros <;> decide +kernel

/-- 32 elements of F32; the BX8 block of 32 zeros that quantising them gives; a block whose check byte is wrong. -/
def blocks (check : Nat) (s : State) : State := hand (fun h => h.setVN 1 3 1 check) s
def quants : State := strip 2 0 32 base
abbrev blockOf (s : State) : Option Block := readBlock 8 32 ((upFrom 0 36).map (s.hand.getVB 1))
theorem witness_ConversionsAndBlocks : vecs.groupA (.vcvtfi ⟨0, 3, 1, 0, 0⟩) 1 0 ∧ (wide 1 0).groupA (.vcvtnf ⟨0, 3, 1, 0, 0⟩) 1 0 ∧
    (let s := strip 1 0 4 base
     s.mayRun (.vcvtff ⟨0, 4, 2, 0, 0, 0⟩) ∧ s.hand.chains 2 (2 * s.hand.grpN) 0 ∧ s.mayRun (.vcvtff ⟨0, 4, 2, 1, 0, 0⟩) ∧
      s.hand.chains 2 s.hand.grpN 0) ∧
    (quants.hand.csr.vl % 32 = 0 ∧ quants.groupA (.vquant ⟨0, 3, 1, 8, 0, 0⟩) 1 0 ∧ quants.groupA (.vdequant ⟨0, 3, 1, 8, 0, 0⟩) 1 0) ∧
    (∃ c, c < 256 ∧ blockOf (blocks c quants) ≠ none) ∧ (∃ c, c < 256 ∧ blockOf (blocks c quants) = none) ∧
    (vecs.hand.csr.vl % 32 ≠ 0 ∧ vecs.vready (.vquant ⟨0, 3, 1, 8, 0, 0⟩) ∧ vecs.vready (.vdequant ⟨0, 3, 1, 8, 0, 0⟩)) := by
  decide +kernel
/-- Values with a NaN; zeros of both signs; with an infinity; one that no scale covers, and the greatest that one does; some of the rest. -/
theorem witness_blockOfValues : 2 ≤ 2 ∧ 8 ≤ 8 ∧ (∀ u ∈ [0x7FC00000, 0x80000000, 0xFF800000, 0x7F7FFFFF], u < 2 ^ 32) ∧
    (f32.input false 0x7FC00000).isNan = true ∧ (∀ u ∈ [0, 0x80000000], ∃ g, f32.input false u = .zero g) ∧
    f32.input false 0xFF800000 = .inf true ∧
    (∃ m x, f32.input false 0x7F7FFFFF = .fin false m x ∧
      FVal.ltV (.fin false ((4096 + 4095) * 127) ((254 : Int) - 138 - 8)) (.fin false m x) = true ∧
      FVal.ltV (.fin false ((4096 + 4095) * 1) ((254 : Int) - 138 - 2)) (.fin false m x) = true) ∧
    (∃ m x, f32.input false 0x7F000000 = .fin false m x ∧
      FVal.ltV (.fin false ((4096 + 4095) * 127) ((254 : Int) - 138 - 8)) (.fin false m x) = false) ∧
    (∀ g, f32.input false 0x7F000000 ≠ .zero g) := by
  refine ⟨by decide, by decide, by decide, by decide +kernel, ?_, by decide +kernel, ⟨_, _, rfl, by decide +kernel⟩,
    ⟨_, _, rfl, by decide +kernel⟩, fun g => by cases g <;> decide +kernel⟩
  intro u hu
  simp only [List.mem_cons, List.not_mem_nil, or_false] at hu
  rcases hu with rfl | rfl
  · exact ⟨false, by decide +kernel⟩
  · exact ⟨true, by decide +kernel⟩
/-- Blocks with the extreme scales and mantissas, a zero block and a NaN block; bytes that are no block. -/
theorem witness_blockBytesLaw :
    (∀ b ∈ ([⟨1, 4095, List.replicate 16 (-128)⟩, ⟨254, 0, List.replicate 16 127⟩] : List Block), b.ms.length = 16 ∧ b.f < 4096 ∧
      b.e < 256 ∧
      (∀ m ∈ b.ms, -(2 ^ (8 - 1) : Int) ≤ m ∧ m < 2 ^ (8 - 1)) ∧ ¬ (b.e = 0 ∨ b.e = 255) ∧ 1 ≤ b.e ∧ b.e ≤ 254 ∧ b.ms.getD 15 0 ≠ 0) ∧
    (∀ b ∈ ([⟨0, 0, List.replicate 32 0⟩, ⟨255, 0, List.replicate 32 0⟩] : List Block), b.ms.length = 32 ∧ b.f = 0 ∧ (∀ m ∈ b.ms, m = 0)) ∧
    (List.replicate 12 (0 : Byte)).length = 4 + 16 * 4 / 8 ∧ (32 = 16 ∨ 32 = 32) := by decide +kernel
/-- One active element, and none. -/
theorem witness_treeLaw : let h := (strip 2 0 1 vecs).hand
    let one (_ j : Nat) : Option FVal := if j = 0 then some (h.fval (h.elem 1 0)) else none
    let none' (_ _ : Nat) : Option FVal := none
    (h.csr.sew = 1 ∨ h.csr.sew = 2) ∧ h.csr.vl ≤ 2 ^ 17 ∧ one 17 0 ≠ none ∧ none' 17 0 = none ∧
    (∀ j, one 0 j = if j ∈ h.actives 0 then some (h.fval (h.elem 1 j)) else none) ∧
    (∀ k j, one (k + 1) j = treePair h (one k (2 * j)) (one k (2 * j + 1))) ∧
    (∀ j, none' 0 j = if j ∈ (strip 2 0 0 vecs).hand.actives 0 then some (h.fval (h.elem 1 j)) else none) ∧
    (∀ k j, none' (k + 1) j = treePair h (none' k (2 * j)) (none' k (2 * j + 1))) := by
  have one : (strip 2 0 1 vecs).hand.actives 0 = [0] := by decide +kernel
  have nobody : (strip 2 0 0 vecs).hand.actives 0 = [] := by decide +kernel
  refine ⟨by decide +kernel, by decide +kernel, nofun, rfl, fun j => ?_, fun k j => ?_, fun j => by rw [nobody]; rfl, fun _ _ => rfl⟩
  · rw [one]; by_cases h : j = 0 <;> simp [h]
  · by_cases h : j = 0
    · subst h; rfl
    · simp only [h, show 2 * j ≠ 0 from by omega, show 2 * j + 1 ≠ 0 from by omega, if_false, treePair]
theorem witness_selectionLaw : vecs.hand.csr.sew = 2 ∧ (∃ e ∈ vecs.hand.actives 0, (vecs.hand.fval (vecs.hand.elem 1 e)).isNan = false) ∧
    (strip 2 0 0 vecs).hand.actives 0 = [] ∧ (strip 2 0 1 vecs).hand.actives 0 ≠ [] ∧
    (∀ e ∈ (strip 2 0 1 vecs).hand.actives 0, (vecs.hand.fval (vecs.hand.elem 2 e)).isNan = true) := by decide +kernel

end Sys2Proof.Tests
end

