-- ==== Sys2Proof/Tests/WitnessMemory.lean ====
section
/-! SUPPORT. For each statement about memory, streams, tiles and engines: a concrete state and operands that meet the hypotheses of
each of its clauses, at the bounds of their ranges. -/

namespace Sys2Proof.Tests

set_option Elab.async false

open Sys2Proof Sys2Proof.Machine

/-! ## Addresses -/

/-- `State.rangeAt` for the one entry of `launchRange`. -/
abbrev inRange (s : State) (wr : Bool) (va k : Nat) : Prop :=
  va < Config.benchWindow ∧ s.me.side = .single ∧ mappable k = true ∧ s.stackUp k = some true ∧
  mfind s.asids s.hand.asid.toNat = some ⟨0, [launchRange]⟩ ∧
  [launchRange].find? (fun r => attrBit r.attr 0 && decide (r.base ≤ va ∧ va < r.limit)) = some launchRange ∧
  k = launchRange.offset + (va - launchRange.base) ∧
  attrBit launchRange.attr 3 = true ∧ (wr = true → attrBit launchRange.attr 1 = true) ∧ attrFmt launchRange.attr = 0 ∧
  attrBit launchRange.attr 5 = false ∧ attrBit launchRange.attr 6 = false ∧ attrBit launchRange.attr 7 = false
theorem range_of {s : State} {wr : Bool} {va k : Nat} (h : inRange s wr va k) : s.rangeAt wr va k :=
  h.imp_right (And.imp_right (And.imp_right (And.imp_right (fun r => ⟨_, _, r⟩))))
abbrev reach (s : State) (wr : Bool) (va : Reg64) (k : Nat) : Prop := s.windowAt va.toNat k ∨ inRange s wr va.toNat k
theorem plain_of {s : State} {wr : Bool} {va : Reg64} {k : Nat} (h : reach s wr va k) : s.plainAt wr va k := h.imp id range_of
/-- `State.readsAt` by way of key `k`. -/
abbrev reads (s : State) (c : Nat) (va : Reg64) (w k v : Nat) : Prop :=
  va.toNat % w = 0 ∧ reach s false va k ∧ s.decodes k w ∧ s.soundAt k w ∧ rising s.cores = true ∧
  (∀ j ∈ upFrom k w, (s.byteView s.hand c j).maybe = [] ∧ (s.byteView s.hand c j).alt = none) ∧
  v = leNat ((upFrom k w).map (fun j => (s.byteView s.hand c j).value none))
theorem reads_of {s : State} {c w v : Nat} {va : Reg64} (k : Nat) (h : reads s c va w k v) : s.readsAt c va w v :=
  ⟨k, h.imp_right (And.imp_left plain_of)⟩
/-- The same for elements, each by its key. -/
theorem loads_of {s : State} {c w : Nat} {es : List Nat} {va : Nat → Reg64} {val : Nat → Nat} (k : Nat → Nat)
    (h : es.all (fun e => decide (reads s c (va e) w (k e) (val e))) = true) : ∀ e ∈ es, s.readsAt c (va e) w (val e) :=
  fun e m => reads_of (k e) (of_decide_eq_true (List.all_eq_true.1 h e m))
theorem stores_of {s : State} {w : Nat} {es : List Nat} {va : Nat → Reg64} {k : Nat → Nat}
    (h : es.all (fun e => decide ((va e).toNat % w = 0 ∧ reach s true (va e) (k e))) = true) :
    ∀ e ∈ es, (va e).toNat % w = 0 ∧ s.plainAt true (va e) (k e) :=
  fun e m => (of_decide_eq_true (List.all_eq_true.1 h e m)).imp_right plain_of
theorem lines_of {s : State} {wr : Bool} {w : Nat} {es : List Nat} {va : Nat → Reg64} {k : Nat → Nat} {p : Nat → Prop} [DecidablePred p]
    (h : es.all (fun e => decide ((va e).toNat % w = 0 ∧ inRange s wr (va e).toNat (k e) ∧ p e)) = true) :
    ∀ e ∈ es, (va e).toNat % w = 0 ∧ s.rangeAt wr (va e).toNat (k e) ∧ p e :=
  fun e m => (of_decide_eq_true (List.all_eq_true.1 h e m)).imp_right (And.imp_left range_of)

theorem writes_of {s : State} {w : Nat} {es : List Nat} {va : Nat → Reg64} {k : Nat → Nat} {p q : Nat → Prop} [DecidablePred p]
    [DecidablePred q] (h : es.all (fun e => decide ((va e).toNat % w = 0 ∧ q e ∧ inRange s true (va e).toNat (k e) ∧ p e)) = true) :
    ∀ e ∈ es, (va e).toNat % w = 0 ∧ q e ∧ s.rangeAt true (va e).toNat (k e) ∧ p e :=
  fun e m => (of_decide_eq_true (List.all_eq_true.1 h e m)).imp_right (And.imp_right (And.imp_left range_of))

/-- Bytes that are live and published. -/
def memory (k : Nat) (l : List Byte) (s : State) : State :=
  { s with mem := { s.mem with live := s.mem.live.putAll (atAddr k l), pub := s.mem.pub.putAll (atAddr k l) }
           hand := { s.hand with ord := { s.hand.ord with snap := s.hand.ord.snap.putAll (atAddr k l) } } }
/-- A protected strip. -/
def protect (s : State) : State := hand (fun h => { h with strip := { h.strip with prot := true } }) s
/-- x1 at a mapped address, memory there in use; and x1 at the hand's bench. -/
def mapped : State := x 1 0x1_0000_0100 (memory 0x1000_0100 [0x80, 0x81, 0x82, 0x83, 0x84, 0x85, 0x86, 0x87] vecs)
def benched : State := x 1 0x01FF_FFFF_FF80_0000 vecs

theorem witness_scalarLoads : mapped.ready 0 [1, 3] ∧ mapped.readsAt 0 (mapped.hand.getX 1 + BitVec.ofInt 64 0) 8 0x8786858483828180 ∧
    mapped.readsAt 0 (mapped.hand.getX 1 + BitVec.ofInt 64 1) 1 0x81 ∧
    (x 1 0x1_FFFF_FFFF base).readsAt 0 ((x 1 0x1_FFFF_FFFF base).hand.getX 1 + BitVec.ofInt 64 0) 1 0 ∧
    (x 7 1 benched).ready 7 [1, 3] ∧
    (x 7 1 benched).readsAt 0 ((x 7 1 benched).hand.getX 1 + BitVec.ofInt 64 0) 8 0 :=
  ⟨by decide +kernel, reads_of 0x1000_0100 (by decide +kernel), reads_of 0x1000_0101 (by decide +kernel),
    reads_of 0x1_0FFF_FFFF (by decide +kernel), by decide +kernel, reads_of 0x1000_0000_0000 (by decide +kernel)⟩
theorem witness_scalarStores : (protect mapped).ready 0 [1, 2] ∧ ((protect mapped).hand.getX 1).toNat % 8 = 0 ∧
    (protect mapped).plainAt true ((protect mapped).hand.getX 1) 0x1000_0100 ∧ (protect mapped).buffers 8 [0x1000_0100] ∧
    (mapped.ready 0 [1, 2] ∧ mapped.plainAt true (mapped.hand.getX 1) 0x1000_0100 ∧ mapped.hand.strip.prot = false ∧
      mapped.hand.strip.granules.length + 2 ≤ Config.ssbGranules ∧ Mem.wf mapped.mem.live = true ∧
      (∀ j ∈ upFrom 0x1000_0100 8, mapped.heelUsed (homeField j) + 8 ≤ mapped.heelRoom (homeField j))) ∧
    (benched.plainAt true (benched.hand.getX 1) 0x1000_0000_0000 ∧
      (∀ j ∈ upFrom 0x1000_0000_0000 8, benched.heelUsed (homeField j) + 8 ≤ benched.heelRoom (homeField j))) :=
  by and_intros <;> first | exact plain_of (by decide +kernel) | decide +kernel
theorem witness_misalignedTraps : (x 1 1 base).ready 0 [1, 3] ∧ ((x 1 1 base).hand.getX 1 + BitVec.ofInt 64 0).toNat % 2 ≠ 0 ∧
    ((x 1 4 base).hand.getX 1 + BitVec.ofInt 64 (-8)).toNat % 8 ≠ 0 := by decide +kernel
theorem witness_ScalarMemory : mapped.ready 0 [1, 3] ∧ mapped.readsAt 0 (mapped.hand.getX 1 + BitVec.ofInt 64 0) 8 0x8786858483828180 :=
  ⟨witness_scalarLoads.1, witness_scalarLoads.2.1⟩

/-- A block of one value, B8 with 32 values, its check byte right; and one whose check byte is wrong. -/
def block : List Byte := ((encodeBlock 8 false (List.replicate 32 0x3F800000)).1).bytes 8
theorem witness_TranslationAndPages : 2 ^ 57 ≤ 2 ^ 57 ∧
    (Config.benchWindow + Config.benchHole ≤ 2 ^ 57 - 1 ∧ 2 ^ 57 - 1 < 2 ^ 57) ∧
    (Config.benchWindow ≤ Config.benchWindow + Config.chainOffset ∧ Access.store.writes = true ∧ Access.linked.livePath = true) ∧
    (base.windowAt Config.benchWindow 0x1000_0000_0000 ∧ base.windowAt (Config.benchWindow + Config.chainOffset - 1) 0x1000_0076_FFFF) ∧
    Access.load ≠ .fetch ∧ Access.load.livePath = false ∧
    base.rangeAt true 0x1_0000_0000 0x1000_0000 ∧ base.rangeAt true 0x1_FFFF_FFFF 0x1_0FFF_FFFF ∧
    (base.decodes 0x1000_0000 8 ∧ base.soundIn 8 ∧ isChain 0x1000_0000 = false) ∧
    (let s := memory 0x1000_0000 block base
     let view (j : Nat) : ByteView := s.byteView s.hand 0 j
     s.decodes 0x1000_0000 (blockBytes 8 32) ∧ s.soundAt 0x1000_0000 (blockBytes 8 32) ∧ rising s.cores = true ∧
     (∀ j ∈ upFrom 0x1000_0000 (blockBytes 8 32), (view j).maybe = [] ∧ (view j).alt = none) ∧
     (upFrom 0x1000_0000 (blockBytes 8 32)).map (fun j => (view j).value none) = block ∧
     (readBlock 8 32 block).isSome = true ∧ readBlock 8 32 (1 :: 1 :: 1 :: (255 : Byte) :: block.drop 4) = none) :=
  by refine ⟨?_, ?_, ?_, ?_, ?_, ?_, range_of (by decide +kernel), range_of (by decide +kernel), ?_, ?_⟩ <;> decide +kernel

/-- An entry of a page table at a key. -/
def entry (k : Nat) (e : Nat) (s : State) : State := memory k (leBytes 8 e) s
/-- Every translation goes by the tables: ROOT at 0x2000_0000, a pointer at each level, and a leaf for page 0x10_0000. -/
def paged (leaf : Nat) : State :=
  entry 0x2000_0000 0x2000_1001 (entry 0x2000_1000 0x2000_2001 (entry 0x2000_2020 0x2000_3001 (entry 0x2000_3000 0x2000_4001
    (entry 0x2000_4000 leaf { base with asids := mins base.asids 1 ⟨0x2000_0000, []⟩ }))))
/-- A range that no hand may use. -/
def denied : State := { base with asids := mins base.asids 1 ⟨0, [{ launchRange with attr := 0x17 }]⟩ }
theorem witness_translation_denied : 0x1_0000_0000 < Config.benchWindow ∧ mfind denied.asids denied.hand.asid.toNat =
      some ⟨0, [{ launchRange with attr := 0x17 }]⟩ ∧
    [{ launchRange with attr := 0x17 }].find? (fun r => attrBit r.attr 0 && decide (r.base ≤ 0x1_0000_0000 ∧ 0x1_0000_0000 < r.limit)) =
      some { launchRange with attr := 0x17 } ∧
    denied.mapped 0x17 0x1000_0000 0 = true ∧ permFault denied.me .load 0x17 = some 8 := by decide +kernel

/-- Entries that the walk meets: nothing; a leaf at level 3; a leaf with a reserved FMT; a sound one; one of a group that is no page, and
of one that is; a pointer at level 0, one with a bit set beside V, and a sound one. -/
theorem witness_pageWalk : let at0 : Nat := 0x2000_4000
    let e (n : Nat) : Reg64 := (entry at0 n base).live64 at0
    let group : State := memory at0 ((upFrom 0 16).map (fun j => leBytes 8 (0x10_0009 + 4096 * j + 2 ^ 54))).flatten base
    (entry at0 0 base).badKey at0 8 = none ∧ (e 0).getLsbD 0 = false ∧
    (at0 < 12 * Config.stackBytes ∧ base.stackUp at0 = some true ∧
      (base.modField 0 (fun f => { f with stk := 0 })).stackUp at0 = some false ∧
      (base.modField 0 (fun f => { f with state := 3 })).stackUp at0 = none) ∧
    (∀ n ∈ [9, 0x1000_0809, 0x1000_0009, 0x1000_0009 + 2 ^ 54], (e n).getLsbD 0 = true ∧ (e n).toNat / 8 % 4 ≠ 0) ∧
    leafFault 0 (e 0x1000_0809) = some 3 ∧ leafFault 0 (e 0x1000_0009) = none ∧ (e 0x1000_0009).getLsbD 54 = false ∧
    leafFault 0 (e (0x1000_0009 + 2 ^ 54)) = none ∧ ((entry at0 (0x1000_0009 + 2 ^ 54) base).live64 (at0 + 8)).getLsbD 0 = false ∧
    ((∀ j, j < 16 → (group.live64 (at0 + 8 * j)).getLsbD 0 = true ∧ (group.live64 (at0 + 8 * j)).getLsbD 54 = true ∧
      (group.live64 (at0 + 8 * j)).toNat % 4096 = (group.live64 at0).toNat % 4096 ∧
      attrFrame (group.live64 (at0 + 8 * j)) = attrFrame (group.live64 at0) + j) ∧ attrFrame (group.live64 at0) % 16 = 0 ∧
      leafFault 0 (group.live64 at0) = none) ∧
    (∀ n ∈ [1, 3, 0x2000_1001], (e n).getLsbD 0 = true ∧ (e n).toNat / 8 % 4 = 0) ∧ (e 3).toNat % 4096 ≠ 1 ∧
    ((e 0x2000_1001).toNat / 2 ^ 52 = 0 ∧ (e 0x2000_1001).toNat % 4096 = 1) := by decide +kernel
theorem witness_permissions : (poolAgent 1 false).sys = false ∧ (poolAgent 1 true).sys = true ∧ Access.store.writes = true ∧
    Access.load.writes = false ∧ (0x1F : Reg64).getLsbD 3 = true ∧ (0x07 : Reg64).getLsbD 3 = false ∧ (0x1F : Reg64).getLsbD 4 = true := by
  decide
theorem witness_pageTranslation : let va := 0x1_0000_0000
    (∀ leaf ∈ [0, 0x1000_0009, 0x1000_0011], va < Config.benchWindow ∧
      mfind (paged leaf).asids (paged leaf).hand.asid.toNat = some ⟨0x2000_0000, []⟩ ∧ (paged leaf).cached = []) ∧
    (paged 0).walk va [4, 3, 2, 1, 0] 0x2000_0000 = .error (.fault 0 0) ∧
    (∀ leaf ∈ [0x1000_0009, 0x1000_0011], let l : Leaf := ⟨0, 0x2000_4000, BitVec.ofNat 64 leaf⟩
      (paged leaf).walk va [4, 3, 2, 1, 0] 0x2000_0000 = .ok l ∧ attrFmt l.pte = 0 ∧ l.pte.getLsbD 6 = false ∧ l.pte.getLsbD 7 = false ∧
      (paged leaf).me.side = .single ∧ mappable (attrFrame l.pte * 4096 + va % 4096) = true) ∧
    permFault (paged 0).me .load 0x1000_0011 = some 8 ∧ permFault (paged 0).me .load 0x1000_0009 = none ∧
    (paged 0x1000_0009).stackUp 0x1000_0000 = some true ∧ Mem.wf (paged 0x1000_0009).mem.live = true ∧
    bareLeaf ((paged 0x1000_0009).live64 0x2000_4000) = bareLeaf 0x1000_0009 ∧
    bareLeaf ((paged 0x1000_0009).live64 0x2000_4000) ≠ bareLeaf 0x1000_0011 := by
  refine ⟨by decide +kernel, ?_, fun leaf h => ?_, by decide +kernel, by decide +kernel, by decide +kernel, by decide +kernel,
    by decide +kernel, by decide +kernel⟩
  · exact error_of (by decide +kernel)
  · simp only [List.mem_cons, List.not_mem_nil, or_false] at h
    rcases h with rfl | rfl <;> exact ⟨ok_of (by decide +kernel), by decide +kernel⟩

/-- A shadow record at 0x2000_0000: LIVE at frame 0x10000, side A at 0x10001, side B at 0x10002, with or without side A's dirty bit. -/
def shadowed (dirty : Nat) : State := memory 0x2000_0000 (leBytes 16 (0x10000 + 2 ^ 40 * 0x10001 + 2 ^ 80 * 0x10002 + 2 ^ 120 * dirty)) base
theorem witness_shadowPages : let attr : Reg64 := 0x4B
    attr.getLsbD 7 = false ∧ attr.getLsbD 6 = true ∧ attrFmt attr = 0 ∧
    (∀ d ∈ [0, 1], let r := (shadowed d).shadowRec 0x2000_0000
      mappable (r % 2 ^ 40 * 4096 + 5) = true ∧ mappable (r / 2 ^ 40 % 2 ^ 40 * 4096 + 5) = true ∧ r.testBit 120 = decide (d = 1)) ∧
    base.me.side = .single ∧ ({ base.me with side := .a } : Agent).side ≠ .single ∧ Mem.wf (shadowed 0).mem.live = true ∧
    0x1000_1000 + 4096 ≤ 0x2000_0000 := by decide +kernel

/-! ## Vector memory -/

/-- A shape record in v5: 2 by 1 by 1 elements of 32 bits, eight bytes apart, from x[A] on. -/
def record (l : List Nat) (s : State) : State := v 5 l s
def shaped : State := record [0, 0, 2, 1, 1, 8, 0, 0, 2, 0, 0, 0] (v 6 [0, 8] (x 2 8 mapped))
/-- Tile 63 of the hand's core in a state: rows of 128 F32 words at bench 0x1000. -/
def tiled (st : Nat) (s : State) : State := s.modTile 0 63 (fun t => { t with state := st, efmt := 4, rows := 31, cols := 31, base := 64 })

theorem witness_VectorLoads :
    (mapped.mayRun (.vld ⟨0, 3, 1, 0, 0⟩) ∧ mapped.hand.full 1 ∧ mapped.hand.sched.watches = [] ∧
      ∀ e ∈ mapped.hand.actives 0, mapped.readsAt 1 (mapped.hand.getX 1 + BitVec.ofNat 64 (e * mapped.hand.sewBytes)) mapped.hand.sewBytes
        (if e = 0 then 0x83828180 else 0x87868584)) ∧
    (shaped.mayRun (.vlds ⟨0, 3, 1, 2, 0, 0, 0⟩) ∧ shaped.hand.full 2 ∧
      ∀ e ∈ shaped.hand.actives 0, shaped.readsAt 1 (shaped.hand.getX 1 + BitVec.ofNat 64 e * shaped.hand.getX 2) shaped.hand.sewBytes
        (if e = 0 then 0x83828180 else 0)) ∧
    (shaped.mayRun (.vldx ⟨0, 3, 1, 6, 0, 0, 0⟩) ∧ shaped.hand.chains 6 shaped.hand.grpN 0 ∧
      ∀ e ∈ shaped.hand.actives 0, shaped.readsAt 1 (shaped.hand.getX 1 + BitVec.ofNat 64 (shaped.hand.elem 6 e)) shaped.hand.sewBytes
        (if e = 0 then 0x83828180 else 0)) ∧
    (let s := strip 2 0 3 shaped
     let l := s.hand.shape 5 9
     s.mayRun (.vldw ⟨0, 3, 1, 5, 0, 0, 0⟩) ∧ s.hand.vEmpty 5 1 = false ∧ wordAt l 8 = s.hand.csr.sew.toNat ∧
     wordAt l 2 * wordAt l 3 * wordAt l 4 = 2 ∧ 2 ∈ s.hand.actives 0 ∧
     ∀ e ∈ (s.hand.actives 0).filter (fun e => decide (e < 2)), s.readsAt 1 (recAddr l (recBase l (s.hand.getX 1)) e) s.hand.sewBytes
       (if e = 0 then 0x83828180 else 0)) ∧
    (let s := tiled 2 (x 1 4088 vecs)
     let tl := s.tile 0 (benchTile ⟨0, 3, 31, 1, 1, 0, 0⟩)
     let off (e : Nat) : Nat := (s.hand.getX 1 + BitVec.ofNat 64 (e * s.hand.sewBytes)).toNat
     s.mayRun (.vldb ⟨0, 3, 31, 1, 1, 0, 0⟩) ∧ s.hand.full 1 ∧ s.soundIn 7 ∧ tl.state = 2 ∧ 4088 % s.hand.sewBytes = 0 ∧
     (∀ e ∈ s.hand.actives 0, off e + s.hand.sewBytes ≤ tl.size) ∧ tl.size = 4096 ∧
     (∀ e ∈ s.hand.actives 0, s.decodes (tl.key 0 (off e)) s.hand.sewBytes ∧ s.soundAt (tl.key 0 (off e)) s.hand.sewBytes ∧
       ∀ j ∈ upFrom (tl.key 0 (off e)) s.hand.sewBytes, (s.tileView tl.since j).maybe = [])) ∧
    (let s := hand (fun h => h.setP 1 2) (tiled 2 (x 1 (-4) vecs))
     (s.hand.getX 1).toNat % s.hand.sewBytes = 0 ∧ s.hand.actives 1 = [1] ∧
     (s.hand.getX 1 + BitVec.ofNat 64 (1 * s.hand.sewBytes)).toNat + s.hand.sewBytes ≤
       (s.tile 0 (benchTile ⟨1, 3, 31, 1, 1, 0, 0⟩)).size) := by
  and_intros <;> first
    | exact loads_of (fun e => 0x1000_0100 + 4 * e) (by decide +kernel)
    | exact loads_of (fun e => 0x1000_0100 + 8 * e) (by decide +kernel)
    | decide +kernel

theorem witness_VectorStores :
    (let s := protect mapped
     s.mayRun (.vst ⟨0, 3, 1, 0, 0⟩) ∧ s.hand.full 1 ∧ s.hand.sched.watches = [] ∧
     (∀ e ∈ s.hand.actives 0, (s.hand.getX 1 + BitVec.ofNat 64 (e * s.hand.sewBytes)).toNat % s.hand.sewBytes = 0 ∧
       s.plainAt true (s.hand.getX 1 + BitVec.ofNat 64 (e * s.hand.sewBytes)) (0x1000_0100 + 4 * e)) ∧
     s.buffers s.hand.sewBytes ((s.hand.actives 0).map (fun e => 0x1000_0100 + 4 * e))) ∧
    (let s := protect shaped
     s.mayRun (.vsts ⟨0, 3, 1, 2, 0, 0, 0⟩) ∧ s.mayRun (.vstx ⟨0, 3, 1, 6, 0, 0, 0⟩) ∧ s.mayRun (.vstw ⟨0, 3, 1, 5, 0, 0, 0⟩) ∧
     s.hand.full 2 ∧ s.hand.chains 6 s.hand.grpN 0 ∧ s.hand.vEmpty 5 1 = false ∧ wordAt (s.hand.shape 5 9) 8 = s.hand.csr.sew.toNat ∧
     (∀ e ∈ s.hand.actives 0, (s.hand.getX 1 + BitVec.ofNat 64 e * s.hand.getX 2).toNat % s.hand.sewBytes = 0 ∧
       s.plainAt true (s.hand.getX 1 + BitVec.ofNat 64 e * s.hand.getX 2) (0x1000_0100 + 8 * e)) ∧
     (∀ e ∈ s.hand.actives 0, (s.hand.getX 1 + BitVec.ofNat 64 (s.hand.elem 6 e)).toNat % s.hand.sewBytes = 0 ∧
       s.plainAt true (s.hand.getX 1 + BitVec.ofNat 64 (s.hand.elem 6 e)) (0x1000_0100 + 8 * e)) ∧
     (∀ e ∈ s.hand.actives 0, (recAddr (s.hand.shape 5 9) (recBase (s.hand.shape 5 9) (s.hand.getX 1)) e).toNat % s.hand.sewBytes = 0 ∧
       s.plainAt true (recAddr (s.hand.shape 5 9) (recBase (s.hand.shape 5 9) (s.hand.getX 1)) e) (0x1000_0100 + 8 * e)) ∧
     s.buffers s.hand.sewBytes ((s.hand.actives 0).map (fun e => 0x1000_0100 + 8 * e))) ∧
    (∀ st ∈ [0, 2], let s := protect (tiled st (x 1 4088 vecs))
     let tl := s.tile 0 (benchTile ⟨0, 3, 31, 1, 1, 0, 0⟩)
     let off (e : Nat) : Nat := (s.hand.getX 1 + BitVec.ofNat 64 (e * s.hand.sewBytes)).toNat
     s.mayRun (.vstb ⟨0, 3, 31, 1, 1, 0, 0⟩) ∧ s.hand.full 1 ∧ s.soundIn 7 ∧ (tl.state = 0 ∨ tl.state = 2) ∧ 4088 % s.hand.sewBytes = 0 ∧
     (∀ e ∈ s.hand.actives 0, off e + s.hand.sewBytes ≤ tl.size) ∧
     s.buffers s.hand.sewBytes ((s.hand.actives 0).map (fun e => tl.key 0 (off e)))) := by
  and_intros <;> first | exact stores_of (by decide +kernel) | decide +kernel

theorem both {α : Type} {a b : α} {p : α → Prop} (ha : p a) (hb : p b) : ∀ y ∈ [a, b], p y := by
  simp only [List.mem_cons, List.not_mem_nil, or_false]
  rintro y (rfl | rfl)
  · exact ha
  · exact hb
/-- The bench in x1, its field's heel with or without room; a shape record there, as `shaped` has it. -/
def benchShaped (stk : BitVec 2) : State :=
  (record [0, 0, 2, 1, 1, 8, 0, 0, 2, 0, 0, 0] (v 6 [0, 8] (x 2 8 benched))).modField 0 (fun f => { f with stk := stk })
/-- The heel has room, and it is full. -/
theorem witness_VectorStores_unprotected :
    (∀ stk ∈ [3, 0], let s := benchShaped stk
     s.mayRun (.vst ⟨0, 3, 1, 0, 0⟩) ∧ s.hand.full 1 ∧ s.hand.sched.watches = [] ∧
     (∀ e ∈ s.hand.actives 0, (s.hand.getX 1 + BitVec.ofNat 64 (e * s.hand.sewBytes)).toNat % s.hand.sewBytes = 0 ∧
       s.plainAt true (s.hand.getX 1 + BitVec.ofNat 64 (e * s.hand.sewBytes)) (0x1000_0000_0000 + 4 * e)) ∧
     apart s.hand.sewBytes (topmost (s.hand.actives 0) (fun e => 0x1000_0000_0000 + 4 * e)) (fun e => 0x1000_0000_0000 + 4 * e)) ∧
    (benchShaped 3).performs 4 ((benchShaped 3).hand.actives 0) (fun e => 0x1000_0000_0000 + 4 * e) ∧
    (benchShaped 0).mustHold 4 ((benchShaped 0).hand.actives 0) (fun e => 0x1000_0000_0000 + 4 * e) ∧
    (∀ stk ∈ [3, 0], let s := benchShaped stk
     s.mayRun (.vsts ⟨0, 3, 1, 2, 0, 0, 0⟩) ∧ s.mayRun (.vstx ⟨0, 3, 1, 6, 0, 0, 0⟩) ∧ s.mayRun (.vstw ⟨0, 3, 1, 5, 0, 0, 0⟩) ∧
     s.hand.full 2 ∧ s.hand.chains 6 s.hand.grpN 0 ∧ s.hand.vEmpty 5 1 = false ∧ wordAt (s.hand.shape 5 9) 8 = s.hand.csr.sew.toNat ∧
     (∀ e ∈ s.hand.actives 0, (s.hand.getX 1 + BitVec.ofNat 64 e * s.hand.getX 2).toNat % s.hand.sewBytes = 0 ∧
       s.plainAt true (s.hand.getX 1 + BitVec.ofNat 64 e * s.hand.getX 2) (0x1000_0000_0000 + 8 * e)) ∧
     (∀ e ∈ s.hand.actives 0, (s.hand.getX 1 + BitVec.ofNat 64 (s.hand.elem 6 e)).toNat % s.hand.sewBytes = 0 ∧
       s.plainAt true (s.hand.getX 1 + BitVec.ofNat 64 (s.hand.elem 6 e)) (0x1000_0000_0000 + 8 * e)) ∧
     (∀ e ∈ s.hand.actives 0, (recAddr (s.hand.shape 5 9) (recBase (s.hand.shape 5 9) (s.hand.getX 1)) e).toNat % s.hand.sewBytes = 0 ∧
       s.plainAt true (recAddr (s.hand.shape 5 9) (recBase (s.hand.shape 5 9) (s.hand.getX 1)) e) (0x1000_0000_0000 + 8 * e)) ∧
     apart s.hand.sewBytes (topmost (s.hand.actives 0) (fun e => 0x1000_0000_0000 + 8 * e)) (fun e => 0x1000_0000_0000 + 8 * e)) ∧
    (benchShaped 3).performs 4 ((benchShaped 3).hand.actives 0) (fun e => 0x1000_0000_0000 + 8 * e) ∧
    (benchShaped 0).mustHold 4 ((benchShaped 0).hand.actives 0) (fun e => 0x1000_0000_0000 + 8 * e) ∧
    (∀ stk ∈ [3, 0], let s := (tiled 2 (x 1 4088 vecs)).modField 0 (fun f => { f with stk := stk })
     let tl := s.tile 0 (benchTile ⟨0, 3, 31, 1, 1, 0, 0⟩)
     let key (e : Nat) : Nat := tl.key 0 ((s.hand.getX 1 + BitVec.ofNat 64 (e * s.hand.sewBytes)).toNat)
     s.mayRun (.vstb ⟨0, 3, 31, 1, 1, 0, 0⟩) ∧ s.hand.full 1 ∧ s.soundIn 7 ∧ (tl.state = 0 ∨ tl.state = 2) ∧ 4088 % s.hand.sewBytes = 0 ∧
     apart s.hand.sewBytes (s.hand.actives 0) key ∧ (stk = 3 → s.performs s.hand.sewBytes (s.hand.actives 0) key) ∧
     (stk = 0 → s.mustHold s.hand.sewBytes (s.hand.actives 0) key)) := by
  refine ⟨both ?_ ?_, ?_, ?_, both ?_ ?_, ?_, ?_, both ?_ ?_⟩ <;> and_intros <;>
    first | exact stores_of (by decide +kernel) | decide +kernel

/-- The indexed accesses of the linked path at one line, and at two. -/
def lineAt : State := v 6 [0, 8] mapped
def lines : State := v 6 [0, 128] mapped
theorem witness_LinkedPath :
    (lineAt.mayRun (.vgl ⟨0, 3, 1, 6, 0, 0, 0⟩) ∧ lineAt.hand.full 1 ∧ lineAt.hand.chains 6 lineAt.hand.grpN 0 ∧
      lineAt.hand.sched.watches = [] ∧ lineAt.noDudel ∧ lineAt.hand.actives 0 ≠ [] ∧
      (∀ e ∈ lineAt.hand.actives 0, (lineAt.hand.getX 1 + BitVec.ofNat 64 (lineAt.hand.elem 6 e)).toNat % lineAt.hand.sewBytes = 0 ∧
        lineAt.rangeAt false (lineAt.hand.getX 1 + BitVec.ofNat 64 (lineAt.hand.elem 6 e)).toNat (0x1000_0100 + 8 * e) ∧
        lineAt.decodes (0x1000_0100 + 8 * e) lineAt.hand.sewBytes) ∧
      (∀ e ∈ lineAt.hand.actives 0, lineOf (0x1000_0100 + 8 * e) = lineOf 0x1000_0100) ∧
      lineAt.noWay (lineOf 0x1000_0100) = false) ∧
    (∀ s ∈ [lineAt, after (exec (.vgl ⟨0, 3, 1, 6, 0, 0, 0⟩) lineAt), lines, after (exec (.vgl ⟨0, 3, 1, 6, 0, 0, 0⟩) lines)],
      let gap := s.hand.elem 6 1
      s.mayRun (.vsc ⟨0, 3, 1, 6, 7, 0, 0, 0⟩) ∧ s.hand.full 1 ∧
      s.hand.chains 6 s.hand.grpN 0 ∧ s.hand.sched.watches = [] ∧ s.noDudel ∧ s.drains ∧ s.hand.actives 0 ≠ [] ∧
      Mem.wf s.commit.mem.live = true ∧ rising s.commit.mem.tags = true ∧
      (∀ e ∈ s.hand.actives 0, (s.hand.getX 1 + BitVec.ofNat 64 (s.hand.elem 6 e)).toNat % s.hand.sewBytes = 0 ∧
        (0x1000_0100 + gap * e) % s.hand.sewBytes = 0 ∧
        s.commit.rangeAt true (s.hand.getX 1 + BitVec.ofNat 64 (s.hand.elem 6 e)).toNat (0x1000_0100 + gap * e) ∧
        s.commit.decodes (0x1000_0100 + gap * e) s.hand.sewBytes) ∧
      apart s.hand.sewBytes (s.hand.actives 0) (fun e => 0x1000_0100 + gap * e)) ∧
    (after (exec (.vgl ⟨0, 3, 1, 6, 0, 0, 0⟩) lineAt)).commit.intact (lineOf 0x1000_0100) = true ∧
    lineAt.commit.intact (lineOf 0x1000_0100) = false ∧ lineOf 0x1000_0100 ≠ lineOf (0x1000_0100 + lines.hand.elem 6 1) ∧
    (let s := strip 2 0 0 lineAt
     s.mayRun (.vsc ⟨0, 3, 1, 6, 7, 0, 0, 0⟩) ∧ s.hand.actives 0 = []) := by
  refine ⟨?_, fun s hs => ?_, ?_, ?_, ?_, ?_⟩
  · and_intros <;> first | exact lines_of (by decide +kernel) | decide +kernel
  · simp only [List.mem_cons, List.not_mem_nil, or_false] at hs
    rcases hs with rfl | rfl | rfl | rfl <;> and_intros <;> first | exact writes_of (by decide +kernel) | decide +kernel
  · decide +kernel
  · decide +kernel
  · decide +kernel
  · decide +kernel

theorem witness_TicketAccesses : let c := got mapped.commit.orderPoint mapped
    mapped.hand.full 1 ∧ mapped.hand.sched.watches = [] ∧ mapped.noDudel ∧ mapped.drains ∧ mapped.commit.orderPoint = .ok c ∧
    mapped.mayRun (.vldsq ⟨0, 3, 1, 0, 0⟩) ∧ mapped.mayRun (.vstsq ⟨0, 3, 1, 0, 0⟩) ∧ mapped.hand.actives 0 ≠ [] ∧
    (∀ e ∈ mapped.hand.actives 0, (mapped.hand.getX 1 + BitVec.ofNat 64 (e * mapped.hand.sewBytes)).toNat % mapped.hand.sewBytes = 0 ∧
      c.rangeAt true (mapped.hand.getX 1 + BitVec.ofNat 64 (e * mapped.hand.sewBytes)).toNat (0x1000_0100 + 4 * e) ∧
      c.decodes (0x1000_0100 + 4 * e) mapped.hand.sewBytes) ∧
    (∀ e ∈ mapped.hand.actives 0, (mapped.hand.getX 1 + BitVec.ofNat 64 (e * mapped.hand.sewBytes)).toNat % mapped.hand.sewBytes = 0 ∧
      c.rangeAt false (mapped.hand.getX 1 + BitVec.ofNat 64 (e * mapped.hand.sewBytes)).toNat (0x1000_0100 + 4 * e) ∧
      c.decodes (0x1000_0100 + 4 * e) mapped.hand.sewBytes) ∧
    apart mapped.hand.sewBytes (mapped.hand.actives 0) (fun e => 0x1000_0100 + 4 * e) ∧ Mem.wf c.mem.live = true := by
  and_intros <;> first
    | exact got_ok mapped (by decide +kernel)
    | exact lines_of (by decide +kernel)
    | decide +kernel

/-! ## Ordering -/

/-- A store that its acknowledgement has not reached; a store, so that a fence has something to order. -/
def unacked (s : State) : State := hand (fun h => { h with ord := { h.ord with acks := [⟨0, none⟩] } }) s
theorem witness_fences : base.goes 0 ∧ base.hand.classQuiet 0 = true ∧ base.hand.classQuiet 1 = true ∧
    (unacked base).hand.classQuiet 0 = false ∧ base.drains ∧ base.commit.completeBefore 3 = true ∧
    (unacked base).completeBefore 0 = false ∧ ¬ ((0 : Fld5) = 1) ∧ rising base.hand.ord.fences = true ∧ 8 * 1 + 0 ≠ 8 * 0 + 1 := by
  decide +kernel
theorem witness_liveWaits : (x 2 5 mapped).noDudel ∧ (x 2 5 mapped).ready 0 [1, 2] ∧ (x 2 5 mapped).hand.sched.watches = [] ∧
  (x 2 5 mapped).hand.unasked ∧
    (x 2 5 mapped).drains ∧ ((x 2 5 mapped).hand.getX 1).toNat % 8 = 0 ∧
    (x 2 5 mapped).rangeAt false ((x 2 5 mapped).hand.getX 1).toNat 0x1000_0100 ∧ (x 2 5 mapped).decodes 0x1000_0100 8 ∧
    ((x 2 5 mapped).hand.getX 2).toNat ≤ leNat ((x 2 5 mapped).commit.mem.live.bytes 0x1000_0100 8) ∧
    ¬ (((x 2 (-1) mapped).hand.getX 2).toNat ≤ leNat ((x 2 (-1) mapped).commit.mem.live.bytes 0x1000_0100 8)) ∧
    leNat ((x 2 0x8786858483828180 mapped).commit.mem.live.bytes 0x1000_0100 8) =
      ((x 2 0x8786858483828180 mapped).hand.getX 2).toNat :=
  by refine ⟨?_, ?_, ?_, ?_, ?_, ?_, range_of (by decide +kernel), ?_, ?_, ?_, ?_⟩ <;> decide +kernel
theorem witness_FencesAndLiveWaits : base.goes 0 ∧ (x 2 5 mapped).ready 0 [1, 2] ∧
    (x 2 5 mapped).rangeAt false ((x 2 5 mapped).hand.getX 1).toNat 0x1000_0100 :=
  ⟨by decide +kernel, by decide +kernel, range_of (by decide +kernel)⟩

/-- A hand that has arrived at scope 1, and its instance after the phase end. -/
def arrived (n : Nat) (s : State) : State :=
  { hand (fun h => { h with arrived := some ⟨1, 0, h.pc⟩ }) s with
    tasks := s.tasks.map (fun t => { t with instances := [⟨1, 0, n, [(0, 1)], [], [], false⟩] }) }
/-- The same, once it has written a byte of memory in the phase, and another into a tile. -/
def wrote : State :=
  let s := arrived 0 (memory 0x1000_0100 [7, 9] base)
  let w (k : Nat) (b : Byte) (tile : Bool) : Wr := ⟨k, b, 0, k % 2, k, 1, 1, [], [], 1, 0, tile⟩
  { s with tasks := s.tasks.map (fun t => { t with
      instances := [⟨1, 0, 0, [(0, 1)], [(clockKey 1 0, 2)], [], false⟩], log := [w 0x1000_0100 7 false, w 0x1000_0101 9 true] }) }
theorem witness_phaseEnds_settling : let s := wrote
    let d : Task := ⟨0, 0, 0, .single, [], [], 0, 0, [], [], []⟩
    let r := (s.membersOf 1 1 0).foldlM (fun (s : State) h => s.performAllHeld h) s
    let t := (s.taskOf 1).getD d
    let i := t.inst 1 0
    let t1 := ((got r s).taskOf 1).getD d
    s.taskOf 1 = some t ∧ s.badHeld (s.membersOf 1 1 0) = none ∧ r = .ok (got r s) ∧ (got r s).taskOf 1 = some t1 ∧
      (∃ h ∈ s.membersOf 1 1 0, h.status ≠ .retired) ∧
    (∀ h ∈ s.membersOf 1 1 0, h.status = .retired ∨ i.number < mget 0 i.arrivals h.member) ∧ Mem.wf (got r s).mem.live = true ∧
    (∃ w ∈ t1.log, w.key = 0x1000_0100 ∧ Clock.covers i.clock w = true ∧ w.perf ≠ 0 ∧ Clock.covers i.prev w = false ∧ w.tile = false ∧
      (∃ h ∈ s.membersOf 1 1 0, h.member = w.member) ∧
      survivor (t1.log.filter (fun w => w.key == 0x1000_0100 && Clock.covers i.clock w && w.perf != 0)) = some w) ∧
    (∀ w ∈ t1.log, w.key = 0x1000_0101 → w.tile = true) := by
  and_intros <;> first | exact got_ok _ (by decide +kernel) | decide +kernel
theorem witness_PhaseInstructionsAndEnds : (base.goes 0 ∧ base.hand.arrived = none ∧ base.hand.unasked ∧ base.drains) ∧
    (unacked base).commit.dropGrant.hand.unacked = true ∧
    (base.commit.dropGrant.hand.unacked = false ∧ base.commit.dropGrant.commandsDone = true) ∧
    ((arrived 1 base).hand.arrived = some ⟨1, 0, (arrived 1 base).hand.pc⟩ ∧ 0 < ((arrived 1 base).myInst 1).number ∧
      (arrived 1 base).goes 0 ∧ (arrived 1 base).goesNot 7) ∧ base.ready 0 [31] ∧
    (let s := arrived 0 base
     let t := (s.taskOf 1).getD ⟨0, 0, 0, .single, [], [], 0, 0, [], [], []⟩
     let r := (s.membersOf 1 1 0).foldlM (fun (s : State) h => s.performAllHeld h) s
     (1 : Nat) ≠ 5 ∧ s.taskOf 1 = some t ∧ s.badHeld (s.membersOf 1 1 0) = none ∧ (∃ h ∈ s.membersOf 1 1 0, h.status ≠ .retired) ∧
     (∀ h ∈ s.membersOf 1 1 0, h.status = .retired ∨ (t.inst 1 0).number < mget 0 (t.inst 1 0).arrivals h.member) ∧
     r = .ok (got r s)) := by
  and_intros <;> first | exact got_ok _ (by decide +kernel) | decide +kernel

end Sys2Proof.Tests
end

