-- ==== Sys2Proof/Tests/WitnessUnits.lean ====
section
/-! SUPPORT. For each statement about streams, tiles, copies, matrix jobs, exchanges, summaries, the Dealer and seats: a concrete state
and operands that meet the hypotheses of each of its clauses, at the bounds of their ranges. -/

namespace Sys2Proof.Tests

set_option Elab.async false

open Sys2Proof Sys2Proof.Machine

/-! ## Streams -/

/-- A record of three elements of 32 bits in v5, its chain word in x2: none, or four-bit fields through the table of tile 3. -/
def recorded (code : Nat) (chain : Reg64) (s : State) : State := record [0x100, 1, 3, 1, 1, 4, 0, 0, code, 0, 0, 0] (x 2 chain s)
/-- A tile of 16 words in a state. -/
def table (n st : Nat) (s : State) : State := s.modTile 0 n (fun t => { t with state := st, efmt := 4, cols := 15 })
def bound (stages : Reg64) (pos : Reg64) (s : State) : State :=
  s.setStream 3 (some ⟨[0x100, 1, 3, 1, 1, 4, 0, 0, 2, 0, 0], 0x1_0000_0100, stages, 3, pos, []⟩)

theorem witness_streamBinding :
    (let s := recorded 2 0 base
     let l := s.hand.shape 5 12
     s.goes 0 ∧ s.soundIn 5 ∧ s.hand.vEmpty 5 1 = false ∧ s.hand.full 2 ∧ wordAt l 8 < 4 ∧
     wordAt l 1 < 2 ^ 25 ∧ chainOk (s.hand.getX 2) (wordAt l 8) = some [] ∧ stageArg [] 3 = none ∧ stageArg [] 2 = none) ∧
    (let s := table 3 2 (recorded 2 0x4024 base)
     let l := s.hand.shape 5 12
     let st := [(1, 4), (2, 0)]
     let t := s.tile 0 3
     s.soundIn 7 ∧ wordAt l 8 < 4 ∧ chainOk (s.hand.getX 2) (wordAt l 8) = some st ∧ stageArg st 2 ≠ none ∧
     t.tables (unpkWidth ((stageArg st 1).getD 0)) = true ∧ (t.state = 1 ∨ t.state = 2)) ∧
    base.goes 0 ∧
    ((bound 0 3 base).hand.streams.toArray.getD 3 none = some ⟨[0x100, 1, 3, 1, 1, 4, 0, 0, 2, 0, 0], 0x1_0000_0100, 0, 3, 3, []⟩ ∧
      (bound 0 3 base).hand.full 31 ∧ (bound 0 3 base).ready 0 [2]) ∧
    base.hand.streams.toArray.getD 31 none = none ∧
    (let s := table 4 0 (bound 0x4024 3 base)
     s.soundIn 7 ∧ ∃ b, s.hand.streams.toArray.getD 3 none = some b ∧ stageArg b.stages 2 ≠ none ∧
      (s.tile 0 4).tables (unpkWidth ((stageArg b.stages 1).getD 0)) = true) :=
  by refine ⟨?_, ?_, ?_, ?_, ?_, ?_, _, rfl, ?_, ?_⟩ <;> decide +kernel

/-- Two positions inside the pattern, and two beyond its end. -/
theorem witness_streamPops : let s := strip 2 0 3 (bound 0 1 mapped)
    let b : Stream := ⟨[0x100, 1, 3, 1, 1, 4, 0, 0, 2, 0, 0], 0x1_0000_0100, 0, 3, 1, []⟩
    s.mayRun (.vmovStream ⟨0, 7, 3, 0⟩) ∧ s.hand.streams.toArray.getD 3 none = some b ∧ (3 : BitVec 2).toNat < 4 ∧ b.stages = [] ∧
      b.views = [] ∧
    2 ^ wordAt b.shape 8 = s.hand.sewBytes ∧ recVol b.shape = 3 ∧
    (∀ e ∈ [0, 1], (recAddr b.shape b.base (b.pos + BitVec.ofNat 64 e).toNat).toNat % s.hand.sewBytes = 0 ∧
      s.plainAt false (recAddr b.shape b.base (b.pos + BitVec.ofNat 64 e).toNat) (0x1000_0104 + 4 * e) ∧
      s.decodes (0x1000_0104 + 4 * e) s.hand.sewBytes ∧
      (∀ j ∈ upFrom (0x1000_0104 + 4 * e) s.hand.sewBytes, (s.byteView s.hand 4 j).maybe = [] ∧ (s.byteView s.hand 4 j).alt = none ∧
        ∀ x ∈ (s.byteView s.hand 4 j).sure, x.perf ≠ 0) ∧
      leNat ((upFrom (0x1000_0104 + 4 * e) s.hand.sewBytes).map (fun j => (s.byteView s.hand 4 j).value none)) =
        (if e = 0 then 0x87868584 else 0)) ∧ s.soundIn 8 ∧ rising s.cores = true ∧
    ¬ ((b.pos + BitVec.ofNat 64 2).toNat < recVol b.shape) := by
  refine ⟨?_, ?_, ?_, ?_, ?_, ?_, ?_, fun e m => ?_, ?_, ?_, ?_⟩
  case refine_8 =>
    simp only [List.mem_cons, List.not_mem_nil, or_false] at m
    rcases m with rfl | rfl <;> exact ⟨by decide +kernel, plain_of (by decide +kernel), by decide +kernel, by decide +kernel,
      by decide +kernel⟩
  all_goals decide +kernel
theorem witness_Streams : (bound 0 3 base).goes 0 ∧ (strip 2 0 3 (bound 0 1 mapped)).mayRun (.vmovStream ⟨0, 7, 3, 0⟩) := by
  decide +kernel

/-! ## Tiles and engines -/

/-- The entry word of a plain tile: 16 rows of 16 F32 words at bench 0. -/
def tileWord : Reg64 := BitVec.ofNat 64 (4 * 2 ^ 57 + 15 * 2 ^ 44 + 15 * 2 ^ 31)
theorem witness_TileInstructions :
    ((x 1 tileWord base).ready 0 [1] ∧ base.soundIn 7 ∧ (base.tile 0 63).state = 0 ∧ tileDefOk tileWord = true ∧ base.drains) ∧
    ((x 1 (-1) base).ready 0 [1] ∧ tileDefOk (-1) = false) ∧
    (∀ st ∈ [1, 3], (tiled st base).goes 0 ∧ ((tiled st base).tile 0 (tileNum ⟨31, 1, 0⟩)).state = st ∧ (tiled st base).hand.unasked) ∧
    ((tiled 2 base).drains ∧ ((tiled 2 base).tile 0 (tileNum ⟨31, 1, 0⟩)).state = 2 ∧ (tiled 2 base).commit.engineReads 0 63 = false) ∧
    (let s := { tiled 2 base with xchgs := [⟨none, 1, 0, 2, 0, 0, 1, 0, 1, 63, 0, 0, 0, [], false, 0, 0, [], []⟩] }
     (s.tile 0 63).state = 2 ∧ s.commit.engineReads 0 63 = true) ∧
    ((base.tile 0 63).state = 0 ∧ base.commit.hand.strip.ssb = [] ∧ base.commit.hand.classQuiet 1 = true) ∧
    base.ready 0 [3] := by decide +kernel

/-- `State.copyGoes`, its parts. -/
abbrev goesCopy (s : State) (o : CopyOp) (b : Fld5) : Prop :=
  s.soundIn 5 ∧ s.hand.vEmpty b.toNat 1 = false ∧
  (s.copyChecks o (s.hand.shape b 12)).toOption = some () ∧ (o.kind.drains = true → (s.tile s.hand.core o.tile).state = 2) ∧ s.drains ∧
  (s.commit.core s.hand.core).chain < Config.chainEntries
theorem copy_of {s : State} {o : CopyOp} {b : Fld5} (h : goesCopy s o b) : s.copyGoes o b :=
  h.imp_right (And.imp_right (And.imp_left ok_of))

/-- Tile 63 in a state, for a copy of 16 words; a plane of F32 values in blocks of 8 bits; a slot of type TILEACC. -/
def filling (st : Nat) (s : State) : State :=
  (record [0x100, 1, 16, 1, 1, 4, 0, 0, 2, 0, 0, 0] s).modTile 0 63 (fun t => { t with state := st, efmt := 4, rows := 15, cols := 15 })
def plane (n st rows : Nat) (s : State) : State :=
  s.modTile 0 n (fun t => { t with state := st, plane := true, efmt := 13, rows := rows, cols := 63, base := 2048 * n })
def slotted (t : Nat) (s : State) : State := hand (fun h => { h with handles := mins h.handles 1 (newSlot t 0 0) }) s
/-- cpy.in into tile 63 with mma into slot 1 after it. -/
def pairWords : State :=
  let s := slotted 7 (plane 1 1 127 (plane 2 1 127 (filling 0 (at2 (encodeWord (.cpyIn ⟨31, 1, 5, 1, 1, 0, 0, 0⟩)).toNat
    (encodeWord (.mma ⟨1, 1, 2, 0, 0⟩)).toNat))))
  x 1 0x1_0000_0200 s

theorem witness_CopyIssue :
    ((filling 0 base).goes 0 ∧ (filling 0 base).hand.full 1 ∧ (filling 0 base).copyGoes ⟨.cpyIn, 63, (filling 0 base).hand.getX 1, 0⟩ 5) ∧
    (let s := record [0x100, 1, 2, 1, 1, 36, 0, 0, 4, 0, 0, 0] (plane 63 0 0 base)
     s.copyGoes ⟨.cpyInp, 63, s.hand.getX 1, 0⟩ 5) ∧
    (let f : CpyInF := ⟨31, 1, 5, 1, 1, 0, 0, 0⟩
     let r := got (pairWords.followWord (encodeWord (.cpyIn f))) (base, 0)
     pairWords.followWord (encodeWord (.cpyIn f)) = .ok (r.1, r.2) ∧ r.1.goes f.g ∧ r.1.hand.full f.a ∧
     r.1.copyGoes ⟨.cpyIn, 63, r.1.hand.getX f.a, 0⟩ f.b ∧ r.1.mmaChecks (mmaOp r.2) = .ok () ∧ r.1.hand.jobs.length < 4) ∧
    ((filling 2 base).ready 0 [1] ∧ (filling 2 base).copyGoes ⟨.cpyOut, 63, 0, (filling 2 base).hand.getX 1⟩ 5 ∧
      (filling 2 base).copyGoes ⟨.cpyPeer, 63, 0, (filling 2 base).hand.getX 1⟩ 5) ∧
    ((filling 0 base).ready 0 [1, 2] ∧
      (filling 0 base).copyGoes ⟨.cpyMem, 0, (filling 0 base).hand.getX 1, (filling 0 base).hand.getX 2⟩ 5) :=
  ⟨⟨by decide +kernel, by decide +kernel, copy_of (by decide +kernel)⟩, copy_of (by decide +kernel),
    ⟨got_ok (base, 0) (by decide +kernel), by decide +kernel, by decide +kernel, copy_of (by decide +kernel), ok_of (by decide +kernel),
      by decide +kernel⟩,
    ⟨by decide +kernel, copy_of (by decide +kernel), copy_of (by decide +kernel)⟩, by decide +kernel, copy_of (by decide +kernel)⟩

/-- A command in the chain: a copy of 16 words into tile 63, at position `p`. -/
def copying (p : Nat) (status : Option Byte) (s : State) : State :=
  let s := filling 0 s
  let s := s.issueCopy ⟨.cpyIn, 63, 0, 0⟩ (s.hand.shape 5 12) false
  { s with copies := s.copies.map (fun c => { c with pos := p, status := status }) }
/-- A delivery of two F32 words to tile 63 of core 0. -/
def delivery : PeerF where
  src := 2; task := 1; member := 0; epoch := 0; seq := 1; prec := []; asid := 1; kind := 1; tile := 63; core := 0; roff := 0; cwa :=
    0; n := 1
  sweep := ⟨0x1_0000_0100, 2, 1, 1, 4, 0, 0, 4⟩
  bytes := [1, 2, 3, 4, 5, 6, 7, 8]
/-- Port 23, up or down, to device 2. -/
def numbered (up : Bool) (s : State) : State := { s with pod := { s.pod with devNumber := some 1, ports := [(23, ⟨up, 2⟩)] } }
/-- The delivery at its position `p`, into the tile that it fills. -/
def arriving (p : Nat) : State := let s := filling 1 (numbered true base)
  { s with arrivals := [⟨delivery, (s.tile 0 63).gen, p, []⟩] }
theorem witness_copyEngine :
    (let s := copying 0 none base
     ∃ c, s.copyOf 0 1 = some c ∧ s.copyHeld c = false ∧ c.status = none ∧ c.pos < c.vol ∧ s.chainError c.hand = none ∧
       s.arrivingAt ⟨0, 1, 0, 1⟩ = none ∧
      (s.copyStep c).toOption.isSome = true) ∧
    (let s := copying 15 none { base with asids := [] }
     ∃ c, s.copyOf 0 1 = some c ∧ s.copyHeld c = false ∧ c.status = none ∧ c.pos < c.vol ∧
      (match s.copyStep c with
        | .error (.status _) => True
        | _ => False)) ∧
    (let s := copying 16 none base
     ∃ c, s.copyOf 0 1 = some c ∧ c.kind ≠ .fill ∧ Mem.wf s.mem.live = true ∧ c.status = none ∧ c.vol ≤ c.pos ∧ s.copyHeld c = false ∧
      c.kind ≠ .cpyPeer ∧ (∀ d ∈ s.copies, d.hand = c.hand → d.n = c.n → d = c)) ∧
    (let s := copying 15 (some 1) base
     ∃ c, s.copyOf 0 1 = some c ∧ c.kind ≠ .fill ∧ Mem.wf s.mem.live = true ∧ c.status = some 1 ∧
      (∀ d ∈ s.copies, d.hand = c.hand → d.n = c.n → d = c)) ∧
    ((numbered false base).portTo delivery.src = none ∧ (numbered true base).portTo delivery.src = some 23 ∧ base.pod.halted = false ∧
      ((numbered true base).arrives (256 + 23) delivery.bytes.length ((numbered true base).recvBuffer delivery)).isSome = true) ∧
    (delivery.kind = 1 ∧ delivery.core < Config.coreCount ∧ delivery.tile < 64) ∧
    (∀ st ∈ [2, 3], ((filling st base).tile 0 63).state = st) ∧
    (∀ st ∈ [0, 1], let t := (filling st base).tile 0 63
     t.state ≠ 2 ∧ t.state ≠ 3 ∧ delivery.bytes.length % t.slotBytes = 0 ∧ delivery.sweep.esize = t.slotBytes ∧
      t.fits delivery.roff.toNat (delivery.bytes.length / t.slotBytes) = true ∧ delivery.bytes ≠ [] ∧ 0 < delivery.sweep.esize ∧
      ((filling st base).field (fieldOfCore delivery.core)).state ≠ 6) ∧
    (∀ p ∈ [0, 1], let s := arriving p
     let tl := s.tile 0 63
     s.arrivals[0]? = some ⟨delivery, tl.gen, p, []⟩ ∧ s.pod.halted = false ∧ delivery.kind = 1 ∧ tl.plane = false ∧
      (s.field (fieldOfCore delivery.core)).state ≠ 6 ∧ Mem.wf s.mem.live = true ∧ delivery.cwa = 0 ∧ peerCount delivery = 2) ∧
    ({ arriving 0 with pod := { base.pod with halted := true } } : State).pod.halted = true ∧
    (({ arriving 0 with fields := base.fields.setIfInBounds 0 { base.field 0 with state := 6 } } : State).field 0).state = 6 ∧
    (rising (arriving 0).cores = true ∧ rising ((arriving 0).core 0).tiles = true ∧
      (∀ g ∈ [0, 1], let s := (arriving 0).modTile 0 63 (fun t => { t with gen := g })
      s.arrivals[0]? = some ⟨delivery, ((arriving 0).tile 0 63).gen, 0, []⟩ ∧ (s.tile 0 63).state = 1)) := by
  refine ⟨⟨_, rfl, ?_⟩, ⟨_, rfl, ?_, ?_, ?_, trivial⟩, ⟨_, rfl, ?_⟩, ⟨_, rfl, ?_⟩, ?_⟩ <;> decide +kernel
theorem witness_CopyEngineAndLandings : (copying 0 none base).copyOf 0 1 ≠ none ∧
    ((empty [1, 2] base).handOf 0).isSome = true ∧ (empty [1, 2] base).hand.producers[1]? = some (pending (.scalar 2)) ∧
    (empty [1, 2] base).hand.mayLand 1 = true := by
  decide +kernel

/-! ### Positions of a command -/

/-- A command of the hand for tile 63 at position `p`: elements or blocks of this code, `stride` bytes apart from 0x1_0000_0100 on. -/
def commandOf (k : CopyKind) (code e9 stride p : Nat) (moved : List Byte) : Copy :=
  ⟨0, 1, k, 0, 1, 1, 63, 1, [0x100, 1, 2, 1, 1, BitVec.ofNat 32 stride, 0, 0, BitVec.ofNat 32 code, BitVec.ofNat 32 e9, 0, 0], 0, 0,
    false, p, moved,
    none, 0, [], [], [], none⟩
/-- It stands in the chain, and bytes to move stand at 0x1000_0100 and in the tile, which fills or is read. -/
def commanding (c : Copy) (efmt cols : Nat) (plane : Bool) (bytes : List Byte) : State :=
  let s := memory (Config.benchKey 0 0) bytes (memory 0x1000_0100 bytes base)
  let s := s.modTile 0 63 (fun t =>
    { t with state := if c.kind.drains then 2 else 1, gen := 1, efmt := efmt, cols := cols, rows := 3, plane := plane, base := 0 })
  { s with copies := [c] }
/-- What every clause of `copyPositions` asks of a command. -/
abbrev moving (s : State) (c : Copy) : Prop := s.copyOf 0 1 = some c ∧ s.copyHeld c = false ∧ c.status = none ∧ c.pos < c.vol ∧
  s.chainError c.hand = none ∧ s.arrivingAt ⟨0, 1, 0, 1⟩ = none ∧ (s.field (fieldOfCore c.core)).state ≠ 6 ∧ Mem.wf s.mem.live = true ∧
  Mem.wf s.mem.pub = true
/-- `State.copyReaches` for the one entry of `launchRange`. -/
abbrev reachesOf (s : State) (c : Copy) (wr : Bool) (va : Reg64) (k : Nat) : Prop := windowOf c.core va.toNat k ∨
  (s.hand.asid = c.asid ∧ s.me.side = s.peerSide c ∧ inRange s wr va.toNat k)
theorem reaches_of {s : State} {c : Copy} {wr : Bool} {va : Reg64} {k : Nat} (h : reachesOf s c wr va k) : s.copyReaches c wr va k := by
  rcases h with h | ⟨ha, hs, h⟩
  · exact .inl h
  · exact .inr (ha ▸ hs ▸ range_of h)
/-- `State.copySees` by way of key `k`. -/
abbrev seesOf (s : State) (c : Copy) (va : Reg64) (w k : Nat) (l : List Byte) : Prop :=
  reachesOf s c false va k ∧ s.decodes k w ∧ s.badOf (s.copyHand c).id 8 (placeOf k) = none ∧ rising s.cores = true ∧
  (∀ j ∈ upFrom k w, (s.byteView (s.copyHand c) 3 j).maybe = [] ∧ (s.byteView (s.copyHand c) 3 j).alt = none ∧
    ∀ x ∈ (s.byteView (s.copyHand c) 3 j).sure, x.perf ≠ 0) ∧
  l = (upFrom k w).map (fun j => (s.byteView (s.copyHand c) 3 j).value none)
theorem sees_of {s : State} {c : Copy} {va : Reg64} {w : Nat} {l : List Byte} (k : Nat) (h : seesOf s c va w k l) : s.copySees c va w l :=
  ⟨k, h.imp_left reaches_of⟩

/-- An element and a block into a row-layout tile; a block of a plane row that is not whole yet, and the one that makes it whole. -/
theorem witness_copyPositions_in :
    (let c := commandOf .cpyIn 3 64 8 1 []
     let s := commanding c 6 7 false ((upFrom 1 16).map (BitVec.ofNat 8))
     moving s c ∧ c.code < 4 ∧ s.copySees c (recAddr c.shape (recBase c.shape c.srcOff) 1) 8 [9, 10, 11, 12, 13, 14, 15, 16]) ∧
    (let c := commandOf .cpyIn 4 0 36 0 []
     let s := commanding c 13 31 false block
     moving s c ∧ c.code = 4 ∧ s.copySees c (recAddr c.shape (recBase c.shape c.srcOff) 0) 36 block ∧
       (readBlock 8 32 block).isSome = true) ∧
    (let c := commandOf .cpyInp 4 0 0 0 []
     let s := commanding c 13 63 true block
     moving s c ∧ (s.tile 0 63).rowSlots = 2 ∧ (0 + 1) % 2 ≠ 0 ∧ s.copySees c (recAddr c.shape (recBase c.shape c.srcOff) 0) 36 block) ∧
    (let c := commandOf .cpyInp 4 0 0 1 block
     let s := commanding c 13 63 true block
     moving s c ∧ (1 + 1) % (s.tile 0 63).rowSlots = 0 ∧ [block, block].length = (s.tile 0 63).rowSlots ∧
       c.moved ++ block = [] ++ [block, block].flatten ∧
      s.copySees c (recAddr c.shape (recBase c.shape c.srcOff) 1) 36 block) := by
  and_intros <;> first
    | exact sees_of 0x1000_0100 (by decide +kernel)
    | exact sees_of 0x1000_0108 (by decide +kernel)
    | decide +kernel
/-- A byte of a declared fill; an element out of a row-layout tile, a block out of one and out of a plane row; and one from memory to
memory. -/
theorem witness_copyPositions_out :
    (let c := commandOf .fill 0 0 1 1 []
     let s := commanding c 4 15 false [1, 2]
     moving s c ∧ c.code = 0 ∧ s.copySees c (recAddr c.shape (recBase c.shape c.srcOff) 1) 1 [2]) ∧
    (let c := commandOf .cpyOut 2 0 4 1 []
     let s := commanding c 4 15 false [1, 2, 3, 4, 5, 6, 7, 8]
     let dst := recAddr c.shape (recBase c.shape c.dst) 1
     moving s c ∧ s.decodes ((s.tile 0 63).key 0 4) 4 ∧ dst.toNat % 4 = 0 ∧ dst.toNat % 4096 + 4 ≤ 4096 ∧
       s.copyReaches c true dst 0x1000_0104) ∧
    (let c := commandOf .cpyOut 4 0 36 0 []
     let s := commanding c 13 31 false block
     let dst := recAddr c.shape (recBase c.shape c.dst) 0
     moving s c ∧ s.decodes ((s.tile 0 63).key 0 0) 36 ∧ (readBlock 8 32 (s.mem.live.bytes ((s.tile 0 63).key 0 0) 36)).isSome = true ∧
      dst.toNat % 4 = 0 ∧ dst.toNat % 4096 + 36 ≤ 4096 ∧ s.copyReaches c true dst 0x1000_0100) ∧
    (let c := commandOf .cpyOut 4 0 36 1 []
     let s := commanding c 13 63 true (planeRow 8 [block, block])
     let t := s.tile 0 63
     let dst := recAddr c.shape (recBase c.shape c.dst) 1
     moving s c ∧ t.plane = true ∧ s.decodes (t.key 0 0) t.rowBytes ∧
      (readBlock 8 32 (planePacked (fun o => s.mem.live.get (t.key 0 o)) 8 64 1)).isSome = true ∧
      dst.toNat % 4 = 0 ∧ dst.toNat % 4096 + 36 ≤ 4096 ∧ s.copyReaches c true dst 0x1000_0124) ∧
    (let c := { commandOf .cpyMem 1 0 2 1 [] with dst := 0x1_0000_0200 }
     let s := commanding c 4 15 false [1, 2, 3, 4]
     let dst := c.dst + BitVec.ofNat 64 (1 * 2 ^ c.code)
     moving s c ∧ s.copySees c (recAddr c.shape (recBase c.shape c.srcOff) 1) 2 [3, 4] ∧ dst.toNat % 2 = 0 ∧
       s.copyReaches c true dst 0x1000_0202) := by
  and_intros <;> first
    | exact sees_of 0x1000_0101 (by decide +kernel)
    | exact sees_of 0x1000_0102 (by decide +kernel)
    | exact reaches_of (by decide +kernel)
    | decide +kernel
theorem witness_planeLayout : ∀ b ∈ [block, block], b.length = 4 + 4 * 8 := by decide +kernel

/-- mma of tiles 1 and 2 into slot 1. -/
def matrix (n : Nat) : State :=
  let s := slotted 7 (plane 1 2 127 (plane 2 2 127 base))
  (List.range n).foldl (fun s _ => s.issueJob (encodeWord (.mma ⟨1, 1, 2, 0, 0⟩)) (mmaOp (encodeWord (.mma ⟨1, 1, 2, 0, 0⟩))) none) s
def started : State := hand (fun h => { h with jobs := h.jobs.map (fun j => { j with started := true }) }) (matrix 1)
theorem witness_MatrixJobs :
    (∀ n ∈ [3, 4], let s := matrix n
     let o := mmaOp (encodeWord (.mma ⟨1, 1, 2, 0, 0⟩))
     (s.tile 0 o.ta).state = 2 ∧ (s.tile 0 o.tb).state = 2 ∧ (s.mmaChecks o).toOption = some () ∧ s.drains ∧
      s.commit.hand.jobs.length = n) ∧
    (let s := slotted 6 (plane 1 2 0 (plane 2 2 127 base))
     let o := mmaOp (encodeWord (.mmav ⟨1, 1, 2, 7, 0, 0⟩))
     (s.tile 0 o.ta).state = 2 ∧ (s.tile 0 o.tb).state = 2 ∧ (s.mmaChecks o).toOption = some () ∧ s.drains ∧ o.block = 7) ∧
    (∃ j l, (matrix 4).hand.jobs = j :: l ∧ (matrix 4).handOf 0 = some (matrix 4).hand ∧ j.started = false ∧
      (matrix 4).hand.status ≠ .saved ∧ j.follows = none ∧
      (∀ k ∈ (matrix 4).allHands, k.core = (matrix 4).hand.core → k.status ≠ .saved → ∀ r ∈ k.jobs, j.issued ≤ r.issued) ∧
      ((matrix 4).tile 0 j.ta).state = 2 ∧ ((matrix 4).tile 0 j.tb).state = 2 ∧ ((matrix 4).field (fieldOfCore 0)).throttle = false) ∧
    (∃ j, started.hand.jobs = [j] ∧ started.handOf 0 = some started.hand ∧ j.started = true ∧
      (mfind started.hand.handles j.handle).isSome = true ∧ started.mem.bad = [] ∧ started.mem.badHands = []) :=
  ⟨by decide +kernel, by decide +kernel, ⟨_, _, rfl, by decide +kernel⟩, ⟨_, rfl, by decide +kernel⟩⟩

/-- An exchange of two members of a task at the scope of the core, tiles 1 and 2 with one row for each; and both members' commands. -/
def exchanging : State :=
  let row (n st : Nat) (s : State) : State := s.modTile 0 n (fun t => { t with state := st, efmt := 4, rows := 1, cols := 15, base :=
    64 * n })
  x 2 0x1_0000_0100 (row 1 2 (row 2 0 (memory 0x1000_0100 [9, 0, 0, 0, 2, 0, 2, 0, 1, 0, 1, 0, 0, 0, 0, 0] base)))
def exchangers : State :=
  let t := exchanging.modTile 0 2 (fun t => { t with state := 1 })
  { t with xchgs := [⟨some 0, 1, 0, 2, 0, 9, 2, 0, 1, 1, 2, 0, 1, [], false, 0, 0, [], []⟩,
    ⟨some 1, 1, 0, 2, 0, 9, 2, 1, 1, 1, 2, 0, 0, [], false, 1, 0, [], []⟩] }
theorem witness_Exchanges :
    (let r := got (exchanging.engineSpan .exchange 6 (exchanging.hand.getX 2) 16) (base, [])
     exchanging.goes 0 ∧ exchanging.hand.full 2 ∧ exchanging.soundIn 7 ∧
       exchanging.engineSpan .exchange 6 (exchanging.hand.getX 2) 16 = .ok (r.1, r.2) ∧
     xchgDesc r.2 false = some (9, 2, 2, 1, 1) ∧ xchgTiles (r.1.tile 0 1) (r.1.tile 0 2) 1 2 2 1 = none ∧ (r.1.tile 0 1).state = 2 ∧
     (r.1.tile 0 2).state ≠ 2 ∧ (r.1.tile 0 2).state ≠ 3 ∧ r.1.drains) ∧
    (∃ x y, exchangers.xchgs[0]? = some x ∧ x.dead = false ∧ x.round < x.n ∧ (x.me + x.round) % x.n = 1 ∧
      exchangers.xchgs.findIdx? (fun y => y.task == x.task && y.scope == x.scope && y.unit == x.unit && y.xid == x.xid && y.me == 1 &&
        !y.landed.contains x.me) = some 1 ∧ exchangers.xchgs[1]? = some y ∧ y.dead = false ∧
      exchangers.xchgTable x = none ∧ exchangers.xchgTable y = none ∧
      (exchangers.tile 0 2).gen = y.gen ∧ x.brows * (exchangers.tile 0 1).rowBytes = y.brows * (exchangers.tile 0 2).rowBytes ∧
      (x.me + 1) * y.brows ≤ (exchangers.tile 0 2).rows + 1 ∧
      exchangers.badKey ((exchangers.tile 0 1).key 0 64) 64 = none ∧ Mem.wf exchangers.mem.live = true) :=
  by refine ⟨⟨?_, ?_, ?_, got_ok (base, []) (by decide +kernel), ?_⟩, ⟨_, _, rfl, ?_, ?_, ?_, ?_, rfl, ?_⟩⟩ <;> decide +kernel

end Sys2Proof.Tests
end

