-- ==== Sys2Proof/Tests/WitnessSummaries.lean ====
section
/-! SUPPORT. For each statement about summaries, the Dealer and seats: a concrete state and operands that meet the hypotheses of each
of its clauses, at the bounds of their ranges. -/

namespace Sys2Proof.Tests

set_option Elab.async false

open Sys2Proof Sys2Proof.Machine

/-! ## Summaries -/

theorem witness_SummariesForgetOrder : paramOk 1 0 = true ∧ paramOk 3 64 = true ∧
    ([⟨0x3F800000, 0, none⟩, ⟨0xBF800000, 1, none⟩] : List Input).Perm [⟨0xBF800000, 1, none⟩, ⟨0x3F800000, 0, none⟩] :=
  ⟨by decide +kernel, by decide +kernel, .swap _ _ _⟩

/-- A slot of type `t` under handle 31; a second one under handle 30. -/
def slot31 (x : Slot) (s : State) : State := hand (fun h => { h with handles := mins h.handles 31 x }) s
def slot30 (x : Slot) (s : State) : State := hand (fun h => { h with handles := mins h.handles 30 x }) s
/-- TILEACC under handle 1 leaves 1,024 granules less; the two of them leave none. -/
def crowded : State := slot30 (newSlot 7 0 0) (slotted 7 base)
/-- A record of the moments slot in memory at x1. -/
def stored : State := x 1 0x1_0000_0200 (memory 0x1000_0200 (newSlot 1 0 7).serialise base)

theorem witness_slotManagement :
    (let s := x 1 7 base
     s.ready 0 [1, 2] ∧ (declared (s.hand.getX 1) (s.hand.getX 2)).toOption = some (7, 0, 0) ∧ mfind s.hand.handles 31 = none ∧
     typeGranules 7 ≤ 2048 - s.hand.granulesUsed) ∧
    (let s := x 1 7 crowded
     (declared (s.hand.getX 1) (s.hand.getX 2)).toOption = some (7, 0, 0) ∧ mfind s.hand.handles 31 = none ∧
     2048 - s.hand.granulesUsed < typeGranules 7) ∧
    ((mfind (x 1 7 crowded).hand.handles 30).isSome = true) ∧
    (let s := slot31 (newSlot 1 0 7) base
     s.goes 0 ∧ mfind s.hand.handles 31 = some (newSlot 1 0 7) ∧ s.hand.noJobs 31 ∧ s.soundIn 4 ∧ s.drains ∧ rising s.hand.handles = true ∧
     mfind s.hand.handles 30 = none) ∧
    (let s := slot30 (newSlot 1 0 7) (slot31 (newSlot 1 0 7) base)
     s.goes 0 ∧ s.hand.noJobs 30 ∧ s.hand.noJobs 31 ∧ s.hand.full 31 ∧ s.soundIn 4 ∧ s.drains ∧
       mfind s.hand.handles 30 = some (newSlot 1 0 7) ∧
     mfind s.hand.handles 31 = some (newSlot 1 0 7) ∧ (newSlot 1 0 7).descriptor = (newSlot 1 0 7).descriptor ∧
     (newSlot 1 0 7).descriptor ≠ (newSlot 1 0 8).descriptor) ∧
    (stored.ready 0 [1] ∧ (stored.hand.getX 1).toNat % 16 = 0 ∧
      stored.record' (stored.hand.getX 1) = .ok (stored, newSlot 1 0 7) ∧
      stored.hand = { stored.hand with strip := { stored.hand.strip with drawn := stored.hand.strip.drawn } } ∧ stored.drains ∧
      mfind stored.hand.handles 31 = none ∧ typeGranules 1 ≤ 2048 - stored.hand.granulesUsed) ∧
    (mfind (slot31 (newSlot 1 0 7) stored).hand.handles 31 = some (newSlot 1 0 7)) :=
  by refine ⟨?_, ?_, ?_, ?_, ?_, ⟨?_, ?_, ok_of (by decide +kernel), ?_⟩, ?_⟩ <;> decide +kernel
theorem witness_slotRecords : (let s := protect (slot31 (newSlot 1 0 7) stored)
     s.ready 0 [1] ∧ mfind s.hand.handles 31 = some (newSlot 1 0 7) ∧ s.hand.noJobs 31 ∧ s.soundIn 4 ∧ (s.hand.getX 1).toNat % 16 = 0 ∧
     (s.hand.getX 1).toNat % 4096 + (newSlot 1 0 7).serialise.length ≤ 4096 ∧ s.plainAt true (s.hand.getX 1) 0x1000_0200 ∧
     s.buffers (newSlot 1 0 7).serialise.length [0x1000_0200]) ∧
    ((x 1 8 base).ready 0 [1] ∧ ((x 1 8 base).hand.getX 1).toNat % 16 ≠ 0) :=
  by refine ⟨⟨?_, ?_, ?_, ?_, ?_, ?_, plain_of (by decide +kernel), ?_⟩, ?_⟩ <;> decide +kernel
theorem witness_SlotsAndRecords : stored.ready 0 [1] ∧ (x 1 8 base).ready 0 [1] := by decide +kernel

/-- Elements below a slot's cell count, and one at it. -/
theorem witness_SlotUpdates :
    (∀ t ∈ [3, 4, 5, 6, 7], mfind (slot31 (newSlot t 64 0) vecs).hand.handles 31 = some (newSlot t 64 0) ∧
      (slot31 (newSlot t 64 0) vecs).hand.noJobs 31 ∧ (slot31 (newSlot t 64 0) vecs).drains ∧ (slot31 (newSlot t 64 0) vecs).soundIn 4 ∧
        (newSlot t 64 0).typ = t) ∧
    vecs.hand.chains 2 vecs.hand.grpN 0 ∧
    vecs.groupA (.supdTopk ⟨0, 31, 1, 0, 0, 0, 0⟩) 1 0 ∧ vecs.groupA (.supdQh ⟨0, 31, 1, 2, 0, 0, 0⟩) 1 0 ∧
    vecs.groupA (.supdCms ⟨0, 31, 1, 2, 0, 0, 0⟩) 1 0 ∧ vecs.groupA (.supdVacc ⟨0, 31, 1, 0, 0, 0, 0⟩) 1 0 ∧
    vecs.groupA (.supdVaccm ⟨0, 31, 1, 2, 0, 0, 0⟩) 1 0 ∧
    (∀ e ∈ (v 2 [cellCount 6 - 1, 0] vecs).hand.actives 0, (v 2 [cellCount 6 - 1, 0] vecs).hand.elem 2 e < cellCount 6) ∧
    (newSlot 1 0 0).typ = 1 ∧ (newSlot 2 64 0).typ = 2 ∧ vecs.groupA (.supdMom ⟨0, 31, 1, 0, 0⟩) 1 0 ∧
    vecs.groupA (.supdRes ⟨0, 31, 1, 0, 0⟩) 1 0 := by decide +kernel
theorem witness_SlotUpdates_beyond :
    (let s := v 2 [cellCount 6 - 1, cellCount 6] vecs
     s.groupA (.supdVacc ⟨0, 31, 1, 2, 0, 0, 0⟩) 1 0 ∧ (2 : Fld5) ≠ 0 ∧ s.hand.actives 0 = [0] ++ 1 :: [] ∧
     (∀ k ∈ [0], s.hand.elem 2 k < cellCount 6) ∧ cellCount 6 ≤ s.hand.elem 2 1) := by decide +kernel
theorem witness_SlotQueries :
    (∀ t ∈ [1, 2, 3, 4, 5, 6, 7], let s := slot31 (newSlot t 64 0) vecs
     s.goes 0 ∧ mfind s.hand.handles 31 = some (newSlot t 64 0) ∧ s.hand.noJobs 31 ∧ s.soundIn 4 ∧ s.hand.full 3 ∧ Mem.wf s.hand.v = true ∧
     s.hand.csr.vl ≠ 0 ∧ s.hand.csr.sew = 2 ∧ (newSlot t 64 0).typ = t) ∧
    (8 : Fld5).toNat ≤ 8 ∧ (2 : Fld5).toNat ≤ 2 ∧ 8 < (9 : Fld5).toNat ∧
    ((x 2 0x3F80_0000 base).hand.getX 2).toNat % 2 ^ 32 ≤ 0x3F80_0000 ∧ ((x 2 0x8000_0000 base).hand.getX 2).toNat % 2 ^ 32 = 0x8000_0000 ∧
    0x3F80_0000 < ((x 2 0x3F80_0001 base).hand.getX 2).toNat % 2 ^ 32 ∧
    ((x 2 0x3F80_0001 base).hand.getX 2).toNat % 2 ^ 32 ≠ 0x8000_0000 ∧
    (encFault (.sqCms ⟨3, 31, 2, 0, 0⟩) vecs.hand = none ∧ vecs.soundIn 5 ∧
      vecs.hand.chains 2 vecs.hand.grpN 0) ∧
    (encFault (.sqVacc ⟨3, 31, 2, 0, 0⟩) vecs.hand = none ∧
      ((x 2 (BitVec.ofNat 64 (cellCount 6 - 2)) vecs).hand.getX 2).toNat + vecs.hand.csr.vl ≤ cellCount 6) ∧
    (let s := protect (slot31 (newSlot 7 0 0) (base.modTile 0 31 (fun t => { t with state := 2, efmt := 4, rows := 127, cols := 127 })))
     let tl := s.tile 0 31
     tl.plane = false ∧ tl.efmt = 4 ∧ tl.rows = 127 ∧ tl.cols = 127 ∧ s.soundIn 7 ∧ (tl.state = 0 ∨ tl.state = 2) ∧
       s.hand.strip.prot = true ∧
      s.hand.strip.ssb = []) := by decide +kernel
/-- No number; a zero, a number and a NaN; an infinity; both. -/
theorem witness_momentsLaw :
    let nums (l : List Input) := l.filterMap (fun i => if (f32.value i.bits).isNan then none
      else some (if i.bits = 0x8000_0000 then 0 else i.bits))
    let pos (l : List Input) := (nums l).count 0x7F80_0000
    let neg (l : List Input) := (nums l).count 0xFF80_0000
    let i (b : Nat) : Input := ⟨b, 0, none⟩
    (∀ l ∈ [[i 0x7FC0_0000], [i 0x8000_0000, i 0x3F80_0000, i 0x7FA0_0000], [i 0x7F80_0000], [i 0x7F80_0000, i 0xFF80_0000]],
      l.length < 2 ^ 32 ∧ ∀ j ∈ l, j.bits < 2 ^ 32) ∧
    nums [i 0x7FC0_0000] = [] ∧ nums [i 0x8000_0000, i 0x3F80_0000, i 0x7FA0_0000] = [0, 0x3F80_0000] ∧
    pos [i 0x8000_0000, i 0x3F80_0000, i 0x7FA0_0000] + neg [i 0x8000_0000, i 0x3F80_0000, i 0x7FA0_0000] = 0 ∧
    (pos [i 0x7F80_0000] = 1 ∧ neg [i 0x7F80_0000] = 0) ∧ (pos [i 0x7F80_0000, i 0xFF80_0000] = 1 ∧
      neg [i 0x7F80_0000, i 0xFF80_0000] = 1) := by
  decide +kernel
/-- q = 1 of a slot without counts; and of one with a count of 1 for each of 1.0 and −1.0, which 2 reaches and 1 does not. -/
theorem witness_quantileLaw : (0x3F80_0000 ≤ 0x3F80_0000 ∧ (0x8000_0000 : Nat) = 0x8000_0000) ∧
    (∀ j ∈ [(⟨0x3F80_0000, 1, none⟩ : Input), ⟨0xBF80_0000, 1, none⟩], j.bits < 2 ^ 32 ∧ j.arg < 2 ^ 32) ∧
    (∀ j ∈ [(⟨0x3F80_0000, 1, none⟩ : Input), ⟨0xBF80_0000, 1, none⟩], (f32.value j.bits).isNan = false ∧ keyOf j.bits / 2 ^ 20 < 4096) ∧
    f32.value 0x3F80_0000 = .fin false (2 ^ 23) (-((23 : Nat) : Int)) ∧
    (∀ m (e : Nat), f32.value 0x3F80_0000 = .fin false m (-(e : Int)) → m * 2 ≤ 2 * 2 ^ e ∧ ¬ m * 2 ≤ 1 * 2 ^ e) := by
  refine ⟨by decide, by decide, by decide +kernel, by decide +kernel, fun m e h => ?_⟩
  rw [show f32.value 0x3F80_0000 = .fin false (2 ^ 23) (-((23 : Nat) : Int)) by decide +kernel] at h
  injection h with _ hm he
  subst hm
  have : e = 23 := by omega
  subst this
  decide
theorem witness_estimateLaw : ∀ i ∈ [(⟨7, 2 ^ 32 - 1, none⟩ : Input), ⟨7, 1, none⟩], i.arg < 2 ^ 32 := by decide

/-! ## The Dealer -/

/-- An image of zeros bound to dimension 63. -/
def dealt (s : State) : State := hand (fun h => { h with bound := 1 <<< 63 }) s
theorem witness_DealerDraws :
    (let s := x 1 63 (dealt (v 2 [0xFFFFFFFF, 0] vecs))
     s.hand.full 1 ∧ s.hand.chains 2 s.hand.grpN 0 ∧ s.soundIn 5 ∧ s.hand.pReady 31 = true ∧ Mem.wf s.hand.v = true ∧
     encFault (.qdeal ⟨0, 3, 1, 2, 0, 0, 0⟩) s.hand = none ∧ encFault (.qdealf ⟨0, 3, 1, 0, 0, 0, 0⟩) s.hand = none ∧
     (s.hand.getX 1).toNat < 64 ∧ s.hand.bound.getLsbD (s.hand.getX 1).toNat = true ∧ (∀ e ∈ s.hand.actives 0, s.hand.elem 2 e < 2 ^ 32) ∧
     s.hand.actives 0 ≠ []) ∧
    64 ≤ ((x 1 64 vecs).hand.getX 1).toNat ∧ (x 1 63 vecs).hand.bound.getLsbD 63 = false ∧
    (let s := x 1 63 (x 2 0x1_0000_0100 base)
     let r := got (s.commit.recRead (s.hand.getX 2) 0 256) (base, [])
     s.hand.full 1 ∧ s.hand.full 2 ∧ s.drains ∧ (s.hand.getX 1).toNat < 64 ∧ (s.hand.getX 2).toNat % 64 = 0 ∧
     s.commit.recRead (s.hand.getX 2) 0 256 = .ok (r.1, r.2) ∧ imageFault r.2 = none ∧ rising r.1.hand.dealer = true) ∧
    (let s := x 1 63 (x 2 0xFFFFFFFF (dealt base))
     rising s.hand.dealer = true ∧ (s.hand.getX 1).toNat < 64 ∧ (s.hand.getX 2).toNat < 2 ^ 32 ∧
     s.hand.bound.getLsbD (s.hand.getX 1).toNat = true) :=
  by refine ⟨?_, ?_, ?_, ⟨?_, ?_, ?_, ?_, ?_, got_pair (base, []) (by decide +kernel), ?_⟩, ?_⟩ <;> decide +kernel

/-! ## Seats -/

/-- Object 24,575, which ASID 1 owns: the hand's seats 0 and 1, the first in a state. -/
def seated (st : Nat) (s : State) : State :=
  x 1 0xBFFE0000 (x 2 0xBFFE0001 { s with seats := [(24575, ⟨1, 2, [⟨0, st, some 0, none, none⟩, ⟨1, 0, some 0, none, none⟩]⟩)] })
/-- A second hand of the task, with an inbox. -/
def second (n : Nat) (s : State) : State :=
  { s with others := [{ s.hand with id := 1, slot := 1, member := 1, inbox := List.replicate n 0 }] }
/-- A phase end that the hand's earlier accesses hold up. -/
def unquiet (s : State) : State := hand (fun h => { h with producers := [⟨.vector 8 1, some 0, none, [], false, []⟩] }) s
theorem witness_Seats :
    (let s := x 1 24575 { base with seats := [(24575, ⟨1, 0, []⟩)] }
     s.ready 0 [1, 31] ∧ s.drains ∧ s.noDudel ∧ s.me.side = .single ∧ (s.hand.getX 1).toNat < 24576 ∧
     s.seatObj (s.hand.getX 1).toNat = ⟨1, 0, []⟩ ∧ (1 : BitVec 16) = s.hand.asid ∧ s.seatsUsed (24575 / 4096) < 65536) ∧
    (∀ st ∈ [0, 1, 2], let s := seated st base
     s.ready 0 [1] ∧ s.drains ∧ s.noDudel ∧ s.hand.unasked ∧
       s.ownsSeat (s.hand.getX 1) 24575 (s.seatObj 24575) ⟨0, st, some 0, none, none⟩) ∧
    (let quiet (s : State) : Bool := s.commit.hand.classQuiet 0 && s.commit.hand.classQuiet 1 && s.commit.hand.classQuiet 2
     quiet (seated 1 base) = true ∧ quiet (unquiet (seated 1 base)) = false) ∧
    (let s := x 1 0xBFFEFFFF (seated 1 base)
     s.ready 0 [1] ∧ seatName (s.hand.getX 1) = some (24575, 0xFFFF) ∧ (s.seatObj 24575).asid = s.hand.asid ∧
     (s.seatObj 24575).find 0xFFFF = none) ∧
    (let s := x 2 1 (second 15 (seated 1 base))
     s.ready 0 [1, 2] ∧ s.hand.status ≠ .none ∧ (s.commit.handOf (s.hand.getX 2).toNat).any (fun k => k.living && k.asid == s.hand.asid &&
       decide (k.inbox.length < 16)) = true) ∧
    (let s := seated 0 base
     ∃ q r, s.ownsSeat (s.hand.getX 1) 24575 (s.seatObj 24575) q ∧ q.state ≠ 1 ∧ seatName (s.hand.getX 2) = some (24575, 1) ∧
      (s.seatObj 24575).find 1 = some r ∧ (s.seatObj 24575).queue.findIdx (fun z => z.number == q.number) <
        (s.seatObj 24575).queue.findIdx (fun z => z.number == r.number)) ∧
    (let s := hand (fun h => { h with inbox := [0xBFFE0001] }) base
     s.ready 0 [31] ∧ s.hand.unasked ∧ s.hand.inbox = 0xBFFE0001 :: []) ∧ base.hand.inbox = [] ∧
    (∀ st ∈ [0, 1], rising (seated st base).seats = true ∧ (seated st base).hand.status ≠ .retired ∧
      (((seated st base).seatObj 24575).find 0).map (·.state) = some st ∧ ((seated st base).seatObj 24575).find 2 = none) ∧
    ((seated 1 base).seatObj 24575).find 1 ≠ none ∧ (base.seatObj 24575).asid ≠ base.hand.asid ∧
    seatName 0xBFFE0001 = some (24575, 1) ∧ seatName 0xC0000000 = none ∧ seatName 0x1_0000_0000 = none := by
  refine ⟨?_, ?_, ?_, ?_, ?_, ⟨⟨0, 0, some 0, none, none⟩, ⟨1, 0, some 0, none, none⟩, ?_⟩, ?_⟩ <;> decide +kernel

end Sys2Proof.Tests
end

