-- ==== Sys2Proof/Tests/WitnessSystem.lean ====
section
/-! SUPPORT. For each statement about the SYS instructions, exceptions and rewinds: a concrete state and operands that meet the
hypotheses of each of its clauses, at the bounds of their ranges. -/

namespace Sys2Proof.Tests

set_option Elab.async false

open Sys2Proof Sys2Proof.Machine

/-- Changing the CSRs. -/
def csr (f : Csrs → Csrs) (s : State) : State := hand (fun h => { h with csr := f h.csr }) s
/-- In handler mode, to return to an address. -/
def handler (status tpc : Reg64) (s : State) : State := csr (fun c => { c with tstatus := status, tpc := tpc }) s

/-- VL reads; CYC; a number of no CSR; FPCR written; a reserved value. -/
theorem witness_csrAccesses : (x 5 3 base).ready 0 [5] ∧ base.drains ∧
    (csrNum ⟨5, 0, 17, 0⟩ = 0x011 ∧ flagCsr (csrNum ⟨5, 0, 17, 0⟩) = true ∧ base.hand.flagsQuiet = true) ∧
    (csrNum ⟨5, 0, 0, 0⟩ ≠ 0x023 ∧ csrNum ⟨5, 0, 0, 0⟩ ≠ 0x071 ∧ (base.commit.readCsr (csrNum ⟨5, 0, 0, 0⟩)).isSome = true) ∧
    csrNum ⟨5, 1, 3, 0⟩ = 0x023 ∧ base.commit.readCsr (csrNum ⟨5, 31, 31, 0⟩) = none ∧
    ((base.commit.hand.csr.write 0x010 3).isSome = true ∧ (base.commit.readCsr 0x010).isSome = true) ∧
    base.commit.hand.csr.write 0x002 5 = none ∧
    (csrNum ⟨5, 3, 17, 0⟩ = 0x071 ∧ (base.commit.readCsr 0x071).isSome = true ∧
      (base.commit.hand.csr.write 0x071 0x401).isSome = true) := by
  decide +kernel
/-- A frame of one vadd whose rep stands at the PC, its count in x1. -/
noncomputable def repAt (n : Reg64) : State :=
  x 1 n (at2 (encodeWord (.rep ⟨0, 1, 0, 0, 0, 0⟩)).toNat (encodeWord (.vadd ⟨0, 3, 1, 2, 0, 0, 0⟩)).toNat)
theorem witness_returns : base.goes 0 ∧ base.drains ∧ base.commit.hand.csr.hm = false ∧
    ((handler 1 2 base).commit.hand.csr.hm = true ∧ (handler 1 2 base).commit.hand.csr.tpc.toNat % 4 ≠ 0) ∧
    ((handler 5 4 base).commit.hand.csr.hm = true ∧ (handler 5 4 base).commit.hand.csr.tpc.toNat % 4 = 0 ∧
      (handler 5 4 base).commit.hand.csr.tstatus.getLsbD 1 = false) ∧
    (let c := (handler 3 0x1_0000_0000 (repAt 65535)).commit
     c.hand.csr.tstatus.getLsbD 1 = true ∧ c.hand.csr.hm = true ∧ c.hand.csr.tpc.toNat % 4 = 0 ∧
     (c.resumeFrame c.hand.csr.tpc Hand.leaveHandler).toOption.isSome = true) := by decide +kernel
/-- A pool with a ready node for which the field's limit has room only once the hand's own node has gone. -/
def wanted : State :=
  let r (est : Nat) : NodeRec := ⟨0, 7, 1, 1, 0, 1, [], 0, 0x1_0000_0000, List.replicate 8 0, 0, est, 1, 0, []⟩
  { base.modField 0 (fun f => { f with fdraw := 800000 }) with
    pool := { base.pool with nodes := [⟨1, 0, 1, r 400000, 1, false, false, [], 0, .running, [0], [], 1, 0, 0, false, [], false, false⟩,
      ⟨2, 0, 2, r 400000, 1, false, false, [], 0, .ready, [], [], 0, 0, 0, false, [], false, false⟩] } }
/-- A held store for which its field has no heel, its stacks being offline; a hand whose watchpoint has matched. -/
def heelless : State := hand (fun h => { h with strip := { h.strip with ssb := [⟨0x1000_0000, 5, 0, true, none, 0, []⟩] } })
  (base.modField (homeField 0x1000_0000) (fun f => { f with stk := 0 }))
def matched (s : State) : State :=
  hand (fun h => { h with sched := { h.sched with watches := [(3, ⟨0x100, 64, true, false, some (0x13F, 0, 1023)⟩)] } }) s
theorem witness_endings : (base.goes 0 ∧ base.drains ∧ base.noDudel ∧ base.hand.watched = false) ∧
    ((matched base).hand.sched.skipStop = false ∧ (matched base).hand.watched = true) ∧ (empty [5] base).commit.allDone = false ∧
    (let t := got (base.commit.performAllHeld base.commit.hand) base
     base.commit.allDone = true ∧ base.commit.performAllHeld base.commit.hand = .ok t ∧ srecEn t.hand.csr.srecctl = false) ∧
    (heelless.commit.allDone = true ∧ (heelless.commit.performAllHeld heelless.commit.hand).toOption.isSome = false) ∧
    (base.hand.unasked ∧ base.commit.powerWanted = false) ∧ (wanted.hand.unasked ∧ wanted.commit.powerWanted = true) := by
  refine ⟨?_, ?_, ?_, ⟨?_, got_ok base ?_, ?_⟩, ?_⟩ <;> decide +kernel
/-- The last hand of a core, and one beside another. -/
theorem witness_retirement : ∀ s ∈ [base, { base with others := [{ base.hand with id := 1, slot := 1 }] }],
    s.hand.status ≠ .none ∧ s.hand.status ≠ .retired ∧ s.hand.status ≠ .saved ∧ s.noDudel ∧ rising s.serials = true ∧
      rising s.cores = true ∧
    s.hand.slot < 4 ∧ (∀ k ∈ s.others, k.runsIn s.hand.core s.hand.slot = false ∧ (k.living = true →
      k.id ≠ 4 * s.hand.core + s.hand.slot)) := by
  decide +kernel

/-- One valid node record at x1. -/
def nodeBytes : List Byte := [0, 1, 0, 7, 1, 1, 0, 0, 1, 0, 0, 0, 0, 0, 0, 0] ++ leBytes 8 0x1_0000_0000 ++ List.replicate 232 0
def spawner : State := x 1 0x1_0000_0200 (x 2 1 (memory 0x1000_0200 nodeBytes base))
noncomputable def spawned : State := after (exec (.spawn ⟨3, 1, 2, 0, 0, 0⟩) spawner)
noncomputable def graph : Graph := (spawned.pool.graphs.head?).getD ⟨0, .queue 0, 0, false, false, [], 0, 0, [], none⟩
/-- The stacks of memory's field still coming up (R412). -/
def comingUp (s : State) : State := s.modField (homeField 0x1000_0200) (fun f => { f with state := 3 })
theorem witness_spawning : spawner.ready 0 [1, 2, 3] ∧ spawner.drains ∧ spawner.commit.me.side = .single ∧
    (spawner.commit.performAllHeld spawner.commit.hand).toOption.isSome = true ∧
    ({ spawner with tasks := spawner.tasks.map (fun t => { t with side := .a }) } : State).commit.me.side ≠ .single ∧
    (spawned.poolUp = true ∧ spawned.pool.graphs.find? (fun g => g.subno == 1) = some graph ∧ graph.origin = .spawn 0 ∧
      graph.status = none ∧ 0 < graph.count ∧ graph.count ≤ Config.poolEntries) ∧
    (∃ t ns, spawned.readGraph graph = (t, some (.ok ns)) ∧ t.poolRoom ns.length = true) ∧
    (∃ t j st, spawned.readGraph { graph with count := 2 } = (t, some (.error (j, st)))) ∧
    (∃ t, (comingUp spawned).readGraph graph = (t, none)) ∧
    (spawned.hand.producers.filter (fun p => p.spawn == some 1) = [⟨.scalar 3, none, some 1, [], false, []⟩]) := by
  refine ⟨?_, ?_, ?_, ?_, ?_, ?_, ⟨_, _, answer_ok [] (by decide +kernel), ?_⟩, answer_error (by decide +kernel),
    ⟨_, answer_none (by decide +kernel)⟩, ?_⟩ <;> decide +kernel

/-- A frame whose word may stand in it, its count zero, the greatest, too great; one whose word may not. -/
noncomputable def checked (s : State) : State × List Word × Option Word := got (s.frameCheck s.hand.pc 1) (s, [], none)
abbrev frames (s : State) (w : Option Word) : Prop :=
  (s.frameCheck s.hand.pc 1).toOption.isSome = true ∧ (checked s).2.2 = w ∧ (checked s).1.hand.spawnless
/-- A loop, in its first or its last iteration, that ends with the frame's member or beyond it. -/
noncomputable def looped (s : State) (index beyond : Reg64) : State :=
  hand (fun h => { h with loops := [⟨h.pc - 4, h.pc + 4 + beyond, 2, index⟩] }) s
theorem witness_repeats_loops : ∀ i ∈ [0, 1], ∀ b ∈ [0, 4], let s := looped (repAt 0) i b
    let t := (checked s).1
    frames s none ∧ t.hand.full 1 ∧ t.hand.getX 1 = 0 ∧ ∃ e, t.hand.loops = [e] ∧ ((e.index + 1).toNat < e.count.toNat ↔ i = 0) ∧
      (t.hand.pc.toNat ≤ e.stop.toNat ∧ e.stop.toNat < (t.hand.pc + BitVec.ofNat 64 (4 * (1 + 1))).toNat ↔ b = 0) := by
  intro i hi b hb
  simp only [List.mem_cons, List.not_mem_nil, or_false] at hi hb
  rcases hi with rfl | rfl <;> rcases hb with rfl | rfl <;> exact ⟨by decide +kernel, by decide +kernel, by decide +kernel, _, rfl,
    by decide +kernel⟩
theorem witness_repeats :
    (frames (repAt 0) none ∧ (checked (repAt 0)).1.hand.full 1 ∧ (checked (repAt 0)).1.hand.getX 1 = 0 ∧
      (checked (repAt 0)).1.hand.loops = []) ∧
    (frames (repAt 65535) none ∧ (checked (repAt 65535)).1.hand.full 1 ∧ (checked (repAt 65535)).1.hand.getX 1 = 65535) ∧
    (frames (repAt 65536) none ∧ (checked (repAt 65536)).1.hand.full 1 ∧ (checked (repAt 65536)).1.hand.getX 1 = 65536) ∧
    frames (at2 (encodeWord (.rep ⟨0, 1, 0, 0, 0, 0⟩)).toNat (encodeWord (.halt ⟨0⟩)).toNat) (some (encodeWord (.halt ⟨0⟩))) := by
  decide +kernel
theorem witness_SystemInstructions : (x 5 3 base).ready 0 [5] ∧ base.goes 0 ∧ base.drains ∧ spawner.ready 0 [1, 2, 3] := by
  decide +kernel

/-! ## Exceptions -/

def soft : Trap := Trap.mk' .softwareTrap 31
/-- A strip that is open, its checkpoint at the state. -/
noncomputable def opened (s : State) : State := after (exec (.vsetl ⟨4, 0, 2, 0, 0, 0⟩) s)
/-- The result of an earlier spawn outstanding; an EMPTY-READ that is due. -/
def spawning (s : State) : State := hand (fun h => { h with producers := [⟨.scalar 3, none, some 1, [], false, []⟩] }) s
def due (s : State) : State := hand (fun h => { h with sched := { h.sched with due := some (Trap.mk' .emptyRead 0) } }) s
/-- An engine's error that stands for the hand. -/
def failed (s : State) : State := hand (fun h => { h with sched := { h.sched with unrecoverable := some (Trap.mk' .uncorrectable 0) } }) s
theorem witness_TakingAnException : (soft.cause ≠ .uncorrectable ∧ soft.cause.toSystem = false) ∧
    (let s := csr (fun c => { c with tvec := 0x1_0000_0100 }) base
     s.hand.csr.tvec ≠ 0 ∧ s.hand.csr.hm = false ∧ (opened s).hand.csr.hm = false ∧ (opened s).hand.csr.tvec ≠ 0 ∧
     (opened s).hand.strip.prot = true) ∧
    (soft.cause = .gangAbort → base.hand.strip.prot = false) ∧
    ((hand (fun h => { h with convoy := some 4 }) base).hand.convoy.isSome = true ∧ base.hand.convoy = none ∧ base.hand.spawnless) ∧
    (let s := spawning base
     let once : List Cause := [.emptyRead, .gangAbort, .uncorrectable, .stripRetryExhausted]
     s.hand.convoy = none ∧ ¬ s.hand.spawnless ∧ soft.cause ∉ once ∧ ∀ c ∈ once, (Trap.mk' c 0).cause ∈ once) ∧
    (∀ s ∈ [failed base, failed (spawning base)], s.hand.sched.unrecoverable = some (Trap.mk' .uncorrectable 0) ∧ s.hand.tries = true) ∧
    (failed base).hand.spawnless ∧ ¬ (failed (spawning base)).hand.spawnless ∧
    (∀ s ∈ [due base, due (spawning base)], s.hand.sched.due = some (Trap.mk' .emptyRead 0) ∧ s.hand.sched.unrecoverable = none ∧
      s.hand.tries = true) ∧
    (due base).hand.spawnless ∧ ¬ (due (spawning base)).hand.spawnless ∧
    (let s := opened (csr (fun c => { c with tvec := 0x1_0000_0100 }) base)
     s.hand.strip.prot = true ∧ s.hand.strip.ckpt.isSome = true ∧ s.hand.csr.tvec ≠ 0 ∧ s.hand.csr.hm = false ∧ s.drains) ∧
    (Cause.watchdog.toSystem = true ∧ base.hand.csr.tvec = 0 ∧ (handler 1 0 base).hand.csr.hm = true) ∧
    (base.hand.strip.prot = false ∧ (opened base).hand.strip.prot = true ∧ (opened base).hand.strip.ckpt.isSome = true) ∧
    base.goes 0 ∧ base.drains := by decide +kernel

def uncorrectable : Trap := Trap.mk' .uncorrectable 0
def retries (n : Nat) (s : State) : State := hand (fun h => { h with strip := { h.strip with retries := n } }) s
def mismatch (maj : Bool) (s : State) : State := hand (fun h => { h with sched := { h.sched with mismatches := [(31, maj)] } }) s
theorem witness_StripRewinds : (opened base).hand.strip.ckpt.isSome = true ∧
    ((opened base).hand.strip.prot = true ∧ (∀ st ∈ [1, 6], ({ uncorrectable with struct := st } : Trap).retries = true) ∧
      (∀ st ∈ [7, 9], ({ uncorrectable with struct := st } : Trap).retries = false) ∧
      (∀ a ∈ [5, 10], ({ uncorrectable with struct := 1, access := a } : Trap).retries = false)) ∧
    ((retries 2 (opened base)).hand.strip.retries + 1 < 4 ∧ 4 ≤ (retries 3 (opened base)).hand.strip.retries + 1) ∧
    ((mismatch true (opened base)).hand.sched.mismatches = (31, true) :: [] ∧ (mismatch true (opened base)).hand.strip.prot = true ∧
      (mismatch true (opened base)).hand.strip.retries < 3) ∧
    ((opened base).commit.hand.strip.prot = false ∧ (mismatch true (opened base).commit).hand.strip.ckpt.isSome = true) := by
  decide +kernel

end Sys2Proof.Tests
end

