-- ==== Sys2Proof/Tests/WitnessHost.lean ====
section
/-! SUPPORT. For each statement about the pool, pre-emption, the control queue, the host, power, failures, bring-up, the pod and the
debugger: a concrete state and operands that meet the hypotheses of each of its clauses, at the bounds of their ranges. -/

namespace Sys2Proof.Tests

set_option Elab.async false

open Sys2Proof Sys2Proof.Machine

/-! ## The pool -/

/-- A queue that is enabled, with one record waiting, its rings in HBM4E at two addresses. -/
def rings (a b q : Nat) (s : State) : State :=
  { s with queues := mins s.queues q ⟨a, b, 4, true, 1, 0, 1, 0, 1, 0, 0, []⟩ }
def ring : Nat → State → State := rings 0x2000_0000 0x2100_0000
/-- The first byte of field 1, and the device with that field online too, which can hold the pool (R413). -/
def far : Nat := 2 * Config.stackBytes
def twoFields (s : State) : State :=
  { s.modField 1 (fun f => { f with state := 5, stk := 3 }) with mem := { s.mem with ticketInF1 := true } }
/-- A submission record at an address that names `n` nodes at another; its ring elsewhere in field 0, or in field 1. -/
def submittedAt (a n addr : Nat) (s : State) : State :=
  memory 0x1000_0200 nodeBytes (memory a (leBytes 8 addr ++ leBytes 2 n ++ leBytes 22 0) (rings a (a + 0x100_0000) 65 s))
def submitted : Nat → Nat → State → State := submittedAt 0x2000_0000
def recordOf (s : State) : List Byte := s.mem.pub.bytes (s.queue 65).recordSlot 32
def graph1 (s : State) : Graph := (graphOf (recordOf s) 65 (s.queue 65) 1).1
/-- The device once the pool has read the record. -/
def taken (s : State) : State :=
  ((s.uses (s.queue 65).recordSlot 32).nextSub.1).modQueue 65 (fun k => { k with accepted := k.accepted + 1, gang := [] })
/-- The record of a node: one hand on one core. -/
def oneHand (cls est : Nat) : NodeRec :=
  ⟨cls, 7, 1, 1, 4, 1, [], 0, 0x1_0000_0000, List.replicate 8 3, 0x1_0000_0800, est, 1, 0, []⟩
def node (n cls : Nat) (st : NodeState) : Node :=
  ⟨n, 0, n, oneHand cls 0, 1, true, false, [], 0, st, [], [], 0, 0, 0, false, [], false, false⟩
def pool (l : List Node) (s : State) : State := { s with pool := { s.pool with nodes := l } }

theorem witness_submission :
    (let s := submitted 1 0x1_0000_0200 base
     2 ≤ 65 ∧ 65 ≤ 65 ∧ s.poolUp = true ∧ s.boot = .running ∧ (s.queue 65).en = true ∧ (s.queue 65).accepted < (s.queue 65).tail ∧
     s.pool.graphs.any (fun g => g.ofQueue 65) = false ∧ (graphOf (recordOf s) 65 (s.queue 65) 1).2 = false ∧
     s.memUp (s.queue 65).recordSlot 32 = some true ∧ s.statusLater 65 = false ∧
     ∃ t ns, (taken s).readGraph (graph1 s) = (t, some (.ok ns))) ∧
    (let s := comingUp (twoFields (submittedAt far 1 0x1_0000_0200 base))
     s.poolUp = true ∧ s.memUp (s.queue 65).recordSlot 32 = some true ∧ s.statusLater 65 = false ∧
     ∃ t, (taken s).readGraph (graph1 s) = (t, none)) ∧
    ((let s := comingUp (twoFields (submitted 1 0x1_0000_0200 base))
      s.memUp (s.queue 65).recordSlot 32 = none ∧ s.poolUp = true) ∧
     (let s := rings 0x2000_0000 far 65 (submitted 1 0x1_0000_0200 base)
      s.memUp (s.queue 65).recordSlot 32 = some true ∧ s.statusLater 65 = true)) ∧
    (let s := submitted 0 0 base
     (graphOf (recordOf s) 65 (s.queue 65) 1).2 = true ∧ (s.queue 65).en = true) ∧
    (let s := submitted 2 0x1_0000_0200 base
     (graphOf (recordOf s) 65 (s.queue 65) 1).2 = false ∧ ∃ t j st, (taken s).readGraph (graph1 s) = (t, some (.error (j, st)))) ∧
    (Mem.wf (ring 65 base).mem.pub = true ∧ (ring 65 base).memUp ((ring 65 base).queue 65).statusSlot 16 = some true) ∧
    (let g : Graph := { graph1 (submitted 1 0x1_0000_0200 base) with nodes := [oneHand 0 0], status := some 0 }
     let s : State := { base with pool := { base.pool with graphs := [g] } }
     s.poolUp = true ∧ (serveOrder s.pool.lastQueue).findSome? (fun q => (s.pool.graphs.find? (fun g => g.ofQueue q && g.status.isSome &&
      s.poolRoom g.nodes.length && !s.statusLater q)).map (fun g => (q, g))) = some (65, g)) := by
  refine ⟨⟨?_, ?_, ?_, ?_, ?_, ?_, ?_, ?_, ?_, ?_, _, _, answer_ok [] (by decide +kernel)⟩, ⟨?_, ?_, ?_, _,
    answer_none (by decide +kernel)⟩,
    ?_, ?_, ⟨?_, answer_error (by decide +kernel)⟩, ?_, ?_⟩ <;> decide +kernel
theorem witness_dispatching : (let s := pool [node 1 1 .ready] base
     s.poolUp = true ∧ s.noDudel ∧ s.select = some (node 1 1 .ready, [0], []) ∧ (node 1 1 .ready).record.tiles = [] ∧
     (node 1 1 .ready).record.cls = 1) ∧
    (∀ m ∈ [node 1 1 .ready, node 1 0 .ready], ∀ cs, m.state ≠ .filling cs []) ∧
    (let s := pool [node 1 0 .ready] base
     s.select = some (node 1 0 .ready, [0], []) ∧ (node 1 0 .ready).record.cls = 0 ∧ (node 1 0 .ready).paired = false ∧
     (∀ c ∈ [0], (node 1 0 .ready).record.hands ≤ (s.freeSlots c).length) ∧ (node 1 0 .ready).record.xs.length = 8) := by
  refine ⟨by decide +kernel, ?_, by decide +kernel⟩
  intro m hm cs h
  simp only [List.mem_cons, List.not_mem_nil, or_false] at hm
  rcases hm with rfl | rfl
  · exact nomatch h
  · exact nomatch h
/-- A paired node that finds cores 0 to 3 of quad 0 for side A and those of quad 6 for side B. -/
def twoSided : State := pool [{ node 1 0 .ready with paired := true }] (twoFields base)
theorem witness_pairedDispatch : ∃ a b, twoSided.select = some ({ node 1 0 .ready with paired := true }, a, b) ∧ twoSided.poolUp = true ∧
    twoSided.noDudel ∧ (∀ c ∈ a ++ b, 1 ≤ (twoSided.freeSlots c).length) ∧ (∀ c ∈ a, c ∉ b) ∧
    (∀ k ∈ twoSided.tasks, k.id < twoSided.pool.taskSeq) ∧ a ≠ [] ∧ b ≠ [] :=
  ⟨(twoSided.select.map (·.2.1)).getD [], (twoSided.select.map (·.2.2)).getD [], by decide +kernel⟩
/-- A node with a declared tile and a completion word, which a stack that is coming up may hold back. -/
def declaring : Node := { node 1 0 .running with record := { oneHand 0 0 with tiles := [⟨tileWord, false, 63, 0⟩] }, cores := [0] }
theorem witness_nodeFailure : (comingUp (pool [declaring] base)).doneLater declaring = true ∧
    (let s := pool [declaring] base
     let before := ((s.emptyTiles declaring [0]).postEvent .watchdog (BitVec.ofNat 64 declaring.index) 0 0 declaring.taskid).nextDone.1
     let r := before.xlate (poolAgent declaring.asid declaring.sys) (.record true) declaring.record.done
     s.doneLater declaring = false ∧ (s.queue 1).en = false ∧ declaring.record.done ≠ 0 ∧ declaring.record.done % 8 = 0 ∧
     r = .ok ((got r (base, .plain 0 true)).1, .plain 0x1000_0800 false) ∧ Mem.wf (got r (base, .plain 0 true)).1.mem.pub = true ∧
     rising s.cores = true ∧ ∀ k ∈ s.cores, rising k.2.tiles = true) := by
  refine ⟨?_, ?_, ?_, ?_, ?_, (got_ok (base, .plain 0 true) (by decide +kernel)).trans (congrArg Except.ok (Prod.ext rfl ?_)), ?_, ?_,
    ?_⟩ <;>
    decide +kernel
/-- A fill of tile 63 of core 0 for node 1. -/
def fillCopy (st : Option Byte) : Copy := ⟨fillHand 0, 63, .fill, 0, 0, 1, 63, 1, [0, 0, 1, 1, 1, 4, 0, 0, 2, 0, 0, 0], 0, 0, false, 1, [],
  st, 0, [], [], [], none⟩
def filler (st : Option Byte) : State := { pool [node 1 0 (.filling [0] [(0, 63)])] base with copies := [fillCopy st] }
theorem witness_fills : ∀ st ∈ [none, some (0x10 : Byte)], (filler st).copyOf (fillHand 0) 63 = some (fillCopy st) ∧
    ((filler st).dropCopy (fillCopy st)).copyOf (fillHand 0) 63 = none ∧
    ((filler st).dropCopy (fillCopy st)).doneLater (node 1 0 (.filling [0] [(0, 63)])) = false ∧
    (filler st).pool.nodes.find? (fun n => match n.state with
      | .filling _ l => l.contains (0, 63)
      | _ => false) = some (node 1 0 (.filling [0] [(0, 63)])) ∧ (fillCopy none).status = none ∧
    (fillCopy st).vol ≤ (fillCopy st).pos ∧ (fillCopy (some 0x10)).status = some 0x10 := by decide +kernel
/-- The task's hand has retired. -/
def retired (s : State) : State := hand (fun h => { h with status := .retired }) s
def ran (n : Node) : Node := { n with state := .running, cores := [0], task := 1 }
theorem witness_completion :
    (let s := retired (pool [ran (node 1 0 .running), node 2 0 .waiting] base)
     s.nodeOf 1 = some (ran (node 1 0 .running)) ∧ (ran (node 1 0 .running)).state = .running ∧ (node 1 0 .running).record.cls = 0 ∧
     (node 1 0 .running).paired = false ∧ s.taskOver 1 = true ∧ s.doneLater (ran (node 1 0 .running)) = false ∧
     (s.taskOf 1).isSome = true) ∧
    (let s := pool [node 1 0 .done] base
     s.nodeOf 1 = some (node 1 0 .done) ∧ (node 1 0 .done).preds = 0 ∧ s.doneLater (node 1 0 .done) = false) ∧
    (let s := comingUp (pool [node 1 0 .done] base)
     s.nodeOf 1 = some (node 1 0 .done) ∧ s.doneLater (node 1 0 .done) = true) ∧
    (∀ tile ∈ [false, true], let w : Wr := ⟨0x1000_0000, 5, 0, 0, 0x1000_0000, 1, 1, [], [], 1, 0, tile⟩
     Mem.wf base.mem.pub = true ∧ survivor ([w].filter (fun w => w.key == 0x1000_0000 && w.perf != 0)) = some w ∧
     (∃ v ∈ [w], v.key = 0x1000_0000 ∧ v.perf ≠ 0 ∧ v.tile = tile)) ∧
    (let n := node 1 0 .running
     let s := pool [n] base
     n.record.done ≠ 0 ∧ n.record.done % 8 = 0 ∧ (s.nextDone.1).xlate (poolAgent n.asid n.sys) (.record true) n.record.done =
      .ok ((got ((s.nextDone.1).xlate (poolAgent n.asid n.sys) (.record true) n.record.done) (base, .plain 0 true)).1,
        .plain 0x1000_0800 false) ∧
     (got ((s.nextDone.1).xlate (poolAgent n.asid n.sys) (.record true) n.record.done) (base, .plain 0 true)).1.mem = s.mem) :=
  by refine ⟨?_, ?_, ?_, ?_, ?_, ?_, (got_ok (base, .plain 0 true) (by decide +kernel)).trans (congrArg Except.ok (Prod.ext rfl ?_)),
    ?_⟩ <;>
    decide +kernel
/-- A number that is neither of two. -/
theorem other (a b : Reg64) : ∃ v, v ≠ a ∧ v ≠ b := by
  by_cases h0 : (0 : Reg64) ≠ a ∧ (0 : Reg64) ≠ b
  · exact ⟨0, h0⟩
  by_cases h1 : (1 : Reg64) ≠ a ∧ (1 : Reg64) ≠ b
  · exact ⟨1, h1⟩
  · exact ⟨2, by bv_omega, by bv_omega⟩
/-- The thread of a node of system class without a completion word, which stands where it has returned to, or elsewhere. -/
def silent : Node := { node 1 1 .running with record := { oneHand 1 0 with done := 0 } }
def onThread (pc : Reg64) : State :=
  let n := silent
  pool [n] { base with pool := { base.pool with threads := [{ n.thread 31 with pc := pc }] } }
theorem witness_completion_thread : ∀ pc,
    (onThread pc).pod.halted = false ∧ (onThread pc).pool.threads.find? (fun t => t.core == 31) =
      some { silent.thread 31 with pc := pc } ∧ (onThread pc).nodeOf 1 = some silent ∧ (onThread pc).doneLater silent = false :=
  fun _ => ⟨rfl, rfl, rfl, rfl⟩
theorem witness_completion_returned : ∃ pc, pc ≠ Config.exitStub ∧ pc ≠ Config.runtimeExit := other _ _
/-- A paired node whose two tasks, on cores 0 and 24, have ended; side B holds a summary that side A does not, or neither does. -/
def paired (k : Nat) (differ : Bool) : State :=
  let n : Node := { ran (node 1 0 .running) with paired := true, taskB := 2, coresB := [24], mismatches := k }
  let s := retired (pool [n] base)
  { s with
    others := [{ s.hand with id := 96, core := 24, task := 2, handles := if differ then [(1, newSlot 1 0 0)] else [] }]
    tasks := [⟨1, 0, 1, .a, [0], [(0, 0)], 1, 0, [], [], []⟩, ⟨2, 0, 1, .b, [24], [(96, 0)], 1, 0, [], [], []⟩] }
theorem witness_pairing :
    (∀ k ∈ [0, 1], ∀ d ∈ [false, true], ∃ n, (paired k d).nodeOf 1 = some n ∧ n.state = .running ∧ n.paired = true ∧
      (paired k d).taskOver n.task = true ∧ (paired k d).taskOver n.taskB = true ∧ (paired k d).doneLater n = false ∧ n.record.cls = 0 ∧
        n.mismatches = k) ∧
    (paired 0 false).signature 1 1 false = (paired 0 false).signature 1 2 true ∧
    (paired 0 true).signature 1 1 false ≠ (paired 0 true).signature 1 2 true := by
  refine ⟨fun k hk d hd => ⟨_, rfl, rfl, rfl, ?_, ?_, ?_, rfl, rfl⟩, by decide +kernel, by decide +kernel⟩ <;>
    simp only [List.mem_cons, List.not_mem_nil, or_false] at hk hd <;> rcases hk with rfl | rfl <;> rcases hd with rfl | rfl <;>
    decide +kernel
theorem witness_PoolRunsGraphs : (submitted 1 0x1_0000_0200 base).poolUp = true ∧ (pool [node 1 0 .ready] base).noDudel := by
  decide +kernel

/-! ## Pre-emption -/

/-- A node of higher priority finds no slot but the victim's power. -/
def blockedNodes : State :=
  let r (prio est : Nat) : NodeRec := { oneHand 0 est with prio := prio }
  { base.modField 0 (fun f => { f with fdraw := 800000 }) with
    pool := { base.pool with nodes := [{ ran (node 1 0 .running) with record := r 6 400000 },
      { node 2 0 .ready with record := r 7 400000 }] } }
/-- A request stands, and the hand waits at a point. -/
noncomputable def waiting (w : Wait) (s : State) : State :=
  hand (fun h => { h with status := .waiting w, sched := { h.sched with preempt := true } }) s
/-- A region of exactly one area, and what a saved hand leaves there. -/
def region (s : State) : State := { s with regions := [(1, ⟨0x3000_0000, s.hand.areaLength, []⟩)] }
def saved (s : State) : State :=
  hand (fun h => { h with status := .saved, sched := { h.sched with savedArea := some (0x3000_0000, h.areaLength) } }) s
/-- A strip that waits to open the next one, with a buffered store that no longer decodes. -/
noncomputable def undecodable : State :=
  let s := opened base
  hand (fun h => { h with strip := { h.strip with ssb := [⟨0x1000_0000, 5, 0, false, none, 0, []⟩] } })
    { waiting .opening s with mem := { s.mem with badHands := [(s.hand.id, 6, 31)] } }
theorem witness_PreemptionAndWatchdogs_undecodable : undecodable.hand.status = .waiting .opening ∧
    undecodable.hand.sched.preempt = true ∧ undecodable.hand.lands .opening = true ∧ undecodable.badDrain.isSome = true := by
  decide +kernel
theorem witness_PreemptionAndWatchdogs :
    (∃ n v, blockedNodes.nodeOf 2 = some n ∧ n.state = .ready ∧ n.record.cls ≠ 1 ∧ blockedNodes.place n none = none ∧
      blockedNodes.victimFor n = some v ∧ v.nseq = 1) ∧
    (∀ w ∈ [Wait.point, .tileGate, .phend, .seatw, .opening, .rewound], let s := waiting w (opened base)
     s.hand.status = .waiting w ∧ s.hand.sched.preempt = true ∧ s.hand.lands w = true ∧ srecEn s.hand.csr.srecctl = false ∧ s.drains) ∧
    ((waiting .point (opened base)).hand.strip.prot = true ∧ (waiting .point (opened base)).hand.strip.ckpt.isSome = true) ∧
    (let s := hand (fun h => { h with status := .waiting (.save 2) }) (region base)
     s.saveReady = true ∧ s.hand.jobs = [] ∧ (mfind s.regions s.hand.asid.toNat).map (fun g => g.fit s.hand.areaLength) =
       some (some 0x3000_0000) ∧ s.memUp 0x3000_0000 s.hand.areaLength = some true ∧ s.hand.sched.unrecoverable = none) ∧
    ((saved base).hand.status = .saved ∧ (saved base).poolUp = true ∧ (saved base).standsAside (saved base).hand = false ∧
      (saved base).resumeAt (saved base).hand = some (0, 0)) ∧
    (let s := csr (fun c => { c with wdog := 1 }) base
     s.dogRuns s.hand = true ∧ s.hand.csr.wdog ≠ 0 ∧ s.hand.csr.wdog.toNat ≤ (1 : Reg64).toNat ∧ s.hand.csr.cyc.toNat ≤ (1 : Reg64).toNat) ∧
    rising base.cores = true := by
  refine ⟨⟨_, _, rfl, by decide +kernel, by decide +kernel, by decide +kernel, rfl, by decide +kernel⟩, ?_, by decide +kernel,
    by decide +kernel, by decide +kernel, by decide +kernel, by decide +kernel⟩
  intro w hw
  simp only [List.mem_cons, List.not_mem_nil, or_false] at hw
  rcases hw with rfl | rfl | rfl | rfl | rfl | rfl <;> decide +kernel

/-! ## The control queue -/

def ctl : Ctl := ⟨1, false, false⟩
/-- A record of this OPC waits on queue 0, the next one. -/
def commandedAt (a opc : Nat) (s : State) : State := memory a (leBytes 8 opc ++ leBytes 8 1 ++ leBytes 48 0) (rings a (a + 0x100_0000) 0 s)
def commanded : Nat → State → State := commandedAt 0x2000_0000
/-- The same with the control queue's rings in field 1, while field 0 is coming up. -/
def commandedEarly (opc : Nat) (s : State) : State := comingUp (commandedAt far opc (twoFields s))
/-- One that will not be done: a byte of 2 to 7 is not zero. -/
def stained (s : State) : State := memory 0x2000_0007 [1] (commanded 16 s)
theorem witness_controlRecords :
    ((commanded 16 base).offers 16 ctl = true ∧ opcKnown 16 = true ∧ (1 : Reg64) = (commanded 16 base).ctlSeq + 1) ∧
    (let s : State := { commanded 1 base with ctlSeq := 7 }
     s.offers 1 ctl = true ∧ (1 : Reg64) ≠ s.ctlSeq + 1) ∧
    ((stained base).offers 16 ⟨1, true, false⟩ = true ∧ (stained base).offers 16 ctl = false) ∧
    (∀ opc ∈ [6, 9], (commanded opc base).offers opc ⟨1, false, true⟩ = true ∧ opcKnown opc = true) ∧
    ((commanded 17 base).ctlReady = true ∧ opcKnown (commanded 17 base).ctlOpc = false ∧ opcKnown 0 = false ∧
      (commanded 17 base).ctlSeqOf = (commanded 17 base).ctlSeq + 1) ∧
    (Mem.wf (commanded 1 base).mem.pub = true ∧ (commanded 1 base).memUp ((commanded 1 base).queue 0).statusSlot 16 = some true) ∧
      rising (commanded 1 base).queues = true := by decide +kernel
/-- A descriptor of ASID 1 without ranges; one whose reserved bytes are not zero. -/
def descriptor (b : Byte) : List Byte := leBytes 8 0x1000 ++ leBytes 2 1 ++ [b] ++ List.replicate 1013 0
/-- The hand's store buffer holds a store placed by the translation of page 65536. -/
def placed (s : State) : State :=
  hand (fun h => { h with strip := { h.strip with ssb := [⟨0x1000_0000, 5, 0, false, some 0x10000, 0, []⟩] } }) s
theorem witness_limitsAndRegions :
    (let s := memory 0x1000_0400 (descriptor 0) (commanded 1 base)
     s.accepts 1 ctl ∧ (0x1000_0400 : Reg64).toNat % 1024 = 0 ∧ s.memUp (0x1000_0400 : Reg64).toNat 1024 = some true ∧
      ((asidDesc (s.mem.live.bytes 0x1000_0400 1024)).map (·.1)) = some 1 ∧ s.lingering 1 (fun _ => true) = false ∧
      (placed s).lingering 1 (fun _ => true) = true ∧ (placed s).accepts 1 ctl) ∧
    asidDesc ((memory 0x1000_0400 (descriptor 1) (commanded 1 base)).mem.live.bytes 0x1000_0400 1024) = none ∧
    ¬ ((0x1000_0001 : Reg64).toNat % 1024 = 0) ∧
    ((commandedEarly 1 base).accepts 1 ctl ∧ (commandedEarly 1 base).memUp (0x1000_0400 : Reg64).toNat 1024 = none ∧
      (commanded 1 base).memUp (BitVec.ofNat 64 Config.stackUsable).toNat 1024 = some false) ∧
    ((placed (commanded 2 base)).accepts 2 ctl ∧ (commanded 2 base).lingering 1 (fun _ => true) = false ∧
      (placed (commanded 2 base)).lingering 1 (invTakes ⟨ctl, 1, false, 0x1000_0FFF, 0x1000_1000⟩) = true ∧
      (placed (commanded 2 base)).lingering 1 (invTakes ⟨ctl, 1, false, 0x1000_1000, 0x0200_0000_0000_0000⟩) = false) ∧
    (0 < (1 : Reg64).toNat ∧ (1 : Reg64).toNat ≤ 2 ^ 57 ∧ (0x0200_0000_0000_0000 : Reg64).toNat ≤ 2 ^ 57) ∧
    (∀ n ∈ [3, 4, 5, 7, 10], (commanded n base).accepts n ctl) ∧
    regionOk 0x3000_0000 0x1_0000 = true ∧ regionOk 0x3000_0001 0x1_0000 = false ∧ (0 ≤ 24575 ∧ 24575 < 24576) ∧
    ((commanded 4 base).seatObj 24575).queue = [] ∧
    rising (commanded 4 base).seats = true ∧ (5 < 6 ∧ 100000 ≤ 100000) ∧ 5 * 800000 + 2000000 ≤ 6000000 ∧ 99999 < 100000 ∧
    (2 ^ 16 ≤ 2 ^ 16 ∧ 2 ^ 16 ≤ 2 ^ 40 ∧ 2 ^ 40 ≤ 2 ^ 40) := by and_intros <;> decide +kernel
/-- A fault record of the hand, which awaits its answer. -/
noncomputable def asked (t : Trap) (flags : Nat) (s : State) : State :=
  { s with
    hand := { s.hand with status := .suspended 1 }
    faults := { s.faults with seq := 1, pending := [⟨t, flags, 0, 1, 1, 0, s.hand.pc, 0⟩] } }
theorem witness_resolving : (commanded 6 base).accepts 6 ctl ∧ (commanded 6 base).awaiting 1 = none ∧
    (((commanded 6 (asked soft 1 base)).awaiting 1).map (fun rh => rh.1.flags)) = some 1 ∧
    (((commanded 6 (asked (Trap.mk' .watchdog 5) 0 base)).awaiting 1).map (fun rh => (rh.1.flags, rh.1.trap.cause))) = some (0, .watchdog) ∧
    (commanded 6 (asked soft 0 base)).accepts 6 ctl ∧ (commanded 6 (asked soft 0 base)).pool.nodes = [] ∧
    ((csr (fun c => { c with tvec := 4 }) base).hand.csr.tvec ≠ 0 ∧ (csr (fun c => { c with tvec := 4 }) base).hand.csr.hm = false) ∧
    (commanded 8 base).accepts 8 ctl := by
  refine ⟨?_, by rfl, ?_⟩ <;> decide +kernel
theorem witness_resolving_graphs :
    (∀ m ∈ (commanded 8 base).pool.nodes, m.subno ≠ 1) ∧ (∀ g ∈ (commanded 8 base).pool.graphs, g.subno = 1 → g.status = none) ∧
    (∀ later ∈ [false, true], let s := (if later then commandedEarly 8 else commanded 8) (pool [node 1 0 .ready] base)
     s.accepts 8 ctl ∧ node 1 0 .ready ∈ s.pool.nodes ∧ (node 1 0 .ready).subno = 1 ∧ s.doneLater (node 1 0 .ready) = later ∧
     (later = false → ∀ k ∈ s.pool.nodes, k.subno = 1 → s.doneLater k = false) ∧ s.pool.graphs = []) := by decide +kernel
/-- A task with a hand, another one's hand beside it; a cancelled node that runs, and one that waits. -/
theorem witness_cancelledTask : base.noDudel ∧ (base.allHands.filter (fun h => h.task == 1 && h.living)) ≠ [] ∧
    (∀ h ∈ base.allHands, h.task ≠ 2) := by decide +kernel
theorem witness_cancelledNode :
    (let n := ran (node 1 0 .running)
     let s := pool [n] base
     let ended := (s.cancelTask 1).cancelTask 0
     let before := ended.nextDone.1
     let r := before.xlate (poolAgent n.asid n.sys) (.record true) n.record.done
     n.state = .running ∧ n.record.cls ≠ 1 ∧ n.record.done ≠ 0 ∧ n.record.done % 8 = 0 ∧ ended.pool.threads = [] ∧
     r = .ok ((got r (base, .plain 0 true)).1, .plain 0x1000_0800 false) ∧ Mem.wf (got r (base, .plain 0 true)).1.mem.pub = true ∧
     s.pool.nodes.find? (fun n => n.state == .running && (n.task == 1 || n.taskB == 1)) = some n) ∧
    (silent.record.done = 0 ∧ base.noDudel) ∧
    (∀ n ∈ base.pool.nodes, n.state = .running → n.task ≠ 1 ∧ n.taskB ≠ 1) ∧ (∀ g ∈ base.pool.graphs, g.subno = 1 → g.status = none) := by
  refine ⟨⟨?_, ?_, ?_, ?_, ?_, (got_ok (base, .plain 0 true) (by decide +kernel)).trans (congrArg Except.ok (Prod.ext rfl ?_)), ?_, ?_⟩,
    ?_, ?_,
    ?_⟩ <;> decide +kernel
theorem witness_debugging : let s := commanded 9 base
    s.accepts 9 ctl ∧ s.debugOk 0 3 = true ∧ s.debugOk 0 4 = false ∧
    s.debugOk 575 0 = false ∧ (∃ k ∈ s.tasks, k.taskid = 0) ∧ (∀ k ∈ s.tasks, k.taskid ≠ 1) ∧
    (let s : State := { s with pod := { s.pod with inbound := [(0x1000_0200, [5])] } }
     s.accepts 9 ctl ∧ ∀ w ∈ s.pod.inbound, s.memUp w.1 w.2.length ≠ none) ∧
    (let s := commandedEarly 9 { base with pod := { base.pod with inbound := [(0x1000_0200, [5])] } }
     s.accepts 9 ctl ∧ ∃ w ∈ s.pod.inbound, s.memUp w.1 w.2.length = none) := by decide +kernel
theorem witness_podCommands : (∀ n ∈ [11, 12, 13, 14, 15, 16], (commanded n base).accepts n ctl) ∧ (2 ≤ 65 ∧ 65 ≤ 65) ∧
    (∀ d ∈ [0, 511], d ≤ 511) ∧
    (commanded 12 base).firstUp = false ∧ (511 : Reg64).toNat ≤ 511 ∧ ({ commanded 12 base with firstUp := true } : State).accepts 12 ctl ∧
    (let up (s : State) (a : Nat) := s.memUp a ((s.attestBody 0).length + 2420)
     up (commanded 15 base) 0x1000_0200 = some true ∧ up (commanded 15 base) Config.stackUsable = some false ∧
      (commandedEarly 15 base).accepts 15 ctl ∧ up (commandedEarly 15 base) 0x1000_0200 = none) ∧
    (4095 ≤ 4095 ∧ mappable 0x1000_0000 = true ∧ mappable (12 * Config.stackBytes - 0x4000_0001) = true ∧ 2 ^ 26 ≤ 2 ^ 26) ∧
    (143 < Config.coreCount ∧ 2 ^ 64 - 1 < 2 ^ 64 ∧ rising (commanded 16 base).cores = true ∧
      rising ((commanded 16 base).core 143).tiles = true ∧ ∀ k, k < 64 → (commanded 16 base).engineReads 143 k = false) := by
  and_intros <;> decide +kernel
theorem witness_ControlCommands : (commanded 16 base).accepts 16 ctl ∧ (commanded 1 base).ctlReady = true := by decide +kernel

/-! ## The host -/

/-- Port 9's window on the top of stack 0, for writing. -/
def windowed (s : State) : State := { s with pod := { s.pod with windows := [(72, ⟨0x1000_0000, 0x1000_1000, true⟩)] } }
/-- One on the first bytes of a heel area, for reading. -/
def heelWindow (s : State) : State :=
  { s with pod := { s.pod with windows := [(72, ⟨Config.stackUsable, Config.stackUsable + 64, false⟩)] } }
/-- A thread of the node on system core 31. -/
def threaded (s : State) : State := { s with pool := { s.pool with threads := [(node 1 1 .running).thread 31] } }
def haltedAll (s : State) : State := { s with pod := { s.pod with halted := true } }
theorem witness_HostAccesses : (65 ≤ 65 ∧ base.boot = .running ∧ base.pod.halted = false ∧ (base.queue 65).en = false) ∧
    (queueSound ⟨65, 0x2000_0000, 0x2100_0000, 16, 1, 1, 1, 0, false⟩ = true ∧ (1 : Byte) = 1 ∧ (2 : Byte) ≠ 1) ∧
    queueSound ⟨1, 0x2000_0000, 0, 4, 0, 0, 1, 0, false⟩ = true ∧
    (((ring 65 base).queue 65).tail ≤ (16 : Reg64).toNat ∧ (16 : Reg64).toNat ≤ ((ring 65 base).queue 65).accepted + 2 ^ 4 ∧
      rising (ring 65 base).queues = true ∧ (17 : Reg64).toNat > ((ring 65 base).queue 65).accepted + 2 ^ 4 ∧
      (0 : Reg64).toNat < ((ring 65 base).queue 65).tail) ∧
    (base.pod.halted = false ∧ 7 < 8 ∧ ((ring 65 base).queue 65).en = true) ∧
    (31 < 32 ∧ (∀ th ∈ base.pool.threads, th.core ≠ 31) ∧ (∃ th ∈ (threaded base).pool.threads, th.core = 31 ∧ some 2 ≠ some th.asid) ∧
      base.memUp (0x1000_0000 : Reg64).toNat [(5 : Byte)].length = some true ∧
        base.memUp (0 - 1 : Reg64).toNat [(5 : Byte)].length = some false ∧
      (comingUp base).memUp 0x1000_0200 8 = none ∧
      Mem.wf base.mem.live = true ∧ Mem.wf base.mem.pub = true ∧ [(5 : Byte)] ≠ []) ∧
    (9 < 10 ∧ (windowed base).windowFor 9 0x1000_0FFF [(5 : Byte)].length true = true ∧
      (windowed base).windowFor 9 0x1000_1000 [(5 : Byte)].length true = false ∧ (windowed base).memUp 0x1000_0FFF 1 = some true ∧
      (windowed base).noDudel ∧ (windowed base).pod.inbound = [] ∧ [(5 : Byte)].length ≤ Config.haltBuffer ∧
        (windowed base).boot = .running) ∧
    (let s := haltedAll (windowed base)
     s.pod.halted = true ∧ s.noDudel ∧ s.pod.inbound = [] ∧ s.windowFor 9 0x1000_0FFF 1 true = true ∧ s.memUp 0x1000_0FFF 1 = some true) ∧
    (windowed base).windowFor 9 0x1000_0FFF 1 false = true ∧ (windowed base).windowFor 8 0x1000_0000 1 false = false ∧
    ((heelWindow base).windowFor 9 Config.stackUsable 1 false = true ∧ (heelWindow base).memUp Config.stackUsable 1 = some false) ∧
    ((comingUp (windowed base)).windowFor 9 0x1000_0FFF 1 false = true ∧ (comingUp (windowed base)).memUp 0x1000_0FFF 1 = none) := by
  and_intros <;> decide +kernel
theorem witness_HostAccesses_threads : ∃ th ∈ (threaded base).pool.threads, th.core = 31 ∧ (List.replicate 8 (5 : Byte)).length ≤ 8 ∧
    (31 : Fld5) ≠ 0 := ⟨_, List.mem_cons_self .., rfl, by decide, by decide⟩

/-- The thread at an address, stopped or not, where the words at three addresses are one word. -/
def atPc (pc : Reg64) (stop : Option Nat) : Thread := ⟨31, 1, 1, pc, Vector.replicate 32 0, Vector.replicate 32 0, 0, stop⟩
def threadAt (pc : Reg64) (stop : Option Nat) (w : Nat) : State :=
  memory 0x1000_0000 (leBytes 4 w ++ leBytes 4 w ++ leBytes 4 w) { base with pool := { base.pool with threads := [atPc pc stop] } }
/-- Of three addresses one ends no thread. -/
theorem outside {a b c : Reg64} (hab : a ≠ b) (hac : a ≠ c) (hbc : b ≠ c) : ∃ pc ∈ [a, b, c], (atPc pc none).ended = false := by
  have ends (pc : Reg64) : (atPc pc none).ended = false ↔ pc ≠ Config.exitStub ∧ pc ≠ Config.runtimeExit := by simp [Thread.ended, atPc]
  simp only [ends, List.mem_cons, List.not_mem_nil, or_false, exists_eq_or_imp, exists_eq_left]
  by_cases ha : a = Config.exitStub <;> by_cases hb : b = Config.exitStub <;> by_cases ha' : a = Config.runtimeExit <;>
    by_cases hb' : b = Config.runtimeExit <;> simp_all <;>
    first | exact ⟨fun h => hac h.symm, fun h => hbc h.symm⟩ | exact ⟨fun h => hbc h.symm, fun h => hac h.symm⟩
/-- An instruction of four bytes, of two, one that raises an exception, and none; no page to fetch from. One of three addresses is neither
the stub that ends a thread nor the runtime's exit. -/
theorem witness_threadFetches : ∀ pc ∈ [0x1_0000_0000, 0x1_0000_0004, 0x1_0000_0008], ∀ stop ∈ [none, some 2],
    let t := atPc pc stop
    let g := atPc pc none
    let fetched (w : Nat) : State × Nat × Nat := got ((threadAt pc stop w).threadFetch g) (base, 0, 0)
    let runs (w : Nat) : Bool := ((rvDecode (fetched w).2.1).bind (fun i => ((fetched w).1.threadExec g i (fetched w).2.2).toOption)).isSome
    ((threadAt pc stop 0).pool.threads.find? (fun x => x.core == 31) = some t ∧ (∀ x ∈ (threadAt pc stop 0).pool.threads, x.core = 31 →
      x = t) ∧
      (threadAt pc stop 0).pod.halted = false ∧ (threadAt pc stop 0).boot = .running) ∧
    (∀ w ∈ [0x002081B3, 0x8082, 0x73, 0], ((threadAt pc stop w).threadFetch g).toOption.isSome = true ∧ (fetched w).2.1 = w) ∧
    (runs 0x002081B3 = true ∧ runs 0x8082 = true) ∧ (rvDecode 0x73 = some .ecall ∧ runs 0x73 = false) ∧ rvDecode 0 = none := by
  intro pc hp stop hs
  simp only [List.mem_cons, List.not_mem_nil, or_false] at hp hs
  rcases hp with rfl | rfl | rfl <;> rcases hs with rfl | rfl <;> decide +kernel
theorem witness_threadFetches_runs : ∃ pc ∈ [(0x1_0000_0000 : Reg64), 0x1_0000_0004, 0x1_0000_0008], (atPc pc none).ended = false :=
  outside (by decide) (by decide) (by decide)
theorem witness_threadFetches_unmapped : (∀ pc ∈ [0, 4, 8], ∃ n,
  (threadAt pc none 0).threadFetch (atPc pc none) = .error (.exception n) ∧ n = 12) ∧
    ∃ pc ∈ [(0 : Reg64), 4, 8], (atPc pc none).ended = false := by
  refine ⟨fun pc h => ⟨12, ?_, rfl⟩, outside (by decide) (by decide) (by decide)⟩
  simp only [List.mem_cons, List.not_mem_nil, or_false] at h
  rcases h with rfl | rfl | rfl <;> exact error_of (by decide +kernel)
/-- Eight bytes that the thread may load and store. -/
theorem witness_threadEffects : let s := threadAt 0x1_0000_0000 none 0
    let t := { atPc 0x1_0000_0000 none with x := (atPc 0 none).x.set 1 0x1_0000_0100 }
    let loads := s.threadReach t .load rvLoadFault (t.getX 1) 8
    let stores := s.threadReach t .store rvStoreFault (t.getX 1) 8
    let keys := upFrom 0x1000_0100 8
    (t.getX 1).toNat % 8 = 0 ∧ keys.length = 8 ∧ keys.Nodup ∧ rising s.mem.reserved = true ∧
    loads = .ok ((got loads (base, [])).1, keys) ∧ (got loads (base, [])).1.mem.reserved = s.mem.reserved ∧
    stores = .ok ((got stores (base, [])).1, keys) ∧ Mem.wf (got stores (base, [])).1.mem.pub = true ∧
    rising (got stores (base, [])).1.mem.reserved = true := by
  refine ⟨?_, ?_, ?_, ?_, (got_ok (base, []) (by decide +kernel)).trans (congrArg Except.ok (Prod.ext rfl ?_)), ?_,
    (got_ok (base, []) (by decide +kernel)).trans (congrArg Except.ok (Prod.ext rfl ?_)), ?_, ?_⟩ <;> decide +kernel

/-! ## Power, failures, bring-up -/

def powered (a low : Nat) : State := base.modField 0 (fun f => { f with active := a, lowWindows := low })
theorem witness_powerWindows : (0 < 6 ∧ (base.field 0).state = 5) ∧ (95 * 800000 < 100 * 760001 ∧ 4 < ((powered 16 0).field 0).active) ∧
    (100 * 679999 ≤ 95 * 800000 ∧ min 8 (((powered 12 7).field 0).lowWindows + 1) = 8 ∧ ((powered 12 7).field 0).active < 16) ∧
    100 * 680000 ≤ 95 * 800000 ∧ (800000 < 800001 ∧ ((powered 4 0).field 0).active = 4) := by decide +kernel
/-- Core 0 as failures leave it. -/
def core0 (f : Core → Core) (s : State) : State := s.modCore 0 f
theorem witness_failures_scrub : 0 < Config.coreCount ∧ rising base.cores = true ∧
    (∃ b ∈ ((core0 (fun c => { c with badBanks := [(0, 31)] }) base).core 0).badBanks, b.1 = 0) ∧
    rising (core0 (fun c => { c with badBanks := [(0, 31)] }) base).cores = true ∧ (∀ b ∈ (base.core 0).badBanks, b.1 ≠ 0) := by
  decide +kernel
theorem witness_failures : (3 < 4 ∧ 0 < Config.coreCount ∧ 31 < 32 ∧ (base.core 0).badBanks.contains (3, 31) = false) ∧
    (0 < 12 ∧ (base.field 0).state = 5 ∧ (base.field 0).stk.getLsbD 1 = true ∧ (base.queue 1).en = false) ∧
    (let s := core0 (fun c => { c with clusters := [(31, 4)] }) base
     4 ≤ mget 0 (s.core 0).clusters 31 ∧ (s.core 0).retiring = [] ∧ (s.core 0).spv = false ∧ rising s.cores = true) ∧
    (let s := core0 (fun c => { c with residues := 8 }) base
     (s.core 0).offline = false ∧ (s.field 0).excludedQuads.contains 0 = false ∧ 8 ≤ (s.core 0).residues) ∧
    2 ≤ ((core0 (fun c => { c with badBanks := [(0, 0), (3, 31)] }) base).core 0).badBanks.length ∧
    (let s := base.modField 0 (fun f => { f with excludedQuads := [0] })
     (s.field 0).excludedQuads.contains 0 = true ∧ s.quadBusy 0 = true ∧ (retired s).quadBusy 0 = false ∧
     ((retired s).field 0).spqv = false ∧ ((retired s).field 0).spareOut = false ∧ ((retired s).core 0).offline = false) ∧
    (let h : Hand := { base.hand with id := 1, slot := 1 }
     fieldOfCore h.core = 0 ∧ h.living = true ∧ h.status ≠ .saved) ∧
    (base.mem.ticketInF1 = false ∧ adjacent 0 3 = true ∧ adjacent 1 2 = true ∧
      (let s := base.modField 3 (fun f => { f with state := 5 })
       (s.field 0).state = 5 ∧ (s.field 3).state = 5)) := by decide +kernel
theorem witness_bringUp : bootStages [] = [] ∧ ([] : List Byte).length ≠ 1312 ∧
    (∀ st ∈ [1, 2, 3, 4], let s := base.modField 5 (fun f => { f with state := st })
     5 < 6 ∧ s.boot = .running ∧ (s.field 5).state = st) ∧
    (let s := base.modField 4 (fun f => { f with state := 3 })
     4 < 5 ∧ (s.field 4).state = 3 ∧ (s.field 5).state = 0) ∧ base.faults.waiting = [] := by decide +kernel
theorem witness_UnitsFailAndComeUp : (base.field 0).state = 5 ∧ base.boot = .running ∧ adjacent 0 3 = true := by decide +kernel

/-! ## The pod and the debugger -/

theorem witness_links : 23 < 24 ∧ (numbered false base).pod.devNumber ≠ none ∧
    ((mfind (numbered false base).pod.ports 23).map (·.up)).getD false = false ∧ (1 : Byte) = 1 ∧ (2 : Byte) ≠ 1 ∧
    (mfind (numbered true base).pod.ports 23 = some ⟨true, 2⟩) := by decide +kernel
/-- The first of the 64 parts of a gang, before or after it has hands here: it has heard from all others but GANGIX 63. -/
def gangNode (st : NodeState) : Node :=
  { node 1 0 st with record := { oneHand 0 0 with gangn := 64 }, gang := List.range 64, heard := List.range 63, gangOpen := true, task :=
    1 }
theorem witness_gangs : (∀ st ∈ [NodeState.ready, .running], let s := pool [gangNode st] base
    let n := gangNode st
    s.nodeOf 1 = some n ∧ n.gangOpen = true ∧ 63 < n.record.gangn ∧ 63 ≠ n.record.gangix ∧ s.pod.halted = false ∧
      n.unheard.head? = some 63 ∧ 1 < n.record.gangn ∧ n.gangOver = false ∧ (s.arrives (s.gangPort n 63) 0 0).isSome = true ∧
      s.dudel.replay = false ∧ ({ s with dudel := { s.dudel with replay := true } } : State).dudel.replay = true) ∧
    (gangNode .ready).state ≠ .running ∧ (gangNode .running).state = .running ∧
    base.hand.task = (gangNode .running).task ∧ base.hand.living = true := by and_intros <;> decide +kernel
/-- A reduction or a multicast with the switch: a histogram's record at its source, of this device or of another. -/
def histogram : List Byte := 4 :: (List.replicate 14 0 ++ [1])
def switched (mc : Bool) (s : State) : State :=
  memory 0x1000_2000 histogram
    { ring 0 s with pod := { s.pod with switchOps := [⟨mc, 4095, 0, 1, 0x1000_2000, 8, 0x1000_8000, 0x1000_C020⟩] } }
def histogramRecord : List Byte := histogram ++ List.replicate 16400 0
theorem counts_length (n : Nat) (f : Nat → Nat) : (((List.range n).map (fun i => leBytes 4 (f i))).flatten).length = 4 * n := by
  simp [List.length_flatten, Function.comp_def, Nat.mul_comm]
theorem merge_qhist {s t : Slot} {m1 m2 : SMap Nat} (hs : s.body = .qhist m1) (ht : t.body = .qhist m2) :
    ∃ m, (s.merge t).1.body = .qhist m := by
  unfold Slot.merge
  rw [hs, ht]
  exact ⟨_, rfl⟩
theorem body_qhist {r : List Byte} (h : recField r 0 1 = 4) : ∃ m, (deserialise r).body = .qhist m := by
  unfold deserialise
  rw [h]
  generalize recCounts r 32 4096 = m
  exact ⟨m, rfl⟩
/-- The sum of two histograms' records has the size of one. -/
theorem sum_length {own r : List Byte} (ho : recField own 0 1 = 4) (hr : recField r 0 1 = 4) : (reduced own [r]).length = 16416 := by
  obtain ⟨m1, h1⟩ := body_qhist ho
  obtain ⟨m2, h2⟩ := body_qhist hr
  obtain ⟨m, h⟩ := merge_qhist h1 h2
  unfold reduced
  rw [List.foldl_cons, List.foldl_nil]
  unfold Slot.serialise
  rw [h]
  simp only [List.length_append, leBytes_length, List.length_replicate, counts_length, List.length_singleton]
/-- What a reduction that agrees writes. -/
theorem reduction_bytes {s : State} {e : SwitchEv} {op : SwitchOp} (h : s.memUp op.src (s.switchSpan op) ≠ some false)
    (ho : op.isMcast = false) (hd : op.dst ≠ 0)
    (hr : reducible (s.mem.pub.bytes op.src (reduceSize (s.mem.pub.get op.src).toNat)) = true)
    (ha : e.others.all (agrees (s.mem.pub.bytes op.src (reduceSize (s.mem.pub.get op.src).toNat))) = true) :
    (s.switchResult e op).1 = atAddr op.dst (reduced (s.mem.pub.bytes op.src (reduceSize (s.mem.pub.get op.src).toNat)) e.others) := by
  unfold State.switchResult
  rw [if_neg h, if_neg (by rw [ho]; decide)]
  dsimp only
  rw [if_neg (by rw [hr]; decide), if_neg (by rw [ha]; decide), if_neg hd]
theorem bytesUp_atAddr {s : State} {a n : Nat} {l : List Byte} (hl : l.length = n + 1) (h : s.memUp a (n + 1) = some true) :
    s.bytesUp (atAddr a l) = some true := by
  cases l with
  | nil => cases hl
  | cons b l => exact (congrArg (s.memUp a) ((atAddr_length a (b :: l)).trans hl)).trans h
/-- A reduction that writes the sum of two records, in memory that serves it. -/
def sumOp : SwitchOp := ⟨false, 4095, 0, 1, 0x1000_2000, 8, 0x1000_8000, 0x1000_C020⟩
def sumEv : SwitchEv := ⟨0, 5, 1, 0, [histogramRecord], none⟩
def ownRecord : List Byte :=
  (switched false base).mem.pub.bytes sumOp.src (reduceSize ((switched false base).mem.pub.get sumOp.src).toNat)
theorem own_type : recField ownRecord 0 1 = 4 ∧ recField histogramRecord 0 1 = 4 := by decide +kernel
theorem own_agrees : reducible ownRecord = true ∧ sumEv.others.all (agrees ownRecord) = true := by decide +kernel
theorem sum_up : (switched false base).memUp sumOp.src ((switched false base).switchSpan sumOp) ≠ some false ∧
    (switched false base).memUp 0x1000_8000 (16415 + 1) = some true := by decide +kernel
theorem witness_switching_sum : sumOp.dst ≠ 0 ∧ sumOp.dst + (reduced ownRecord sumEv.others).length ≤ sumOp.cw ∧
    (switched false base).bytesUp ((switched false base).switchResult sumEv sumOp).1 = some true ∧
    ((switched false base).switchResult sumEv sumOp).1.all (fun x => mappable x.1) = true := by
  have hl : (reduced ownRecord sumEv.others).length = 16415 + 1 := sum_length own_type.1 own_type.2
  have hk : ((switched false base).switchResult sumEv sumOp).1 = atAddr 0x1000_8000 (reduced ownRecord sumEv.others) :=
    reduction_bytes sum_up.1 rfl (by decide) own_agrees.1 own_agrees.2
  rw [hk, List.all_eq_true]
  refine ⟨by decide, by rw [hl]; decide, bytesUp_atAddr hl sum_up.2, fun c hc => ?_⟩
  have h := atAddr_addr _ _ c hc
  rw [hl] at h
  refine decide_eq_true ⟨?_, ?_⟩ <;> unfold Config.stackBytes
  · omega
  · unfold Config.stackUsable
    omega
theorem witness_switching :
    (switched false base).pod.switchOps[0]? = some ⟨false, 4095, 0, 1, 0x1000_2000, 8, 0x1000_8000, 0x1000_C020⟩ ∧
    (switched true base).pod.switchOps[0]? = some ⟨true, 4095, 0, 1, 0x1000_2000, 8, 0x1000_8000, 0x1000_C020⟩ ∧
    Mem.wf (switched false base).mem.live = true ∧ Mem.wf (switched false base).mem.pub = true ∧
    (let own := (switched false base).mem.pub.bytes 0x1000_2000 (reduceSize ((switched false base).mem.pub.get 0x1000_2000).toNat)
     reducible own = true ∧ [histogramRecord].all (agrees own) = true ∧ [histogram].all (agrees own) = false ∧
       0x1000_8000 + own.length ≤ 0x1000_C020) ∧
    reducible (base.mem.pub.bytes 0x1000_2000 (reduceSize (base.mem.pub.get 0x1000_2000).toNat)) = false ∧
    (switched false base).pod.halted = false ∧
    (switched false base).noDudel ∧ (haltedAll (switched true base)).pod.halted = true ∧
    ((switched false base).switchResult ⟨0, 5, 1, 0, [histogramRecord], none⟩
      ⟨false, 4095, 0, 1, 0x1000_2000, 8, 0, 0x1000_C020⟩).1.all (fun x => mappable x.1) = true ∧
    (∀ op ∈ (switched true base).pod.switchOps,
      ((switched true base).switchResult ⟨0, 5, 1, 0, [], some 0x1000_0000⟩ op).1.all (fun x => mappable x.1) = true) ∧
    (let s := switched false base
     let op : SwitchOp := ⟨false, 4095, 0, 1, 0x1000_2000, 8, 0, 0x1000_C020⟩
     let e : SwitchEv := ⟨0, 5, 1, 0, [histogramRecord], none⟩
     s.memUp op.src (s.switchSpan op) = some true ∧ s.memUp op.cw 8 = some true ∧ s.bytesUp (s.switchResult e op).1 = some true ∧
     (comingUp s).switchLater e op = true ∧ s.switchLater e op = false) ∧
    (let s := switched true base
     let op : SwitchOp := ⟨true, 4095, 0, 1, 0x1000_2000, 8, 0x1000_8000, 0x1000_C020⟩
     let e : SwitchEv := ⟨0, 5, 1, 0, [], some 0x1000_0000⟩
     s.memUp op.src (s.switchSpan op) = some true ∧ s.memUp op.cw 8 = some true ∧ s.bytesUp (s.switchResult e op).1 = some true ∧
     s.memUp (s.queue 0).statusSlot 16 = some true ∧ (comingUp s).switchLater e op = true ∧ s.switchLater e op = false) ∧
    (let op : SwitchOp := ⟨false, 4095, 0, 1, far, 8, 0x1000_8000, 0x1000_C020⟩
     let s := (switched false base).modField 1 (fun f => { f with state := 6 })
     s.memUp op.src (s.switchSpan op) = some false ∧ s.memUp op.cw 8 = some true) ∧
    (0x1000_C020 + 8 ≤ ((switched true base).queue 0).sbase + 16 * (((switched true base).queue 0).statused % 2 ^ 4)) ∧
    (0x1000_0000 + 0x1000_8000 + 8 ≤ ((switched true base).queue 0).sbase ∧ 0x1000_C020 + 8 ≤ 0x1000_0000 + 0x1000_8000) := by
  and_intros <;> decide +kernel
/-- A replay whose log holds an entropy value of core 31, then an arrival of one byte at a root port; one whose log holds the arrival of
a copy or of an answer of the switch. -/
def replaying (pos : Nat) (s : State) : State :=
  { s with dudel := { s.dudel with replay := true, pos := pos, log := [⟨2, 31, 5, [1, 2, 3, 4, 5, 6, 7, 8]⟩,
    ⟨3, 9, 6, [0, 0, 1, 0, 0, 0] ++ leBytes 8 0x1000_0000⟩] } }
def arrival (s : State) (len named : Nat) : DudelEntry := ⟨3, 0x8000, s.freeCtr, [23, 1] ++ leBytes 4 len ++ leBytes 8 named⟩
def replayed (s : State) (len named : Nat) : State :=
  { s with dudel := { s.dudel with replay := true, log := [arrival s len named] } }
/-- A cpy.peer whose elements have all left. -/
def answering : State :=
  let c := { commandOf .cpyPeer 2 0 4 2 [] with port := some 23 }
  commanding c 4 15 false []
theorem witness_debuggers_arrivals :
    (let s := filling 1 base
     let e := arrival s 8 (s.recvBuffer delivery)
     let r := replayed s 8 (s.recvBuffer delivery)
     r.dudel.nextDelivery = some (0, e) ∧ e.kind ≠ 2 ∧ r.pod.halted = false ∧
     r.brings (.copy delivery) (s.recvBuffer delivery) = some (8, s.recvBuffer delivery) ∧
     leNat ((e.payload.drop 2).take 4) = 8 ∧ leNat ((e.payload.drop 6).take 8) = s.recvBuffer delivery) ∧
    (let s := switched false base
     let r := replayed s 8 0x1000_C020
     r.brings (.timeout ⟨0, 5, 0, 0, [], none⟩) 0x1000_C020 = some (8, 0x1000_C020) ∧ s.memUp 0x1000_C020 8 ≠ none ∧
     (s.pod.switchOps[0]?).map (·.isMcast) = some false) ∧
    (let s := answering
     ∃ c, s.copyOf 0 1 = some c ∧ c.kind = .cpyPeer ∧ c.status = none ∧ c.vol ≤ c.pos ∧ c.vol ≠ 0 ∧ s.copyHeld c = false ∧
       s.peerSide c = .single ∧
      (replayed s 1 (s.recordKey c)).brings (.answer ⟨0, 1, 0x11, 0⟩) (s.recordKey c) = some (1, s.recordKey c)) ∧
    (∀ w ∈ [Arriving.accept ⟨1, 63⟩, .abort ⟨1, 63⟩], (replayed (pool [gangNode .ready] base) 0 0).brings w 0 = some (0, 0)) ∧
    ((gangNode .ready).gangOpen = true ∧ 63 < (gangNode .ready).record.gangn ∧ 63 ≠ (gangNode .ready).record.gangix ∧
      (gangNode .ready).gangOver = false) ∧
    (let s := switched true base
     let e := arrival s 8 0x1000_C020
     let r := replayed s 8 0x1000_C020
     r.dudel.nextDelivery = some (0, e) ∧ (s.pod.switchOps[0]?).isSome = true ∧
     r.brings (.switch ⟨0, 5, 0, 0, [], none⟩) 0x1000_C020 = some (8, 0x1000_C020) ∧
     leNat ((e.payload.drop 2).take 4) = 8 ∧ leNat ((e.payload.drop 6).take 8) = 0x1000_C020) ∧
    (let r := replayed base 1 0x1000_0000
     r.brings (.data [5]) 0x1000_0000 = some (1, 0x1000_0000) ∧
     r.brings (.data [5, 6]) 0x1000_0000 ≠ some (1, 0x1000_0000)) := by
  and_intros <;> decide +kernel
theorem witness_debuggers :
    (∀ p ∈ [0, 1], (replaying p base).dudel.replay = true ∧ (replaying p base).pod.halted = false) ∧
    ((replaying 0 base).dudel.nextDelivery = some (0, ⟨2, 31, 5, [1, 2, 3, 4, 5, 6, 7, 8]⟩) ∧
      (replaying 1 base).dudel.nextDelivery = some (1, ⟨3, 9, 6, [0, 0, 1, 0, 0, 0] ++ leBytes 8 0x1000_0000⟩) ∧
      [(5 : Byte)].length = leNat (((([0, 0, 1, 0, 0, 0] ++ leBytes 8 0x1000_0000 : List Byte)).drop 2).take 4)) ∧
    ((hand (fun h => { h with status := .waiting .stop }) base).hand.status = .waiting .stop ∧ srecEn base.hand.csr.srecctl = false) ∧
    ((asked (Trap.mk' .breakpoint 31) 1 base).brkRecord (asked (Trap.mk' .breakpoint 31) 1 base).hand = some 1) ∧
    (hand (fun h => { h with status := .stopped }) base).hand.status = .stopped ∧
    (4095 + [(7 : Byte)].length ≤ 4096 ∧ base.hand.canonical = true ∧ (base.hand.csr.write 0x010 3).isSome = true) ∧
    (base.hand.status ≠ .stopped ∧ base.hand.status ≠ .none) := by and_intros <;> decide +kernel
theorem witness_PodEventsComplete :
    (23 < 24 ∧ (numbered false base).pod.devNumber.isSome = true ∧ mfind (numbered false base).pod.ports 22 = none ∧
      mfind (numbered true base).pod.ports 23 = some ⟨true, 2⟩) ∧
    (let n := gangNode .ready
     (pool [n] base).nodeOf 1 = some n ∧ 63 < n.record.gangn ∧ 63 ≠ n.record.gangix ∧ n.gangOpen = true ∧ base.pod.halted = false ∧
      n.unheard.head? = some 63 ∧ n.gangOver = false ∧ 1 < n.record.gangn) ∧
    base.noDudel ∧
    (∀ mc ∈ [false, true], ((switched mc base).pod.switchOps[0]?).map (·.isMcast) = some mc ∧ (switched mc base).noDudel ∧
      (switched mc base).memUp 0x1000_C020 8 = some true ∧ ((switched mc base).pod.switchOps[0]?).any (fun op =>
        ((switched mc base).memUp op.src ((switched mc base).switchSpan op)).isSome) = true) := by and_intros <;> decide +kernel
theorem witness_DebuggerEventsComplete :
    ((hand (fun h => { h with status := .waiting .stop }) base).hand.status = .waiting .stop ∧ base.hand.csr.stripno = 0) ∧
    ((hand (fun h => { h with status := .stopped }) base).hand.status = .stopped ∧ (31 : Fld5) ≠ 0) ∧
    ((replaying 0 base).dudel.replay = true ∧ (replaying 0 base).pod.halted = false ∧
      (replaying 0 base).dudel.nextDelivery = some (0, ⟨2, 31, 5, [1, 2, 3, 4, 5, 6, 7, 8]⟩)) := by decide +kernel
theorem witness_PodAndDebugger : (numbered true base).pod.devNumber ≠ none ∧ base.hand.status ≠ .stopped := by decide +kernel

end Sys2Proof.Tests
end

section
/-!
## Every step keeps memory in canonical form (O6)

`State.canonical` asks four things: the two byte maps of memory, live and published, the byte maps of the hand that runs, and
those of every other hand are in canonical form. Each function of the model that makes a state, a hand or a byte map has one
lemma here that says it keeps the form. The lemma bears the function's name, and its ending says what the function answers with:

* `_canonical`: a state, a hand or the contents of memory (or a pair that begins with one);
* `_keeps`: a `Run` or an `Outcome`; a `Run` that stops leaves a state too, and that state has to be canonical as well;
* `_gives` and `_yields`: an `Except` whose errors hold no state, and an `Option`;
* `_wf`: a byte map; `_snap`: an `Order`, whose snapshot stays the same.

They stand in the order of the model's files, each after what it calls; `step_keeps` is the last. A function that writes only
fields in which there is no byte map is done by the hypothesis itself, since `State.canonical` does not read those fields; the
lemmas `framed` say so for a record update of any such fields.
-/
namespace Sys2Proof.Machine

/-! ### Rules -/

/-- A stop leaves a canonical state. -/
def Stop.Canonical : Stop → Prop
  | .trap _ s => s.canonical = true
  | .wait _ s => s.canonical = true
  | .rewound s => s.canonical = true

/-- The contents of memory, live and published, are in canonical form. -/
def MemState.Canonical (m : MemState) : Prop := m.live.wf = true ∧ m.pub.wf = true

/-- A run that goes on gives what `P` says, and one that stops leaves a canonical state. -/
def Run.Keeps {α : Type} (P : α → Prop) : Run α → Prop
  | .ok a => P a
  | .error e => e.Canonical

/-- What a computation answers, where it answers, meets `P`. -/
def Gives {ε α : Type} (P : α → Prop) : Except ε α → Prop
  | .ok a => P a
  | .error _ => True

/-- What an option holds meets `P`. -/
def Yields {α : Type} (P : α → Prop) : Option α → Prop
  | some a => P a
  | none => True

/-- The next state of an outcome, where there is one, is canonical. -/
def OutcomeCanonical : Host.Outcome State Fault Refusal → Prop
  | .next s => s.canonical = true
  | _ => True

section
variable {ε α β : Type} {P : α → Prop} {Q : β → Prop}

theorem Run.Keeps.bind {x : Run α} {f : α → Run β} (hx : x.Keeps P) (hf : ∀ a, P a → (f a).Keeps Q) : Run.Keeps Q (x >>= f) :=
  match x, hx with
  | .ok a, h => hf a h
  | .error _, h => h

theorem Run.Keeps.pure {a : α} (h : P a) : Run.Keeps P (Pure.pure a) := h

theorem Gives.bind {x : Except ε α} {f : α → Except ε β} (hx : Gives P x) (hf : ∀ a, P a → Gives Q (f a)) : Gives Q (x >>= f) :=
  match x, hx with
  | .ok a, h => hf a h
  | .error _, _ => trivial

theorem Gives.err {e : ε} : Gives P (.error e : Except ε α) := trivial

theorem Gives.ite {c : Prop} [Decidable c] {x y : Except ε α} (hx : Gives P x) (hy : Gives P y) : Gives P (if c then x else y) := by
  split
  · exact hx
  · exact hy

theorem Gives.ite_bind {c : Prop} [Decidable c] {x y : Except ε α} {f : α → Except ε β} (hx : Gives P x) (hy : Gives P y)
    (hf : ∀ a, P a → Gives Q (f a)) : Gives Q (if c then x >>= f else y >>= f) :=
  Gives.ite (hx.bind hf) (hy.bind hf)

theorem Run.Keeps.ite {c : Prop} [Decidable c] {x y : Run α} (hx : x.Keeps P) (hy : y.Keeps P) : Run.Keeps P (if c then x else y) := by
  split
  · exact hx
  · exact hy

theorem Run.Keeps.ite_bind {c : Prop} [Decidable c] {x y : Run α} {f : α → Run β} (hx : x.Keeps P) (hy : y.Keeps P)
    (hf : ∀ a, P a → (f a).Keeps Q) : Run.Keeps Q (if c then x >>= f else y >>= f) :=
  Run.Keeps.ite (hx.bind hf) (hy.bind hf)

/-- A branch that chooses the next state. -/
theorem Run.Keeps.ite_state {c : Prop} [Decidable c] {x y : Run State} {f : State → Run β} (hx : x.Keeps (·.canonical = true))
    (hy : y.Keeps (·.canonical = true)) (hf : ∀ s, s.canonical = true → (f s).Keeps Q) :
    Run.Keeps Q (if c then x >>= f else y >>= f) :=
  Run.Keeps.ite_bind hx hy hf

/-- A check made only when `c`. -/
theorem Run.Keeps.if_then {c : Prop} [Decidable c] {x : Run PUnit} {f : PUnit → Run β} (hx : x.Keeps fun _ => True)
    (hf : ∀ u, (f u).Keeps Q) : Run.Keeps Q (if c then x >>= f else f ⟨⟩) :=
  Run.Keeps.ite (hx.bind fun u _ => hf u) (hf _)

/-- A check made only when not `c`. -/
theorem Run.Keeps.if_else {c : Prop} [Decidable c] {x : Run PUnit} {f : PUnit → Run β} (hx : x.Keeps fun _ => True)
    (hf : ∀ u, (f u).Keeps Q) : Run.Keeps Q (if c then f ⟨⟩ else x >>= f) :=
  Run.Keeps.ite (hf _) (hx.bind fun u _ => hf u)

theorem Gives.if_then {c : Prop} [Decidable c] {x : Except ε PUnit} {f : PUnit → Except ε β} (hx : Gives (fun _ => True) x)
    (hf : ∀ u, Gives Q (f u)) : Gives Q (if c then x >>= f else f ⟨⟩) :=
  Gives.ite (hx.bind fun u _ => hf u) (hf _)

theorem Gives.map {x : Except ε α} {f : α → β} (hx : Gives P x) (hf : ∀ a, P a → Q (f a)) : Gives Q (x.map f) :=
  match x, hx with
  | .ok a, h => hf a h
  | .error _, _ => trivial

theorem Run.Keeps.ok {x : Run α} {a : α} (hx : x.Keeps P) (h : x = .ok a) : P a := by subst h; exact hx
theorem Run.Keeps.error {x : Run α} {e : Stop} (hx : x.Keeps P) (h : x = .error e) : e.Canonical := by subst h; exact hx
theorem Gives.ok {x : Except ε α} {a : α} (hx : Gives P x) (h : x = .ok a) : P a := by subst h; exact hx
theorem Yields.some {x : Option α} {a : α} (hx : Yields P x) (h : x = Option.some a) : P a := by subst h; exact hx

theorem fst_canonical {t : State} {b : β} {x : State × β} (hx : x.1.canonical = true) (h : x = (t, b)) : t.canonical = true := by
  subst h; exact hx

theorem Yields.ite {c : Prop} [Decidable c] {x y : Option α} (hx : Yields P x) (hy : Yields P y) : Yields P (if c then x else y) := by
  split
  · exact hx
  · exact hy

theorem Yields.map {x : Option α} {f : α → β} (hx : Yields P x) (hf : ∀ a, P a → Q (f a)) : Yields Q (x.map f) :=
  match x, hx with
  | Option.some a, h => hf a h
  | none, _ => trivial

theorem Yields.getD {x : Option α} {a : α} (hx : Yields P x) (ha : P a) : P (x.getD a) :=
  match x, hx with
  | Option.some _, h => h
  | none, _ => ha

theorem Gives.pure_fst {t : State} {b : β} (ht : t.canonical = true) :
    Gives (·.1.canonical = true) (pure (t, b) : Except ε (State × β)) := ht

/-- An invariant of a fold. -/
theorem foldl_inv {σ : Type} (I : σ → Prop) {f : σ → β → σ} {l : List β} {a : σ} (hf : ∀ a b, I a → I (f a b)) (ha : I a) :
    I (l.foldl f a) := by
  induction l generalizing a with
  | nil => exact ha
  | cons b l ih => exact ih (hf a b ha)

theorem foldlM_keeps {σ : Type} {I : σ → Prop} {f : σ → β → Run σ} {l : List β} {a : σ}
    (hf : ∀ a b, I a → (f a b).Keeps I) (ha : I a) : Run.Keeps I (l.foldlM f a) := by
  induction l generalizing a with
  | nil => exact ha
  | cons b l ih => exact (hf a b ha).bind fun _ h => ih h

theorem foldlM_gives {σ : Type} {I : σ → Prop} {f : σ → β → Except ε σ} {l : List β} {a : σ}
    (hf : ∀ a b, I a → Gives I (f a b)) (ha : I a) : Gives I (l.foldlM f a) := by
  induction l generalizing a with
  | nil => exact ha
  | cons b l ih => exact (hf a b ha).bind fun _ h => ih h
end

theorem OutcomeCanonical.next {o : Host.Outcome State Fault Refusal} {t : State} (ho : OutcomeCanonical o) (h : o = .next t) :
    t.canonical = true := by subst h; exact ho

theorem State.getD_canonical {x : Option State} {t : State} (hx : Yields (·.canonical = true) x) (ht : t.canonical = true) :
    (x.getD t).canonical = true :=
  hx.getD (P := fun s : State => s.canonical = true) ht

/-- A fold of steps that keep the state canonical. -/
theorem foldl_canonical {β : Type} {f : State → β → State} {l : List β} {s : State}
    (hf : ∀ s b, s.canonical = true → (f s b).canonical = true) (h : s.canonical = true) : (l.foldl f s).canonical = true :=
  foldl_inv (fun s : State => s.canonical = true) hf h

/-- A fold that carries a state and more. -/
theorem foldl_fst_canonical {β γ : Type} {f : State × γ → β → State × γ} {l : List β} {a : State × γ}
    (hf : ∀ a b, a.1.canonical = true → (f a b).1.canonical = true) (h : a.1.canonical = true) : (l.foldl f a).1.canonical = true :=
  foldl_inv (fun a : State × γ => a.1.canonical = true) hf h

/-- A fold of steps that keep a hand canonical. -/
theorem foldl_hand_canonical {β : Type} {f : Hand → β → Hand} {l : List β} {g : Hand}
    (hf : ∀ g b, g.canonical = true → (f g b).canonical = true) (h : g.canonical = true) : (l.foldl f g).canonical = true :=
  foldl_inv (fun g : Hand => g.canonical = true) hf h

/-! ### The parts -/

section
variable {s t : State} {g h : Hand}

theorem Hand.canonical_iff : h.canonical = true ↔ Mem.wf h.v = true ∧ h.ord.snap.wf = true ∧ ∀ p ∈ h.producers, Mem.wf p.was = true := by
  simp [Hand.canonical, and_assoc]

theorem State.canonical_iff : s.canonical = true ↔ s.mem.live.wf = true ∧ s.mem.pub.wf = true ∧ s.hand.canonical = true ∧
    ∀ g ∈ s.others, g.canonical = true := by
  simp [State.canonical, and_assoc]

theorem State.live_wf (hs : s.canonical = true) : s.mem.live.wf = true := (State.canonical_iff.1 hs).1
theorem State.pub_wf (hs : s.canonical = true) : s.mem.pub.wf = true := (State.canonical_iff.1 hs).2.1
theorem State.mem_canonical (hs : s.canonical = true) : s.mem.Canonical := ⟨State.live_wf hs, State.pub_wf hs⟩
theorem State.hand_canonical (hs : s.canonical = true) : s.hand.canonical = true := (State.canonical_iff.1 hs).2.2.1
theorem State.others_canonical (hs : s.canonical = true) : ∀ g ∈ s.others, g.canonical = true := (State.canonical_iff.1 hs).2.2.2
theorem Hand.v_wf (hh : h.canonical = true) : Mem.wf h.v = true := (Hand.canonical_iff.1 hh).1
theorem Hand.snap_wf (hh : h.canonical = true) : h.ord.snap.wf = true := (Hand.canonical_iff.1 hh).2.1
theorem Hand.was_wf (hh : h.canonical = true) : ∀ p ∈ h.producers, Mem.wf p.was = true := (Hand.canonical_iff.1 hh).2.2

/-- A hand whose byte maps are another's. -/
theorem Hand.canonical_of (hg : g.canonical = true) (hv : h.v = g.v := by dsimp only) (hs : h.ord.snap = g.ord.snap := by dsimp only)
    (hp : h.producers = g.producers := by dsimp only) : h.canonical = true := by
  unfold Hand.canonical at *
  rwa [hv, hs, hp]

/-- A state whose byte maps are another's. -/
theorem State.canonical_of (hs : s.canonical = true) (hl : t.mem.live = s.mem.live := by dsimp only) (hp : t.mem.pub = s.mem.pub := by dsimp only)
    (ho : t.others = s.others := by dsimp only) (hv : t.hand.v = s.hand.v := by dsimp only) (hn : t.hand.ord.snap = s.hand.ord.snap := by dsimp only)
    (hr : t.hand.producers = s.hand.producers := by dsimp only) : t.canonical = true := by
  unfold State.canonical Hand.canonical at *
  rwa [hl, hp, ho, hv, hn, hr]

theorem State.canonical_of_hand (hs : s.canonical = true) (hh : t.hand.canonical = true) (hl : t.mem.live = s.mem.live := by dsimp only)
    (hp : t.mem.pub = s.mem.pub := by dsimp only) (ho : t.others = s.others := by dsimp only) : t.canonical = true :=
  State.canonical_iff.2 ⟨hl ▸ State.live_wf hs, hp ▸ State.pub_wf hs, hh, ho ▸ State.others_canonical hs⟩

theorem State.canonical_of_mem (hs : s.canonical = true) (hm : t.mem.Canonical)
    (hh : t.hand = s.hand := by dsimp only) (ho : t.others = s.others := by dsimp only) : t.canonical = true :=
  State.canonical_iff.2 ⟨hm.1, hm.2, hh ▸ State.hand_canonical hs, ho ▸ State.others_canonical hs⟩

theorem State.canonical_of_others (hs : s.canonical = true) (hh : t.hand.canonical = true) (ho : ∀ g ∈ t.others, g.canonical = true)
    (hl : t.mem.live = s.mem.live := by dsimp only) (hp : t.mem.pub = s.mem.pub := by dsimp only) : t.canonical = true :=
  State.canonical_iff.2 ⟨hl ▸ State.live_wf hs, hp ▸ State.pub_wf hs, hh, ho⟩

theorem State.ite_canonical {c : Prop} [Decidable c] (hs : s.canonical = true) (ht : t.canonical = true) :
    (if c then s else t).canonical = true := by
  split
  · exact hs
  · exact ht

theorem Hand.ite_canonical {c : Prop} [Decidable c] (hg : g.canonical = true) (hh : h.canonical = true) :
    (if c then g else h).canonical = true := by
  split
  · exact hg
  · exact hh

theorem State.with_hand (hs : s.canonical = true) (hh : h.canonical = true) : ({ s with hand := h } : State).canonical = true :=
  State.canonical_of_hand hs hh

theorem State.with_mem {m : MemState} (hs : s.canonical = true) (hm : m.Canonical) : ({ s with mem := m } : State).canonical = true :=
  State.canonical_of_mem hs hm

theorem State.with_hands {l : List Hand} (hs : s.canonical = true) (hh : h.canonical = true) (hl : ∀ g ∈ l, g.canonical = true) :
    ({ s with hand := h, others := l } : State).canonical = true :=
  State.canonical_of_others hs hh hl

theorem State.with_csr {c : Csrs} (hs : s.canonical = true) : ({ s with hand := { s.hand with csr := c } } : State).canonical = true := hs

theorem Hand.with_csr {c : Csrs} (hh : h.canonical = true) : ({ h with csr := c } : Hand).canonical = true := hh

theorem Hand.with_ord {o : Order} (hh : h.canonical = true) (ho : o.snap = h.ord.snap) : ({ h with ord := o } : Hand).canonical = true :=
  Hand.canonical_of hh rfl ho

theorem Hand.canonical_of_v (hg : g.canonical = true) (hv : Mem.wf h.v = true) (hs : h.ord.snap = g.ord.snap := by dsimp only)
    (hp : h.producers = g.producers := by dsimp only) : h.canonical = true :=
  Hand.canonical_iff.2 ⟨hv, hs ▸ Hand.snap_wf hg, hp ▸ Hand.was_wf hg⟩

theorem Hand.canonical_of_producers (hg : g.canonical = true) (hp : ∀ p ∈ h.producers, Mem.wf p.was = true) (hv : h.v = g.v := by dsimp only)
    (hs : h.ord.snap = g.ord.snap := by dsimp only) : h.canonical = true :=
  Hand.canonical_iff.2 ⟨hv ▸ Hand.v_wf hg, hs ▸ Hand.snap_wf hg, hp⟩

theorem Hand.canonical_of_snap (hg : g.canonical = true) (hs : h.ord.snap.wf = true) (hv : h.v = g.v := by dsimp only)
    (hp : h.producers = g.producers := by dsimp only) : h.canonical = true :=
  Hand.canonical_iff.2 ⟨hv ▸ Hand.v_wf hg, hs, hp ▸ Hand.was_wf hg⟩
/-! ### Frames: what differs only outside the byte maps

One lemma for each shape of record update: every field that holds no byte map is a variable, so it covers an
update of any of them. -/

theorem Hand.framed
    {status id core slot dispatchCore task asid taskid member prio x p streams lq handles bound dealer inbox pc loops frame convoy
    arrived csr strip jobs sched}
    (hh : h.canonical = true) :
    Hand.canonical { h with
      status, id, core, slot, dispatchCore, task, asid, taskid, member, prio, x, p, streams, lq, handles, bound, dealer, inbox, pc,
      loops, frame, convoy, arrived, csr, strip, jobs, sched } = true := hh

theorem Hand.framed_ord
    {status id core slot dispatchCore task asid taskid member prio x p streams lq handles bound dealer inbox pc loops frame convoy
    arrived csr strip jobs sched serial pins hb prec wseq fences links known sawTiles epoch acks seen}
    (hh : h.canonical = true) :
    Hand.canonical { h with
      status, id, core, slot, dispatchCore, task, asid, taskid, member, prio, x, p, streams, lq, handles, bound, dealer, inbox, pc,
      loops, frame, convoy, arrived, csr, strip, jobs, sched
      ord := { h.ord with
        serial, pins, hb, prec, wseq, fences, links, known, sawTiles, epoch, acks, seen } } = true := hh

theorem State.framed
    {agenda latch freeCtr cores fields serials asids cached queues ctlSeq tasks copies arrivals xchgs seats regions boot measured
    firstUp faults pool poolCopy pod dudel}
    (hs : s.canonical = true) :
    State.canonical { s with
      agenda, latch, freeCtr, cores, fields, serials, asids, cached, queues, ctlSeq, tasks, copies, arrivals, xchgs, seats, regions,
      boot, measured, firstUp, faults, pool, poolCopy, pod, dudel } = true := hs

theorem State.framed_hand
    {agenda latch freeCtr cores fields serials asids cached queues ctlSeq tasks copies arrivals xchgs seats regions boot measured
    firstUp faults pool poolCopy pod dudel status id core slot dispatchCore task asid taskid member prio x p streams lq handles
    bound dealer inbox pc loops frame convoy arrived csr strip jobs sched}
    (hs : s.canonical = true) :
    State.canonical { s with
      agenda, latch, freeCtr, cores, fields, serials, asids, cached, queues, ctlSeq, tasks, copies, arrivals, xchgs, seats, regions,
      boot, measured, firstUp, faults, pool, poolCopy, pod, dudel
      hand := { s.hand with
        status, id, core, slot, dispatchCore, task, asid, taskid, member, prio, x, p, streams, lq, handles, bound, dealer, inbox,
        pc, loops, frame, convoy, arrived, csr, strip, jobs, sched } } = true := hs

theorem State.framed_hand_ord
    {agenda latch freeCtr cores fields serials asids cached queues ctlSeq tasks copies arrivals xchgs seats regions boot measured
    firstUp faults pool poolCopy pod dudel status id core slot dispatchCore task asid taskid member prio x p streams lq handles
    bound dealer inbox pc loops frame convoy arrived csr strip jobs sched serial pins hb prec wseq fences links known sawTiles
    epoch acks seen}
    (hs : s.canonical = true) :
    State.canonical { s with
      agenda, latch, freeCtr, cores, fields, serials, asids, cached, queues, ctlSeq, tasks, copies, arrivals, xchgs, seats, regions,
      boot, measured, firstUp, faults, pool, poolCopy, pod, dudel
      hand := { s.hand with
        status, id, core, slot, dispatchCore, task, asid, taskid, member, prio, x, p, streams, lq, handles, bound, dealer, inbox,
        pc, loops, frame, convoy, arrived, csr, strip, jobs, sched
        ord := { s.hand.ord with
          serial, pins, hb, prec, wseq, fences, links, known, sawTiles, epoch, acks, seen } } } = true := hs

theorem State.framed_mem
    {agenda latch freeCtr cores fields serials asids cached queues ctlSeq tasks copies arrivals xchgs seats regions boot measured
    firstUp faults pool poolCopy pod dudel perfCtr notes gifts tags heel tokens bad badHands ticket ticketInF1 reserved}
    (hs : s.canonical = true) :
    State.canonical { s with
      agenda, latch, freeCtr, cores, fields, serials, asids, cached, queues, ctlSeq, tasks, copies, arrivals, xchgs, seats, regions,
      boot, measured, firstUp, faults, pool, poolCopy, pod, dudel
      mem := { s.mem with
        perfCtr, notes, gifts, tags, heel, tokens, bad, badHands, ticket, ticketInF1, reserved } } = true := hs

theorem State.framed_with_hand
    {agenda latch freeCtr cores fields serials asids cached queues ctlSeq tasks copies arrivals xchgs seats regions boot measured
    firstUp faults pool poolCopy pod dudel}
    (hs : s.canonical = true) (hh : h.canonical = true) :
    State.canonical { s with
      agenda, latch, freeCtr, cores, fields, serials, asids, cached, queues, ctlSeq, tasks, copies, arrivals, xchgs, seats, regions,
      boot, measured, firstUp, faults, pool, poolCopy, pod, dudel
      hand := h } = true := State.canonical_of_hand hs hh

end

section
variable {s : State} {h : Hand} {m : MemState}

/-! ### Memory -/

theorem MemState.publish_canonical {k : Nat} {b : Byte} (hm : m.Canonical) : (m.publish k b).Canonical :=
  ⟨hm.1, Mem.wf_put _ _ _ hm.2⟩

theorem MemState.useLine_canonical {line : Nat} (hm : m.Canonical) : (m.useLine line).Canonical := by
  rw [useLine_tags]; exact hm

theorem MemState.pubFor_wf (hm : m.Canonical) : (m.pubFor h).wf = true := Mem.wf_putAll _ _ hm.2

theorem MemState.foldl_canonical {β : Type} {f : MemState → β → MemState} {l : List β}
    (hf : ∀ m b, m.Canonical → (f m b).Canonical) (hm : m.Canonical) : (l.foldl f m).Canonical :=
  foldl_inv MemState.Canonical hf hm

theorem rising_iff_pairwise {α : Type} {m : SMap α} : rising m = true ↔ m.Pairwise (fun a b => a.1 < b.1) := by
  induction m with
  | nil => simp [rising]
  | cons c m ih => exact (rising_cons c.1 c.2 m).trans (by simp [Above, ih])

/-- The canonical form as a list: addresses strictly rising, no byte zero. -/
theorem Mem.wf_iff {m : Mem} : m.wf = true ↔ m.Pairwise (fun a b => a.1 < b.1) ∧ ∀ c ∈ m, c.2 ≠ 0 := by
  simp [Mem.wf, rising_iff_pairwise]

theorem Mem.wf_filter {m : Mem} {p : Host.Cell → Bool} (hm : m.wf = true) : Mem.wf (m.filter p) = true :=
  have ⟨hr, hz⟩ := Mem.wf_iff.1 hm
  Mem.wf_iff.2 ⟨hr.filter p, fun c hc => hz c (List.mem_of_mem_filter hc)⟩

/-- Two canonical maps, all addresses of the first below all of the second, in a row. -/
theorem Mem.wf_append {m n : Mem} (hm : m.wf = true) (hn : n.wf = true) (h : ∀ c ∈ m, ∀ d ∈ n, c.1 < d.1) : Mem.wf (m ++ n) = true :=
  have ⟨hmr, hmz⟩ := Mem.wf_iff.1 hm
  have ⟨hnr, hnz⟩ := Mem.wf_iff.1 hn
  Mem.wf_iff.2 ⟨List.pairwise_append.2 ⟨hmr, hnr, h⟩, List.forall_mem_append.2 ⟨hmz, hnz⟩⟩

/-! ### Hands -/

theorem State.modHand_canonical {id : Nat} {f : Hand → Hand} (hs : s.canonical = true)
    (hf : ∀ h, h.canonical = true → (f h).canonical = true) : (s.modHand id f).canonical = true := by
  have ho := State.others_canonical hs
  unfold State.modHand
  split
  · exact State.canonical_of_hand hs (hf _ (State.hand_canonical hs))
  · refine State.canonical_of_others hs (State.hand_canonical hs :) fun g hg => ?_
    obtain ⟨k, hk, rfl⟩ := List.mem_map.1 hg
    split
    · exact hf k (ho k hk)
    · exact ho k hk

/-! ### Machine/State -/

theorem Hand.empty_canonical : Hand.empty.canonical = true := rfl

theorem State.reset_canonical : State.reset.canonical = true := rfl

/-! ### Machine/Ops -/

theorem State.modCore_canonical {c : Nat} {f : Core → Core} (hs : s.canonical = true) : (s.modCore c f).canonical = true := hs

theorem State.modField_canonical {f : Nat} {g : Field → Field} (hs : s.canonical = true) : (s.modField f g).canonical = true :=
  hs

theorem State.modTile_canonical {c t : Nat} {f : Tile → Tile} (hs : s.canonical = true) : (s.modTile c t f).canonical = true :=
  State.modCore_canonical hs

theorem State.modTask_canonical {id : Nat} {f : Task → Task} (hs : s.canonical = true) : (s.modTask id f).canonical = true := hs

theorem State.choose_canonical {n : Nat} (hs : s.canonical = true) : (s.choose n).1.canonical = true := by
  unfold State.choose
  split <;> exact hs

theorem Hand.setX_canonical {r : Fld5} {v : Reg64} (hh : h.canonical = true) : (h.setX r v).canonical = true :=
  Hand.ite_canonical hh hh

theorem State.chooseRead_canonical {j n : Nat} (hs : s.canonical = true) : (s.chooseRead j n).1.canonical = true := by
  unfold State.chooseRead
  split
  · exact hs
  · split
    · exact hs
    · exact State.choose_canonical hs

theorem State.readDone_canonical (hs : s.canonical = true) : s.readDone.canonical = true := State.ite_canonical hs hs

theorem State.chooseFree_canonical {c n : Nat} (hs : s.canonical = true) : (s.chooseFree c n).1.canonical = true :=
  State.choose_canonical hs

theorem Hand.setP_canonical {r : Nat} {v : BitVec 1024} (hh : h.canonical = true) : (h.setP r v).canonical = true :=
  Hand.ite_canonical hh hh

theorem Hand.setVB_canonical {r o : Nat} {b : Byte} (hh : h.canonical = true) : (h.setVB r o b).canonical = true :=
  Hand.canonical_of_v hh (Mem.wf_put _ _ _ (Hand.v_wf hh)) rfl rfl

theorem Hand.setVN_canonical {r o w v : Nat} (hh : h.canonical = true) : (h.setVN r o w v).canonical = true :=
  Hand.canonical_of_v hh (Hand.wf_setVN h r o w v (Hand.v_wf hh)) rfl rfl

theorem Hand.canonical_append_producer {p : Producer} (hh : h.canonical = true) (hp : Mem.wf p.was = true) :
    Hand.canonical { h with producers := h.producers ++ [p] } = true :=
  Hand.canonical_of_producers hh (List.forall_mem_append.2 ⟨Hand.was_wf hh, List.forall_mem_singleton.2 hp⟩)

theorem Hand.produce_canonical {d : Dest} {cls : Option Nat} (hh : h.canonical = true) : (h.produce d cls).canonical = true :=
  Hand.ite_canonical hh (Hand.canonical_append_producer hh rfl)

theorem State.setX_canonical {r : Fld5} {v : Reg64} (hs : s.canonical = true) : (s.setX r v).canonical = true :=
  State.framed_with_hand hs (Hand.setX_canonical (State.hand_canonical hs))

theorem State.clearTag_canonical {line : Nat} (hs : s.canonical = true) : (s.clearTag line).canonical = true := by
  unfold State.clearTag
  split
  · exact hs
  · exact State.modHand_canonical hs fun _ h => h

theorem State.putLive_canonical {key : Nat} {b : Byte} (hs : s.canonical = true) : (s.putLive key b).canonical = true := by
  have put (t : State) (ht : t.canonical = true) :
      State.canonical { t with mem := { t.mem with live := t.mem.live.put key b, notes := mdel t.mem.notes key } } = true :=
    State.with_mem ht ⟨Mem.wf_put _ _ _ (State.live_wf ht), State.pub_wf ht⟩
  have ht := State.clearTag_canonical (line := lineOf key) hs
  unfold State.putLive
  dsimp only
  refine put _ (State.ite_canonical ?_ ht)
  split
  · exact ht
  · exact State.modCore_canonical ht

theorem State.putPub_canonical {key : Nat} {b : Byte} (hs : s.canonical = true) : (s.putPub key b).canonical = true := by
  unfold State.putPub
  exact State.canonical_of_mem (State.putLive_canonical hs)
    (MemState.publish_canonical (State.mem_canonical (State.putLive_canonical hs)))

theorem State.putPubAll_canonical {l : List (Nat × Byte)} (hs : s.canonical = true) : (s.putPubAll l).canonical = true :=
  foldl_canonical (fun _ _ h => State.putPub_canonical h) hs

theorem State.putLiveAll_canonical {l : List (Nat × Byte)} (hs : s.canonical = true) : (s.putLiveAll l).canonical = true :=
  foldl_canonical (fun _ _ h => State.putLive_canonical h) hs

theorem State.uses_canonical {key n : Nat} (hs : s.canonical = true) : (s.uses key n).canonical = true := by
  unfold State.uses
  exact State.canonical_of_mem hs (MemState.foldl_canonical (fun _ _ h => MemState.useLine_canonical h) (State.mem_canonical hs))

theorem State.physWrite_canonical {a : Nat} {l : List Byte} (hs : s.canonical = true) : (s.physWrite a l).canonical = true :=
  State.ite_canonical (State.putPubAll_canonical hs) hs

theorem State.stamp_canonical {task member seq key : Nat} {b : Byte} {plain : Bool} (hs : s.canonical = true) :
    (s.stamp task member seq key b plain).canonical = true :=
  State.modTask_canonical (State.framed_mem (State.putLive_canonical hs))

theorem State.retain_yields {w : Writer} {key : Nat} (hs : s.canonical = true) :
    Yields (·.canonical = true) (s.retain w key) := by
  unfold State.retain
  split
  · dsimp only
    split
    · exact hs
    · exact trivial
  · dsimp only
    split <;> exact hs

theorem State.retaining_canonical {w : Writer} {keys : List Nat} (hs : s.canonical = true) :
    (s.retaining w keys).1.canonical = true := by
  unfold State.retaining
  refine foldl_fst_canonical (fun _ _ h => ?_) hs
  split
  · rename_i e
    exact (State.retain_yields h).some e
  · exact h

theorem State.performByte_canonical {b : Buffered} (hs : s.canonical = true) : (s.performByte b).canonical = true := by
  unfold State.performByte
  split
  · rename_i e
    exact State.stamp_canonical ((State.retain_yields hs).some e)
  · exact hs

theorem Order.addAck_snap {o : Order} {a : Ack} : (o.addAck a).snap = o.snap := by
  unfold Order.addAck
  repeat' split
  all_goals rfl

theorem Order.ackStore_snap {o : Order} {cls : Nat} {lanes : List Nat} : (o.ackStore cls lanes).snap = o.snap := by
  unfold Order.ackStore
  split
  · exact Order.addAck_snap
  · exact foldl_inv (fun q : Order => q.snap = o.snap) (fun q _ hq => Order.addAck_snap.trans hq) rfl

theorem State.drain_canonical (hs : s.canonical = true) : s.drain.canonical = true := by
  unfold State.drain
  dsimp only
  split
  · exact hs
  · have hp := foldl_canonical (f := State.performByte) (l := s.hand.strip.ssb.filter (fun x => !x.held))
      (s := { s with hand := { s.hand with strip := { s.hand.strip with ssb := s.hand.strip.ssb.filter (·.held) } } })
      (fun _ _ => State.performByte_canonical) hs
    exact State.with_hand hp (Hand.with_ord (State.hand_canonical hp)
      (foldl_inv (fun o : Order => o.snap = _) (fun o x ho => Order.ackStore_snap.trans ho) rfl))

theorem State.commit_canonical (hs : s.canonical = true) : s.commit.canonical = true :=
  State.ite_canonical (State.framed_hand (State.drain_canonical hs)) hs

theorem State.advanceSerial_canonical (hs : s.canonical = true) : s.advanceSerial.canonical = true := by
  unfold State.advanceSerial
  dsimp only
  split <;> exact hs

theorem Hand.clearStripLocal_canonical (hh : h.canonical = true) : h.clearStripLocal.canonical = true :=
  Hand.canonical_iff.2 ⟨rfl, (Hand.snap_wf hh :), fun p hp => Hand.was_wf hh p (List.mem_of_mem_filter hp)⟩

theorem State.forget_canonical {task member : Nat} {seqs : List Nat} (hs : s.canonical = true) :
    (s.forget task member seqs).canonical = true := State.modTask_canonical hs

/-- A hand put back to its checkpoint (R148). -/
theorem State.rewind_canonical (hs : s.canonical = true) : s.rewind.canonical = true := by
  unfold State.rewind
  dsimp only
  split
  · exact hs
  · refine State.advanceSerial_canonical (State.with_hand (State.forget_canonical hs) ?_)
    exact Hand.canonical_iff.2 ⟨rfl, (Hand.snap_wf (State.hand_canonical hs) :), fun _ hp => nomatch hp⟩

theorem State.modQueue_canonical {q : Nat} {f : Queue → Queue} (hs : s.canonical = true) : (s.modQueue q f).canonical = true :=
  hs

theorem State.dropGrant_canonical (hs : s.canonical = true) : s.dropGrant.canonical = true := State.modCore_canonical hs

theorem State.flushFaults_canonical {n : Nat} (hs : s.canonical = true) : (s.flushFaults n).canonical = true := by
  induction n generalizing s with
  | zero => exact hs
  | succ n ih =>
    unfold State.flushFaults
    dsimp only
    split
    · exact hs
    split
    · exact ih (State.canonical_of (State.modQueue_canonical (State.physWrite_canonical hs)))
    · exact hs

theorem State.post_canonical {mk : Nat → FaultRec} {awaits : Bool} (hs : s.canonical = true) :
    (s.post mk awaits).canonical = true := State.flushFaults_canonical hs

theorem State.postEvent_canonical {c : Cause} {v : Reg64} {unit struct : Nat} {taskid : Reg64} (hs : s.canonical = true) :
    (s.postEvent c v unit struct taskid).canonical = true := State.post_canonical hs

theorem Hand.completed_canonical (hh : h.canonical = true) : h.completed.canonical = true :=
  Hand.canonical_of_producers hh (fun p hp => Hand.was_wf hh p (List.mem_of_mem_filter hp)) rfl rfl

theorem State.toSystemAt_canonical {t : Trap} {resumable : Bool} {tpc : Reg64} (hs : s.canonical = true) :
    (s.toSystemAt t resumable tpc).canonical = true := by
  have hr := State.ite_canonical (c := s.hand.strip.prot = true) (State.rewind_canonical hs) hs
  have hp {mk : Nat → FaultRec} := State.post_canonical (mk := mk) (awaits := true) hr
  exact State.framed_with_hand (State.dropGrant_canonical hp) (Hand.framed (Hand.completed_canonical (State.hand_canonical hp)))

theorem State.toSystem_canonical {t : Trap} {resumable : Bool} (hs : s.canonical = true) :
    (s.toSystem t resumable).canonical = true := State.toSystemAt_canonical hs

theorem State.inHand_canonical {t : Trap} {tpc : Reg64} {rwd : Bool} (hs : s.canonical = true) :
    (s.inHand t tpc rwd).canonical = true :=
  have hc := State.commit_canonical hs
  State.framed_with_hand hc (Hand.framed (Hand.completed_canonical (State.hand_canonical hc)))

theorem State.countBadAt_canonical {core : Nat} {t : Trap} (hs : s.canonical = true) : (s.countBadAt core t).canonical = true :=
  State.ite_canonical hs (State.ite_canonical (State.modField_canonical hs)
    (State.ite_canonical (State.modCore_canonical hs) hs))

theorem State.countBad_canonical {t : Trap} (hs : s.canonical = true) : (s.countBad t).canonical = true :=
  State.countBadAt_canonical hs

theorem State.retry_canonical {n : Nat} (hs : s.canonical = true) : (s.retry n).canonical = true := hs

theorem State.engineError_canonical {hand : Nat} {t : Trap} (hs : s.canonical = true) :
    (s.engineError hand t).canonical = true := State.modHand_canonical hs fun _ h => h

theorem State.retried_canonical (hs : s.canonical = true) : s.retried.canonical = true :=
  State.ite_canonical (State.toSystem_canonical hs) (State.retry_canonical (State.rewind_canonical hs))

theorem State.take_canonical {s0 : State} {t : Trap} (hs0 : s0.canonical = true) : (s0.take t).canonical = true := by
  have hs := State.countBad_canonical (t := t) hs0
  unfold State.take
  refine State.ite_canonical (State.retried_canonical hs) (State.ite_canonical (State.toSystem_canonical hs) ?_)
  refine State.ite_canonical (State.ite_canonical (State.toSystemAt_canonical hs)
    (State.inHand_canonical (State.rewind_canonical hs))) (State.ite_canonical (State.toSystem_canonical hs) ?_)
  split
  · exact State.retried_canonical (State.countBad_canonical hs)
  · exact State.inHand_canonical hs

theorem Hand.iterEnd_canonical {a b : Nat} (hh : h.canonical = true) : (h.iterEnd a b).canonical = true := by
  unfold Hand.iterEnd
  split
  · exact hh
  · exact Hand.ite_canonical hh hh

theorem Hand.advance_canonical {len : Nat} (hh : h.canonical = true) : (h.advance len).canonical = true := by
  unfold Hand.advance
  split
  · exact Hand.ite_canonical hh (Hand.ite_canonical hh (Hand.iterEnd_canonical hh))
  · split
    · exact hh
    · exact Hand.iterEnd_canonical hh

theorem State.retire_canonical {len : Nat} (hs : s.canonical = true) : (s.retire len).canonical = true :=
  State.framed_with_hand hs (Hand.framed (Hand.advance_canonical (State.hand_canonical hs)))

theorem State.jumpTo_canonical {pc : Reg64} (hs : s.canonical = true) : (s.jumpTo pc).canonical = true := hs

theorem Hand.stalled_canonical {b : Bool} (hh : h.canonical = true) : (h.stalled b).canonical = true := hh

theorem State.waits_canonical {w : Wait} (hs : s.canonical = true) : (s.waits w).canonical = true :=
  State.framed_with_hand hs (Hand.framed (Hand.stalled_canonical (State.hand_canonical hs)))

theorem State.heelStall_canonical {f : Nat} (hs : s.canonical = true) : (s.heelStall f).canonical = true :=
  State.ite_canonical hs (State.modField_canonical hs)

theorem State.trapped_canonical {t : Trap} (hs : s.canonical = true) : (s.trapped t).canonical = true :=
  State.ite_canonical hs (State.ite_canonical (State.ite_canonical (State.waits_canonical hs) (State.waits_canonical hs))
    (State.framed (State.take_canonical hs)))

theorem finish_keeps {r : Run State} (hr : Run.Keeps (·.canonical = true) r) : OutcomeCanonical (finish r) := by
  unfold finish
  split
  · exact hr
  · exact State.trapped_canonical hr
  · exact State.waits_canonical hr
  · exact hr

theorem State.guard_keeps {g : BitVec 3} (hs : s.canonical = true) : Run.Keeps (fun _ => True) (s.guard g) := by
  unfold State.guard
  split
  · exact trivial
  · dsimp only
    split
    · exact hs
    · exact trivial

theorem State.src_keeps {field : Nat} {r : Fld5} {trap : Bit} (hs : s.canonical = true) :
    Run.Keeps (fun _ => True) (s.src field r trap) := by
  unfold State.src
  split
  · split <;> exact hs
  · exact trivial

theorem State.need_keeps {r : Fld5} (hs : s.canonical = true) : Run.Keeps (fun _ => True) (s.need r) := State.src_keeps hs

theorem State.dest_keeps {r : Fld5} (hs : s.canonical = true) : Run.Keeps (fun _ => True) (s.dest r) := by
  unfold State.dest
  split
  · exact hs
  · exact trivial

theorem State.trap_keeps {α : Type} {t : Trap} {P : α → Prop} (hs : s.canonical = true) : Run.Keeps P (s.trap t) := hs

theorem State.wait_keeps {α : Type} {w : Wait} {P : α → Prop} (hs : s.canonical = true) : Run.Keeps P (s.wait w) := hs

theorem guarded_keeps {g : BitVec 3} {body : State → Run State} (hs : s.canonical = true)
    (hbody : ∀ t, t.canonical = true → Run.Keeps (·.canonical = true) (body t)) :
    OutcomeCanonical (guarded s g body) := by
  unfold guarded
  refine finish_keeps ?_
  refine (State.guard_keeps hs).bind fun _ _ => ?_
  split
  · exact hbody _ hs
  · exact State.retire_canonical hs

/-! ### Machine/Xlat -/

theorem State.walked_canonical {asid : BitVec 16} {va : Nat} (hs : s.canonical = true) :
    (s.walked asid va).canonical = true := by
  unfold State.walked
  split
  · exact hs
  · exact foldl_canonical (fun _ _ h => State.uses_canonical h) hs

theorem State.keepLeaf_canonical {asid : BitVec 16} {page : Nat} {l : Leaf} (hs : s.canonical = true) :
    (s.keepLeaf asid page l).canonical = true := hs

theorem State.leafFor_canonical {asid : BitVec 16} {va : Nat} {write : Bool} (hs : s.canonical = true) :
    (s.leafFor asid va write).1.canonical = true := by
  unfold State.leafFor
  extract_lets fresh page old
  clear_value fresh old
  rcases old with _ | c <;> rcases fresh with _ | l
  · exact State.walked_canonical hs
  · exact State.keepLeaf_canonical (State.walked_canonical hs)
  · dsimp only
    split
    · exact State.framed (State.walked_canonical (State.choose_canonical hs))
    · exact State.choose_canonical hs
  · dsimp only
    split
    · exact State.keepLeaf_canonical hs
    · split
      · exact State.keepLeaf_canonical (State.walked_canonical (State.choose_canonical hs))
      · exact State.choose_canonical hs

theorem State.markLeaf_canonical {l : Leaf} {write : Bool} (hs : s.canonical = true) : (s.markLeaf l write).canonical = true :=
  State.ite_canonical hs (State.putPubAll_canonical hs)

theorem Mem.copyFrame_wf {m : Mem} {own live : Nat} (hm : m.wf = true) : (Mem.copyFrame m own live).wf = true :=
  Mem.wf_putAll _ _ hm

theorem Hand.with_snap {n : Mem} (hh : h.canonical = true) (hn : n.wf = true) :
    Hand.canonical { h with ord := { h.ord with snap := n } } = true := Hand.canonical_of_snap hh hn

theorem State.shadowFirst_canonical {at' : Nat} {asid : BitVec 16} {side : Side} (hs : s.canonical = true) :
    (s.shadowFirst at' asid side).canonical = true := by
  have seen (g : Hand) (own live : Nat) (hg : g.canonical = true) : Hand.canonical (if s.ofSide asid side g then
      { g with ord := { g.ord with snap := g.ord.snap.copyFrame own live } } else g) = true :=
    Hand.ite_canonical (Hand.with_snap hg (Mem.copyFrame_wf (Hand.snap_wf hg))) hg
  have hl := State.putLiveAll_canonical
    (l := atAddr (shadowFrame (s.shadowRec at') (if decide (side = .b) then 2 else 1) * 4096)
      (s.mem.live.bytes (shadowFrame (s.shadowRec at') 0 * 4096) 4096)) hs
  unfold State.shadowFirst
  refine State.putPubAll_canonical (State.canonical_iff.2 ⟨?_, ?_, ?_, ?_⟩)
  all_goals dsimp only
  · exact State.live_wf hl
  · exact Mem.copyFrame_wf (State.pub_wf hs)
  · exact seen _ _ _ (State.hand_canonical hl)
  · exact List.forall_mem_map.2 fun g hg => seen _ _ _ (State.others_canonical hl g hg)

theorem State.target_gives {ag : Agent} {a : Access} {va level : Nat} {attr : Reg64} {phys off : Nat}
    (hs : s.canonical = true) :
    Gives (·.1.canonical = true) (s.target ag a va level attr phys off) := by
  have hf (at' : Nat) (side : Side) : (s.shadowFirst at' ag.asid side).canonical = true := State.shadowFirst_canonical hs
  unfold State.target
  dsimp only
  repeat' split
  all_goals simp [Gives, hs, hf]

theorem State.served_gives {a : Access} {va level key : Nat} : Gives (fun _ => True) (s.served a va level key) := by
  cases s.served a va level key with
  | ok => trivial
  | error => trivial

theorem State.targetServed_gives {ag : Agent} {a : Access} {va level : Nat} {attr : Reg64} {phys off : Nat}
    (hs : s.canonical = true) : Gives (·.1.canonical = true) (s.targetServed ag a va level attr phys off) := by
  unfold State.targetServed
  refine Gives.if_then State.served_gives fun _ => ?_
  have hu : (if attrBit attr 6 then s.uses phys 16 else s).canonical = true := State.ite_canonical (State.uses_canonical hs) hs
  generalize (if attrBit attr 6 then s.uses phys 16 else s) = u at hu ⊢
  dsimp only
  split
  · exact Gives.err
  · rename_i e
    exact State.served_gives.bind fun _ _ => (State.target_gives hu).ok e

theorem State.look_gives {ag : Agent} {a : Access} {va : Nat} (hs : s.canonical = true) :
    Gives (·.1.canonical = true) (s.look ag a va) := by
  have served {t : State} {level : Nat} {attr : Reg64} {phys off : Nat} {l : Option Leaf} (ht : t.canonical = true) :
      Gives (·.1.canonical = true) ((t.targetServed ag a va level attr phys off).map fun st => (st.1, st.2, l)) :=
    (State.targetServed_gives ht).map fun _ h => h
  unfold State.look
  dsimp only
  split
  · exact Gives.err
  split
  · generalize va - Config.benchWindow = o
    split
    · exact Gives.err
    · exact Gives.ite Gives.err (Gives.ite Gives.err (Gives.ite Gives.err hs))
  split
  · refine Gives.ite Gives.err ?_
    split
    · exact Gives.err
    · exact served hs
  split
  · exact Gives.err
  · exact Gives.err
  · exact Gives.err
  · refine Gives.ite Gives.err ?_
    split
    · exact Gives.err
    · exact served (State.leafFor_canonical hs)

theorem State.rebuilds_canonical {key w : Nat} (hs : s.canonical = true) : (s.rebuilds key w).canonical = true :=
  State.ite_canonical hs (State.ite_canonical (State.modCore_canonical hs) hs)

theorem State.marked_canonical {l : Option Leaf} {a : Access} (hs : s.canonical = true) : (s.marked l a).canonical = true := by
  unfold State.marked
  split
  · exact hs
  · exact State.markLeaf_canonical hs

theorem State.reached_canonical {l : Option Leaf} {a : Access} {t : Target} (hs : s.canonical = true) :
    (s.reached l a t).canonical = true := State.uses_canonical (State.marked_canonical hs)

theorem State.xlate_gives {ag : Agent} {a : Access} {va : Nat} (hs : s.canonical = true) :
    Gives (·.1.canonical = true) (s.xlate ag a va) := (State.look_gives hs).map fun _ h => State.reached_canonical h

theorem State.xlook_keeps {a : Access} {va : Reg64} (hs : s.canonical = true) :
    Run.Keeps (·.1.canonical = true) (s.xlook a va) := by
  unfold State.xlook
  split
  · rename_i e
    exact (State.look_gives hs).ok e
  · exact hs
  · exact hs

theorem State.stoppedAs_canonical {r : State} (hs : s.canonical = true) : (s.stoppedAs r).canonical = true := hs

theorem State.undone_keeps {α : Type} {P : α → Prop} {r : Run α} (hs : s.canonical = true) (hr : Run.Keeps P r) :
    Run.Keeps P (s.undone r) := by
  unfold State.undone
  split
  · exact State.stoppedAs_canonical hs
  · exact State.stoppedAs_canonical hs
  · exact hr

theorem State.performing_keeps {α : Type} {l : Option Leaf} {a : Access} {t : Target} {f : State → Run α} {P : α → Prop}
    (hs : s.canonical = true) (hf : ∀ t, t.canonical = true → Run.Keeps P (f t)) :
    Run.Keeps P (s.performing l a t f) := State.undone_keeps hs (hf _ (State.reached_canonical hs))

/-! ### Machine/View -/

theorem pickByte_canonical {pick : State → Nat → Nat → State × Nat} {whole : Nat → Bool} {seen : Option Nat}
    {acc : State × List Byte} {b : ByteView} (hp : ∀ s i j, s.canonical = true → (pick s i j).1.canonical = true)
    (ha : acc.1.canonical = true) :
    (pickByte pick whole seen acc b).1.canonical = true := hp _ _ _ (hp _ _ _ ha)

theorem pickBytes_canonical {pick : State → Nat → Nat → State × Nat} {key w : Nat} {views : List ByteView}
    (hpick : ∀ t i j, t.canonical = true → (pick t i j).1.canonical = true) (hs : s.canonical = true) :
    (pickBytes pick s key w views).1.canonical = true :=
  foldl_fst_canonical (fun _ _ h => pickByte_canonical (fun _ _ _ h₁ => hpick _ _ _ h₁) h) (hpick _ _ _ hs)

theorem State.pickRead_canonical {key w : Nat} {views : List ByteView} (hs : s.canonical = true) :
    (s.pickRead key w views).1.canonical = true :=
  State.readDone_canonical (pickBytes_canonical (fun _ _ _ h => State.chooseRead_canonical h) hs)

theorem State.viewBytes_canonical {c key w : Nat} (hs : s.canonical = true) : (s.viewBytes h c key w).1.canonical = true :=
  State.pickRead_canonical hs

theorem State.engineBytes_canonical {pick : State → Nat → Nat → State × Nat} {c key w : Nat} (hs : s.canonical = true)
    (hpick : ∀ t i j, t.canonical = true → (pick t i j).1.canonical = true) :
    (s.engineBytes pick h c key w).1.canonical = true := pickBytes_canonical (fun _ _ _ h₁ => hpick _ _ _ h₁) hs

theorem State.readable_keeps {key w access : Nat} (hs : s.canonical = true) :
    Run.Keeps (fun _ => True) (s.readable key w access) := by
  unfold State.readable
  split
  · exact hs
  · exact trivial

theorem State.sound_keeps {struct addr : Nat} (hs : s.canonical = true) : Run.Keeps (fun _ => True) (s.sound struct addr) := by
  unfold State.sound
  split
  · exact hs
  · exact trivial

theorem State.commits_keeps (hs : s.canonical = true) : Run.Keeps (·.canonical = true) s.commits := by
  unfold State.commits
  split
  · exact hs
  · exact State.commit_canonical hs

theorem State.soundBuffer_keeps {key w : Nat} (hs : s.canonical = true) : Run.Keeps (fun _ => True) (s.soundBuffer key w) := by
  unfold State.soundBuffer
  split
  · exact State.sound_keeps hs
  · exact trivial

theorem State.soundBytes_keeps {key w : Nat} (hs : s.canonical = true) : Run.Keeps (fun _ => True) (s.soundBytes key w) :=
  (State.soundBuffer_keeps hs).bind fun _ _ => State.sound_keeps hs

theorem State.watch_canonical {va w : Nat} {write : Bool} {elem : Nat} (hs : s.canonical = true) :
    (s.watch va w write elem).canonical = true := State.ite_canonical hs hs

theorem State.passPoint_canonical (hs : s.canonical = true) : s.passPoint.canonical = true :=
  State.with_hand hs (Hand.with_ord (State.hand_canonical hs)
    (foldl_inv (fun o : Order => o.snap = s.hand.ord.snap) (fun _ _ ho => ho) rfl))

theorem State.orderPoint_keeps (hs : s.canonical = true) : Run.Keeps (·.canonical = true) s.orderPoint := by
  unfold State.orderPoint
  refine (State.commits_keeps hs).bind fun _ h => ?_
  split
  · exact State.passPoint_canonical h
  · exact h

theorem State.chainBytes_canonical {k w : Nat} (hs : s.canonical = true) : (s.chainBytes k w).1.canonical = true := by
  unfold State.chainBytes
  split
  · exact hs
  · exact State.choose_canonical hs

theorem State.readTarget_keeps {a : Access} {cls : Nat} {t : Target} {va : Reg64} {w : Nat} (hs : s.canonical = true) :
    Run.Keeps (·.1.canonical = true) (s.readTarget a cls t va w) := by
  unfold State.readTarget
  split
  · refine (State.readable_keeps hs).bind fun _ _ => ?_
    split
    · refine (State.sound_keeps hs).bind fun _ _ => ?_
      split
      rename_i e
      exact fst_canonical (State.chainBytes_canonical hs) e
    split
    · exact State.rebuilds_canonical hs
    · exact (State.soundBytes_keeps hs).bind fun _ _ => State.viewBytes_canonical (State.rebuilds_canonical hs)
  · refine (State.readable_keeps hs).bind fun _ _ => (State.soundBytes_keeps hs).bind fun _ _ => ?_
    dsimp only
    split <;> exact State.viewBytes_canonical (State.rebuilds_canonical hs)
  · exact hs

theorem State.readElem_keeps {a : Access} {cls : Nat} {va : Reg64} {w elem : Nat} (hs : s.canonical = true) :
    Run.Keeps (·.1.canonical = true) (s.readElem a cls va w elem) :=
  (State.xlook_keeps hs).bind fun _ h => Run.Keeps.ite_state (State.orderPoint_keeps h) h fun _ h =>
    State.performing_keeps h fun _ h => State.readTarget_keeps (State.watch_canonical h)

theorem State.logWrite_canonical {cls k : Nat} {l : List Byte} (hs : s.canonical = true) :
    (s.logWrite cls k l).canonical = true := State.framed_hand_ord (State.modTask_canonical hs)

theorem State.storeRoom_keeps {k n : Nat} (hs : s.canonical = true) : Run.Keeps (·.canonical = true) (s.storeRoom k n) := by
  unfold State.storeRoom
  split
  · exact hs
  · refine (State.commits_keeps hs).bind fun _ h => ?_
    dsimp only
    split
    · exact State.heelStall_canonical h
    · exact h

theorem State.storeNow_canonical {cls : Nat} {lanes : List Nat} {page : Option Nat} {k : Nat} {l : List Byte}
    (hs : s.canonical = true) :
    (s.storeNow cls lanes page k l).canonical = true := by
  have hl := State.logWrite_canonical (cls := cls) (k := k) (l := l) hs
  have hp (b : List Buffered) := foldl_canonical (f := State.performByte) (l := b) (fun _ _ => State.performByte_canonical) hl
  unfold State.storeNow
  exact State.ite_canonical hl (State.ite_canonical (hp _)
    (State.with_hand (hp _) (Hand.with_ord (State.hand_canonical (hp _)) Order.ackStore_snap)))

theorem State.storePlain_keeps {cls : Nat} {lanes : List Nat} {page : Option Nat} {k : Nat} {l : List Byte}
    (hs : s.canonical = true) :
    Run.Keeps (·.canonical = true) (s.storePlain cls lanes page k l) :=
  (State.storeRoom_keeps hs).bind fun _ h => State.storeNow_canonical h

theorem State.storeLive_canonical {cls : Nat} {lanes : List Nat} {k : Nat} {l : List Byte} (hs : s.canonical = true) :
    (s.storeLive cls lanes k l).canonical = true :=
  have hp := foldl_canonical (fun _ _ => State.stamp_canonical) (State.logWrite_canonical (State.retaining_canonical hs))
  State.with_hand hp (Hand.with_ord (State.hand_canonical hp) Order.ackStore_snap)

theorem State.storeSc_canonical {cls : Nat} {lanes : List Nat} {k : Nat} {l : List Byte} (hs : s.canonical = true) :
    (s.storeSc cls lanes k l).canonical = true :=
  have hp := State.putPubAll_canonical hs
  State.with_hand hp (Hand.with_ord (State.hand_canonical hp) Order.ackStore_snap)

theorem State.writePlain_keeps {cls : Nat} {lanes : List Nat} {page : Option Nat} {k : Nat} {sc : Bool} {l : List Byte}
    (hs : s.canonical = true) :
    Run.Keeps (·.canonical = true) (s.writePlain cls lanes page k sc l) := by
  unfold State.writePlain
  split
  · exact State.storeSc_canonical hs
  · exact State.storePlain_keeps hs

theorem State.writeElem_keeps {s0 : State} {cls : Nat} {va : Reg64} {w elem val : Nat} (hs0 : s0.canonical = true) :
    Run.Keeps (·.canonical = true) (s0.writeElem cls va w elem val) := by
  unfold State.writeElem
  refine (State.xlook_keeps hs0).bind fun _ h => ?_
  dsimp only
  split
  · refine Run.Keeps.ite_state (State.orderPoint_keeps h) (State.storeRoom_keeps h) fun _ h => ?_
    refine State.ite_canonical (State.storeSc_canonical ?_) (State.storeNow_canonical ?_)
    all_goals exact State.watch_canonical (State.reached_canonical h)
  · exact hs0
  · exact hs0

theorem State.tileBytes_canonical {since k w : Nat} (hs : s.canonical = true) : (s.tileBytes since k w).1.canonical = true :=
  State.pickRead_canonical hs

theorem Hand.refresh_canonical {pub : Mem} {known : Nat} (hh : h.canonical = true) (hpub : pub.wf = true) :
    (h.refresh pub known).canonical = true := by
  unfold Hand.refresh
  exact Hand.canonical_of_snap hh hpub

theorem Hand.receive_canonical {c before : Clock} (hh : h.canonical = true) : (h.receive c before).canonical = true := hh

theorem State.linkedRead_canonical {k w : Nat} (hs : s.canonical = true) : (s.linkedRead k w).1.canonical = true := hs

theorem State.record_canonical {e : DudelEntry} (hs : s.canonical = true) : (s.record e).canonical = true := by
  unfold State.record
  split
  · exact State.ite_canonical (State.framed (State.putPubAll_canonical hs)) hs
  · exact hs

theorem State.arrives_yields {port len a : Nat} (hs : s.canonical = true) :
    Yields (·.canonical = true) (s.arrives port len a) := by
  unfold State.arrives
  split
  · exact trivial
  · exact State.record_canonical hs

theorem State.replayEvictions_canonical {n : Nat} (hs : s.canonical = true) : (s.replayEvictions n).canonical = true := by
  induction n generalizing s with
  | zero => exact hs
  | succ n ih =>
    unfold State.replayEvictions
    split
    · exact hs
    · exact State.ite_canonical (ih (State.canonical_of (State.clearTag_canonical hs))) hs

theorem State.diverge_canonical {offset : Nat} (hs : s.canonical = true) : (s.diverge offset).canonical = true :=
  State.postEvent_canonical (State.canonical_of_others hs (State.hand_canonical hs :)
    (List.forall_mem_map.2 fun g hg => State.others_canonical hs g hg))

theorem State.dudelOp_canonical {kind : Byte} {source : BitVec 16} {stamp : Reg64} {payload : List Byte}
    (hs : s.canonical = true) :
    (s.dudelOp kind source stamp payload).canonical = true := by
  unfold State.dudelOp
  refine State.ite_canonical ?_ (State.record_canonical hs)
  split
  · exact hs
  · exact State.ite_canonical (State.replayEvictions_canonical hs) (State.diverge_canonical hs)

/-! ### Machine/Flags -/

theorem State.raise_canonical {fl : List (Nat × Nat)} (hs : s.canonical = true) : (s.raise fl).canonical = true := hs

/-! ### Machine/Operands -/

theorem State.vsrc_keeps {field : Nat} {r : Fld5} {n : Nat} {trap : Bit} (hs : s.canonical = true) :
    Run.Keeps (fun _ => True) (s.vsrc field r n trap) := by
  unfold State.vsrc
  refine (State.sound_keeps hs).bind fun _ _ => ?_
  split
  · exact hs
  · exact trivial

theorem State.vneed_keeps {field : Nat} {r : Fld5} {trap : Bit} (hs : s.canonical = true) :
    Run.Keeps (fun _ => True) (s.vneed field r trap) := by
  unfold State.vneed
  refine (State.sound_keeps hs).bind fun _ _ => ?_
  split
  · split <;> exact hs
  · exact trivial

theorem Hand.setElem_canonical {r : Fld5} {e v : Nat} (hh : h.canonical = true) : (h.setElem r e v).canonical = true :=
  Hand.setVN_canonical hh

theorem State.charge_canonical {p : Pipe} {beats : Nat} (hs : s.canonical = true) : (s.charge p beats).canonical = true := hs

/-! ### Machine/Strip -/

theorem State.tick_canonical (hs : s.canonical = true) : s.tick.canonical = true := hs

theorem State.recordFault_canonical {t : Trap} (hs : s.canonical = true) : (s.recordFault t).canonical = true :=
  State.post_canonical hs

theorem State.closeRecord_keeps {pre : Bool} (hs : s.canonical = true) :
    Run.Keeps (·.canonical = true) (s.closeRecord pre) := by
  have ht {c : Prop} [Decidable c] {n m k : Nat} :
      (if c then (s.tick, n) else ({ s.tick with freeCtr := k }, m)).1.canonical = true := by
    split <;> exact State.tick_canonical hs
  unfold State.closeRecord
  dsimp only
  split
  · exact hs
  split
  · exact hs
  split
  · exact ht
  · exact State.recordFault_canonical ht
  · rename_i e
    exact State.with_csr (State.modTask_canonical
      (State.putPubAll_canonical (State.reached_canonical ((State.look_gives ht).ok e))))
  · rename_i e
    exact State.recordFault_canonical ((State.look_gives ht).ok e)

theorem State.takeSpare_canonical (hs : s.canonical = true) : s.takeSpare.canonical = true := State.modCore_canonical hs

theorem Hand.freshStrip_canonical {addr : Reg64} {choices : Nat} (hh : h.canonical = true) :
    (h.freshStrip addr choices).canonical = true := hh

theorem State.openStrip_keeps {set : Hand → Hand} (hs : s.canonical = true)
    (hset : ∀ t, t.canonical = true → (set t).canonical = true) : Run.Keeps (·.canonical = true) (s.openStrip set) := by
  refine (State.closeRecord_keeps hs).bind fun s₁ h => (State.commits_keeps h).bind fun s₂ h => ?_
  have ht := State.dropGrant_canonical (State.takeSpare_canonical h)
  have hr {c : Csrs} := State.retire_canonical (len := 4) (State.with_hand ht
    (Hand.with_csr (c := c) (hset _ (Hand.clearStripLocal_canonical (State.hand_canonical ht)))))
  exact State.advanceSerial_canonical (State.framed_with_hand hr
    (Hand.stalled_canonical (Hand.freshStrip_canonical (State.hand_canonical hr))))

theorem State.scalarsFull_keeps {w : Wait} (hs : s.canonical = true) : Run.Keeps (fun _ => True) (s.scalarsFull w) := by
  unfold State.scalarsFull
  split
  · exact hs
  · exact trivial

theorem State.atPoint_keeps {w : Wait} (hs : s.canonical = true) : Run.Keeps (fun _ => True) (s.atPoint w) := by
  unfold State.atPoint
  split
  · exact hs
  · split
    · exact hs
    · split
      · exact hs
      · exact trivial

theorem State.atOpening_keeps (hs : s.canonical = true) : Run.Keeps (fun _ => True) s.atOpening := by
  unfold State.atOpening
  refine (State.atPoint_keeps hs).bind fun _ _ => ?_
  split
  · exact hs
  · exact trivial

theorem State.backPoint_canonical (hs : s.canonical = true) : s.backPoint.canonical = true := by
  have stopped {t : Wait} {e : Stop} (he : s.atPoint t = .error e) := (State.atPoint_keeps hs).error he
  unfold State.backPoint
  refine State.ite_canonical ?_ hs
  split
  · exact hs
  · rename_i e
    exact State.trapped_canonical (stopped e)
  · rename_i e
    exact State.framed_hand (stopped e)
  · rename_i e
    exact stopped e

theorem State.afterPoint_keeps (hs : s.canonical = true) : Run.Keeps (·.canonical = true) s.afterPoint :=
  (State.atPoint_keeps hs).bind fun _ _ => hs

theorem State.clearAtPoint_canonical (hs : s.canonical = true) : s.clearAtPoint.canonical = true :=
  State.framed_with_hand hs (Hand.clearStripLocal_canonical (State.hand_canonical hs))

theorem State.clusterMiss_canonical {lane : Nat} (hs : s.canonical = true) : (s.clusterMiss lane).canonical = true :=
  State.modCore_canonical hs

theorem State.shiftedCheck_keeps (hs : s.canonical = true) : Run.Keeps (·.canonical = true) s.shiftedCheck := by
  unfold State.shiftedCheck
  split
  · exact hs
  · rename_i lane _ _ _
    dsimp only
    split
    · split
      · exact State.clusterMiss_canonical (lane := lane) hs
      · exact State.retry_canonical (State.rewind_canonical (State.clusterMiss_canonical (lane := lane) hs))
    split
    · exact State.clusterMiss_canonical hs
    · exact State.clusterMiss_canonical (lane := lane) hs

/-! ### Machine/Control -/

theorem branch_keeps {cond : Reg64 → Reg64 → Bool} {f : BrF} (hs : s.canonical = true) : OutcomeCanonical (branch cond f s) :=
  finish_keeps ((State.need_keeps hs).bind fun _ _ => (State.need_keeps hs).bind fun _ _ =>
    State.ite_canonical (State.jumpTo_canonical hs) (State.retire_canonical hs))

theorem execJal_keeps {f : JmpF} (hs : s.canonical = true) : OutcomeCanonical (execJal f s) :=
  guarded_keeps hs fun _ h => (State.dest_keeps h).bind fun _ _ => State.jumpTo_canonical (State.setX_canonical h)

theorem execJalr_keeps {f : ImmG} (hs : s.canonical = true) : OutcomeCanonical (execJalr f s) := by
  unfold execJalr
  refine guarded_keeps hs fun _ h => ?_
  refine (State.src_keeps h).bind fun _ _ => ?_
  dsimp only
  split
  · exact h
  · exact (State.dest_keeps h).bind fun _ _ => State.jumpTo_canonical (State.setX_canonical h)

theorem execLoop_keeps {f : LoopF} (hs : s.canonical = true) : OutcomeCanonical (execLoop f s) := by
  unfold execLoop
  refine finish_keeps ?_
  split
  · exact hs
  · refine (State.need_keeps hs).bind fun _ _ => ?_
    split <;> exact State.jumpTo_canonical hs

theorem execLbrk_keeps {f : GF} (hs : s.canonical = true) : OutcomeCanonical (execLbrk f s) := by
  unfold execLbrk
  refine guarded_keeps hs fun _ h => ?_
  refine (State.commits_keeps h).bind fun _ h₁ => ?_
  split
  · exact h₁
  · exact State.retire_canonical h₁

theorem Hand.granted_canonical {f : VSetF} {grant : Nat} (hh : h.canonical = true) : (h.granted f grant).canonical = true :=
  Hand.setX_canonical hh

theorem execVsetl_keeps {f : VSetF} (hs : s.canonical = true) : OutcomeCanonical (execVsetl f s) :=
  finish_keeps ((State.atOpening_keeps hs).bind fun _ _ => (State.scalarsFull_keeps hs).bind fun _ _ =>
    (State.need_keeps hs).bind fun _ _ => State.openStrip_keeps hs fun _ h => Hand.granted_canonical h)

theorem execVsetlq_keeps {f : VSetF} (hs : s.canonical = true) : OutcomeCanonical (execVsetlq f s) := by
  unfold execVsetlq
  refine finish_keeps (Run.Keeps.if_else (State.atOpening_keeps hs) fun _ => (State.scalarsFull_keeps hs).bind fun _ _ => ?_)
  dsimp only
  split
  · exact hs
  · exact State.openStrip_keeps hs fun _ h => Hand.granted_canonical h

theorem execVloop_keeps {f : BrF} (hs : s.canonical = true) : OutcomeCanonical (execVloop f s) := by
  unfold execVloop
  refine finish_keeps ((State.need_keeps hs).bind fun _ _ => (State.need_keeps hs).bind fun _ _ => ?_)
  refine Run.Keeps.ite (State.jumpTo_canonical (State.setX_canonical hs)) (Run.Keeps.if_then (State.wait_keeps hs) fun _ => ?_)
  exact (State.scalarsFull_keeps hs).bind fun _ _ =>
    (State.openStrip_keeps hs fun _ h => Hand.setX_canonical h).bind fun _ h => State.afterPoint_keeps h

/-! ### Machine/MemOps -/

theorem State.aligned_keeps {acc : Access} {a : Reg64} {w : Nat} (hs : s.canonical = true) :
    Run.Keeps (fun _ => True) (s.aligned acc a w) := by
  unfold State.aligned
  split
  · exact trivial
  · exact hs

theorem State.tileWait_keeps {α : Type} {P : α → Prop} (hs : s.canonical = true) : Run.Keeps P s.tileWait := by
  unfold State.tileWait
  dsimp only
  split
  · exact (State.atPoint_keeps (State.dropGrant_canonical hs)).bind fun _ _ => State.dropGrant_canonical hs
  · exact State.dropGrant_canonical hs

theorem tagged_keeps {α : Type} {P : α → Prop} {x : Elem} {r : Run α} (hr : Run.Keeps P r) : Run.Keeps P (tagged x r) := by
  unfold tagged
  split <;> exact hr

theorem State.loadElem_keeps {x : Elem} (hs : s.canonical = true) : Run.Keeps (·.1.canonical = true) (s.loadElem x) := by
  have got {t : State} {leaf : Option Leaf} {tg : Target} {m n : Nat} (ht : t.canonical = true) :
      Run.Keeps (·.1.canonical = true)
        (t.performing leaf .load tg fun s => (s.watch x.va.toNat m false x.e).readTarget .load 1 tg x.va n) :=
    State.performing_keeps ht fun _ h => State.readTarget_keeps (State.watch_canonical h)
  unfold State.loadElem
  refine (State.aligned_keeps hs).bind fun _ _ => (State.xlook_keeps hs).bind fun _ hr => ?_
  dsimp only
  split
  · exact Run.Keeps.ite ((got hr).bind fun _ h => h) (Run.Keeps.ite ((got hr).bind fun _ h => h) hs)
  · exact (got hr).bind fun _ h => h

theorem State.loadElems_keeps {l : List Elem} (hs : s.canonical = true) : Run.Keeps (·.1.canonical = true) (s.loadElems l) :=
  foldlM_keeps (fun _ _ ha => (tagged_keeps (State.loadElem_keeps ha)).bind fun _ hr => hr) hs

theorem Hand.setElems_canonical {r : Fld5} {l : List (Nat × Nat)} (hh : h.canonical = true) :
    (h.setElems r l).canonical = true := foldl_hand_canonical (fun _ _ h₁ => Hand.setElem_canonical h₁) hh

theorem State.memBeats_canonical (hs : s.canonical = true) : s.memBeats.canonical = true := State.charge_canonical hs

theorem State.vload_keeps {d : Fld5} {l : List Elem} {rest : List Nat} (hs : s.canonical = true) :
    Run.Keeps (·.canonical = true) (s.vload d l rest) := by
  refine Run.Keeps.ite_state (State.orderPoint_keeps hs) hs fun _ h => (State.loadElems_keeps h).bind fun _ h => ?_
  have he {l : List (Nat × Nat)} := Hand.setElems_canonical (r := d) (l := l) (State.hand_canonical h)
  exact State.memBeats_canonical (State.raise_canonical
    (State.framed_with_hand h (Hand.ite_canonical he (Hand.produce_canonical he))))

theorem State.storeChecks_keeps {l : List Elem} (hs : s.canonical = true) : Run.Keeps (fun _ => True) (s.storeChecks l) := by
  unfold State.storeChecks
  dsimp only
  split
  · split
    · exact tagged_keeps hs
    · exact trivial
  · exact trivial

theorem State.storeTargets_keeps {l : List Elem} (hs : s.canonical = true) :
    Run.Keeps (·.1.canonical = true) (s.storeTargets l) :=
  foldlM_keeps (fun _ _ ha => (tagged_keeps (State.aligned_keeps ha)).bind fun _ _ =>
    (tagged_keeps (State.xlook_keeps ha)).bind fun _ hr => hr) hs

theorem State.storeBlocks_keeps {d : Fld5} {lane : StoreTo → List Nat} {xs : List StoreTo} (hs : s.canonical = true) :
    Run.Keeps (·.canonical = true) (s.storeBlocks d lane xs) := by
  unfold State.storeBlocks
  refine Run.Keeps.bind (P := fun r : State × _ => r.1.canonical = true) ?_ fun _ h => State.raise_canonical h
  refine foldlM_keeps (fun _ _ h => ?_) hs
  dsimp only
  split
  · exact h
  · exact (State.storePlain_keeps h).bind fun _ h₁ => h₁

theorem State.storeEach_keeps {d : Fld5} {lane : StoreTo → List Nat} {xs : List StoreTo} (hs : s.canonical = true) :
    Run.Keeps (·.canonical = true) (s.storeEach d lane xs) := by
  unfold State.storeEach
  refine foldlM_keeps (fun _ _ h => ?_) hs
  split
  · exact State.writePlain_keeps h
  · exact h

theorem State.vstore_keeps {s0 : State} {d : Fld5} {scatter : Bool} {l : List Elem} (hs0 : s0.canonical = true) :
    Run.Keeps (·.canonical = true) (s0.vstore d scatter l) := by
  refine (State.storeChecks_keeps hs0).bind fun _ _ =>
    (State.undone_keeps hs0 (State.storeTargets_keeps hs0)).bind fun _ (h : _ = true) =>
    Run.Keeps.ite_state (State.orderPoint_keeps h) h fun _ h => State.undone_keeps h ?_
  exact (State.storeEach_keeps (foldl_canonical (fun _ _ h => State.watch_canonical (State.reached_canonical h)) h)).bind
    fun _ h => (State.storeBlocks_keeps h).bind fun _ h => State.memBeats_canonical h

/-! ### Machine/VecOps -/

theorem State.encodes_keeps {v : Option VShape} {w : Word} (hs : s.canonical = true) :
    Run.Keeps (fun _ => True) (s.encodes v w) := by
  unfold State.encodes
  split
  · exact hs
  · exact trivial

theorem State.predsReady_keeps {fl : VFlow} (hs : s.canonical = true) : Run.Keeps (fun _ => True) (s.predsReady fl) := by
  unfold State.predsReady
  split
  · exact trivial
  · exact hs

theorem Hand.groupBytes_wf {d : Dest} (hh : h.canonical = true) : Mem.wf (h.groupBytes d) = true := by
  unfold Hand.groupBytes
  split
  · exact Mem.wf_filter (Hand.v_wf hh)
  · rfl

theorem State.outstanding_canonical {v : Option VShape} {fl : VFlow} {flags : Bool} (hs : s.canonical = true)
    (hh : h.canonical = true) :
    (s.outstanding h v fl flags).canonical = true :=
  State.with_hand hs (Hand.canonical_of_producers (State.hand_canonical hs) (List.forall_mem_append.2 ⟨Hand.was_wf hh,
    List.forall_mem_map.2 fun _ _ => Hand.groupBytes_wf hh⟩))

theorem vrun_keeps {i : Instr} {body : State → Run State} (hs : s.canonical = true)
    (hbody : ∀ t, t.canonical = true → Run.Keeps (·.canonical = true) (body t)) : OutcomeCanonical (vrun i s body) :=
  finish_keeps ((State.encodes_keeps hs).bind fun _ _ => (State.predsReady_keeps hs).bind fun _ _ => (hbody s hs).bind fun _ h =>
    State.retire_canonical (State.outstanding_canonical h (State.hand_canonical hs)))

theorem State.spent_canonical {t : State} (hs : s.canonical = true) : (s.spent t).canonical = true := hs

theorem State.charged_canonical {eff : State → Run State} (hs : s.canonical = true) : (s.charged eff).canonical = true := by
  unfold State.charged
  split
  · exact hs
  split
  · exact State.spent_canonical hs
  · exact hs

theorem vopOf_keeps {v : Option VShape} {fl : VFlow} {flags : Bool} {w : Word} {srcs : State → Run Unit}
    {eff : State → Run State} (hs : s.canonical = true) (hsrcs : ∀ t, t.canonical = true → Run.Keeps (fun _ => True) (srcs t))
    (heff : ∀ t, t.canonical = true → Run.Keeps (·.canonical = true) (eff t)) :
    OutcomeCanonical (vopOf v fl flags w s srcs eff) := by
  refine finish_keeps ((State.encodes_keeps hs).bind fun _ _ => (State.predsReady_keeps hs).bind fun _ _ =>
    (hsrcs s hs).bind fun _ _ => Run.Keeps.ite_state hs (State.shiftedCheck_keeps (State.charged_canonical hs)) fun t h => ?_)
  exact (heff t h).bind fun _ h₁ => State.retire_canonical (State.outstanding_canonical h₁ (State.hand_canonical h))

theorem vop_keeps {i : Instr} {srcs : State → Run Unit} {eff : State → Run State} (hs : s.canonical = true)
    (hsrcs : ∀ t, t.canonical = true → Run.Keeps (fun _ => True) (srcs t))
    (heff : ∀ t, t.canonical = true → Run.Keeps (·.canonical = true) (eff t)) :
    OutcomeCanonical (vop i s srcs eff) := vopOf_keeps hs (fun _ h => hsrcs _ h) fun _ h => heff _ h

theorem State.put_canonical (hs : s.canonical = true) (hh : h.canonical = true) : (s.put h).canonical = true :=
  State.with_hand hs hh

theorem State.result_canonical {d : Fld5} {v : Reg64} (hs : s.canonical = true) : (s.result d v).canonical = true :=
  State.framed_with_hand (State.setX_canonical hs) (Hand.produce_canonical (State.hand_canonical (State.setX_canonical hs)))

theorem Hand.putPred_canonical {d : Fld5} {l : List Nat} (hh : h.canonical = true) : (h.putPred d l).canonical = true :=
  Hand.ite_canonical hh (Hand.setP_canonical hh)

theorem State.each_canonical {d : Fld5} {es : List Nat} {f : Nat → Nat × Nat} (hs : s.canonical = true) :
    (s.each d es f).canonical = true :=
  State.raise_canonical (State.put_canonical hs (Hand.setElems_canonical (State.hand_canonical hs)))

theorem State.srcs2_keeps {f : VReg} (hs : s.canonical = true) : Run.Keeps (fun _ => True) (s.srcs2 f) :=
  (State.vsrc_keeps hs).bind fun _ _ => State.vsrc_keeps hs

theorem State.srcs1_keeps {f : VUn} (hs : s.canonical = true) : Run.Keeps (fun _ => True) (s.srcs1 f) := State.vsrc_keeps hs

/-! ### Machine/Stream -/

theorem State.engineTarget_gives {pick : State → Nat → Nat → State × Nat} {a : Access} {cls : Nat} {t : Target} {va : Reg64}
    {w : Nat} (hs : s.canonical = true) (hpick : ∀ t i j, t.canonical = true → (pick t i j).1.canonical = true) :
    Gives (·.1.canonical = true) (s.engineTarget pick h a cls t va w) := by
  have hb := State.rebuilds_canonical (key := t.key) (w := w) hs
  unfold State.engineTarget
  extract_lets u
  split
  · split
    · exact Gives.err
    · refine Gives.ite ?_ (Gives.ite hb ?_)
      · split
        · exact Gives.err
        · exact State.chainBytes_canonical hb
      · split
        · exact Gives.err
        · exact State.engineBytes_canonical hb hpick
  · split
    · exact Gives.err
    · dsimp only
      split
      · exact Gives.err
      · exact State.engineBytes_canonical hb hpick
  · exact Gives.err

theorem execLace_keeps {f : LaceF} (hs : s.canonical = true) : OutcomeCanonical (execLace f s) := by
  refine guarded_keeps hs fun t ht => (State.vneed_keeps ht).bind fun _ _ => (State.src_keeps ht).bind fun _ _ => ?_
  have stop {x : Trap} : Run.Keeps (·.canonical = true) (t.trap x : Run State) := ht
  have stop' {x : Trap} : Run.Keeps (fun _ => True) (t.trap x : Run PUnit) := ht
  have bound {b : Vector (Option Stream) 4} :
      Run.Keeps (·.canonical = true) (pure (({ t with hand := { t.hand with streams := b } }).retire 4) : Run State) :=
    Run.Keeps.pure (State.retire_canonical ht)
  have wait {c : Prop} [Decidable c] {b : Vector (Option Stream) 4} := Run.Keeps.ite (c := c)
    ((State.tileWait_keeps (α := PUnit) (P := fun _ => True) ht).bind fun _ _ => bound (b := b)) (bound (b := b))
  dsimp only
  split
  · exact stop
  refine Run.Keeps.ite stop ?_
  split
  · exact stop
  · refine Run.Keeps.ite stop (Run.Keeps.ite stop (Run.Keeps.ite ((State.sound_keeps ht).bind fun _ _ => ?_) ?_))
    all_goals exact Run.Keeps.ite (stop'.bind fun _ _ => wait) wait

theorem State.bound_keeps {n : Nat} (hs : s.canonical = true) : Run.Keeps (fun _ => True) (s.bound n) := by
  unfold State.bound
  split
  · exact trivial
  · exact hs

theorem State.setStream_canonical {n : Nat} {b : Option Stream} (hs : s.canonical = true) :
    (s.setStream n b).canonical = true := hs

theorem execSunbind_keeps {f : DG} (hs : s.canonical = true) : OutcomeCanonical (execSunbind f s) :=
  guarded_keeps hs fun _ h => State.retire_canonical (State.setStream_canonical h)

theorem execSpos_keeps {f : DAG} (hs : s.canonical = true) : OutcomeCanonical (execSpos f s) :=
  guarded_keeps hs fun _ h => (State.bound_keeps h).bind fun _ _ => (State.dest_keeps h).bind fun _ _ =>
    State.retire_canonical (State.setX_canonical h)

theorem execSadv_keeps {f : SadvF} (hs : s.canonical = true) : OutcomeCanonical (execSadv f s) :=
  guarded_keeps hs fun _ h => (State.src_keeps h).bind fun _ _ => (State.bound_keeps h).bind fun _ _ =>
    State.retire_canonical (State.setStream_canonical h)

theorem execStabl_keeps {f : DAG} (hs : s.canonical = true) : OutcomeCanonical (execStabl f s) := by
  refine guarded_keeps hs fun _ h => (State.bound_keeps h).bind fun _ _ => Run.Keeps.ite h ?_
  exact (State.sound_keeps h).bind fun _ _ => Run.Keeps.if_then (State.trap_keeps h) fun _ =>
    State.retire_canonical (State.setStream_canonical h)

theorem State.readAhead_canonical {b : Stream} (hs : s.canonical = true) : (s.readAhead b).1.canonical = true := by
  unfold State.readAhead
  dsimp only
  split
  · split <;> exact State.chooseRead_canonical hs
  · exact State.chooseRead_canonical hs

theorem State.streamRead_keeps {s0 : State} {b : Stream} {va : Reg64} {w p : Nat} (hs0 : s0.canonical = true) :
    Run.Keeps (·.1.canonical = true) (s0.streamRead b va w p) := by
  unfold State.streamRead
  refine Run.Keeps.ite hs0 ?_
  split
  · exact hs0
  · exact hs0
  · rename_i e
    have hs := (State.look_gives hs0).ok e
    refine Run.Keeps.ite hs0 (Run.Keeps.ite_state (State.orderPoint_keeps hs) hs fun _ h => State.performing_keeps h fun _ h₁ => ?_)
    dsimp only
    split
    · exact State.readAhead_canonical h₁
    · rename_i e
      exact State.readDone_canonical ((State.engineTarget_gives (State.readAhead_canonical h₁) fun _ _ _ h₂ =>
        State.chooseRead_canonical h₂).ok e)

theorem State.patternWord_keeps {b : Stream} {c : PopCache} {p : Nat} (hs : s.canonical = true) :
    Run.Keeps (·.1.canonical = true) (s.patternWord b c p) := by
  unfold State.patternWord
  split
  · exact hs
  · exact (State.streamRead_keeps hs).bind fun _ h => h

theorem State.lutEntry_keeps {b : Stream} {n k : Nat} (hs : s.canonical = true) :
    Run.Keeps (·.1.canonical = true) (s.lutEntry b n k) := by
  unfold State.lutEntry
  refine (State.sound_keeps hs).bind fun _ _ => ?_
  dsimp only
  split
  · exact (State.readable_keeps hs).bind fun _ _ => State.rebuilds_canonical hs
  · exact State.tileWait_keeps hs

theorem State.scaled_keeps {b : Stream} {c : PopCache} {n q p : Nat} {v : SVal} (hs : s.canonical = true) :
    Run.Keeps (·.1.canonical = true) (s.scaled b c n q p v) := by
  unfold State.scaled
  refine Run.Keeps.bind (P := fun r : State × _ => r.1.canonical = true) ?_ fun _ h => h
  split
  · exact hs
  · exact (State.streamRead_keeps hs).bind fun _ h => h

theorem State.firstElem_keeps {b : Stream} {c : PopCache} {unpk : Option Nat} {n : Nat} (hs : s.canonical = true) :
    Run.Keeps (·.1.canonical = true) (s.firstElem b c unpk n) := by
  unfold State.firstElem
  split
  · exact (State.patternWord_keeps hs).bind fun _ h => h
  · refine (State.patternWord_keeps hs).bind fun _ h => ?_
    refine Run.Keeps.bind (P := fun r : State × _ => r.1.canonical = true) ?_ fun _ h₁ => h₁
    split
    · exact h
    · exact State.patternWord_keeps h

theorem State.chainElem_keeps {b : Stream} {c : PopCache} {st : List Stage} {n : Nat} (hs : s.canonical = true) :
    Run.Keeps (·.1.canonical = true) (s.chainElem b c st n) := by
  refine (State.firstElem_keeps hs).bind fun _ hr => foldlM_keeps (fun _ _ ha => ?_) hr
  dsimp only
  split
  · exact (State.lutEntry_keeps ha).bind fun _ h => h
  · exact (State.scaled_keeps ha).bind fun _ h => h
  · exact ha
  · exact ha

theorem State.popElem_keeps {b : Stream} {c : PopCache} {w n : Nat} (hs : s.canonical = true) :
    Run.Keeps (·.1.canonical = true) (s.popElem b c w n) := by
  unfold State.popElem
  exact Run.Keeps.ite hs (Run.Keeps.ite hs ((State.chainElem_keeps hs).bind fun _ h => h))

theorem State.popped_keeps {α : Type} {P : α → Prop} {n : Nat} {b : Stream} {r : Run α} (hr : Run.Keeps P r) :
    Run.Keeps P (State.popped n b r) := by
  unfold State.popped
  split
  · exact State.setStream_canonical (s := _) hr
  · exact hr

theorem execVmovStream_keeps {f : VStr} (hs : s.canonical = true) : OutcomeCanonical (execVmovStream f s) := by
  refine vop_keeps hs (fun _ h => (State.bound_keeps h).bind fun _ _ => Run.Keeps.ite h trivial) fun _ h =>
    (State.bound_keeps h).bind fun _ _ => ?_
  refine (State.popped_keeps (foldlM_keeps (I := fun r : State × _ => r.1.canonical = true) (fun _ _ h => ?_) h)).bind
    fun _ h => ?_
  · exact (State.popElem_keeps h).bind fun _ h => h
  · exact State.charge_canonical (State.setStream_canonical (State.raise_canonical
      (State.put_canonical h (Hand.setElems_canonical (State.hand_canonical h)))))

/-! ### Machine/Tile -/

theorem State.deliver_canonical {core tile gen key : Nat} {b : Byte} (hs : s.canonical = true) :
    (s.deliver core tile gen key b).canonical = true := State.modCore_canonical (State.putPub_canonical hs)

theorem State.land_canonical {core tile gen o : Nat} {l : List Byte} (hs : s.canonical = true) :
    (s.land core tile gen o l).canonical = true :=
  State.modTile_canonical (foldl_canonical (fun _ _ h => State.deliver_canonical h) hs)

theorem State.tileTrap_keeps {α : Type} {t : Nat} {P : α → Prop} (hs : s.canonical = true) : Run.Keeps P (s.tileTrap t) := hs

theorem execTdef_keeps {f : TdefF} (hs : s.canonical = true) : OutcomeCanonical (execTdef f s) := by
  refine guarded_keeps hs fun _ h => (State.src_keeps h).bind fun _ _ => (State.sound_keeps h).bind fun _ _ => ?_
  exact Run.Keeps.ite (State.tileTrap_keeps h) (Run.Keeps.ite h
    ((State.commits_keeps h).bind fun _ h => State.retire_canonical (State.modTile_canonical h)))

theorem execTfree_keeps {f : TileF} (hs : s.canonical = true) : OutcomeCanonical (execTfree f s) := by
  unfold execTfree
  refine guarded_keeps hs fun _ h => ?_
  refine (State.sound_keeps h).bind fun _ _ => ?_
  dsimp only
  split
  · exact State.tileTrap_keeps h
  · refine (State.commits_keeps h).bind fun _ h₁ => ?_
    split
    · exact State.retire_canonical h₁
    · split
      · exact h₁
      · exact State.retire_canonical (State.modTile_canonical h₁)

theorem State.sawTile_canonical {t : Nat} (hs : s.canonical = true) : (s.sawTile t).canonical = true :=
  State.ite_canonical hs hs

theorem State.sawReady_canonical {t : Nat} (hs : s.canonical = true) : (s.sawReady t).canonical = true :=
  State.ite_canonical (State.sawTile_canonical hs) hs

theorem execTwait_keeps {f : TileF} (hs : s.canonical = true) : OutcomeCanonical (execTwait f s) := by
  unfold execTwait
  refine guarded_keeps hs fun _ h => ?_
  refine (State.atPoint_keeps h).bind fun _ _ => (State.sound_keeps h).bind fun _ _ => ?_
  dsimp only
  split
  · exact State.dropGrant_canonical h
  · exact State.retire_canonical (State.clearAtPoint_canonical (State.sawTile_canonical h))

theorem execTstat_keeps {f : TstatF} (hs : s.canonical = true) : OutcomeCanonical (execTstat f s) :=
  guarded_keeps hs fun _ h => (State.dest_keeps h).bind fun _ _ => (State.sound_keeps h).bind fun _ _ =>
    State.retire_canonical (State.setX_canonical (State.sawReady_canonical h))

theorem execTready_keeps {f : TileF} (hs : s.canonical = true) : OutcomeCanonical (execTready f s) := by
  unfold execTready
  refine guarded_keeps hs fun _ h => ?_
  refine (State.sound_keeps h).bind fun _ _ => ?_
  dsimp only
  split
  · exact State.tileTrap_keeps h
  · refine (State.commits_keeps h).bind fun _ h₁ => ?_
    split
    · exact State.retire_canonical h₁
    · split
      · exact State.heelStall_canonical h₁
      · split
        · exact h₁
        · exact State.retire_canonical (State.modTile_canonical h₁)

/-! ### Machine/SumInstr -/

theorem State.fits_keeps {t : Nat} (hs : s.canonical = true) : Run.Keeps (fun _ => True) (s.fits t) := by
  unfold State.fits
  dsimp only
  split
  · exact hs
  · exact trivial

theorem State.slotOr_keeps {r : Fld5} {types : List Nat} {wrong : Reg64 → Trap} (hs : s.canonical = true) :
    Run.Keeps (fun _ => True) (s.slotOr r types wrong) := by
  unfold State.slotOr
  split
  · exact hs
  · split
    · exact (State.sound_keeps hs).bind fun _ _ => trivial
    · exact hs

theorem State.slot_keeps {r : Fld5} {types : List Nat} (hs : s.canonical = true) : Run.Keeps (fun _ => True) (s.slot r types) :=
  State.slotOr_keeps hs

theorem State.asked_keeps {r : Fld5} {types : List Nat} (hs : s.canonical = true) :
    Run.Keeps (fun _ => True) (s.asked r types) := State.slotOr_keeps hs

theorem State.slotQuiet_keeps {r : Fld5} (hs : s.canonical = true) : Run.Keeps (fun _ => True) (s.slotQuiet r) := by
  unfold State.slotQuiet
  split
  · exact hs
  · exact trivial

theorem State.putSlot_canonical {r : Fld5} {x : Slot} (hs : s.canonical = true) : (s.putSlot r x).canonical = true :=
  State.put_canonical hs (Hand.framed (State.hand_canonical hs))

theorem State.touch_keeps {r : Fld5} {x : Slot} {granules : List Nat} (hs : s.canonical = true) :
    Run.Keeps (·.canonical = true) (s.touch r x granules) := by
  unfold State.touch
  split
  · dsimp only
    split
    · exact State.commits_keeps hs
    · exact State.put_canonical hs (Hand.framed (State.hand_canonical hs))
  · exact hs

theorem State.touchAll_keeps {r : Fld5} {x : Slot} (hs : s.canonical = true) :
    Run.Keeps (·.canonical = true) (s.touchAll r x) := State.touch_keeps hs

theorem State.putFresh_canonical {r : Fld5} {x : Slot} (hs : s.canonical = true) : (s.putFresh r x).canonical = true :=
  State.ite_canonical (State.put_canonical (State.putSlot_canonical hs)
    (Hand.framed (State.hand_canonical (State.putSlot_canonical hs)))) (State.putSlot_canonical hs)

theorem State.recTarget_keeps {a : Access} {va : Reg64} {off : Nat} (hs : s.canonical = true) :
    Run.Keeps (·.1.canonical = true) (s.recTarget a va off) := by
  unfold State.recTarget
  refine Run.Keeps.bind (P := fun r : State × _ => r.1.canonical = true) (tagged_keeps (State.xlook_keeps hs)) fun _ h => ?_
  dsimp only
  split
  · exact h
  · exact hs
  · exact hs

theorem State.recBytes_keeps {va : Reg64} {k : Nat} {sc : Bool} {off n : Nat} (hs : s.canonical = true) :
    Run.Keeps (·.1.canonical = true) (s.recBytes va k sc off n) := by
  induction n generalizing s k off with
  | zero => exact hs
  | succ n ih => exact (tagged_keeps (State.readTarget_keeps hs)).bind fun _ h => (ih h).bind fun _ h => h

theorem State.recRead_keeps {va : Reg64} {off n : Nat} (hs : s.canonical = true) :
    Run.Keeps (·.1.canonical = true) (s.recRead va off n) := by
  refine foldlM_keeps (fun _ _ h => (State.recTarget_keeps h).bind fun _ h =>
    Run.Keeps.ite_state (State.orderPoint_keeps h) h fun _ h => ?_) hs
  exact (State.performing_keeps h fun _ h => State.recBytes_keeps (State.watch_canonical (State.uses_canonical h))).bind
    fun _ h => h

theorem State.recFault_yields {va : Reg64} {n : Nat} (hs : s.canonical = true) :
    Yields (fun r => r.2.Canonical) (s.recFault va n) := by
  cases e : s.recFault va n with
  | none => trivial
  | some r =>
    obtain ⟨p, _, hp⟩ := List.exists_of_findSome?_eq_some e
    split at hp
    next e he =>
      cases hp
      exact (State.recTarget_keeps hs).error he
    next => cases hp

theorem State.recStore_keeps {va : Reg64} {n : Nat} (hs : s.canonical = true) :
    Run.Keeps (·.1.canonical = true) (s.recStore va n) :=
  foldlM_keeps (fun _ _ h => (State.recTarget_keeps h).bind fun _ h₁ => h₁) hs

theorem State.pieceReached_canonical {va : Reg64} {p : RecPiece} (hs : s.canonical = true) :
    (s.pieceReached va p).canonical = true := State.watch_canonical (State.uses_canonical (State.reached_canonical hs))

theorem State.recWrite_keeps {va : Reg64} {l : List Byte} (hs : s.canonical = true) :
    Run.Keeps (·.canonical = true) (s.recWrite va l) := by
  have hf := State.recFault_yields (va := va) (n := l.length) hs
  unfold State.recWrite
  split
  case h_2 =>
    rename_i e
    exact hf.some e
  case h_4 =>
    rename_i e
    exact hf.some e
  case' h_3 =>
    rename_i e
    refine Run.Keeps.ite (hf.some e :) ?_
  all_goals
    refine (State.recStore_keeps hs).bind fun _ hr => Run.Keeps.ite ((State.orderPoint_keeps hr).bind fun _ _ => ?_) ?_
  all_goals
    refine (State.undone_keeps (by assumption) (foldlM_keeps (I := (·.canonical = true)) (fun _ _ h =>
      State.writePlain_keeps (State.pieceReached_canonical h)) (by assumption))).bind fun _ hv =>
        Run.Keeps.ite (Run.Keeps.pure hv) ?_
    exact (State.recTarget_keeps hv).bind fun _ h => h

theorem State.paramTrap_keeps {α : Type} {v : Nat} {P : α → Prop} (hs : s.canonical = true) : Run.Keeps P (s.paramTrap v) := hs

theorem State.record'_keeps {va : Reg64} (hs : s.canonical = true) : Run.Keeps (·.1.canonical = true) (s.record' va) := by
  unfold State.record'
  refine (State.recRead_keeps hs).bind fun _ h => ?_
  dsimp only
  split
  · exact State.paramTrap_keeps h
  · refine (State.recRead_keeps h).bind fun _ h₁ => ?_
    split
    · exact State.paramTrap_keeps h₁
    · exact h₁

theorem State.summaryAddr_keeps {a : Access} {f : UnG} (hs : s.canonical = true) :
    Run.Keeps (fun _ => True) (s.summaryAddr a f) :=
  (State.src_keeps hs).bind fun _ _ => (State.aligned_keeps hs).bind fun _ _ => trivial

theorem execSdecl_keeps {f : RegG} (hs : s.canonical = true) : OutcomeCanonical (execSdecl f s) := by
  unfold execSdecl
  refine guarded_keeps hs fun _ h => ?_
  refine (State.src_keeps h).bind fun _ _ => (State.src_keeps h).bind fun _ _ => ?_
  split
  · exact h
  · split
    · exact h
    · exact (State.fits_keeps h).bind fun _ _ => State.retire_canonical (State.putFresh_canonical h)

theorem execSclr_keeps {f : DG} (hs : s.canonical = true) : OutcomeCanonical (execSclr f s) :=
  guarded_keeps hs fun _ h => (State.slot_keeps h).bind fun _ _ => (State.slotQuiet_keeps h).bind fun _ _ =>
    (State.touchAll_keeps h).bind fun _ h₁ => State.retire_canonical (State.putSlot_canonical h₁)

theorem execSfree_keeps {f : DG} (hs : s.canonical = true) : OutcomeCanonical (execSfree f s) :=
  guarded_keeps hs fun _ h => (State.slot_keeps h).bind fun _ _ => (State.slotQuiet_keeps h).bind fun _ _ =>
    State.retire_canonical (State.put_canonical h (Hand.framed (State.hand_canonical h)))

theorem execSsave_keeps {f : UnG} (hs : s.canonical = true) : OutcomeCanonical (execSsave f s) :=
  guarded_keeps hs fun _ h => (State.summaryAddr_keeps h).bind fun _ _ => (State.slot_keeps h).bind fun _ _ =>
    (State.slotQuiet_keeps h).bind fun _ _ => (State.recWrite_keeps h).bind fun _ h₁ => State.retire_canonical h₁

theorem execSload_keeps {f : UnG} (hs : s.canonical = true) : OutcomeCanonical (execSload f s) := by
  refine guarded_keeps hs fun _ h => (State.summaryAddr_keeps h).bind fun _ _ => Run.Keeps.ite h
    ((State.record'_keeps h).bind fun _ h => (State.fits_keeps h).bind fun _ _ => ?_)
  exact (State.touchAll_keeps (State.ite_canonical (State.put_canonical h (Hand.framed (State.hand_canonical h))) h)).bind
    fun _ h => State.retire_canonical (State.putFresh_canonical h)

theorem State.mergeInto_keeps {d : Fld5} {x y : Slot} (hs : s.canonical = true) :
    Run.Keeps (·.canonical = true) (s.mergeInto d x y) :=
  (State.touchAll_keeps hs).bind fun _ h =>
    State.ite_canonical (State.raise_canonical (State.putSlot_canonical h)) (State.putSlot_canonical h)

theorem execSmrg_keeps {f : DAG} (hs : s.canonical = true) : OutcomeCanonical (execSmrg f s) := by
  unfold execSmrg
  refine guarded_keeps hs fun _ h => ?_
  split
  · split
    · exact h
    · exact (State.sound_keeps h).bind fun _ _ => (State.slotQuiet_keeps h).bind fun _ _ =>
        (State.slotQuiet_keeps h).bind fun _ _ => (State.mergeInto_keeps h).bind fun _ h₁ => State.retire_canonical h₁
  · exact h

theorem execSmrgm_keeps {f : UnG} (hs : s.canonical = true) : OutcomeCanonical (execSmrgm f s) := by
  unfold execSmrgm
  refine guarded_keeps hs fun _ h => ?_
  refine (State.summaryAddr_keeps h).bind fun _ _ => (State.slot_keeps h).bind fun _ _ => ?_
  refine (State.slotQuiet_keeps h).bind fun _ _ => (State.record'_keeps h).bind fun _ h₁ => ?_
  dsimp only
  split
  · exact h₁
  · exact (State.mergeInto_keeps h₁).bind fun _ h₂ => State.retire_canonical h₂

theorem execStype_keeps {f : DAG} (hs : s.canonical = true) : OutcomeCanonical (execStype f s) :=
  guarded_keeps hs fun _ h => (State.slotQuiet_keeps h).bind fun _ _ => (State.dest_keeps h).bind fun _ _ =>
    State.retire_canonical (State.setX_canonical h)

theorem supd_keeps {i : Instr} {types : List Nat} {d a b : Fld5} {ta tb : Bit} {m : BitVec 3} {cellCheck : Bool}
    {input : Hand → Slot → Nat → Input} {beats : Slot → Nat} (hs : s.canonical = true) :
    OutcomeCanonical (supd i types d a b ta tb m cellCheck input beats s) := by
  unfold supd
  refine vrun_keeps hs fun _ h => (State.vsrc_keeps h).bind fun _ _ => Run.Keeps.if_then (State.vsrc_keeps h) fun _ => ?_
  refine (State.slot_keeps h).bind fun _ _ => (State.slotQuiet_keeps h).bind fun _ _ => ?_
  dsimp only
  generalize (if cellCheck then (_ : Option (Nat × Input)) else none) = bad
  split
  · exact h
  · exact Run.Keeps.ite (State.charge_canonical h) ((State.touch_keeps h).bind fun _ h₁ =>
      State.charge_canonical (State.raise_canonical (State.putSlot_canonical h₁)))

theorem Hand.queries_canonical {d : Dest} {a : Fld5} {reads : List Dest} {flags : Bool} {was : SMap Byte}
    (hh : h.canonical = true) (hw : Mem.wf was = true) :
    (h.queries d a reads flags was).canonical = true := Hand.ite_canonical hh (Hand.canonical_append_producer hh hw)

theorem scalarQuery_keeps {α : Type} {g : BitVec 3} {d a : Fld5} {types : List Nat} {arg : State → Run α}
    {ask : State → Slot → α → Run (Reg64 × Nat)} (hs : s.canonical = true)
    (ha : ∀ s, s.canonical = true → Run.Keeps (fun _ => True) (arg s))
    (hk : ∀ s x b, s.canonical = true → Run.Keeps (fun _ => True) (ask s x b)) :
    OutcomeCanonical (scalarQuery g d a types arg ask s) :=
  guarded_keeps hs fun s h => (ha s h).bind fun b _ => (State.asked_keeps h).bind fun x _ => (hk s x b h).bind fun _ _ =>
    (State.slotQuiet_keeps h).bind fun _ _ => (State.dest_keeps h).bind fun _ _ => by
      refine State.retire_canonical (State.put_canonical ?_ (Hand.queries_canonical (State.hand_canonical ?_) rfl))
      all_goals exact State.setX_canonical (State.ite_canonical h (State.raise_canonical h))

theorem noArg_keeps {t : State} : Run.Keeps (fun _ => True) (noArg t) := trivial

theorem execSqMom_keeps {f : DABG} (hs : s.canonical = true) : OutcomeCanonical (execSqMom f s) := by
  unfold execSqMom
  refine scalarQuery_keeps hs (fun _ _ => noArg_keeps) fun _ _ _ h => ?_
  split
  · exact State.paramTrap_keeps h
  · exact trivial

theorem execSqResn_keeps {f : DABG} (hs : s.canonical = true) : OutcomeCanonical (execSqResn f s) := by
  unfold execSqResn
  refine scalarQuery_keeps hs (fun _ _ => noArg_keeps) fun _ _ _ h => ?_
  split
  · exact State.paramTrap_keeps h
  · exact trivial

theorem execSqQh_keeps {f : DABtG} (hs : s.canonical = true) : OutcomeCanonical (execSqQh f s) :=
  scalarQuery_keeps hs (fun _ h => State.src_keeps h) fun _ _ _ h => Run.Keeps.ite (State.paramTrap_keeps h) trivial

theorem Hand.setWords_canonical {r : Nat} {l : List Nat} (hh : h.canonical = true) : (h.setWords r l).canonical = true :=
  foldl_hand_canonical (fun _ _ h₁ => Hand.setVN_canonical h₁) hh

theorem entryQuery_keeps {g : BitVec 3} {d a : Fld5} {typ regs : Nat} {fill : Hand → Slot → Hand}
    (hfill : ∀ t i, t.canonical = true → (fill t i).canonical = true) (hs : s.canonical = true) :
    OutcomeCanonical (entryQuery g d a typ regs fill s) :=
  guarded_keeps hs fun _ h => (State.asked_keeps h).bind fun _ _ => (State.slotQuiet_keeps h).bind fun _ _ =>
    State.retire_canonical (State.put_canonical h (Hand.queries_canonical (hfill _ _ (State.hand_canonical h))
    (Hand.groupBytes_wf (State.hand_canonical h))))

theorem execSqTopk_keeps {f : DAG} (hs : s.canonical = true) : OutcomeCanonical (execSqTopk f s) :=
  entryQuery_keeps (fun _ _ h => Hand.setWords_canonical (Hand.setWords_canonical h)) hs

theorem elementQuery_keeps {v : Option VShape} {w : Word} {g : BitVec 3} {d a : Fld5} {types : List Nat}
    {args : State → Run Reg64} {check : Slot → Nat → Reg64 → Option Trap} {val : Hand → Slot → Reg64 → Nat → Nat × Nat}
    {reads : Hand → List Dest} (hargs : ∀ t, t.canonical = true → Run.Keeps (fun _ => True) (args t))
    (hs : s.canonical = true) :
    OutcomeCanonical (elementQuery v w g d a types args check val reads s) := by
  refine finish_keeps ((State.encodes_keeps hs).bind fun _ _ => (State.guard_keeps hs).bind fun _ _ =>
    Run.Keeps.ite (State.retire_canonical hs) ((hargs s hs).bind fun _ _ => (State.asked_keeps hs).bind fun _ _ =>
    (State.slotQuiet_keeps hs).bind fun _ _ => Run.Keeps.ite hs ?_))
  dsimp only
  split
  · exact hs
  · exact Run.Keeps.ite (State.retire_canonical hs) (State.retire_canonical (State.put_canonical (State.each_canonical hs)
      (Hand.queries_canonical (State.hand_canonical (State.each_canonical hs)) (Hand.groupBytes_wf (State.hand_canonical hs)))))

theorem execSqCms_keeps {f : DABtG} (hs : s.canonical = true) : OutcomeCanonical (execSqCms f s) :=
  elementQuery_keeps (fun _ h => (State.vsrc_keeps h).bind fun _ _ => trivial) hs

theorem execSqTile_keeps {f : DAG} (hs : s.canonical = true) : OutcomeCanonical (execSqTile f s) := by
  refine guarded_keeps hs fun _ ht => (State.asked_keeps ht).bind fun _ _ => (State.sound_keeps ht).bind fun _ _ => ?_
  generalize List.range 16384 = cells
  refine Run.Keeps.ite (State.tileTrap_keeps ht) ((State.slotQuiet_keeps ht).bind fun _ _ =>
    Run.Keeps.ite (State.tileWait_keeps ht) ?_)
  refine (State.undone_keeps hs (foldlM_keeps (I := (·.canonical = true)) (fun _ _ h => ?_) ht)).bind fun _ h => ?_
  · exact State.storePlain_keeps (State.watch_canonical h)
  · exact State.retire_canonical (State.raise_canonical h)

/-! ### Machine/Deal -/

theorem draw_keeps {i : Instr} {f : VReg} {form : Nat → Nat} (hs : s.canonical = true) :
    OutcomeCanonical (draw i f form s) := by
  unfold draw
  refine vrun_keeps hs fun _ h => (State.src_keeps h).bind fun _ _ => Run.Keeps.if_then (State.vsrc_keeps h) fun _ => ?_
  have he {r : Fld5} {l : List (Nat × Nat)} := Hand.setElems_canonical (r := r) (l := l) (State.hand_canonical h)
  dsimp only
  split
  · exact h
  · exact State.charge_canonical (State.put_canonical h (Hand.ite_canonical he (Hand.produce_canonical he)))

theorem execQtab_keeps {f : ABF} (hs : s.canonical = true) : OutcomeCanonical (execQtab f s) := by
  unfold execQtab
  refine finish_keeps ?_
  refine (State.src_keeps hs).bind fun _ _ => (State.src_keeps hs).bind fun _ _ => ?_
  split
  · exact hs
  · refine (State.aligned_keeps hs).bind fun _ _ => (State.commits_keeps hs).bind fun _ h => ?_
    refine (State.recRead_keeps h).bind fun _ h₁ => ?_
    dsimp only
    split
    · exact h₁
    · exact State.retire_canonical (State.put_canonical h₁ (Hand.framed (State.hand_canonical h₁)))

theorem execQseed_keeps {f : ABF} (hs : s.canonical = true) : OutcomeCanonical (execQseed f s) :=
  finish_keeps ((State.src_keeps hs).bind fun _ _ => (State.src_keeps hs).bind fun _ _ => Run.Keeps.ite hs (Run.Keeps.ite hs
    (Run.Keeps.ite hs (State.retire_canonical (State.put_canonical hs (Hand.framed (State.hand_canonical hs)))))))

/-! ### Machine/VMem -/

theorem execVld_keeps {f : VUn} (hs : s.canonical = true) : OutcomeCanonical (execVld f s) :=
  vrun_keeps hs fun _ h => (State.src_keeps h).bind fun _ _ => State.vload_keeps h

theorem execVlds_keeps {f : VReg} (hs : s.canonical = true) : OutcomeCanonical (execVlds f s) :=
  vrun_keeps hs fun _ h => (State.src_keeps h).bind fun _ _ => (State.src_keeps h).bind fun _ _ => State.vload_keeps h

theorem execVldx_keeps {f : VReg} (hs : s.canonical = true) : OutcomeCanonical (execVldx f s) :=
  vrun_keeps hs fun _ h => (State.src_keeps h).bind fun _ _ => (State.vsrc_keeps h).bind fun _ _ => State.vload_keeps h

theorem State.vdata_keeps {d : Fld5} (hs : s.canonical = true) : Run.Keeps (fun _ => True) (s.vdata d) := State.vsrc_keeps hs

theorem execVst_keeps {f : VUn} (hs : s.canonical = true) : OutcomeCanonical (execVst f s) :=
  vrun_keeps hs fun _ h => (State.src_keeps h).bind fun _ _ => (State.vdata_keeps h).bind fun _ _ => State.vstore_keeps h

theorem execVsts_keeps {f : VReg} (hs : s.canonical = true) : OutcomeCanonical (execVsts f s) :=
  vrun_keeps hs fun _ h => (State.src_keeps h).bind fun _ _ => (State.src_keeps h).bind fun _ _ =>
    (State.vdata_keeps h).bind fun _ _ => State.vstore_keeps h

theorem execVstx_keeps {f : VReg} (hs : s.canonical = true) : OutcomeCanonical (execVstx f s) :=
  vrun_keeps hs fun _ h => (State.src_keeps h).bind fun _ _ => (State.vsrc_keeps h).bind fun _ _ =>
    (State.vdata_keeps h).bind fun _ _ => State.vstore_keeps h

theorem State.sweepRec_keeps {b : Fld5} {tb : Bit} (hs : s.canonical = true) : Run.Keeps (fun _ => True) (s.sweepRec b tb) := by
  unfold State.sweepRec
  refine (State.vneed_keeps hs).bind fun _ _ => ?_
  dsimp only
  split
  · exact hs
  · exact trivial

theorem execVldw_keeps {f : VReg} (hs : s.canonical = true) : OutcomeCanonical (execVldw f s) :=
  vrun_keeps hs fun _ h => (State.src_keeps h).bind fun _ _ => (State.sweepRec_keeps h).bind fun _ _ => State.vload_keeps h

theorem execVstw_keeps {f : VReg} (hs : s.canonical = true) : OutcomeCanonical (execVstw f s) :=
  vrun_keeps hs fun _ h => (State.src_keeps h).bind fun _ _ => (State.sweepRec_keeps h).bind fun _ _ =>
    (State.vdata_keeps h).bind fun _ _ => State.vstore_keeps h

theorem State.ticketElem_keeps {s0 : State} {a : Access} {x : Elem} (hs0 : s0.canonical = true) :
    Run.Keeps (·.1.canonical = true) (s0.ticketElem a x) := by
  unfold State.ticketElem
  refine (State.aligned_keeps hs0).bind fun _ _ => (State.xlook_keeps hs0).bind fun _ h => ?_
  dsimp only
  split
  · refine (State.readable_keeps h).bind fun _ _ => ?_
    split
    · exact State.watch_canonical (State.reached_canonical h)
    · exact State.framed_mem (State.dudelOp_canonical (State.watch_canonical (State.reached_canonical h)))
  · exact hs0

theorem State.ticketTurn_keeps {a : Access} {l : List Elem} (hs : s.canonical = true) :
    Run.Keeps (fun _ => True) (s.ticketTurn a l) := by
  unfold State.ticketTurn
  split
  · exact trivial
  · exact hs

theorem State.inTurn_keeps {α : Type} {r : Run α} {P : α → Prop} (hs : s.canonical = true) (hr : Run.Keeps P r) :
    Run.Keeps P (s.inTurn r) := by
  unfold State.inTurn
  split
  · exact hs
  · exact hr

theorem execVldsq_keeps {f : VUn} (hs : s.canonical = true) : OutcomeCanonical (execVldsq f s) := by
  refine vrun_keeps hs fun _ h => (State.src_keeps h).bind fun _ _ => (State.commits_keeps h).bind fun _ h =>
    Run.Keeps.ite h ((State.ticketTurn_keeps h).bind fun _ _ => (State.orderPoint_keeps h).bind fun _ h => ?_)
  refine (State.inTurn_keeps h (foldlM_keeps (I := fun r : State × _ => r.1.canonical = true) (fun _ _ h => ?_) h)).bind
    fun _ h => ?_
  · exact (tagged_keeps (State.ticketElem_keeps h)).bind fun _ h => h
  · exact State.memBeats_canonical (State.put_canonical h
      (Hand.produce_canonical (Hand.setElems_canonical (State.hand_canonical h))))

theorem execVstsq_keeps {f : VUn} (hs : s.canonical = true) : OutcomeCanonical (execVstsq f s) := by
  refine vrun_keeps hs fun _ h => (State.src_keeps h).bind fun _ _ => (State.vdata_keeps h).bind fun _ _ =>
    (State.commits_keeps h).bind fun _ h => Run.Keeps.ite h ((State.ticketTurn_keeps h).bind fun _ _ =>
    (State.orderPoint_keeps h).bind fun _ h => ?_)
  refine (State.inTurn_keeps h (foldlM_keeps (I := (·.canonical = true)) (fun _ _ h =>
    (tagged_keeps (State.ticketElem_keeps h)).bind fun _ h => ?_) h)).bind fun _ h => ?_
  · exact State.ite_canonical (State.storeSc_canonical h) (State.storeLive_canonical h)
  · exact State.memBeats_canonical (State.passPoint_canonical h)

theorem State.benchElems_keeps {f : VBench} {x : Reg64} {t : Tile} (hs : s.canonical = true) :
    Run.Keeps (fun _ => True) (s.benchElems f x t) := by
  unfold State.benchElems
  dsimp only
  split
  · exact hs
  · exact trivial

theorem State.benchOffset_keeps {a : Access} {f : VBench} (hs : s.canonical = true) :
    Run.Keeps (fun _ => True) (s.benchOffset a f) :=
  (State.src_keeps hs).bind fun _ _ => (State.aligned_keeps hs).bind fun _ _ => trivial

theorem execVldb_keeps {f : VBench} (hs : s.canonical = true) : OutcomeCanonical (execVldb f s) := by
  refine vrun_keeps hs fun _ h => (State.benchOffset_keeps h).bind fun _ _ => (State.sound_keeps h).bind fun _ _ =>
    Run.Keeps.ite (State.tileWait_keeps h) ((State.benchElems_keeps h).bind fun _ _ => ?_)
  refine (foldlM_keeps (I := fun r : State × _ => r.1.canonical = true) (fun _ _ h => ?_) h).bind fun _ h => ?_
  · exact (tagged_keeps (State.readable_keeps h)).bind fun _ _ => (tagged_keeps (State.soundBuffer_keeps h)).bind fun _ _ =>
      State.tileBytes_canonical (State.rebuilds_canonical (State.watch_canonical h))
  have he {l : List (Nat × Nat)} := Hand.setElems_canonical (r := f.d) (l := l) (State.hand_canonical h)
  exact State.memBeats_canonical (State.put_canonical h (Hand.ite_canonical he (Hand.produce_canonical he)))

theorem execVstb_keeps {f : VBench} {s0 : State} (hs0 : s0.canonical = true) : OutcomeCanonical (execVstb f s0) := by
  refine vrun_keeps hs0 fun _ h => (State.benchOffset_keeps h).bind fun _ _ => (State.sound_keeps h).bind fun _ _ =>
    (State.vdata_keeps h).bind fun _ _ => Run.Keeps.ite (State.tileWait_keeps h) ((State.benchElems_keeps h).bind fun _ _ => ?_)
  exact (State.undone_keeps hs0 (foldlM_keeps (I := (·.canonical = true)) (fun _ _ h =>
    State.storePlain_keeps (State.watch_canonical h)) h)).bind fun _ h => State.memBeats_canonical h

theorem State.evict_canonical {line : Nat} (hs : s.canonical = true) : (s.evict line).canonical = true := by
  unfold State.evict
  split
  · exact hs
  · exact State.clearTag_canonical (State.dudelOp_canonical hs)

theorem State.makeWay_canonical {line : Nat} (hs : s.canonical = true) : (s.makeWay line).canonical = true := by
  unfold State.makeWay
  refine State.ite_canonical hs ?_
  split
  · exact State.evict_canonical hs
  · exact hs

theorem State.link_canonical {line : Nat} (hs : s.canonical = true) : (s.link line).canonical = true := by
  have tagged (t : State) (l : SMap Tag) (ht : t.canonical = true) :
      State.canonical { t with mem := { t.mem with tags := l } } = true := ht
  have pinned (t : State) (l : List Nat) (ht : t.canonical = true) :
      (t.put { t.hand with ord := { t.hand.ord with pins := l } }).canonical = true := ht
  have hw := State.makeWay_canonical (line := line) hs
  have hc : (match mfind (s.makeWay line).mem.tags line with
      | some t => if t.hand = (s.makeWay line).hand.id then s.makeWay line else (s.makeWay line).clearTag line
      | none => s.makeWay line).canonical = true := by
    split
    · exact State.ite_canonical hw (State.clearTag_canonical hw)
    · exact hw
  exact State.ite_canonical hs (State.ite_canonical (pinned _ _ (tagged _ _ hc)) (tagged _ _ hc))

theorem State.linkTarget_keeps {s0 : State} {a : Access} {x : Elem} (hs0 : s0.canonical = true) :
    Run.Keeps (·.1.canonical = true) (s0.linkTarget a x) := by
  unfold State.linkTarget
  refine (State.aligned_keeps hs0).bind fun _ _ => (State.xlook_keeps hs0).bind fun _ h => ?_
  dsimp only
  split
  · exact (State.readable_keeps h).bind fun _ _ => State.watch_canonical h
  · exact hs0

theorem State.linkTargets_keeps {a : Access} {l : List Elem} (hs : s.canonical = true) :
    Run.Keeps (·.1.canonical = true) (s.linkTargets a l) :=
  foldlM_keeps (fun _ _ ha => (tagged_keeps (State.linkTarget_keeps ha)).bind fun _ hr => hr) hs

theorem State.linkReached_canonical {a : Access} {t : LinkTo} (hs : s.canonical = true) :
    (s.linkReached a t).canonical = true := State.reached_canonical hs

theorem State.linkOp_canonical {line mask : Nat} (hs : s.canonical = true) : (s.linkOp line mask).canonical = true :=
  State.dudelOp_canonical hs

theorem State.linkTurn_keeps (hs : s.canonical = true) : Run.Keeps (fun _ => True) s.linkTurn := by
  unfold State.linkTurn
  split
  · exact trivial
  · exact hs

theorem execVgl_keeps {f : VReg} (hs : s.canonical = true) : OutcomeCanonical (execVgl f s) := by
  refine vrun_keeps hs fun _ h => (State.src_keeps h).bind fun _ _ => (State.vsrc_keeps h).bind fun _ _ =>
    Run.Keeps.ite h ((State.linkTurn_keeps h).bind fun _ _ => (State.linkTargets_keeps h).bind fun _ h =>
    Run.Keeps.ite_state (State.orderPoint_keeps h) h fun _ h => ?_)
  refine State.memBeats_canonical (State.put_canonical ?_ (Hand.produce_canonical (Hand.setElems_canonical
    (State.hand_canonical ?_))))
  all_goals exact foldl_fst_canonical (fun _ _ h => State.linkOp_canonical (State.link_canonical
    (foldl_fst_canonical (fun _ _ h => State.linkedRead_canonical (State.rebuilds_canonical (State.linkReached_canonical h))) h))) h

theorem State.vscLine_canonical {d : Fld5} {line : Nat} {ts : List LinkTo} (hs : s.canonical = true) :
    (s.vscLine d line ts).1.canonical = true := by
  unfold State.vscLine
  split
  · refine State.linkOp_canonical (foldl_canonical (fun _ _ h => ?_) (foldl_canonical (fun _ _ =>
      State.linkReached_canonical) hs))
    exact State.ite_canonical (State.storeSc_canonical h) (State.storeLive_canonical h)
  · exact State.linkOp_canonical hs

theorem execVsc_keeps {f : VscF} (hs : s.canonical = true) : OutcomeCanonical (execVsc f s) := by
  refine vrun_keeps hs fun _ h => (State.src_keeps h).bind fun _ _ => (State.vsrc_keeps h).bind fun _ _ =>
    (State.vdata_keeps h).bind fun _ _ => (State.commits_keeps h).bind fun _ h => Run.Keeps.ite ?_ ?_
  · exact State.put_canonical h (Hand.putPred_canonical (State.hand_canonical h))
  · refine (State.linkTurn_keeps h).bind fun _ _ => (State.linkTargets_keeps h).bind fun _ h =>
      Run.Keeps.ite_state (State.orderPoint_keeps h) h fun _ h => ?_
    refine State.memBeats_canonical (State.put_canonical ?_ (Hand.putPred_canonical (State.hand_canonical ?_)))
    all_goals exact foldl_fst_canonical (fun _ _ h => State.vscLine_canonical h) h

/-! ### Machine/Msync -/

theorem Order.orders_snap {o : Order} {a b : Nat} : (o.orders a b).snap = o.snap := by
  unfold Order.orders
  split
  · rfl
  · rfl

theorem Hand.afresh_canonical {b : Nat} (hh : h.canonical = true) : (h.afresh b).canonical = true := Hand.ite_canonical hh hh

theorem fence_keeps {a b : Nat} {f : GF} (hs : s.canonical = true) : OutcomeCanonical (fence a b f s) :=
  guarded_keeps hs fun _ h => by
    split
    · exact State.retire_canonical (State.with_hand h (Hand.with_ord (State.hand_canonical h) Order.orders_snap))
    · exact h

theorem execXfence_keeps {f : ClsG} (hs : s.canonical = true) : OutcomeCanonical (execXfence f s) :=
  guarded_keeps hs fun _ h => Run.Keeps.ite_state (State.commits_keeps h) (Run.Keeps.pure h) fun _ h => Run.Keeps.ite
    (State.retire_canonical (State.with_hand h (Hand.afresh_canonical (Hand.with_ord (State.hand_canonical h) Order.orders_snap))))
    h

theorem State.arrive_canonical {scope : Nat} (hs : s.canonical = true) : (s.arrive scope).canonical = true :=
  State.framed_hand (State.modTask_canonical hs)

theorem State.depart_canonical {scope n : Nat} (hs : s.canonical = true) : (s.depart scope n).canonical = true :=
  State.advanceSerial_canonical
    (State.framed_with_hand hs (Hand.clearStripLocal_canonical
    (Hand.refresh_canonical (Hand.framed_ord (State.hand_canonical hs)) (MemState.pubFor_wf (State.mem_canonical hs)))))

theorem State.afterArrival_keeps {ar : Arrived} (hs : s.canonical = true) :
    Run.Keeps (·.canonical = true) (s.afterArrival ar) := by
  unfold State.afterArrival
  split
  · exact State.retire_canonical (State.dropGrant_canonical (State.depart_canonical hs))
  · exact (State.atPoint_keeps hs).bind fun _ _ => State.dropGrant_canonical hs

theorem execPhend_keeps {f : ScopeG} (hs : s.canonical = true) : OutcomeCanonical (execPhend f s) := by
  unfold execPhend
  split
  · exact finish_keeps (State.afterArrival_keeps hs)
  · refine guarded_keeps hs fun _ h => ?_
    split
    · exact State.afterArrival_keeps h
    · refine (State.commits_keeps h).bind fun _ h₁ => ?_
      refine (State.atPoint_keeps h₁).bind fun _ _ => ?_
      dsimp only
      split
      · exact State.dropGrant_canonical h₁
      · exact State.arrive_canonical (State.dropGrant_canonical h₁)

theorem execPhase_keeps {f : DAG} (hs : s.canonical = true) : OutcomeCanonical (execPhase f s) :=
  guarded_keeps hs fun _ h => (State.dest_keeps h).bind fun _ _ => State.retire_canonical (State.setX_canonical h)

theorem State.performHeld_yields {b : Buffered} (hs : s.canonical = true) :
    Yields (·.canonical = true) (s.performHeld h b) := by
  unfold State.performHeld
  refine Yields.map (P := fun s : State => s.canonical = true) ?_ fun _ h₁ => State.stamp_canonical h₁
  split
  · exact hs
  · exact State.retain_yields hs

theorem State.performAllHeld_gives (hs : s.canonical = true) : Gives (·.canonical = true) (s.performAllHeld h) := by
  unfold State.performAllHeld
  refine Gives.bind (P := fun s : State => s.canonical = true) ?_ fun _ h₁ => State.modHand_canonical h₁ fun _ h₂ => h₂
  refine foldlM_gives (fun _ _ h₁ => ?_) hs
  split
  · rename_i e
    exact (State.performHeld_yields h₁).some e
  · exact trivial

theorem State.settle_canonical {t : Task} {members : List Nat} {prev clock : Clock} (hs : s.canonical = true) :
    (s.settle t members prev clock).canonical = true := by
  unfold State.settle
  refine foldl_canonical (fun _ _ h => ?_) hs
  split
  · exact State.stamp_canonical h
  · exact h

theorem State.phaseStalls_canonical {e : InstEv} {f : Nat} {ids : List Nat} (hs : s.canonical = true) :
    (s.phaseStalls e f ids).canonical = true :=
  foldl_canonical (fun _ _ h => State.modHand_canonical h fun _ h => Hand.stalled_canonical h)
    (State.modField_canonical (State.modTask_canonical hs))

theorem execPhaseEndComplete_keeps {e : InstEv} (hs : s.canonical = true) : OutcomeCanonical (execPhaseEndComplete e s) := by
  have collapsed (t : State) (l : List HeelImage) (ht : t.canonical = true) :
      State.canonical { t with mem := { t.mem with heel := l } } = true := ht
  show State.canonical _ = true
  split
  · exact hs
  refine State.ite_canonical hs ?_
  split
  · exact State.engineError_canonical hs
  split
  · exact State.ite_canonical hs (State.phaseStalls_canonical hs)
  · rename_i e
    have ht := (foldlM_gives (I := (·.canonical = true)) (fun _ _ => State.performAllHeld_gives) hs).ok e
    refine foldl_canonical (fun _ _ h => State.modHand_canonical h fun _ hg =>
      Hand.ite_canonical (Hand.receive_canonical hg) hg) ?_
    refine State.modTask_canonical ?_
    exact State.ite_canonical (collapsed _ _ (State.settle_canonical ht)) (State.settle_canonical ht)

theorem liveWait_keeps {done : Reg64 → Reg64 → Bool} {f : ABG} (hs : s.canonical = true) :
    OutcomeCanonical (liveWait done f s) := by
  unfold liveWait
  refine guarded_keeps hs fun _ h => ?_
  refine (State.src_keeps h).bind fun _ _ => (State.src_keeps h).bind fun _ _ => ?_
  refine (State.aligned_keeps h).bind fun _ _ => (State.xlook_keeps h).bind fun _ h₁ => ?_
  dsimp only
  split
  · refine (State.readable_keeps h₁).bind fun _ _ => (State.commits_keeps h₁).bind fun _ h₂ => ?_
    refine (State.atPoint_keeps h₂).bind fun _ _ => ?_
    refine Run.Keeps.ite_state (State.orderPoint_keeps h₂) h₂ fun _ h₃ => ?_
    split
    · exact State.retire_canonical (State.clearAtPoint_canonical
        (State.linkOp_canonical
        (State.linkedRead_canonical (State.rebuilds_canonical (State.watch_canonical (State.reached_canonical h₃))))))
    · exact State.dropGrant_canonical (State.rebuilds_canonical (State.watch_canonical (State.reached_canonical h₃)))
  · exact h₁

theorem execUnlink_keeps {f : GF} (hs : s.canonical = true) : OutcomeCanonical (execUnlink f s) :=
  guarded_keeps hs fun _ h => State.retire_canonical (State.advanceSerial_canonical h)

/-! ### Machine/Seat -/

theorem State.putObj_canonical {obj : Nat} {o : SeatObj} (hs : s.canonical = true) : (s.putObj obj o).canonical = true := hs

theorem State.modSeat_canonical {obj : Nat} {n : BitVec 17} {f : Seat → Seat} (hs : s.canonical = true) :
    (s.modSeat obj n f).canonical = true := State.putObj_canonical hs

theorem State.releaseSeat_canonical {obj : Nat} (hs : s.canonical = true) : (s.releaseSeat obj h).canonical = true :=
  State.putObj_canonical hs

theorem State.foldSeat_canonical {obj : Nat} {n : BitVec 17} (hs : s.canonical = true) :
    (s.foldSeat obj n h).canonical = true := by
  unfold State.foldSeat
  split
  · exact hs
  · exact State.ite_canonical (State.releaseSeat_canonical hs) (State.ite_canonical (State.modSeat_canonical hs) hs)

theorem State.seatNote_canonical {obj fn handle : Nat} (hs : s.canonical = true) :
    (s.seatNote h obj fn handle).canonical = true := State.dudelOp_canonical hs

theorem State.foldAll_canonical (hs : s.canonical = true) : (s.foldAll h).canonical = true :=
  foldl_canonical (fun _ _ h₁ => State.seatNote_canonical (State.foldSeat_canonical h₁)) hs

theorem State.unpaired_keeps {x : Reg64} (hs : s.canonical = true) : Run.Keeps (fun _ => True) (s.unpaired x) := by
  unfold State.unpaired
  split
  · exact trivial
  · exact hs

theorem State.seatTurn_keeps (hs : s.canonical = true) : Run.Keeps (fun _ => True) s.seatTurn := by
  unfold State.seatTurn
  split
  · exact trivial
  · exact hs

theorem State.seatDone_canonical {obj fn handle : Nat} (hs : s.canonical = true) :
    (s.seatDone obj fn handle).canonical = true := State.seatNote_canonical hs

theorem State.beforeRelease_keeps (hs : s.canonical = true) : Run.Keeps (fun _ => True) s.beforeRelease := by
  unfold State.beforeRelease
  split
  · exact trivial
  · exact hs

theorem State.seatOf_keeps {x : Reg64} (hs : s.canonical = true) : Run.Keeps (fun _ => True) (s.seatOf x) := by
  unfold State.seatOf
  split
  · exact hs
  · split
    · exact trivial
    · exact hs

theorem State.seatHeld_keeps {x : Reg64} (hs : s.canonical = true) : Run.Keeps (fun _ => True) (s.seatHeld x) := by
  unfold State.seatHeld
  refine (State.seatOf_keeps hs).bind fun _ _ => ?_
  split
  · split
    · exact hs
    · split
      · exact trivial
      · exact hs

theorem State.receiveSeat_canonical {obj : Nat} {q : Seat} (hs : s.canonical = true) :
    (s.receiveSeat obj q).canonical = true :=
  State.modSeat_canonical (State.put_canonical hs (foldl_hand_canonical (fun _ _ h => Hand.receive_canonical h)
    (Hand.refresh_canonical (State.hand_canonical hs) (MemState.pubFor_wf (State.mem_canonical hs)))))

theorem execSeatq_keeps {f : UnG} (hs : s.canonical = true) : OutcomeCanonical (execSeatq f s) := by
  refine guarded_keeps hs fun _ h => (State.src_keeps h).bind fun _ _ => (State.dest_keeps h).bind fun _ _ =>
    (State.commits_keeps h).bind fun _ h => Run.Keeps.ite h (Run.Keeps.ite h (Run.Keeps.ite h (Run.Keeps.ite h ?_)))
  exact (State.seatTurn_keeps h).bind fun _ _ =>
    State.retire_canonical (State.result_canonical (State.seatDone_canonical (State.putObj_canonical h)))

theorem execSeatw_keeps {f : SeatA} (hs : s.canonical = true) : OutcomeCanonical (execSeatw f s) := by
  unfold execSeatw
  refine guarded_keeps hs fun _ h => ?_
  refine (State.src_keeps h).bind fun _ _ => (State.commits_keeps h).bind fun _ h₁ => ?_
  refine (State.unpaired_keeps h₁).bind fun _ _ => (State.seatHeld_keeps h₁).bind fun _ _ => ?_
  refine (State.atPoint_keeps h₁).bind fun _ _ => ?_
  split
  · exact State.dropGrant_canonical h₁
  · exact (State.seatTurn_keeps h₁).bind fun _ _ =>
      State.retire_canonical (State.clearAtPoint_canonical (State.seatDone_canonical (State.receiveSeat_canonical h₁)))

theorem execSeatr_keeps {f : SeatA} (hs : s.canonical = true) : OutcomeCanonical (execSeatr f s) := by
  refine guarded_keeps hs fun _ h => (State.src_keeps h).bind fun _ _ => (State.commits_keeps h).bind fun _ h =>
    (State.unpaired_keeps h).bind fun _ _ => (State.seatHeld_keeps h).bind fun _ _ => Run.Keeps.ite h ?_
  exact (State.beforeRelease_keeps h).bind fun _ _ => (State.seatTurn_keeps h).bind fun _ _ =>
    State.retire_canonical (State.seatDone_canonical (State.releaseSeat_canonical h))

theorem execSeatf_keeps {f : SeatA} (hs : s.canonical = true) : OutcomeCanonical (execSeatf f s) :=
  guarded_keeps hs fun _ h => (State.src_keeps h).bind fun _ _ => (State.commits_keeps h).bind fun _ h =>
    (State.unpaired_keeps h).bind fun _ _ => (State.seatHeld_keeps h).bind fun _ _ =>
    Run.Keeps.if_then (State.beforeRelease_keeps h) fun _ => (State.seatTurn_keeps h).bind fun _ _ =>
    State.retire_canonical (State.seatDone_canonical (State.foldSeat_canonical h))

theorem execSeatp_keeps {f : ABG} (hs : s.canonical = true) : OutcomeCanonical (execSeatp f s) := by
  unfold execSeatp
  refine guarded_keeps hs fun _ h => (State.src_keeps h).bind fun _ _ => (State.src_keeps h).bind fun _ _ =>
    (State.commits_keeps h).bind fun _ h => (State.unpaired_keeps h).bind fun _ _ => (State.seatHeld_keeps h).bind fun ⟨_, _⟩ _ => ?_
  dsimp only
  split
  · exact h
  refine Run.Keeps.ite h (Run.Keeps.ite h ?_)
  exact (State.seatTurn_keeps h).bind fun _ _ => State.retire_canonical
      (State.seatDone_canonical (State.modHand_canonical (State.modSeat_canonical h) fun _ h => h))

theorem execSeatin_keeps {f : DG} (hs : s.canonical = true) : OutcomeCanonical (execSeatin f s) := by
  refine guarded_keeps hs fun _ ht => (State.dest_keeps ht).bind fun _ _ => (State.commits_keeps ht).bind fun u hu =>
    (State.unpaired_keeps hu).bind fun _ _ => (State.atPoint_keeps hu).bind fun _ _ => ?_
  split
  · exact State.dropGrant_canonical hu
  · refine (State.seatTurn_keeps hu).bind fun _ _ => ?_
    have hp (l : List (BitVec 32)) : (u.put { u.hand with inbox := l }).canonical = true := hu
    refine State.retire_canonical (State.result_canonical (State.clearAtPoint_canonical (State.seatDone_canonical ?_)))
    split
    · exact hp _
    · exact State.modSeat_canonical (State.ite_canonical (State.receiveSeat_canonical (hp _)) (hp _))

theorem execSeatx_keeps {f : ABG} (hs : s.canonical = true) : OutcomeCanonical (execSeatx f s) := by
  unfold execSeatx
  refine guarded_keeps hs fun _ h => ?_
  refine (State.src_keeps h).bind fun _ _ => (State.src_keeps h).bind fun _ _ => ?_
  refine (State.commits_keeps h).bind fun _ h₁ => ?_
  refine (State.unpaired_keeps h₁).bind fun _ _ => (State.seatHeld_keeps h₁).bind fun _ _ => ?_
  split
  · split
    · exact h₁
    · split
      · dsimp only
        split
        · exact h₁
        · exact (State.seatTurn_keeps h₁).bind fun _ _ =>
            State.retire_canonical (State.seatDone_canonical (State.putObj_canonical h₁))
      · exact h₁

theorem execSeatst_keeps {f : UnG} (hs : s.canonical = true) : OutcomeCanonical (execSeatst f s) :=
  guarded_keeps hs fun _ h => (State.src_keeps h).bind fun _ _ => (State.dest_keeps h).bind fun _ _ =>
    (State.commits_keeps h).bind fun _ h₁ => (State.unpaired_keeps h₁).bind fun _ _ => (State.seatTurn_keeps h₁).bind fun _ _ =>
    State.retire_canonical (State.result_canonical (State.seatDone_canonical h₁))

/-! ### Machine/Fetch -/

theorem State.fetchWord_keeps {va : Reg64} (hs : s.canonical = true) : Run.Keeps (·.1.canonical = true) (s.fetchWord va) := by
  unfold State.fetchWord
  refine (State.xlook_keeps hs).bind fun _ h => ?_
  dsimp only
  split
  · exact (State.readable_keeps h).bind fun _ _ => State.reached_canonical h
  · exact h

theorem State.frameCheck_keeps {rep : Reg64} {n : Nat} (hs : s.canonical = true) :
    Run.Keeps (·.1.canonical = true) (s.frameCheck rep n) := by
  unfold State.frameCheck
  refine foldlM_keeps (fun _ _ h => ?_) hs
  split
  · exact h
  · exact (State.fetchWord_keeps h).bind fun _ h₁ => h₁

theorem execRep_keeps {f : RepF} (hs : s.canonical = true) : OutcomeCanonical (execRep f s) := by
  unfold execRep
  refine finish_keeps ((State.frameCheck_keeps hs).bind fun _ h => ?_)
  dsimp only
  split
  · exact h
  refine (State.need_keeps h).bind fun _ _ => Run.Keeps.ite h (Run.Keeps.ite ?_ h)
  exact State.framed_with_hand h (Hand.iterEnd_canonical (Hand.framed (State.hand_canonical h)))

theorem State.resumeFrame_keeps {tpc : Reg64} {leave : Hand → Hand} (hs : s.canonical = true)
    (hleave : ∀ t, t.canonical = true → (leave t).canonical = true) :
    Run.Keeps (·.canonical = true) (s.resumeFrame tpc leave) := by
  unfold State.resumeFrame
  refine (State.fetchWord_keeps hs).bind fun _ h => ?_
  dsimp only
  split
  · exact h
  · refine (State.frameCheck_keeps h).bind fun _ h₁ => ?_
    split
    · exact h₁
    · refine (State.need_keeps h₁).bind fun _ _ => ?_
      split
      · exact h₁
      · split <;> exact State.framed_with_hand h₁ (Hand.framed (hleave _ (State.hand_canonical h₁)))

theorem Hand.leaveHandler_canonical (hh : h.canonical = true) : h.leaveHandler.canonical = true := hh

theorem State.rett_keeps {g : BitVec 3} (hs : s.canonical = true) : Run.Keeps (·.canonical = true) (s.rett g) := by
  refine (State.commits_keeps hs).bind fun _ h => Run.Keeps.ite h (Run.Keeps.ite h (Run.Keeps.ite ?_ ?_))
  · exact State.framed_with_hand h (Hand.framed (Hand.leaveHandler_canonical (State.hand_canonical h)))
  · have hr {tpc : Reg64} := State.resumeFrame_keeps (tpc := tpc) h fun _ => Hand.leaveHandler_canonical
    split
    · rename_i e
      have ht := hr.error e
      split
      · exact State.framed_with_hand ht (Hand.framed (Hand.leaveHandler_canonical (State.hand_canonical ht)))
      · exact ht
    · exact hr

theorem State.followWord_keeps {w : Word} (hs : s.canonical = true) : Run.Keeps (·.1.canonical = true) (s.followWord w) := by
  unfold State.followWord
  refine (State.fetchWord_keeps hs).bind fun _ h => ?_
  dsimp only
  split
  · exact h
  · split <;> exact h

/-! ### Machine/Matrix -/

theorem State.mmaChecks_keeps {o : MmaOp} (hs : s.canonical = true) : Run.Keeps (fun _ => True) (s.mmaChecks o) :=
  (State.sound_keeps hs).bind fun _ _ => Run.Keeps.if_then (State.trap_keeps hs) fun _ =>
    Run.Keeps.if_then (State.tileTrap_keeps hs) fun _ => Run.Keeps.if_then (State.tileTrap_keeps hs) fun _ =>
    Run.Keeps.ite (State.trap_keeps hs) trivial

theorem State.issueJob_canonical {w : Word} {o : MmaOp} {follows : Option Nat} (hs : s.canonical = true) :
    (s.issueJob w o follows).canonical = true := State.framed_with_hand hs (State.hand_canonical hs)

theorem matrixIssue_keeps {w : Word} (hs : s.canonical = true) : OutcomeCanonical (matrixIssue w s) := by
  unfold matrixIssue
  refine finish_keeps ?_
  refine (State.mmaChecks_keeps hs).bind fun _ _ => ?_
  split
  · exact State.tileWait_keeps hs
  · refine (State.commits_keeps hs).bind fun _ h => ?_
    split
    · exact h
    · exact State.retire_canonical (State.issueJob_canonical h)

theorem State.groupRead_canonical {core : Nat} {a b : Tile} {g : Nat} (hs : s.canonical = true) :
    (s.groupRead core a b g).canonical = true :=
  State.ite_canonical hs (foldl_canonical (fun _ _ h => foldl_canonical (fun _ _ h₁ => foldl_canonical (fun _ _ h₂ =>
    State.rebuilds_canonical h₂) h₁) h) hs)

theorem execMatrixJobStart_keeps {e : JobEv} (hs : s.canonical = true) : OutcomeCanonical (execMatrixJobStart e s) := by
  unfold execMatrixJobStart
  show State.canonical _ = true
  split
  · exact hs
  · split
    · exact hs
    · exact State.modHand_canonical hs fun _ h => h

theorem State.groupsRead_canonical {core : Nat} {a b : Tile} {g n : Nat} {bad : Option (Nat × Trap)} (hs : s.canonical = true) :
    (s.groupsRead core a b g n bad).canonical = true := foldl_canonical (fun _ _ h => State.groupRead_canonical h) hs

theorem execMatrixJobComplete_keeps {e : JobEv} (hs : s.canonical = true) : OutcomeCanonical (execMatrixJobComplete e s) := by
  unfold execMatrixJobComplete
  show State.canonical _ = true
  split
  · exact hs
  · split
    · exact hs
    · refine State.ite_canonical hs ?_
      split
      · exact State.modHand_canonical (State.modCore_canonical hs) fun _ h => h
      · refine State.modHand_canonical (State.groupsRead_canonical (State.modCore_canonical hs)) fun _ h => ?_
        split <;> exact h

theorem State.stopJob_canonical {done : Nat} (hs : s.canonical = true) : (s.stopJob h done).canonical = true := by
  unfold State.stopJob
  split
  · exact hs
  · extract_lets a b span n
    split
    · exact hs
    · refine State.modHand_canonical (State.groupsRead_canonical hs) fun _ hg => ?_
      dsimp only
      split
      · exact hg
      · exact Hand.ite_canonical hg hg

/-! ### Machine/Copy -/

theorem State.copyChecks_keeps {o : CopyOp} {l : List Word} (hs : s.canonical = true) :
    Run.Keeps (fun _ => True) (s.copyChecks o l) := by
  unfold State.copyChecks
  split
  · exact hs
  · split
    · exact trivial
    · dsimp only
      split
      · exact State.tileTrap_keeps hs
      · split
        · exact State.tileTrap_keeps hs
        · exact trivial

theorem State.retirePair_canonical (hs : s.canonical = true) : s.retirePair.canonical = true :=
  State.framed_with_hand hs (Hand.framed (Hand.iterEnd_canonical (Hand.framed (State.hand_canonical hs))))

theorem State.issueCopy_canonical {o : CopyOp} {l : List Word} {followed : Bool} (hs : s.canonical = true) :
    (s.issueCopy o l followed).canonical = true := by
  have accepted {c d e : Prop} [Decidable c] [Decidable d] [Decidable e] {i j k n : Nat} {f g : Tile → Tile} :
      (if c then s else if d then s.modTile i j f else if e then s.modTile k n g else s).canonical = true :=
    State.ite_canonical hs (State.ite_canonical (State.modTile_canonical hs) (State.ite_canonical (State.modTile_canonical hs) hs))
  exact State.framed_with_hand (State.framed_hand_ord (State.modCore_canonical accepted))
    (Hand.stalled_canonical (Hand.framed_ord (State.hand_canonical (State.modCore_canonical accepted))))

theorem copyIssue_keeps {w : Word} {m : Bool} {g : BitVec 3} {b : Fld5} {tb : Bit} {regs : State → Run CopyOp}
    (hregs : ∀ t, t.canonical = true → Run.Keeps (fun _ => True) (regs t)) (hs : s.canonical = true) :
    OutcomeCanonical (copyIssue w m g b tb regs s) := by
  refine finish_keeps (Run.Keeps.bind (P := fun r : State × _ => r.1.canonical = true) ?_ fun ⟨u, fo⟩ h => ?_)
  · exact Run.Keeps.ite ((State.followWord_keeps hs).bind fun _ h => h) hs
  · refine (State.guard_keeps h).bind fun _ _ => Run.Keeps.ite (State.ite_canonical (State.retirePair_canonical h)
      (State.retire_canonical h)) ((hregs u h).bind fun _ _ => (State.vneed_keeps h).bind fun _ _ =>
      (State.copyChecks_keeps h).bind fun _ _ => ?_)
    cases fo with
    | none =>
      exact Run.Keeps.ite (State.tileWait_keeps h) ((State.commits_keeps h).bind fun _ h => Run.Keeps.ite h (Run.Keeps.ite h
        (State.retire_canonical (State.issueCopy_canonical h))))
    | some x =>
      refine (State.mmaChecks_keeps h).bind fun _ _ => Run.Keeps.ite (State.tileWait_keeps h)
        ((State.commits_keeps h).bind fun _ h => Run.Keeps.ite h (Run.Keeps.ite h ?_))
      exact State.retirePair_canonical (State.issueJob_canonical (State.issueCopy_canonical h))

theorem execCpyMem_keeps {f : RegG} (hs : s.canonical = true) : OutcomeCanonical (execCpyMem f s) :=
  copyIssue_keeps (fun _ h => (State.src_keeps h).bind fun _ _ => (State.need_keeps h).bind fun _ _ => trivial) hs

theorem State.copyXl_gives {c : Copy} {a : Access} {va : Reg64} (hs : s.canonical = true) :
    Gives (·.1.canonical = true) (s.copyXl c a va) := by
  unfold State.copyXl
  split
  · rename_i e
    exact (State.xlate_gives hs).ok e
  · exact trivial
  · exact trivial

theorem State.copyRaw_gives {c : Copy} {k w : Nat} {sc : Bool} (hs : s.canonical = true) :
    Gives (·.1.canonical = true) (s.copyRaw c k w sc) := by
  unfold State.copyRaw
  split
  · exact trivial
  · split
    · exact trivial
    · rename_i e₁
      exact (State.engineTarget_gives (State.uses_canonical hs) fun _ _ _ h => State.chooseFree_canonical h).ok e₁

theorem State.copyPage_gives {c : Copy} {page record : Nat} (hs : s.canonical = true) :
    Gives (·.1.canonical = true) (s.copyPage c page record) := by
  unfold State.copyPage
  split
  · exact hs
  · refine (State.copyRaw_gives hs).bind fun _ h => ?_
    refine (State.copyRaw_gives h).bind fun _ h₁ => ?_
    dsimp only
    split
    · exact trivial
    · exact h₁

theorem State.copyPiece_gives {c : Copy} {va : Reg64} {n : Nat} (hs : s.canonical = true) :
    Gives (·.1.canonical = true) (s.copyPiece c va n) := by
  unfold State.copyPiece
  refine (State.copyXl_gives hs).bind fun _ h => ?_
  dsimp only
  split
  · exact (State.copyRaw_gives h).bind fun _ h₁ => h₁
  · exact (State.copyPage_gives h).bind fun _ h₁ => h₁
  · exact trivial

theorem State.copyRead_gives {c : Copy} {w : Option Nat} {va : Reg64} (hs : s.canonical = true) :
    Gives (·.1.canonical = true) (s.copyRead c w va) := by
  unfold State.copyRead
  refine Gives.ite Gives.err ((State.copyXl_gives hs).bind fun ⟨_, _⟩ h => ?_)
  dsimp only
  split
  · split
    · split
      · exact Gives.err
      · rename_i e
        exact (State.engineTarget_gives h fun _ _ _ h₁ => State.chooseFree_canonical h₁).ok e
    · exact Gives.ite Gives.err ((State.copyRaw_gives h).bind fun _ h₁ => Gives.ite Gives.err h₁)
  · refine Gives.ite ((State.copyPiece_gives hs).bind fun _ h => h) ?_
    split
    · exact Gives.err
    · exact (State.copyPiece_gives hs).bind fun _ h => (Gives.ite (Gives.pure_fst h) (State.copyPiece_gives h)).bind fun _ h₁ =>
        Gives.ite Gives.err h₁

theorem State.copyPlace_gives {c : Copy} {w : Option Nat} {va : Reg64} {l : List Byte} (hs : s.canonical = true) :
    Gives (·.1.canonical = true) (s.copyPlace c w va l) := by
  unfold State.copyPlace
  refine Gives.ite Gives.err ((State.copyXl_gives hs).bind fun ⟨_, _⟩ h => ?_)
  dsimp only
  split
  · exact Gives.ite Gives.err h
  · exact Gives.err
  · refine Gives.ite Gives.err (Gives.ite h ((State.copyXl_gives h).bind fun ⟨_, _⟩ h => ?_))
    dsimp only
    split
    · exact h
    · exact Gives.err

theorem State.engineWrite_canonical {w : EngineWrite} {kb : List (Nat × Byte)} {perform : State → State}
    (hs : s.canonical = true) (hperform : ∀ t, t.canonical = true → (perform t).canonical = true) :
    (s.engineWrite w kb perform).canonical = true := State.framed_mem (hperform _ (State.modTask_canonical hs))

theorem State.retainAll_canonical {w : Writer} {kb : List (Nat × Byte)} (hs : s.canonical = true) :
    (s.retainAll w kb).canonical = true := foldl_canonical (fun _ _ h => State.getD_canonical (State.retain_yields h) h) hs

theorem State.publish_canonical {l : List (Nat × Byte)} (hs : s.canonical = true) : (s.publish l).canonical = true := by
  unfold State.publish
  exact State.canonical_of_mem hs (MemState.foldl_canonical (fun _ _ h => MemState.publish_canonical h) (State.mem_canonical hs))

theorem State.freeImages_canonical {w : Writer} (hs : s.canonical = true) : (s.freeImages w).canonical = true := hs

theorem State.copyStore_canonical {c : Copy} {kb : List (Nat × Byte)} (hs : s.canonical = true) :
    (s.copyStore c kb).canonical = true :=
  State.engineWrite_canonical (State.retainAll_canonical hs) fun _ h => State.putLiveAll_canonical h

theorem State.copyLand_canonical {c : Copy} {o : Nat} {l : List Byte} (hs : s.canonical = true) :
    (s.copyLand c o l).canonical = true := State.engineWrite_canonical hs fun _ h => State.land_canonical h

theorem State.tileElem_gives {c : Copy} {p : Nat} (hs : s.canonical = true) :
    Gives (·.1.canonical = true) (s.tileElem c p) := by
  unfold State.tileElem
  extract_lets t e9 w
  split
  split
  · exact Gives.err
  · exact Gives.ite Gives.err (State.rebuilds_canonical hs)

theorem State.descPiece_gives {c : Copy} {va : Reg64} {n : Nat} (hs : s.canonical = true) :
    Gives (·.1.canonical = true) (s.descPiece c va n) := by
  unfold State.descPiece
  refine (State.copyXl_gives hs).bind fun _ h => ?_
  dsimp only
  split
  · exact State.copyRaw_gives h
  · exact trivial

theorem State.peerDesc_gives {c : Copy} (hs : s.canonical = true) : Gives (·.1.canonical = true) (s.peerDesc c) := by
  unfold State.peerDesc
  refine (State.descPiece_gives hs).bind fun _ h => ?_
  dsimp only
  split
  · exact h
  · exact (State.descPiece_gives h).bind fun _ h₁ => h₁

theorem State.peerOpen_gives {c : Copy} (hs : s.canonical = true) : Gives (·.1.canonical = true) (s.peerOpen c) := by
  unfold State.peerOpen
  split
  · exact trivial
  · split
    · exact trivial
    · exact trivial
    · exact trivial
    · rename_i e₁
      split
      · exact trivial
      · split
        · exact trivial
        · exact (State.peerDesc_gives hs).ok e₁

theorem State.copyStep_gives {c : Copy} (hs : s.canonical = true) : Gives (·.1.canonical = true) (s.copyStep c) := by
  unfold State.copyStep
  refine Gives.ite Gives.err ?_
  split
  · exact (State.copyRead_gives hs).bind fun _ h => State.copyLand_canonical h
  · refine (State.copyRead_gives hs).bind fun _ h => ?_
    dsimp only
    split
    · exact h
    · exact Gives.pure_fst (State.modTile_canonical (State.copyLand_canonical h))
  · exact (State.copyRead_gives hs).bind fun _ h => State.copyLand_canonical h
  · exact (State.tileElem_gives hs).bind fun _ h => (State.copyPlace_gives h).bind fun _ h => State.copyStore_canonical h
  · exact Gives.ite_bind (P := fun r : State × Copy => r.1.canonical = true) (State.peerOpen_gives hs) hs
      fun _ h => (State.tileElem_gives h).bind fun _ h => h
  · exact (State.copyRead_gives hs).bind fun _ h => (State.copyPlace_gives h).bind fun _ h => State.copyStore_canonical h

theorem State.setCopy_canonical {c : Copy} (hs : s.canonical = true) : (s.setCopy c).canonical = true := hs

theorem State.dropCopy_canonical {c : Copy} (hs : s.canonical = true) : (s.dropCopy c).canonical = true := hs

theorem State.copyTry_gives {c : Copy} (hs : s.canonical = true) : Gives (·.1.canonical = true) (s.copyTry c) := by
  unfold State.copyTry
  split
  · exact trivial
  · exact State.copyStep_gives hs

theorem State.copyRun_canonical {hand num n : Nat} (hs : s.canonical = true) : (s.copyRun hand num n).canonical = true := by
  induction n generalizing s with
  | zero => exact hs
  | succ n ih =>
    unfold State.copyRun
    split
    · exact hs
    split
    · exact hs
    split
    · rename_i e
      exact ih (State.setCopy_canonical ((State.copyTry_gives hs).ok e))
    · exact State.setCopy_canonical hs
    · exact State.ite_canonical (State.setCopy_canonical (State.countBadAt_canonical hs))
        (State.engineError_canonical (State.dropCopy_canonical hs))
    · exact hs

theorem State.endCopy_canonical {c : Copy} {status : Byte} (hs : s.canonical = true) : (s.endCopy c status).canonical = true := by
  have hw {r kb : List (Nat × Byte)} : (((s.publish r).freeImages (s.copyWriter c)).putPubAll kb).canonical = true :=
    State.putPubAll_canonical (State.freeImages_canonical (State.publish_canonical hs))
  refine State.modHand_canonical (State.dropCopy_canonical (State.modCore_canonical ?_)) fun _ h => h
  exact State.ite_canonical hw (State.ite_canonical (State.ite_canonical hw (State.modTile_canonical hw))
    (State.ite_canonical (State.modTile_canonical hw) hw))

theorem State.map_getD_canonical {x : Option State} {f : State → State} {t : State} (hx : Yields (·.canonical = true) x)
    (hf : ∀ s, s.canonical = true → (f s).canonical = true) (ht : t.canonical = true) :
    ((x.map f).getD t).canonical = true := State.getD_canonical (hx.map hf) ht

theorem State.apply_getD_canonical {α : Type} {x : Option α} {f : α → State} {t : State} (hf : ∀ a, (f a).canonical = true)
    (ht : t.canonical = true) :
    ((x.map f).getD t).canonical = true := by
  cases x with
  | none => exact ht
  | some a => exact hf a

theorem State.peerAnswered_canonical {e : CmdEv} {arrive : State → Copy → Option State} (hs : s.canonical = true)
    (ha : ∀ s c, s.canonical = true → Yields (·.canonical = true) (arrive s c)) :
    (s.peerAnswered e arrive).canonical = true := by
  unfold State.peerAnswered
  split
  · exact hs
  · exact State.ite_canonical (State.map_getD_canonical (ha _ _ hs) (fun _ => State.endCopy_canonical) hs) hs

theorem execCopyCompletion_keeps {e : CmdEv} (hs : s.canonical = true) : OutcomeCanonical (execCopyCompletion e s) := by
  unfold execCopyCompletion
  show State.canonical _ = true
  split
  · exact hs
  · split
    · exact State.ite_canonical hs (State.endCopy_canonical hs)
    · exact State.ite_canonical hs (State.ite_canonical hs (State.ite_canonical (State.endCopy_canonical hs)
        (State.ite_canonical (State.endCopy_canonical hs) (State.peerAnswered_canonical hs fun _ _ h =>
        State.arrives_yields h))))

theorem State.peerPlace_yields {asid : BitVec 16} {va : Reg64} {l : List Byte} (hs : s.canonical = true) :
    Yields (·.1.canonical = true) (s.peerPlace asid va l) := by
  have one (t : State) (va : Reg64) (ht : t.canonical = true) : Yields (·.1.canonical = true)
      (match t.xlate ⟨asid, none, false, .single⟩ .copyWrite va.toNat with
        | .ok r => some r
        | .error _ => none) := by
    split
    · rename_i e
      exact (State.xlate_gives ht).ok e
    · trivial
  unfold State.peerPlace
  refine Yields.ite trivial ?_
  dsimp only
  split
  · rename_i e
    have ht := (one s va hs).some e
    split
    · exact ht
    split
    · rename_i e
      exact (one _ _ ht).some e
    · trivial
  · rename_i e
    have ht := (one s va hs).some e
    split
    · exact ht
    · trivial
  · trivial

theorem State.freeTask_canonical {task : Nat} (hs : s.canonical = true) : (s.freeTask task).canonical = true := hs

theorem State.peerWord_canonical {f : PeerF} {bytes : Mem} (hs : s.canonical = true) :
    (s.peerWord f bytes).canonical = true := by
  unfold State.peerWord
  refine State.ite_canonical hs ?_
  split
  · rename_i e
    exact State.framed_mem (State.putPubAll_canonical ((State.xlate_gives hs).ok e))
  · exact hs

theorem State.peerBytes_canonical {f : PeerF} {gen o : Nat} {l : List Byte} (hs : s.canonical = true) :
    (s.peerBytes f gen o l).canonical = true := State.engineWrite_canonical hs fun _ h => State.land_canonical h

theorem State.peerLand_canonical {f : PeerF} {gen p : Nat} (hs : s.canonical = true) : (s.peerLand f gen p).canonical = true :=
  State.ite_canonical (State.peerBytes_canonical hs)
    (State.ite_canonical hs (State.modTile_canonical (State.peerBytes_canonical hs)))

theorem State.arriveStep_yields {a : Arrival} (hs : s.canonical = true) : Yields (·.1.canonical = true) (s.arriveStep a) := by
  unfold State.arriveStep
  split
  · exact (State.peerPlace_yields hs).map fun _ h => State.engineWrite_canonical (State.retainAll_canonical h) fun _ h₁ =>
      State.putLiveAll_canonical h₁
  · split
    · exact trivial
    · exact State.peerLand_canonical hs

theorem State.arriveEnd_canonical {a : Arrival} {whole : Bool} (hs : s.canonical = true) :
    (s.arriveEnd a whole).canonical = true :=
  have hp := State.freeImages_canonical (State.publish_canonical hs)
  State.ite_canonical (State.peerWord_canonical hp) (State.ite_canonical (State.modTile_canonical hp) hp)

theorem State.arriveRun_canonical {i n : Nat} (hs : s.canonical = true) : (s.arriveRun i n).canonical = true := by
  induction n generalizing s with
  | zero => exact hs
  | succ n ih =>
    unfold State.arriveRun
    split
    · exact hs
    split
    · exact hs
    split
    · exact State.arriveEnd_canonical hs
    split
    · exact State.arriveEnd_canonical hs
    · rename_i t b e
      have ht : t.canonical = true := (State.arriveStep_yields hs).some e
      exact State.ite_canonical (State.arriveEnd_canonical ht) (ih ht)

theorem State.peerArrives_canonical {f : PeerF} (hs : s.canonical = true) : (s.peerArrives f).canonical = true :=
  have arrived (t : State) (l : List Arrival) (ht : t.canonical = true) : State.canonical { t with arrivals := l } = true := ht
  State.ite_canonical hs (State.ite_canonical (State.peerWord_canonical hs)
    (arrived _ _ (State.ite_canonical (State.modTile_canonical hs) hs)))

theorem execPeerDelivery_keeps {f : PeerF} (hs : s.canonical = true) : OutcomeCanonical (execPeerDelivery f s) := by
  unfold execPeerDelivery
  show State.canonical _ = true
  refine State.ite_canonical hs ?_
  split
  · exact hs
  · split
    · exact hs
    · rename_i e₁
      exact State.peerArrives_canonical ((State.arrives_yields hs).some e₁)

theorem execCopyBytesLanded_keeps {e : CmdEv} (hs : s.canonical = true) : OutcomeCanonical (execCopyBytesLanded e s) := by
  unfold execCopyBytesLanded
  show State.canonical _ = true
  split
  · exact State.ite_canonical hs (State.arriveRun_canonical hs)
  · split
    · exact hs
    · exact State.ite_canonical hs (State.copyRun_canonical hs)

/-! ### Machine/Xchg -/

theorem State.engineSpan_keeps {a : Access} {cls : Nat} {va : Reg64} {n : Nat} (hs : s.canonical = true) :
    Run.Keeps (·.1.canonical = true) (s.engineSpan a cls va n) := by
  refine foldlM_keeps (fun _ _ h => (State.xlook_keeps h).bind fun _ h => State.performing_keeps h fun _ hu => ?_) hs
  split
  · exact hu
  · rename_i e
    have ht := (State.engineTarget_gives (pick := State.chooseFree) hu fun _ _ _ h => State.chooseFree_canonical h).ok e
    exact ht

theorem execXchg_keeps {f : XchgF} (hs : s.canonical = true) : OutcomeCanonical (execXchg f s) := by
  unfold execXchg
  refine guarded_keeps hs fun _ h => (State.src_keeps h).bind fun _ _ => (State.sound_keeps h).bind fun _ _ =>
    (State.engineSpan_keeps h).bind fun _ h => ?_
  dsimp only
  split
  · exact h
  split
  · exact State.tileTrap_keeps h
  · exact Run.Keeps.ite (State.tileTrap_keeps h) (Run.Keeps.ite (State.tileWait_keeps h) ((State.commits_keeps h).bind fun _ h =>
      State.retire_canonical (State.framed_hand_ord (State.modTile_canonical h))))

theorem State.stopXchg_canonical {i : Nat} {x : Xchg} {t : Trap} (hs : s.canonical = true) :
    (s.stopXchg i x t).canonical = true := by
  unfold State.stopXchg
  split
  · exact State.engineError_canonical hs
  · exact State.countBadAt_canonical hs

theorem execExchangeBlockLanding_keeps {i : Nat} (hs : s.canonical = true) :
    OutcomeCanonical (execExchangeBlockLanding i s) := by
  show State.canonical _ = true
  split
  · exact hs
  refine State.ite_canonical hs ?_
  split
  · exact hs
  split
  · exact hs
  refine State.ite_canonical hs ?_
  split
  · exact State.stopXchg_canonical hs
  split
  · exact State.stopXchg_canonical hs
  refine State.ite_canonical (State.framed hs) (State.ite_canonical hs ?_)
  dsimp only
  split
  · exact State.stopXchg_canonical hs
  · exact State.framed (State.engineWrite_canonical (State.rebuilds_canonical hs) fun _ => State.land_canonical)

theorem State.abandon_canonical {which : Xchg → Bool} (hs : s.canonical = true) : (s.abandon which).canonical = true :=
  foldl_canonical (fun _ _ h => State.modTile_canonical h) hs

/-! ### Machine/Pool -/

theorem State.poolRead_gives {asid : BitVec 16} {sys : Bool} {va : Reg64} {n : Nat} (hs : s.canonical = true) :
    Gives (·.1.canonical = true) (s.poolRead asid sys va n) := by
  refine foldlM_gives (fun _ _ ha => (State.xlate_gives ha).bind fun _ hr => ?_) hs
  split
  · exact State.uses_canonical hr
  · trivial

theorem State.readNode_yields {asid : BitVec 16} {sys paired spawned : Bool} {va : Reg64} {count : Nat}
    (hs : s.canonical = true) :
    Yields (·.1.canonical = true) (s.readNode asid sys paired spawned va count) := by
  unfold State.readNode
  split
  · exact trivial
  · exact hs
  · rename_i e
    dsimp only
    split
    · exact (State.poolRead_gives hs).ok e
    · split
      · exact trivial
      · exact (State.poolRead_gives hs).ok e
      · rename_i e₂
        exact (State.poolRead_gives ((State.poolRead_gives hs).ok e)).ok e₂

theorem foldlM_yields {β σ : Type} {I : σ → Prop} {f : σ → β → Option σ} {l : List β} {a : σ}
    (hf : ∀ a b, I a → Yields I (f a b)) (ha : I a) :
    Yields I (l.foldlM f a) := by
  induction l generalizing a with
  | nil => exact ha
  | cons b l ih =>
    rw [List.foldlM_cons]
    cases e : f a b with
    | none => trivial
    | some c => exact ih ((hf a b ha).some e)

theorem State.readGraph_canonical {g : Graph} (hs : s.canonical = true) : (s.readGraph g).1.canonical = true := by
  unfold State.readGraph
  dsimp only
  split
  · exact hs
  · rename_i t _ _ e
    have ht : t.canonical = true := (foldlM_yields (I := (·.1.canonical = true))
      (fun _ _ ha => (State.readNode_yields ha).map fun _ h => h) hs).some e
    split <;> exact ht

theorem State.nextSub_canonical (hs : s.canonical = true) : s.nextSub.1.canonical = true := hs

theorem State.copyPool_canonical (hs : s.canonical = true) : s.copyPool.canonical = true := hs

theorem State.admitGraph_canonical {g : Graph} (hs : s.canonical = true) : (s.admitGraph g).canonical = true :=
  State.copyPool_canonical hs

theorem State.setNode_canonical {n : Node} (hs : s.canonical = true) : (s.setNode n).canonical = true := hs

theorem State.nextDone_canonical (hs : s.canonical = true) : s.nextDone.1.canonical = true := hs

theorem State.writeDone_canonical {n : Node} {v : Reg64} (hs : s.canonical = true) : (s.writeDone n v).canonical = true := by
  unfold State.writeDone
  refine State.ite_canonical hs ?_
  split
  · rename_i e
    exact State.putPubAll_canonical (State.reached_canonical ((State.look_gives hs).ok e))
  · rename_i e₁
    exact State.post_canonical ((State.look_gives hs).ok e₁)
  · exact State.post_canonical hs
  · exact hs

theorem State.dropNode_canonical {n : Node} (hs : s.canonical = true) : (s.dropNode n).canonical = true := hs

theorem State.emptyTiles_canonical {n : Node} {cs : List Nat} (hs : s.canonical = true) :
    (s.emptyTiles n cs).canonical = true :=
  foldl_canonical (fun _ _ h => foldl_canonical (fun _ _ h₁ => State.modTile_canonical h₁) h) hs

theorem State.failNode_canonical {n : Node} {c : Cause} (hs : s.canonical = true) : (s.failNode n c).canonical = true :=
  State.ite_canonical hs
    (State.dropNode_canonical
    (State.writeDone_canonical (State.framed (State.postEvent_canonical (State.emptyTiles_canonical hs)))))

theorem State.openFills_canonical {n : Node} {cs : List Nat} (hs : s.canonical = true) : (s.openFills n cs).canonical = true :=
  foldl_canonical (fun _ _ h => foldl_canonical (fun _ _ h₁ => State.framed (State.modTile_canonical h₁)) h) hs

theorem State.newHand_canonical {n : Node} {task core slot member : Nat} (hs : s.canonical = true) :
    (s.newHand n task core slot member).canonical = true := by
  unfold State.newHand
  exact Hand.canonical_of_snap Hand.empty_canonical (MemState.pubFor_wf (State.mem_canonical hs))

theorem State.createHands_canonical {n : Node} {cs : List Nat} {side : Side} (hs : s.canonical = true) :
    (s.createHands n cs side).1.canonical = true := by
  have made (l : List Hand) (ts : List Task) (p : Pool) (hl : ∀ g ∈ l, g.canonical = true) :
      State.canonical { s with others := s.others ++ l, tasks := ts, pool := p } = true :=
    State.canonical_of_others hs (State.hand_canonical hs :) (List.forall_mem_append.2 ⟨State.others_canonical hs, hl⟩)
  refine made _ _ _ fun g hg => ?_
  simp only [List.mem_flatten, List.mem_map] at hg
  obtain ⟨_, ⟨_, _, rfl⟩, hg⟩ := hg
  obtain ⟨_, _, rfl⟩ := List.mem_map.1 hg
  exact State.newHand_canonical hs

theorem State.notePlaced_canonical {n : Node} {cs : List Nat} (hs : s.canonical = true) :
    (s.notePlaced n cs).canonical = true := foldl_canonical (fun _ _ h => State.modField_canonical h) hs

theorem State.noteDispatch_canonical {n : Node} (hs : s.canonical = true) : (s.noteDispatch n).canonical = true :=
  State.dudelOp_canonical hs

theorem State.startHands_canonical {n : Node} (hs : s.canonical = true) : (s.startHands n).canonical = true := by
  have h₁ := State.createHands_canonical (n := n) (cs := n.cores) (side := if n.paired then .a else .single) hs
  unfold State.startHands
  dsimp only
  split
  · exact State.noteDispatch_canonical (State.setNode_canonical (State.createHands_canonical h₁))
  · exact State.noteDispatch_canonical (State.setNode_canonical h₁)

theorem State.exchangeOn_canonical {cs : List Nat} {xid scope nn brows a d : Nat} (hs : s.canonical = true) :
    (s.exchangeOn cs xid scope nn brows a d).1.canonical = true :=
  foldl_canonical (fun _ _ h => State.framed (State.modTile_canonical h)) hs

theorem State.startExchange_canonical {n : Node} (hs : s.canonical = true) : (s.startExchange n).canonical = true := by
  unfold State.startExchange
  split
  · exact hs
  · exact State.failNode_canonical hs
  · rename_i e
    have ht := (State.poolRead_gives hs).ok e
    split
    · exact State.failNode_canonical ht
    · refine State.ite_canonical (State.failNode_canonical ht) ?_
      dsimp only
      split
      · exact ht
      refine State.noteDispatch_canonical (State.setNode_canonical ?_)
      split
      · exact State.exchangeOn_canonical (State.exchangeOn_canonical ht)
      · exact State.exchangeOn_canonical ht

theorem State.unreserve_canonical {core : Nat} (hs : s.canonical = true) : (s.unreserve core).canonical = true := hs

theorem State.startNode_canonical {n : Node} (hs : s.canonical = true) : (s.startNode n).canonical = true :=
  State.ite_canonical (State.noteDispatch_canonical (State.setNode_canonical (State.framed (State.unreserve_canonical hs))))
    (State.ite_canonical (State.startExchange_canonical hs) (State.ite_canonical (State.startHands_canonical hs) hs))

theorem execNodeDispatch_keeps (hs : s.canonical = true) : OutcomeCanonical (execNodeDispatch s) := by
  show State.canonical _ = true
  refine State.ite_canonical hs (State.ite_canonical (State.copyPool_canonical (foldl_canonical (fun _ _ =>
    State.startNode_canonical) hs)) ?_)
  split
  · exact hs
  · rename_i n a b _
    have placed {c : Prop} [Decidable c] {n : Node} : (if c then s else s.notePlaced n (a ++ b)).canonical = true :=
      State.ite_canonical hs (State.notePlaced_canonical hs)
    exact State.ite_canonical
      (State.ite_canonical hs (State.copyPool_canonical (State.failNode_canonical (State.setNode_canonical placed))))
      (State.ite_canonical (State.copyPool_canonical (State.startNode_canonical (State.setNode_canonical placed)))
      (State.copyPool_canonical (State.setNode_canonical (State.openFills_canonical (State.openFills_canonical placed)))))

theorem State.orphanEnds_canonical {c : Copy} (hs : s.canonical = true) : (s.orphanEnds c).canonical = true :=
  State.ite_canonical hs (State.modTile_canonical hs)

theorem execDeclaredFill_keeps {e : PairEv} (hs : s.canonical = true) : OutcomeCanonical (execDeclaredFill e s) := by
  unfold execDeclaredFill
  show State.canonical _ = true
  split
  · exact hs
  · refine State.ite_canonical hs ?_
    refine State.ite_canonical (State.orphanEnds_canonical (State.dropCopy_canonical hs)) ?_
    split
    · exact State.orphanEnds_canonical (State.dropCopy_canonical hs)
    · split
      · exact State.ite_canonical hs (State.failNode_canonical (State.dropCopy_canonical hs))
      · exact State.setNode_canonical (State.dropCopy_canonical hs)

theorem State.mapHands_canonical {f : Hand → Hand} (hs : s.canonical = true)
    (hf : ∀ g, g.canonical = true → (f g).canonical = true) :
    (s.mapHands f).canonical = true :=
  State.with_hands hs (Hand.ite_canonical (State.hand_canonical hs) (hf _ (State.hand_canonical hs)))
    (List.forall_mem_map.2 fun g hg => hf g (State.others_canonical hs g hg))

theorem State.leaveHand_canonical (hs : s.canonical = true) : (s.leaveHand h).canonical = true :=
  State.modCore_canonical (State.framed_mem (State.foldAll_canonical hs))

theorem Hand.over_canonical {side : Side} (hh : h.canonical = true) : (h.over side).canonical = true := hh

theorem State.retireHand_canonical (hs : s.canonical = true) : (s.retireHand h).canonical = true :=
  State.modHand_canonical (State.leaveHand_canonical hs) fun _ h₁ => Hand.over_canonical h₁

theorem State.publishTask_canonical {t : Task} (hs : s.canonical = true) : (s.publishTask t).canonical = true := by
  unfold State.publishTask
  refine State.freeTask_canonical ?_
  refine foldl_canonical (fun _ _ h => ?_) hs
  split
  · exact State.canonical_of_mem (State.putLive_canonical h)
      (MemState.publish_canonical (State.mem_canonical (State.putLive_canonical h)))
  · exact h

theorem State.dropTask_canonical {id : Nat} (hs : s.canonical = true) : (s.dropTask id).canonical = true := by
  have hd : State.canonical { s with
      tasks := s.tasks.filter (fun t => t.id != id), others := s.others.filter (fun h => h.task != id) } = true :=
    State.canonical_of_others hs (State.hand_canonical hs :) fun g hg => State.others_canonical hs g (List.mem_of_mem_filter hg)
  exact State.ite_canonical hs (State.ite_canonical (State.with_hand hd Hand.empty_canonical) hd)

theorem State.completeNode_canonical {n : Node} (hs : s.canonical = true) : (s.completeNode n).canonical = true :=
  State.dropTask_canonical (State.dropTask_canonical (State.framed (State.dropNode_canonical (State.writeDone_canonical hs))))

theorem execNodeComplete_keeps {e : Nat} (hs : s.canonical = true) : OutcomeCanonical (execNodeComplete e s) := by
  have hc (t : State) (n : Node) (ht : t.canonical = true) : (t.completeNode n).canonical = true :=
    State.completeNode_canonical ht
  show State.canonical _ = true
  split
  · exact hs
  · exact State.ite_canonical hs (State.ite_canonical (State.ite_canonical (hc _ _ hs) hs)
      (State.ite_canonical hs (State.ite_canonical
      (hc _ _ (State.apply_getD_canonical (fun _ => State.publishTask_canonical hs) hs))
      (State.ite_canonical (hc _ _ hs) (State.ite_canonical (hc _ _ hs) hs)))))

theorem execSystemThreadExit_keeps {e : Nat} (hs : s.canonical = true) : OutcomeCanonical (execSystemThreadExit e s) := by
  show State.canonical _ = true
  refine State.ite_canonical hs ?_
  split
  · exact hs
  refine State.ite_canonical hs ?_
  dsimp only
  split
  · exact hs
  · exact State.completeNode_canonical hs

theorem State.signed_canonical {asid : BitVec 16} {b : Bool} (hs : s.canonical = true) : (s.signed asid b).canonical = true :=
  foldl_canonical (fun _ _ h => State.ite_canonical (State.uses_canonical (State.uses_canonical h)) (State.uses_canonical h)) hs

theorem execPairCommit_keeps {e : Nat} (hs : s.canonical = true) : OutcomeCanonical (execPairCommit e s) := by
  have published (t : State) (id : Nat) (ht : t.canonical = true) :
      (((t.taskOf id).map t.publishTask).getD t).canonical = true :=
    State.apply_getD_canonical (fun _ => State.publishTask_canonical ht) ht
  have uncached (t : State) (l : List Cached) (ht : t.canonical = true) : State.canonical { t with cached := l } = true := ht
  have settled {l : List (Nat × Nat)} {asid : BitVec 16} {k : State → Nat × Nat → Bool}
      {w : State → Nat × Nat → List (Nat × Byte)} :
      (l.foldl (fun (s : State) vr => if k s vr then s.putPubAll (w s vr) else s)
        ((s.signed asid false).signed asid true)).canonical = true :=
    foldl_canonical (fun _ _ h => State.ite_canonical (State.putPubAll_canonical h) h)
      (State.signed_canonical (State.signed_canonical hs))
  have freed {k : State} {n : Node} (hk : k.canonical = true) :
      ((((k.freeTask n.task).freeTask n.taskB).dropTask n.task).dropTask n.taskB).canonical = true :=
    State.dropTask_canonical (State.dropTask_canonical (State.freeTask_canonical (State.freeTask_canonical hk)))
  show State.canonical _ = true
  split
  · exact hs
  refine State.ite_canonical hs (State.ite_canonical ?_ (State.ite_canonical ?_ ?_))
  · exact State.completeNode_canonical (published _ _ (published _ _ (uncached _ _ settled)))
  · exact State.setNode_canonical (freed (State.postEvent_canonical settled))
  · exact State.dropNode_canonical (State.writeDone_canonical (State.nextDone_canonical
      (freed (State.postEvent_canonical settled))))

theorem State.cancelTask_canonical {id : Nat} (hs : s.canonical = true) : (s.cancelTask id).canonical = true := by
  have kept (t : State) (r : SMap Region) (ht : t.canonical = true) : State.canonical { t with regions := r } = true := ht
  have served (t : State) (f : FaultState) (ht : t.canonical = true) : State.canonical { t with faults := f } = true := ht
  refine State.dropTask_canonical
    (kept _ _ (State.freeTask_canonical (State.abandon_canonical (State.mapHands_canonical ?_ ?_))))
  · exact foldl_canonical (fun _ _ h => served _ _ (State.leaveHand_canonical h)) hs
  · exact fun _ hg => Hand.ite_canonical (Hand.over_canonical hg) hg

theorem State.cancelNode_canonical {n : Node} (hs : s.canonical = true) : (s.cancelNode n).canonical = true :=
  have pooled (t : State) (p : Pool) (ht : t.canonical = true) : State.canonical { t with pool := p } = true := ht
  State.dropNode_canonical (State.writeDone_canonical (State.nextDone_canonical (pooled _ _
    (State.ite_canonical (State.cancelTask_canonical (State.cancelTask_canonical hs)) hs))))

theorem State.requestTask_canonical {id : Nat} (hs : s.canonical = true) : (s.requestTask id).canonical = true :=
  have ask (g : Hand) (hg : g.canonical = true) : Hand.canonical (if g.task = id ∧ g.living ∧ g.status ≠ .saved then
      { g with sched := { g.sched with preempt := true } } else g) = true := Hand.ite_canonical hg hg
  State.with_hands hs (ask _ (State.hand_canonical hs)) (List.forall_mem_map.2 fun g hg =>
    ask g (State.others_canonical hs g hg))

theorem execPreemptionRequest_keeps {e : PairEv} (hs : s.canonical = true) : OutcomeCanonical (execPreemptionRequest e s) := by
  unfold execPreemptionRequest
  show State.canonical _ = true
  split
  · exact hs
  · refine State.ite_canonical hs ?_
    split
    · exact hs
    · exact State.ite_canonical (State.requestTask_canonical (State.requestTask_canonical hs)) hs

/-! ### Machine/Sys -/

theorem sysInstr_keeps {g : BitVec 3} {body : State → Run State} (hs : s.canonical = true)
    (hbody : ∀ t, t.canonical = true → Run.Keeps (·.canonical = true) (body t)) :
    OutcomeCanonical (sysInstr g s body) := guarded_keeps hs fun _ h => (State.commits_keeps h).bind fun _ h₁ => hbody _ h₁

theorem State.seeRecords_canonical (hs : s.canonical = true) : s.seeRecords.canonical = true :=
  State.modTask_canonical (State.put_canonical hs (Hand.with_snap (State.hand_canonical hs)
    (foldl_inv (fun m : Mem => m.wf = true) (fun _ _ hm => Mem.wf_putAll _ _ hm) (Hand.snap_wf (State.hand_canonical hs)))))

theorem State.csrValue_keeps {n : Nat} {bad : Trap} (hs : s.canonical = true) :
    Run.Keeps (·.1.canonical = true) (s.csrValue n bad) := by
  have hu : (if n = 0x023 then s.tick else if n = 0x071 then s.seeRecords else s).canonical = true :=
    State.ite_canonical (State.tick_canonical hs) (State.ite_canonical (State.seeRecords_canonical hs) hs)
  unfold State.csrValue
  generalize (if n = 0x023 then s.tick else if n = 0x071 then s.seeRecords else s) = u at hu ⊢
  dsimp only
  split <;> exact hu

theorem execCsrr_keeps {f : DABG} (hs : s.canonical = true) : OutcomeCanonical (execCsrr f s) := by
  unfold execCsrr
  refine sysInstr_keeps hs fun _ h => ?_
  refine (State.dest_keeps h).bind fun _ _ => ?_
  split
  · exact h
  · exact (State.csrValue_keeps h).bind fun _ h₁ => State.retire_canonical (State.setX_canonical h₁)

theorem State.csrWrite_keeps {n : Nat} {v : Reg64} {bad : Trap} (hs : s.canonical = true) :
    Run.Keeps (·.canonical = true) (s.csrWrite n v bad) := by
  unfold State.csrWrite
  split
  · exact State.put_canonical hs (Hand.framed (State.hand_canonical hs))
  · exact hs

theorem execCsrw_keeps {f : DABG} (hs : s.canonical = true) : OutcomeCanonical (execCsrw f s) := by
  unfold execCsrw
  refine sysInstr_keeps hs fun _ h => ?_
  refine (State.need_keeps h).bind fun _ _ => ?_
  split
  · exact h
  · exact (State.csrWrite_keeps h).bind fun _ h₁ => State.retire_canonical h₁

theorem execCsrx_keeps {f : DABG} (hs : s.canonical = true) : OutcomeCanonical (execCsrx f s) := by
  unfold execCsrx
  refine sysInstr_keeps hs fun _ h => ?_
  refine (State.need_keeps h).bind fun _ _ => ?_
  split
  · exact h
  · split
    · exact h
    · exact (State.csrValue_keeps h).bind fun _ h₁ => (State.csrWrite_keeps h₁).bind fun _ h₂ =>
        State.retire_canonical (State.setX_canonical h₂)

theorem State.heldDone_keeps (hs : s.canonical = true) : Run.Keeps (·.canonical = true) s.heldDone := by
  unfold State.heldDone
  split
  · rename_i e
    exact (State.performAllHeld_gives hs).ok e
  · exact State.heelStall_canonical hs

theorem execHalt_keeps {f : GF} (hs : s.canonical = true) : OutcomeCanonical (execHalt f s) :=
  sysInstr_keeps hs fun _ h => Run.Keeps.ite h (Run.Keeps.ite h ((State.heldDone_keeps h).bind fun _ h =>
    Run.Keeps.if_then (State.seatTurn_keeps h) fun _ =>
      (State.closeRecord_keeps (State.put_canonical h (Hand.stalled_canonical (State.hand_canonical h)))).bind fun _ h =>
        State.retireHand_canonical h))

theorem execYield_keeps {f : GF} (hs : s.canonical = true) : OutcomeCanonical (execYield f s) :=
  sysInstr_keeps hs fun _ h => Run.Keeps.if_then (State.atPoint_keeps h) fun _ => State.afterPoint_keeps (State.retire_canonical
    (State.dropGrant_canonical (State.clearAtPoint_canonical (State.put_canonical h (Hand.framed (State.hand_canonical h))))))

theorem State.give_canonical {subno : Nat} (hs : s.canonical = true) : (s.give subno).canonical = true := hs

theorem execSpawn_keeps {f : RegG} (hs : s.canonical = true) : OutcomeCanonical (execSpawn f s) := by
  have queued (t : State) (p : Pool) (ht : t.canonical = true) : State.canonical { t with pool := p } = true := ht
  refine sysInstr_keeps hs fun t ht => (State.src_keeps ht).bind fun _ _ => (State.src_keeps ht).bind fun _ _ =>
    (State.dest_keeps ht).bind fun _ _ => Run.Keeps.ite ?_ ((State.heldDone_keeps ht).bind fun u hu => ?_)
  · exact State.retire_canonical (State.setX_canonical (State.nextSub_canonical ht))
  · dsimp only
    have hq {p : Pool} {n : Nat} : State.canonical { (u.nextSub.1.give n) with pool := p } = true :=
      queued _ _ (State.give_canonical (State.nextSub_canonical hu))
    exact State.retire_canonical (State.put_canonical hq (Hand.canonical_append_producer (State.hand_canonical hq) rfl))

theorem Hand.fillSpawn_canonical {n : Nat} {v : Reg64} (hh : h.canonical = true) : (h.fillSpawn n v).canonical = true := by
  have drop (g : Hand) (x : Vector Reg64 32) (hg : g.canonical = true) :
      Hand.canonical { g with x := x, producers := g.producers.filter (fun q => q.spawn != some n) } = true :=
    Hand.canonical_of_producers hg fun p hp => Hand.was_wf hg p (List.mem_of_mem_filter hp)
  refine foldl_hand_canonical (fun g p hg => ?_) hh
  split
  · exact Hand.ite_canonical (drop g _ hg) hg
  · exact Hand.ite_canonical (drop g g.x hg) hg
  · exact hg

theorem State.dropGraph_canonical {n : Nat} (hs : s.canonical = true) : (s.dropGraph n).canonical = true := hs

theorem execSpawnResult_keeps {e : Nat} (hs : s.canonical = true) : OutcomeCanonical (execSpawnResult e s) := by
  have told (t : State) (id : Nat) (v : Reg64) (ht : t.canonical = true) :
      (t.modHand id (fun h => h.fillSpawn e v)).canonical = true :=
    State.modHand_canonical ht fun _ => Hand.fillSpawn_canonical
  have read {c : Prop} [Decidable c] {x : Option (Except (Nat × Nat) (List NodeRec))} {g : Graph} :
      (if c then (s, x) else s.readGraph g).1.canonical = true := by
    split
    · exact hs
    · exact State.readGraph_canonical hs
  show State.canonical _ = true
  split
  · exact hs
  split
  · exact hs
  refine State.ite_canonical hs (State.ite_canonical (told _ _ _ (State.dropGraph_canonical hs)) ?_)
  split
  · exact hs
  · rename_i e
    exact told _ _ _ (State.dropGraph_canonical (fst_canonical read e))
  · rename_i e
    have ht := fst_canonical read e
    exact State.ite_canonical (told _ _ _ (State.admitGraph_canonical ht)) ht

/-! ### Machine/EvEngine -/

theorem State.focus_canonical {id : Nat} (hs : s.canonical = true) : (s.focus id).canonical = true := by
  have ho := State.others_canonical hs
  unfold State.focus
  split
  · exact hs
  split
  · exact hs
  · rename_i g e
    have hg : g.canonical = true := ho g (List.mem_of_find?_eq_some e)
    split
    · exact State.with_hands hs hg fun k hk => ho k (List.mem_of_mem_filter hk)
    · exact State.with_hands hs hg (List.forall_mem_map.2 fun k hk => Hand.ite_canonical (State.hand_canonical hs) (ho k hk))

theorem State.asHand_canonical {id : Nat} {f : State → State} (hs : s.canonical = true)
    (hf : ∀ t, t.canonical = true → (f t).canonical = true) :
    (s.asHand id f).canonical = true :=
  State.ite_canonical (hf _ (State.focus_canonical hs)) (State.focus_canonical (hf _ (State.focus_canonical hs)))

theorem execLoadLanding_keeps {e : EntryEv} (hs : s.canonical = true) : OutcomeCanonical (execLoadLanding e s) :=
  State.modHand_canonical hs fun _ hg => by
    split
    · exact hg
    · exact Hand.ite_canonical hg (Hand.canonical_of_producers hg fun p hp => Hand.was_wf hg p (List.mem_of_mem_eraseIdx hp))

theorem execStoreAcknowledged_keeps {e : EntryEv} (hs : s.canonical = true) : OutcomeCanonical (execStoreAcknowledged e s) :=
  State.modHand_canonical hs fun _ h => h

/-! ### Machine/EvPool -/

theorem State.postStatus_canonical {q subno status node : Nat} (hs : s.canonical = true) :
    (s.postStatus q subno status node).canonical = true := State.modQueue_canonical (State.physWrite_canonical hs)

theorem execSubmissionRecord_keeps {e : Nat} (hs : s.canonical = true) : OutcomeCanonical (execSubmissionRecord e s) := by
  have hq {k n : Nat} {f : Queue → Queue} : ((s.uses k n).nextSub.1.modQueue e f).canonical = true :=
    State.modQueue_canonical (State.nextSub_canonical (State.uses_canonical hs))
  show State.canonical _ = true
  refine State.ite_canonical hs (State.ite_canonical (State.postStatus_canonical hq) ?_)
  split
  · exact hs
  · rename_i e
    exact State.postStatus_canonical (fst_canonical (State.readGraph_canonical hq) e)
  · rename_i e
    exact (fst_canonical (State.readGraph_canonical hq) e :)

theorem execGraphAdmit_keeps (hs : s.canonical = true) : OutcomeCanonical (execGraphAdmit s) := by
  unfold execGraphAdmit
  show State.canonical _ = true
  refine State.ite_canonical hs ?_
  split
  · exact hs
  · exact State.framed (State.admitGraph_canonical (State.postStatus_canonical hs))

theorem State.landAt_canonical {w : Wait} (hs : s.canonical = true) : (s.landAt w).canonical = true := by
  unfold State.landAt
  extract_lets resume back keeps
  have hb {c : Prop} [Decidable c] : (if c then s.rewind else s).canonical = true :=
    State.ite_canonical (State.rewind_canonical hs) hs
  split
  · exact State.retried_canonical (State.countBad_canonical hs)
  · dsimp only
    split
    · rename_i e
      have hc := (State.closeRecord_keeps hb).ok e
      have hk := State.ite_canonical (c := keeps = true) hc (State.commit_canonical hc)
      exact State.framed_with_hand (State.dropGrant_canonical hk) (Hand.framed (State.hand_canonical hk))
    · exact hs

theorem State.saveHand_canonical {resume : Nat} (hs : s.canonical = true) : (s.saveHand resume).canonical = true := by
  have cleared (t : State) (st : HandStatus) (x : Vector (Option Stream) 4) (sd : Sched) (ht : t.canonical = true) :
      State.canonical { t with hand := { t.hand.clearStripLocal with status := st, streams := x, sched := sd } } = true :=
    State.with_hand ht (Hand.clearStripLocal_canonical (State.hand_canonical ht) :)
  have noted (t : State) (r : SMap Region) (ht : t.canonical = true) : State.canonical { t with regions := r } = true := ht
  unfold State.saveHand
  split
  · exact hs
  split
  · exact hs
  split
  · exact hs
  split
  · exact hs
  have hj {m n : Nat} {g : Hand} : ((s.choose m).1.stopJob g n).canonical = true :=
    State.stopJob_canonical (State.choose_canonical hs)
  have hp {m n : Nat} {g : Hand} {l : List (Nat × Byte)} :
      (((s.choose m).1.stopJob g n).dropGrant.advanceSerial.tick.putPubAll l).canonical = true :=
    State.putPubAll_canonical (State.tick_canonical (State.advanceSerial_canonical (State.dropGrant_canonical hj)))
  exact State.ite_canonical hj (cleared _ _ _ _ (State.ite_canonical (State.modCore_canonical (noted _ _ hp)) (noted _ _ hp)))

theorem execPreemptionLanding_keeps {e : Nat} (hs : s.canonical = true) : OutcomeCanonical (execPreemptionLanding e s) := by
  unfold execPreemptionLanding
  show State.canonical _ = true
  split
  · exact hs
  · split
    · exact State.asHand_canonical hs fun _ h => State.saveHand_canonical h
    · exact State.ite_canonical (State.asHand_canonical hs fun _ h => State.landAt_canonical h) hs
    · exact hs

theorem State.resumeOn_canonical {core slot : Nat} (hs : s.canonical = true) : (s.resumeOn core slot).canonical = true :=
  State.advanceSerial_canonical (State.framed_with_hand hs (State.hand_canonical hs))

theorem execHandResume_keeps {e : Nat} (hs : s.canonical = true) : OutcomeCanonical (execHandResume e s) := by
  unfold execHandResume
  show State.canonical _ = true
  split
  · exact hs
  · refine State.ite_canonical hs ?_
    split
    · exact hs
    · exact State.asHand_canonical hs fun _ h => State.resumeOn_canonical h

theorem execWatchdog_keeps {e : DogEv} (hs : s.canonical = true) : OutcomeCanonical (execWatchdog e s) := by
  unfold execWatchdog
  show State.canonical _ = true
  split
  · exact hs
  · exact State.ite_canonical hs (State.asHand_canonical hs fun _ h => State.toSystem_canonical h)

/-! ### Machine/Rv -/

theorem State.sysReach_gives {asid : BitVec 16} {act : Access} {va : Reg64} {n : Nat} (hs : s.canonical = true) :
    Gives (·.1.canonical = true) (s.sysReach asid act va n) := by
  refine foldlM_gives (fun _ _ ha => (State.xlate_gives ha).bind fun _ hr => ?_) hs
  split
  · exact State.uses_canonical hr
  · trivial

theorem State.threadReach_gives {t : Thread} {act : Access} {fault : Nat} {va : Reg64} {n : Nat} (hs : s.canonical = true) :
    Gives (·.1.canonical = true) (s.threadReach t act fault va n) := by
  unfold State.threadReach
  split
  · rename_i e
    exact (State.sysReach_gives hs).ok e
  · exact trivial
  · exact trivial

theorem State.threadLoad_gives {t : Thread} {va : Reg64} {n : Nat} (hs : s.canonical = true) :
    Gives (·.1.canonical = true) (s.threadLoad t va n) := (State.threadReach_gives hs).map fun _ h => h

theorem State.threadStore_gives {t : Thread} {va : Reg64} {l : List Byte} (hs : s.canonical = true) :
    Gives (·.canonical = true) (s.threadStore t va l) := (State.threadReach_gives hs).map fun _ h => State.putPubAll_canonical h

theorem State.loadReserved_gives {t : Thread} {n : Nat} {va : Reg64} (hs : s.canonical = true) :
    Gives (·.1.canonical = true) (s.loadReserved t n va) := by
  unfold State.loadReserved
  exact Gives.if_then Gives.err fun _ => (State.threadReach_gives hs).bind fun _ h => h

theorem State.storeConditional_gives {t : Thread} {n : Nat} {va v : Reg64} (hs : s.canonical = true) :
    Gives (·.1.canonical = true) (s.storeConditional t n va v) := by
  unfold State.storeConditional
  exact Gives.if_then Gives.err fun _ => (State.threadReach_gives hs).bind fun _ h => Gives.ite
    (Gives.pure_fst (State.unreserve_canonical (State.putPubAll_canonical h))) (Gives.pure_fst (State.unreserve_canonical hs))

theorem State.atomic_gives {t : Thread} {op : RvAmo} {n : Nat} {va v : Reg64} (hs : s.canonical = true) :
    Gives (·.1.canonical = true) (s.atomic t op n va v) := by
  unfold State.atomic
  exact Gives.if_then Gives.err fun _ => (State.threadReach_gives hs).bind fun _ h => State.putPubAll_canonical h

theorem State.threadExec_gives {t : Thread} {i : RvInstr} {len : Nat} (hs : s.canonical = true) :
    Gives (·.1.canonical = true) (s.threadExec t i len) := by
  have updated {u : Option Thread} : Gives (·.1.canonical = true) (match u with
      | some u => .ok (s, u)
      | none => .error (.exception rvIllegal) : Except RvStop (State × Thread)) := by
    split
    · exact hs
    · exact Gives.err
  cases i
  case lui | auipc | jal | jalr | branch | alu | fence | fcmp | fclass | widen | moveToX | moveOfX => exact hs
  case load | loadF => exact (State.threadLoad_gives hs).map fun _ h => h
  case store | storeF => exact (State.threadStore_gives hs).map fun _ h => h
  case lr => exact (State.loadReserved_gives hs).map fun _ h => h
  case sc => exact (State.storeConditional_gives hs).map fun _ h => h
  case amo => exact (State.atomic_gives hs).map fun _ h => h
  case ecall | ebreak => exact Gives.err
  all_goals exact updated

theorem State.setThread_canonical {t : Thread} (hs : s.canonical = true) : (s.setThread t).canonical = true := hs

theorem State.threadFetch_gives {t : Thread} (hs : s.canonical = true) : Gives (·.1.canonical = true) (s.threadFetch t) := by
  unfold State.threadFetch
  refine ((State.threadReach_gives hs).map fun _ h => h).bind fun _ (h : _ = true) => Gives.ite ?_ h
  exact ((State.threadReach_gives h).map fun _ h => h).bind fun _ (h : _ = true) => h

theorem State.threadStep_canonical {t : Thread} (hs : s.canonical = true) : (s.threadStep t).canonical = true := by
  unfold State.threadStep
  split
  · exact hs
  · exact State.setThread_canonical (State.unreserve_canonical hs)
  · rename_i e
    split
    · exact State.setThread_canonical (State.unreserve_canonical ((State.threadFetch_gives hs).ok e))
    · split
      · rename_i e₂
        exact State.setThread_canonical ((State.threadExec_gives ((State.threadFetch_gives hs).ok e)).ok e₂)
      · exact hs
      · exact State.setThread_canonical (State.unreserve_canonical ((State.threadFetch_gives hs).ok e))

/-! ### Machine/EvHost -/

theorem execQueueEnable_keeps {e : QueueEv} (hs : s.canonical = true) : OutcomeCanonical (execQueueEnable e s) := by
  have hq {f g : Queue → Queue} : ((s.modQueue e.q f).modQueue e.q g).canonical = true :=
    State.modQueue_canonical (State.modQueue_canonical hs)
  exact State.ite_canonical hs (State.ite_canonical (State.modQueue_canonical hs)
    (State.ite_canonical hq (State.ite_canonical (State.flushFaults_canonical hq) hq)))

theorem execTail_keeps {e : TailEv} (hs : s.canonical = true) : OutcomeCanonical (execTail e s) :=
  State.ite_canonical hs (State.ite_canonical (State.flushFaults_canonical (State.modQueue_canonical hs))
    (State.modQueue_canonical hs))

theorem execRegisterWrite_keeps {e : RegWriteEv} (hs : s.canonical = true) : OutcomeCanonical (execRegisterWrite e s) :=
  State.ite_canonical hs (State.ite_canonical (State.ite_canonical hs (State.ite_canonical (State.modQueue_canonical hs)
    (State.ite_canonical (State.modQueue_canonical hs) (State.ite_canonical (State.modQueue_canonical hs)
    (State.ite_canonical (State.modQueue_canonical hs) (State.ite_canonical (State.modQueue_canonical hs)
    (State.ite_canonical (State.modQueue_canonical hs) (State.ite_canonical (State.modQueue_canonical hs) hs))))))))
    (State.ite_canonical (State.framed hs) hs))

theorem State.ctlStatus_canonical {seq : Reg64} {status result : Nat} (hs : s.canonical = true) :
    (s.ctlStatus seq status result).canonical = true := State.modQueue_canonical (State.physWrite_canonical hs)

theorem State.control_canonical {opc : Nat} {c : Ctl} {body : State → State × Option Nat} (hs : s.canonical = true)
    (hb : ∀ s, s.canonical = true → (body s).1.canonical = true) :
    (s.control opc c body).canonical = true := by
  have hq : ((s.uses (s.queue 0).slot64 64).modQueue 0 (fun k => { k with accepted := k.accepted + 1 })).canonical = true :=
    State.modQueue_canonical (State.uses_canonical hs)
  have counted (n : Reg64) : State.canonical
      { ((s.uses (s.queue 0).slot64 64).modQueue 0 (fun k => { k with accepted := k.accepted + 1 })) with ctlSeq := n } = true := hq
  unfold State.control
  refine State.ite_canonical hs (State.ite_canonical (State.ctlStatus_canonical hq) (State.ite_canonical
    (State.ctlStatus_canonical (counted _)) (State.ite_canonical (State.ctlStatus_canonical (counted _)) ?_)))
  split
  · rename_i e
    exact State.ctlStatus_canonical (fst_canonical (hb _ (counted _)) e)
  · rename_i e
    exact fst_canonical (hb _ (counted _)) e

theorem State.command_keeps {opc : Nat} {c : Ctl} {refuse : State → Option Nat} {act : State → State}
    (hs : s.canonical = true) (hact : ∀ t, t.canonical = true → (act t).canonical = true) :
    OutcomeCanonical (s.command opc c refuse act) := by
  unfold State.command
  show State.canonical _ = true
  refine State.control_canonical hs fun _ h => ?_
  split
  · exact h
  · exact hact _ h

theorem execAsidLoad_keeps {e : CtlArg} (hs : s.canonical = true) : OutcomeCanonical (execAsidLoad e s) := by
  unfold execAsidLoad
  split
  · exact hs
  · split
    · exact hs
    · show State.canonical _ = true
      refine State.control_canonical hs fun _ h => ?_
      split
      · exact h
      · exact State.framed (State.uses_canonical h)

theorem execInvalidate_keeps {e : InvF} (hs : s.canonical = true) : OutcomeCanonical (execInvalidate e s) := by
  unfold execInvalidate
  split
  · exact hs
  · exact State.command_keeps hs fun _ h => h

theorem execObjOwner_keeps {e : OwnerF} (hs : s.canonical = true) : OutcomeCanonical (execObjOwner e s) :=
  State.command_keeps hs fun _ h => foldl_canonical (fun _ _ h₁ => State.putObj_canonical h₁) h

theorem State.answered_canonical {seq : Nat} (hs : s.canonical = true) : (s.answered seq).canonical = true := hs

theorem Hand.resumed_canonical (hh : h.canonical = true) : h.resumed.canonical = true := hh

theorem execResume_keeps {e : CtlArg} (hs : s.canonical = true) : OutcomeCanonical (execResume e s) := by
  unfold execResume
  show State.canonical _ = true
  refine State.control_canonical hs fun _ h => ?_
  split
  · exact h
  · split
    · exact h
    · exact State.modHand_canonical (State.answered_canonical h) fun _ h₂ => Hand.resumed_canonical h₂

theorem State.forward_canonical {r : FaultRec} (hs : s.canonical = true) : (s.forward r).canonical = true :=
  State.ite_canonical (State.framed_hand (State.post_canonical hs)) (State.inHand_canonical hs)

theorem execForward_keeps {e : CtlArg} (hs : s.canonical = true) : OutcomeCanonical (execForward e s) := by
  unfold execForward
  show State.canonical _ = true
  refine State.control_canonical hs fun _ h => ?_
  split
  · exact h
  · split
    · exact h
    · exact State.asHand_canonical (State.answered_canonical h) fun _ h₂ => State.forward_canonical h₂

theorem State.cancelOf_canonical {task : Nat} (hs : s.canonical = true) : (s.cancelOf task).canonical = true := by
  unfold State.cancelOf
  split
  · exact State.cancelNode_canonical hs
  · exact State.cancelTask_canonical hs

theorem execCancel_keeps {e : CtlArg} (hs : s.canonical = true) : OutcomeCanonical (execCancel e s) := by
  unfold execCancel
  split
  · exact hs
  · show State.canonical _ = true
    refine State.control_canonical hs fun _ h => ?_
    split
    · exact h
    · exact State.cancelOf_canonical (State.answered_canonical h)

theorem State.cancelGraph_canonical {n : Nat} (hs : s.canonical = true) : (s.cancelGraph n).canonical = true := by
  unfold State.cancelGraph
  refine foldl_canonical (fun _ _ => State.cancelNode_canonical) ?_
  split
  · exact hs
  split
  · exact State.admitGraph_canonical (State.postStatus_canonical hs)
  · exact State.modHand_canonical (State.admitGraph_canonical hs) fun _ => Hand.fillSpawn_canonical

theorem execCancelGraph_keeps {e : CtlArg} (hs : s.canonical = true) : OutcomeCanonical (execCancelGraph e s) := by
  unfold execCancelGraph
  dsimp only
  split
  · exact hs
  · exact State.command_keeps hs fun _ h => State.cancelGraph_canonical h

theorem execMachineHalt_keeps {e : CtlArg} (hs : s.canonical = true) : OutcomeCanonical (execMachineHalt e s) :=
  State.command_keeps hs fun _ h => State.framed (State.mapHands_canonical h fun _ h₁ => Hand.ite_canonical h₁ h₁)

theorem execMachineResume_keeps {e : CtlArg} (hs : s.canonical = true) : OutcomeCanonical (execMachineResume e s) := by
  unfold execMachineResume
  split
  · exact hs
  · exact State.command_keeps hs fun _ h => State.mapHands_canonical (State.framed (foldl_canonical (fun _ _ h =>
      State.physWrite_canonical h) h)) fun _ h => Hand.ite_canonical h h

theorem execMcast_keeps {e : McastF} (hs : s.canonical = true) : OutcomeCanonical (execMcast e s) := by
  unfold execMcast
  show State.canonical _ = true
  refine State.control_canonical hs fun _ h => ?_
  split <;> exact h

theorem execAttest_keeps {e : AttestF} (hs : s.canonical = true) : OutcomeCanonical (execAttest e s) := by
  unfold execAttest
  dsimp only
  split
  · exact hs
  · exact State.command_keeps hs fun _ h => State.putPubAll_canonical h

theorem execTileReset_keeps {e : Ctl2} (hs : s.canonical = true) : OutcomeCanonical (execTileReset e s) := by
  unfold execTileReset
  extract_lets named
  split
  · exact hs
  · exact State.command_keeps hs fun _ h => foldl_canonical (fun _ _ h => State.modTile_canonical h) h

theorem State.sysGet_canonical {e : SysAccF} {l : List Byte} (hs : s.canonical = true) : (s.sysGet e l).canonical = true := hs

theorem State.threadFetches_canonical {t : Thread} {va : Reg64} (hs : s.canonical = true) :
    (s.threadFetches t va).canonical = true :=
  State.ite_canonical hs (State.ite_canonical (State.setThread_canonical hs) (State.threadStep_canonical hs))

theorem Gives.toOption {ε α : Type} {P : α → Prop} {x : Except ε α} (hx : Gives P x) : Yields P x.toOption :=
  match x, hx with
  | .ok _, h => h
  | .error _, _ => trivial

theorem execSystemCoreAccess_keeps {e : SysAccF} (hs : s.canonical = true) : OutcomeCanonical (execSystemCoreAccess e s) := by
  show State.canonical _ = true
  refine State.ite_canonical hs ?_
  split
  · exact State.threadFetches_canonical hs
  split
  · exact State.physWrite_canonical hs
  · exact State.apply_getD_canonical (fun _ => State.sysGet_canonical (State.uses_canonical hs)) hs
  · exact State.getD_canonical ((State.sysReach_gives hs).toOption.map fun _ h => State.putPubAll_canonical h) hs
  · exact State.getD_canonical ((State.sysReach_gives hs).toOption.map fun _ h => State.sysGet_canonical h) hs

theorem State.answer_canonical {port : Nat} {c : Completion} (hs : s.canonical = true) : (s.answer port c).canonical = true :=
  hs

theorem State.inboundWrite_canonical {e : InboundF} {l : List Byte} (hs : s.canonical = true) :
    (s.inboundWrite e l).canonical = true := by
  unfold State.inboundWrite
  refine State.ite_canonical hs ?_
  split
  · exact hs
  · rename_i e₁
    exact State.ite_canonical (State.answer_canonical (State.framed ((State.arrives_yields hs).some e₁)))
      (State.answer_canonical (State.physWrite_canonical ((State.arrives_yields hs).some e₁)))

theorem execInboundRequest_keeps {e : InboundF} (hs : s.canonical = true) : OutcomeCanonical (execInboundRequest e s) := by
  unfold execInboundRequest
  show State.canonical _ = true
  refine State.ite_canonical hs ?_
  refine State.ite_canonical (State.answer_canonical hs) ?_
  refine State.ite_canonical hs ?_
  split
  · exact State.answer_canonical (State.uses_canonical hs)
  · exact State.inboundWrite_canonical hs

theorem State.drawEntropy_canonical {core : Nat} {value : List Byte} (hs : s.canonical = true) :
    (s.drawEntropy core value).canonical = true := State.ite_canonical hs (State.framed (State.record_canonical hs))

/-! ### Machine/EvReliab -/

theorem execPowerWindow_keeps {e : WinEv} (hs : s.canonical = true) : OutcomeCanonical (execPowerWindow e s) :=
  State.ite_canonical hs (State.mapHands_canonical (State.modField_canonical hs) fun _ h =>
    Hand.ite_canonical (Hand.stalled_canonical h) h)

theorem State.unplace_canonical {which : Nat → Bool} (hs : s.canonical = true) : (s.unplace which).canonical = true := by
  unfold State.unplace
  refine foldl_canonical (fun _ _ h => ?_) hs
  split
  · exact State.ite_canonical (State.setNode_canonical (State.emptyTiles_canonical h)) h
  · exact h

theorem State.dropTags_canonical {which : Nat → Bool} (hs : s.canonical = true) : (s.dropTags which).canonical = true :=
  foldl_canonical (fun _ _ h => State.clearTag_canonical h) hs

theorem State.forgetBytes_canonical {which : Nat → Bool} (hs : s.canonical = true) : (s.forgetBytes which).canonical = true :=
  State.canonical_iff.2 ⟨Mem.wf_filter (State.live_wf hs), Mem.wf_filter (State.pub_wf hs), (State.hand_canonical hs :),
    (State.others_canonical hs :)⟩

theorem State.switchToF1_canonical (hs : s.canonical = true) : s.switchToF1.canonical = true := hs

theorem State.loseField_canonical {f : Nat} (hs : s.canonical = true) : (s.loseField f).canonical = true :=
  foldl_canonical (fun _ _ h => State.putObj_canonical h) (State.unplace_canonical (State.dropTags_canonical
    (State.mapHands_canonical (State.postEvent_canonical (State.modField_canonical
      (State.ite_canonical (State.switchToF1_canonical hs) hs))) fun _ h => Hand.ite_canonical h h)))

theorem execCrossingLost_keeps {e : PairEv} (hs : s.canonical = true) : OutcomeCanonical (execCrossingLost e s) :=
  State.ite_canonical hs (State.loseField_canonical (State.postEvent_canonical hs))

theorem execStackOffline_keeps {e : Nat} (hs : s.canonical = true) : OutcomeCanonical (execStackOffline e s) :=
  State.ite_canonical hs
    (State.postEvent_canonical
    (State.framed_mem (State.forgetBytes_canonical (State.dropTags_canonical (State.modField_canonical hs)))))

theorem State.reportLines_canonical {f sl : Nat} (hs : s.canonical = true) : (s.reportLines f sl).canonical = true :=
  foldl_canonical (fun _ _ h => State.modField_canonical (State.postEvent_canonical h)) hs

theorem State.retireSlice_canonical {f sl : Nat} (hs : s.canonical = true) : (s.retireSlice f sl).canonical = true := by
  have hp {which : Nat → Bool} {g : Field → Field} {v : Reg64} : ((((s.reportLines f sl).dropTags which).modField f g).postEvent
      .cacheSliceRetired v sl 0 0).canonical = true :=
    State.postEvent_canonical (State.modField_canonical (State.dropTags_canonical (State.reportLines_canonical hs)))
  exact State.ite_canonical (State.loseField_canonical hp) hp

theorem execBankFail_keeps {e : BankEv} (hs : s.canonical = true) : OutcomeCanonical (execBankFail e s) :=
  State.ite_canonical hs (State.ite_canonical (State.modCore_canonical hs)
    (State.ite_canonical (State.ite_canonical hs
    (State.ite_canonical (State.retireSlice_canonical (State.modField_canonical hs)) (State.modField_canonical hs))) hs))

theorem State.vacateQuad_canonical {q : Nat} (hs : s.canonical = true) : (s.vacateQuad q).canonical = true :=
  State.mapHands_canonical (State.unplace_canonical (State.modField_canonical hs)) fun _ h => Hand.ite_canonical h h

theorem State.retireQuad_canonical {q : Nat} (hs : s.canonical = true) : (s.retireQuad q).canonical = true := by
  have reset {p : Nat → Bool} {l : List Nat} {f : Core → Core} :
      (l.foldl (fun (s : State) c => s.modCore c f) (s.forgetBytes p)).canonical = true :=
    foldl_canonical (fun _ _ h => State.modCore_canonical h) (State.forgetBytes_canonical hs)
  exact State.postEvent_canonical (State.ite_canonical (State.ite_canonical (State.modField_canonical reset) reset)
    (State.modField_canonical reset))

theorem execCoreRetire_keeps {e : Nat} (hs : s.canonical = true) : OutcomeCanonical (execCoreRetire e s) :=
  State.ite_canonical hs (State.ite_canonical (State.ite_canonical hs (State.retireQuad_canonical hs))
    (State.ite_canonical (State.vacateQuad_canonical hs) hs))

theorem execClusterMismatchLimit_keeps {e : PairEv} (hs : s.canonical = true) :
    OutcomeCanonical (execClusterMismatchLimit e s) :=
  State.ite_canonical hs (State.ite_canonical (State.vacateQuad_canonical hs) (State.modCore_canonical hs))

theorem State.boot'_canonical {e : BootEv} : (s.boot' e).canonical = true :=
  State.ite_canonical State.reset_canonical
    (State.ite_canonical (State.ite_canonical (State.modField_canonical State.reset_canonical)
    (State.postEvent_canonical (State.framed (State.modField_canonical State.reset_canonical))))
    (State.record_canonical (State.modField_canonical State.reset_canonical)))

theorem State.startField_canonical {f : Nat} (hs : s.canonical = true) : (s.startField f).canonical = true :=
  State.ite_canonical hs (State.modField_canonical hs)

theorem State.faultsOn_canonical (hs : s.canonical = true) : s.faultsOn.canonical = true := State.flushFaults_canonical hs

theorem State.bringUp_canonical {e : FieldEv} {from' : Nat} {pass : State → State} (hs : s.canonical = true)
    (hpass : ∀ t, t.canonical = true → (pass t).canonical = true) :
    (s.bringUp e from' pass).canonical = true :=
  State.ite_canonical hs (State.ite_canonical (hpass _ (State.modField_canonical hs))
    (State.faultsOn_canonical (State.startField_canonical (State.modField_canonical hs))))

theorem execCrossingCalibration_keeps {e : FieldEv} (hs : s.canonical = true) :
    OutcomeCanonical (execCrossingCalibration e s) :=
  State.bringUp_canonical hs fun _ h => State.startField_canonical (State.modField_canonical h)

theorem execHbmTraining_keeps {e : FieldEv} (hs : s.canonical = true) : OutcomeCanonical (execHbmTraining e s) :=
  State.bringUp_canonical hs fun _ h => State.faultsOn_canonical (State.modField_canonical h)

/-! ### Machine/EvFabric -/

theorem execLinkTraining_keeps {e : TrainF} (hs : s.canonical = true) : OutcomeCanonical (execLinkTraining e s) :=
  State.ite_canonical hs (State.ite_canonical (State.postEvent_canonical hs) hs)

theorem execLinkDown_keeps {e : Nat} (hs : s.canonical = true) : OutcomeCanonical (execLinkDown e s) := by
  unfold execLinkDown
  show State.canonical _ = true
  split
  · exact hs
  · exact State.ite_canonical hs (State.postEvent_canonical (State.framed (foldl_canonical (fun _ _ h =>
      State.arriveEnd_canonical h) hs)))

theorem State.gangAccepted_canonical {e : GangEv} {arrive : State → Node → Option State} (hs : s.canonical = true)
    (ha : ∀ s n, s.canonical = true → Yields (·.canonical = true) (arrive s n)) :
    (s.gangAccepted e arrive).canonical = true := by
  unfold State.gangAccepted
  split
  · exact hs
  · exact State.ite_canonical hs (State.map_getD_canonical (ha _ _ hs) (fun _ => State.setNode_canonical) hs)

theorem State.abortGang_canonical {n : Node} {ix : Nat} (hs : s.canonical = true) : (s.abortGang n ix).canonical = true :=
  State.ite_canonical (State.mapHands_canonical (State.setNode_canonical hs) fun _ h => Hand.ite_canonical h h)
    (State.setNode_canonical (State.emptyTiles_canonical hs))

theorem execGangLaunchTimeout_keeps {e : GangEv} (hs : s.canonical = true) : OutcomeCanonical (execGangLaunchTimeout e s) := by
  unfold execGangLaunchTimeout
  show State.canonical _ = true
  split
  · exact hs
  · exact State.ite_canonical hs (State.abortGang_canonical hs)

theorem State.gangAborted_canonical {e : GangEv} {arrive : State → Option State} (hs : s.canonical = true)
    (ha : ∀ s, s.canonical = true → Yields (·.canonical = true) (arrive s)) :
    (s.gangAborted e arrive).canonical = true := by
  unfold State.gangAborted
  split
  · exact hs
  · exact State.ite_canonical hs (State.map_getD_canonical (ha _ hs) (fun _ => State.abortGang_canonical) hs)

theorem State.switchWord_canonical {op : SwitchOp} {v : Reg64} {bytes : Mem} (hs : s.canonical = true) :
    (s.switchWord op v bytes).canonical = true := State.ite_canonical hs (State.framed_mem (State.putPubAll_canonical hs))

theorem State.dropSwitchOp_canonical {i : Nat} (hs : s.canonical = true) : (s.dropSwitchOp i).canonical = true := hs

theorem State.abortReduction_canonical {id : Nat} {op : SwitchOp} {seq : Reg64} {member : Nat} (hs : s.canonical = true) :
    (s.abortReduction id op seq member).canonical = true := State.switchWord_canonical (State.dropSwitchOp_canonical hs)

theorem State.switchEnd_canonical {e : SwitchEv} {op : SwitchOp} (hs : s.canonical = true) :
    (s.switchEnd e op).canonical = true :=
  have hu := State.uses_canonical (State.dropSwitchOp_canonical hs)
  have hw := State.switchWord_canonical (State.ite_canonical (State.putPubAll_canonical hu) hu)
  State.ite_canonical (State.ctlStatus_canonical hw) hw

theorem State.switchAnswer_canonical {mcast : Bool} {e : SwitchEv} (hs : s.canonical = true) :
    (s.switchAnswer mcast e).canonical = true := by
  unfold State.switchAnswer
  split
  · exact hs
  · refine State.ite_canonical hs ?_
    split
    · exact hs
    · rename_i e₂
      exact State.switchEnd_canonical ((State.arrives_yields hs).some e₂)

theorem State.reductionFails_canonical {e : SwitchEv} {arrive : State → SwitchOp → Option State} (hs : s.canonical = true)
    (ha : ∀ s o, s.canonical = true → Yields (·.canonical = true) (arrive s o)) :
    (s.reductionFails e arrive).canonical = true := by
  unfold State.reductionFails
  split
  · exact hs
  · exact State.ite_canonical hs (State.map_getD_canonical (ha _ _ hs) (fun _ => State.abortReduction_canonical) hs)

theorem State.takesIn_canonical {what : Arriving} {named : Nat} (hs : s.canonical = true) :
    (s.takesIn what named).canonical = true := by
  unfold State.takesIn
  split
  · exact State.physWrite_canonical hs
  · exact State.peerArrives_canonical hs
  · exact State.peerAnswered_canonical hs fun _ _ h => h
  · exact State.apply_getD_canonical (fun _ => State.switchEnd_canonical hs) hs
  · exact State.reductionFails_canonical hs fun _ _ h => h
  · exact State.gangAccepted_canonical hs fun _ _ h => h
  · exact State.gangAborted_canonical hs fun _ h => h

theorem State.deliverEntry_canonical {e : ReplayEv} (hs : s.canonical = true) : (s.deliverEntry e).canonical = true :=
  State.ite_canonical hs (State.takesIn_canonical hs)

theorem execReplayDelivery_keeps {e : ReplayEv} (hs : s.canonical = true) : OutcomeCanonical (execReplayDelivery e s) := by
  unfold execReplayDelivery
  show State.canonical _ = true
  refine State.ite_canonical hs ?_
  split
  · exact hs
  · exact State.ite_canonical (State.deliverEntry_canonical hs) (State.diverge_canonical hs)

/-! ### Machine/EvDebug -/

theorem State.stopHand_canonical (hs : s.canonical = true) : s.stopHand.canonical = true := by
  unfold State.stopHand
  split
  · rename_i e
    have ht := (State.closeRecord_keeps hs).ok e
    exact State.framed_with_hand (State.dropGrant_canonical ht) (Hand.framed (State.hand_canonical ht))
  · exact hs

theorem execDebuggerStop_keeps {e : Nat} (hs : s.canonical = true) : OutcomeCanonical (execDebuggerStop e s) := by
  show State.canonical _ = true
  split
  · exact hs
  · refine State.ite_canonical (State.asHand_canonical hs fun _ => State.stopHand_canonical) ?_
    split
    · exact hs
    · exact State.asHand_canonical (State.answered_canonical hs) fun _ => State.stopHand_canonical

theorem Hand.pokeV_canonical {r : Fld5} {off : Nat} {l : List Byte} (hh : h.canonical = true) :
    (h.pokeV r off l).canonical = true :=
  Hand.canonical_of_v hh (foldl_inv (fun m : Mem => m.wf = true) (fun m b hm => Mem.wf_put m _ b.1 hm) (Hand.v_wf hh)) rfl rfl

theorem withReg_wf {m n : Mem} {r : Nat} (hm : m.wf = true) (hn : n.wf = true) : Mem.wf (withReg m n r) = true := by
  unfold withReg
  refine Mem.wf_append (Mem.wf_append (Mem.wf_filter hm) (Mem.wf_filter hn) ?_) (Mem.wf_filter hm) ?_
  · intro _ hc _ hd
    simp only [List.mem_filter, decide_eq_true_eq, beq_iff_eq] at hc hd
    omega
  · intro _ hc _ hd
    simp only [List.mem_append, List.mem_filter, decide_eq_true_eq, beq_iff_eq] at hc hd
    omega

theorem Hand.restoreReg_canonical {i : Nat} {was : SMap Byte} {r : Nat} (hh : h.canonical = true) (hw : Mem.wf was = true) :
    (h.restoreReg i was r).canonical = true := by
  unfold Hand.restoreReg
  split
  · exact Hand.canonical_of_v hh (withReg_wf (Hand.v_wf hh) hw)
  · refine Hand.canonical_of_producers hh fun _ hp => ?_
    obtain ⟨k, hk⟩ := List.mem_iff_getElem?.1 hp
    rw [List.getElem?_modify] at hk
    obtain ⟨q, hq, rfl⟩ := Option.map_eq_some_iff.1 hk
    have hq' := Hand.was_wf hh q (List.mem_of_getElem? hq)
    split
    · exact withReg_wf hq' hw
    · exact hq'

theorem Hand.discard_canonical {i : Nat} (hh : h.canonical = true) : (h.discard i).canonical = true := by
  unfold Hand.discard
  split
  · exact hh
  · rename_i p e
    have hw : Mem.wf p.was = true := Hand.was_wf hh p (List.mem_of_getElem? e)
    have hr (l : List Nat) : (l.foldl (fun (h : Hand) r => h.restoreReg i p.was r) h).canonical = true :=
      foldl_hand_canonical (fun _ _ hg => Hand.restoreReg_canonical hg hw) hh
    exact Hand.canonical_of_producers (hr _) fun q hq => Hand.was_wf (hr _) q (List.mem_of_mem_eraseIdx hq)

theorem Hand.discardAll_canonical {which : Producer → Bool} (hh : h.canonical = true) :
    (h.discardAll which).canonical = true := by
  unfold Hand.discardAll
  induction h.producers.zipIdx.filter (fun pi => which pi.1) with
  | nil => exact hh
  | cons _ _ ih => exact Hand.discard_canonical ih

theorem Hand.poke_canonical {t : DbgTarget} (hh : h.canonical = true) : (h.poke t).canonical = true := by
  unfold Hand.poke
  split
  · exact Hand.setX_canonical (Hand.discardAll_canonical hh)
  · exact Hand.ite_canonical hh (Hand.pokeV_canonical (Hand.discardAll_canonical hh))
  · split <;> exact hh

theorem execDebuggerWrite_keeps {e : DbgWrite} (hs : s.canonical = true) : OutcomeCanonical (execDebuggerWrite e s) :=
  State.modHand_canonical hs fun _ h => Hand.ite_canonical (Hand.poke_canonical h) h

/-! ### Machine/ScalarMem -/

theorem scalarLoad_keeps {w : Nat} {ext : Nat → Reg64} {f : ImmG} (hs : s.canonical = true) :
    OutcomeCanonical (scalarLoad w ext f s) :=
  guarded_keeps hs fun _ h => (State.src_keeps h).bind fun _ _ => (State.dest_keeps h).bind fun _ _ =>
    (State.aligned_keeps h).bind fun _ _ => (State.readElem_keeps h).bind fun _ h₁ =>
    State.retire_canonical (State.framed_with_hand (State.setX_canonical h₁)
    (Hand.produce_canonical (State.hand_canonical (State.setX_canonical h₁))))

theorem scalarStore_keeps {w : Nat} {f : ImmG} (hs : s.canonical = true) : OutcomeCanonical (scalarStore w f s) :=
  guarded_keeps hs fun _ h => (State.src_keeps h).bind fun _ _ => (State.need_keeps h).bind fun _ _ =>
    (State.aligned_keeps h).bind fun _ _ => (State.writeElem_keeps h).bind fun _ h₁ => State.retire_canonical h₁

/-! ### Machine/Salu -/

theorem alu2_keeps {op : Reg64 → Reg64 → Reg64} {f : RegG} (hs : s.canonical = true) : OutcomeCanonical (alu2 op f s) :=
  guarded_keeps hs fun _ h => (State.src_keeps h).bind fun _ _ => (State.src_keeps h).bind fun _ _ =>
    (State.dest_keeps h).bind fun _ _ => State.retire_canonical (State.setX_canonical h)

theorem alu1_keeps {op : Reg64 → Reg64} {f : UnG} (hs : s.canonical = true) : OutcomeCanonical (alu1 op f s) :=
  guarded_keeps hs fun _ h => (State.src_keeps h).bind fun _ _ => (State.dest_keeps h).bind fun _ _ =>
    State.retire_canonical (State.setX_canonical h)

theorem aluImm_keeps {op : Reg64 → Reg64 → Reg64} {f : ImmG} (hs : s.canonical = true) : OutcomeCanonical (aluImm op f s) :=
  guarded_keeps hs fun _ h => (State.src_keeps h).bind fun _ _ => (State.dest_keeps h).bind fun _ _ =>
    State.retire_canonical (State.setX_canonical h)

theorem aluShift_keeps {op : Reg64 → Nat → Reg64} {f : ShG} (hs : s.canonical = true) : OutcomeCanonical (aluShift op f s) :=
  guarded_keeps hs fun _ h => (State.src_keeps h).bind fun _ _ => (State.dest_keeps h).bind fun _ _ =>
    State.retire_canonical (State.setX_canonical h)

theorem literal_keeps {f : LitF} {v : State → Run Reg64} (hs : s.canonical = true)
    (hv : ∀ t, t.canonical = true → Run.Keeps (fun _ => True) (v t)) : OutcomeCanonical (literal f s v) :=
  finish_keeps ((State.guard_keeps hs).bind fun _ _ => Run.Keeps.ite ((State.dest_keeps hs).bind fun _ _ =>
    (hv s hs).bind fun _ _ => State.retire_canonical (State.setX_canonical hs)) (State.retire_canonical hs))

/-! ### Machine/VInt -/

theorem vbin_keeps {i : Instr} {op : Hand → Nat → Nat → Nat → Nat × Nat} {beats : Hand → Nat} {f : VReg}
    (hs : s.canonical = true) :
    OutcomeCanonical (vbin i op beats f s) :=
  vop_keeps hs (fun _ h => State.srcs2_keeps h) fun _ h => State.charge_canonical (State.each_canonical h)

theorem vuna_keeps {i : Instr} {op : Hand → Nat → Nat × Nat} {beats : Hand → Nat} {f : VUn} (hs : s.canonical = true) :
    OutcomeCanonical (vuna i op beats f s) :=
  vop_keeps hs (fun _ h => State.srcs1_keeps h) fun _ h => State.charge_canonical (State.each_canonical h)

theorem execVsel_keeps {f : VReg} (hs : s.canonical = true) : OutcomeCanonical (execVsel f s) :=
  vop_keeps hs (fun _ h => State.srcs2_keeps h) fun _ h => State.charge_canonical (State.each_canonical h)

theorem vimm_keeps {sub : BitVec 4} {op : Hand → Nat → Nat → Nat} {f : VImm} (hs : s.canonical = true) :
    OutcomeCanonical (vimm sub op f s) :=
  vopOf_keeps hs (fun _ h => State.vsrc_keeps h) fun _ h => State.charge_canonical (State.each_canonical h)

theorem vimmShift_keeps {sub : BitVec 4} {op : Hand → Nat → Nat → Nat} {f : VShImm} (hs : s.canonical = true) :
    OutcomeCanonical (vimmShift sub op f s) :=
  vopOf_keeps hs (fun _ h => State.vsrc_keeps h) fun _ h => State.charge_canonical (State.each_canonical h)

theorem execVceqi_keeps {f : VImm} (hs : s.canonical = true) : OutcomeCanonical (execVceqi f s) :=
  vopOf_keeps hs (fun _ h => State.vsrc_keeps h) fun _ h =>
    State.charge_canonical (State.put_canonical h (Hand.putPred_canonical (State.hand_canonical h)))

/-! ### Machine/VFloat -/

theorem vfbin_keeps {i : Instr} {op : Hand → FVal → FVal → FVal → Nat × Nat} {beats : Nat} {f : VReg}
    (hs : s.canonical = true) :
    OutcomeCanonical (vfbin i op beats f s) := vbin_keeps hs

theorem vfuna_keeps {i : Instr} {op : Hand → FVal → Nat × Nat} {beats : Nat} {f : VUn} (hs : s.canonical = true) :
    OutcomeCanonical (vfuna i op beats f s) := vuna_keeps hs

theorem vwide_keeps {i : Instr} {op : Hand → Nat → Nat → Nat → Int} {f : VReg} (hs : s.canonical = true) :
    OutcomeCanonical (vwide i op f s) :=
  vop_keeps hs (fun _ h => State.srcs2_keeps h) fun _ h => State.charge_canonical (State.put_canonical h
    (foldl_hand_canonical (fun _ _ h => Hand.setVN_canonical h) (State.hand_canonical h)))

/-! ### Machine/VPerm -/

theorem vcmp_keeps {i : Instr} {c : Hand → Nat → Nat → Bool} {f : VReg} (hs : s.canonical = true) :
    OutcomeCanonical (vcmp i c f s) :=
  vop_keeps hs (fun _ h => State.srcs2_keeps h) fun _ h =>
    State.charge_canonical (State.put_canonical h (Hand.putPred_canonical (State.hand_canonical h)))

theorem vfcmp_keeps {i : Instr} {quiet : Bool} {c : FVal → FVal → Bool} {f : VReg} (hs : s.canonical = true) :
    OutcomeCanonical (vfcmp i quiet c f s) :=
  vop_keeps hs (fun _ h => State.srcs2_keeps h) fun _ h =>
    State.charge_canonical (State.raise_canonical (State.put_canonical h (Hand.putPred_canonical (State.hand_canonical h))))

theorem vpred_keeps {i : Instr} {d : Fld5} {m : BitVec 3} {c : Hand → Nat → Bool} (hs : s.canonical = true) :
    OutcomeCanonical (vpred i d m c s) :=
  vop_keeps hs (fun _ _ => trivial) fun _ h =>
    State.charge_canonical (State.put_canonical h (Hand.putPred_canonical (State.hand_canonical h)))

theorem vpscal_keeps {i : Instr} {v : List Nat → Reg64} {f : PUn} (hs : s.canonical = true) :
    OutcomeCanonical (vpscal i v f s) :=
  vop_keeps hs (fun _ h => State.dest_keeps h) fun _ h => State.charge_canonical (State.result_canonical h)

theorem execVpopq_keeps {f : PUn} (hs : s.canonical = true) : OutcomeCanonical (execVpopq f s) := by
  unfold execVpopq
  refine vop_keeps hs (fun _ h => ?_) fun _ h =>
    State.charge_canonical (State.put_canonical h (Hand.framed (State.hand_canonical h)))
  split
  · exact h
  · exact trivial

theorem State.moves_canonical {d a : Fld5} {l : List (Nat × Nat)} (hs : s.canonical = true) :
    (s.moves d a l).canonical = true :=
  State.charge_canonical (State.put_canonical hs (Hand.setElems_canonical (State.hand_canonical hs)))

theorem State.srcsX_keeps {f : VReg} (hs : s.canonical = true) : Run.Keeps (fun _ => True) (s.srcsX f) :=
  (State.vsrc_keeps hs).bind fun _ _ => (State.src_keeps hs).bind fun _ _ => trivial

theorem vpermX_keeps {i : Instr} {from' : Nat → Nat → Option Nat} {f : VReg} (hs : s.canonical = true) :
    OutcomeCanonical (vpermX i from' f s) := vop_keeps hs (fun _ h => State.srcsX_keeps h) fun _ h => State.moves_canonical h

theorem execVperm_keeps {f : VReg} (hs : s.canonical = true) : OutcomeCanonical (execVperm f s) :=
  vop_keeps hs (fun _ h => State.srcs2_keeps h) fun _ h => State.moves_canonical h

theorem execVrshp_keeps {f : VReg} (hs : s.canonical = true) : OutcomeCanonical (execVrshp f s) := by
  unfold execVrshp
  refine vop_keeps hs (fun _ h => ?_) fun _ h => State.moves_canonical h
  refine (State.srcsX_keeps h).bind fun _ _ => ?_
  dsimp only
  split
  · exact h
  · exact trivial

theorem execVcomp_keeps {f : VUn} (hs : s.canonical = true) : OutcomeCanonical (execVcomp f s) :=
  vop_keeps hs (fun _ h => State.srcs1_keeps h) fun _ h =>
    State.put_canonical (State.moves_canonical h) (Hand.setElems_canonical (State.hand_canonical (State.moves_canonical h)))

theorem execVexpd_keeps {f : VUn} (hs : s.canonical = true) : OutcomeCanonical (execVexpd f s) :=
  vop_keeps hs (fun _ h => State.srcs1_keeps h) fun _ h => State.moves_canonical h

theorem execVsortk_keeps {f : VReg} (hs : s.canonical = true) : OutcomeCanonical (execVsortk f s) := by
  unfold execVsortk
  refine vop_keeps hs (fun _ h => ?_) fun _ h =>
    State.charge_canonical (State.put_canonical h (Hand.setElems_canonical (Hand.setElems_canonical (State.hand_canonical h))))
  refine (State.vsrc_keeps h).bind fun _ _ => ?_
  split
  · exact trivial
  · exact State.vsrc_keeps h

/-! ### Machine/VRed -/

theorem vred_keeps {i : Instr} {v : Hand → List Nat → Reg64} {f : VUn} (hs : s.canonical = true) :
    OutcomeCanonical (vred i v f s) :=
  vop_keeps hs (fun _ h => (State.srcs1_keeps h).bind fun _ _ => State.dest_keeps h) fun _ h =>
    State.charge_canonical (State.result_canonical h)

theorem vfred_keeps {i : Instr} {v : Hand → Nat × List (Nat × Nat)} {beats : Hand → Nat} {f : VUn} (hs : s.canonical = true) :
    OutcomeCanonical (vfred i v beats f s) :=
  vop_keeps hs (fun _ h => (State.srcs1_keeps h).bind fun _ _ => State.dest_keeps h) fun _ h =>
    State.charge_canonical (State.raise_canonical (State.result_canonical h))

theorem execVcvtff_keeps {f : VCode} (hs : s.canonical = true) : OutcomeCanonical (execVcvtff f s) := by
  refine vop_keeps hs (fun _ h => State.vsrc_keeps h) fun _ h => Run.Keeps.ite ?_ ?_
  · exact State.charge_canonical (State.each_canonical h)
  · exact State.charge_canonical (State.raise_canonical (State.put_canonical h
      (foldl_hand_canonical (fun _ _ h => Hand.setVN_canonical h) (State.hand_canonical h))))

theorem State.wholeBlocks_keeps (hs : s.canonical = true) : Run.Keeps (fun _ => True) s.wholeBlocks := by
  unfold State.wholeBlocks
  split
  · exact trivial
  · exact hs

theorem execVquant_keeps {f : VCode} (hs : s.canonical = true) : OutcomeCanonical (execVquant f s) :=
  vop_keeps hs (fun _ h => (State.vsrc_keeps h).bind fun _ _ => State.wholeBlocks_keeps h) fun _ h =>
    State.charge_canonical (State.raise_canonical (State.put_canonical h (foldl_hand_canonical (fun _ _ h₁ =>
    foldl_hand_canonical (fun _ _ h₂ => Hand.setVB_canonical h₂) h₁) (State.hand_canonical h))))

theorem execVdequant_keeps {f : VCode} (hs : s.canonical = true) : OutcomeCanonical (execVdequant f s) := by
  unfold execVdequant
  refine vop_keeps hs (fun _ h => ?_) fun _ h => State.charge_canonical (State.each_canonical h)
  refine (State.vsrc_keeps h).bind fun _ _ => (State.wholeBlocks_keeps h).bind fun _ _ => ?_
  split
  · exact h
  · exact trivial

theorem execVsplat_keeps {f : VUn} (hs : s.canonical = true) : OutcomeCanonical (execVsplat f s) :=
  vop_keeps hs (fun _ h => (State.src_keeps h).bind fun _ _ => trivial) fun _ h =>
    State.charge_canonical (State.each_canonical h)

theorem execVins_keeps {f : VReg} (hs : s.canonical = true) : OutcomeCanonical (execVins f s) :=
  vop_keeps hs (fun _ h => (State.src_keeps h).bind fun _ _ => (State.src_keeps h).bind fun _ _ => trivial) fun _ h =>
    State.charge_canonical (State.each_canonical h)

theorem execVext_keeps {f : VReg} (hs : s.canonical = true) : OutcomeCanonical (execVext f s) :=
  vop_keeps hs (fun _ h => (State.vsrc_keeps h).bind fun _ _ => (State.src_keeps h).bind fun _ _ =>
    State.dest_keeps h) fun _ h => State.charge_canonical (State.result_canonical h)

/-! ### Machine/Dispatch -/

theorem exec_keeps {i : Instr} (hs : s.canonical = true) : OutcomeCanonical (exec i s) := by
  unfold exec
  cases i with
  | add _ | sub _ | and _ | or _ | xor _ | andn _ | sll _ | srl _ | sra _ | rotl _ | rotr _ | mul _ | mulh _ | mulhn _
  | div _ | divn _ | rem _ | remn _ | slt _ | sltn _ | min _ | max _ | minn _ | maxn _ | addw _ | subw _ => exact alu2_keeps hs
  | clz _ | ctz _ | popc _ | sextb _ | sexth _ | sextw _ => exact alu1_keeps hs
  | addi _ | andi _ | ori _ | xori _ | slti _ | sltni _ => exact aluImm_keeps hs
  | slli _ | srli _ | srai _ => exact aluShift_keeps hs
  | lui _ | adpc _ => exact finish_keeps ((State.dest_keeps hs).bind fun _ _ => State.retire_canonical (State.setX_canonical hs))
  | lit _ => exact literal_keeps hs fun _ _ => trivial
  | lith _ => exact literal_keeps hs fun _ h => (State.need_keeps h).bind fun _ _ => trivial
  | ldb _ | ldh _ | ldw _ | ldd _ | ldbn _ | ldhn _ | ldwn _ => exact scalarLoad_keeps hs
  | stb _ | sth _ | stw _ | std _ => exact scalarStore_keeps hs
  | beq _ | bne _ | blt _ | bge _ | bltn _ | bgen _ => exact branch_keeps hs
  | jmp _ => exact guarded_keeps hs fun _ h => State.jumpTo_canonical h
  | jal _ => exact execJal_keeps hs
  | jalr _ => exact execJalr_keeps hs
  | loop _ => exact execLoop_keeps hs
  | vloop _ => exact execVloop_keeps hs
  | vsetl _ => exact execVsetl_keeps hs
  | vsetlq _ => exact execVsetlq_keeps hs
  | vadd _ | vsub _ | vand _ | vor _ | vxor _ | vsll _ | vsrl _ | vsra _ | vmul _ | vmulh _ | vmulhn _ | vmin _
  | vmax _ | vminn _ | vmaxn _ | vsadd _ | vsaddn _ | vssub _ | vssubn _ | vincw _ | vaddb _ | vfmin _ | vfmax _
  | vfsgn _ => exact vbin_keeps hs
  | vabs _ | vclz _ | vpopc _ | vmov _ | vfclass _ | vcvtfi _ | vcvtfn _ | vcvtif _ | vcvtnf _ => exact vuna_keeps hs
  | vsel _ => exact execVsel_keeps hs
  | vmovStream _ => exact execVmovStream_keeps hs
  | vfadd _ | vfsub _ | vfmul _ | vfdiv _ | vfma _ | vfms _ | vfnma _ => exact vfbin_keeps hs
  | vfsqrt _ | vfrsqrt _ | vfexp2 _ | vflog2 _ | vfabs _ | vfneg _ => exact vfuna_keeps hs
  | vwmac _ | vwmacn _ | vwmacsn _ | vwmul _ | vwmuln _ | vwadd _ | vwaddn _ => exact vwide_keeps hs
  | vceq _ | vcne _ | vclt _ | vcle _ | vcltn _ | vclen _ => exact vcmp_keeps hs
  | vfceq _ | vfclt _ | vfcle _ | vfcun _ => exact vfcmp_keeps hs
  | pand _ | por _ | pxor _ | pandn _ | pnot _ | pset _ => exact vpred_keeps hs
  | ppopc _ | pfirst _ | pmvx _ => exact vpscal_keeps hs
  | vpopq _ => exact execVpopq_keeps hs
  | vperm _ => exact execVperm_keeps hs
  | vslup _ | vsldn _ | vbcast _ => exact vpermX_keeps hs
  | vrshp _ => exact execVrshp_keeps hs
  | vcomp _ => exact execVcomp_keeps hs
  | vexpd _ => exact execVexpd_keeps hs
  | vsortk _ => exact execVsortk_keeps hs
  | vredadd _ | vredmin _ | vredmax _ | vredminn _ | vredmaxn _ | vredand _ | vredor _ => exact vred_keeps hs
  | vfredadd _ | vfredmin _ | vfredmax _ => exact vfred_keeps hs
  | vcvtff _ => exact execVcvtff_keeps hs
  | vquant _ => exact execVquant_keeps hs
  | vdequant _ => exact execVdequant_keeps hs
  | vsplat _ => exact execVsplat_keeps hs
  | vins _ => exact execVins_keeps hs
  | vext _ => exact execVext_keeps hs
  | viota _ | vord _ => exact vop_keeps hs (fun _ _ => trivial) fun _ h => State.charge_canonical (State.each_canonical h)
  | vld _ => exact execVld_keeps hs
  | vlds _ => exact execVlds_keeps hs
  | vldx _ => exact execVldx_keeps hs
  | vldw _ => exact execVldw_keeps hs
  | vldsq _ => exact execVldsq_keeps hs
  | vgl _ => exact execVgl_keeps hs
  | vldb _ => exact execVldb_keeps hs
  | vst _ => exact execVst_keeps hs
  | vsts _ => exact execVsts_keeps hs
  | vstx _ => exact execVstx_keeps hs
  | vstw _ => exact execVstw_keeps hs
  | vstsq _ => exact execVstsq_keeps hs
  | vstb _ => exact execVstb_keeps hs
  | vsc _ => exact execVsc_keeps hs
  | fenceSv _ | fenceVs _ | fenceVv _ => exact fence_keeps hs
  | xfence _ => exact execXfence_keeps hs
  | phend _ => exact execPhend_keeps hs
  | phaseEndComplete _ => exact execPhaseEndComplete_keeps hs
  | phase _ => exact execPhase_keeps hs
  | waitge _ | waitne _ => exact liveWait_keeps hs
  | unlink _ => exact execUnlink_keeps hs
  | lace _ => exact execLace_keeps hs
  | sunbind _ => exact execSunbind_keeps hs
  | spos _ => exact execSpos_keeps hs
  | sadv _ => exact execSadv_keeps hs
  | stabl _ => exact execStabl_keeps hs
  | cpyIn _ | cpyInp _ => exact copyIssue_keeps (fun _ h => (State.src_keeps h).bind fun _ _ => trivial) hs
  | cpyOut _ | cpyPeer _ => exact copyIssue_keeps (fun _ h => (State.need_keeps h).bind fun _ _ => trivial) hs
  | cpyMem _ => exact execCpyMem_keeps hs
  | copyCompletion _ => exact execCopyCompletion_keeps hs
  | peerDelivery _ => exact execPeerDelivery_keeps hs
  | tdef _ => exact execTdef_keeps hs
  | tfree _ => exact execTfree_keeps hs
  | twait _ => exact execTwait_keeps hs
  | tstat _ => exact execTstat_keeps hs
  | tready _ => exact execTready_keeps hs
  | mma _ | mmav _ => exact matrixIssue_keeps hs
  | matrixJobStart _ => exact execMatrixJobStart_keeps hs
  | matrixJobComplete _ => exact execMatrixJobComplete_keeps hs
  | xchg _ => exact execXchg_keeps hs
  | exchangeBlockLanding _ => exact execExchangeBlockLanding_keeps hs
  | sdecl _ => exact execSdecl_keeps hs
  | sclr _ => exact execSclr_keeps hs
  | sfree _ => exact execSfree_keeps hs
  | ssave _ => exact execSsave_keeps hs
  | sload _ => exact execSload_keeps hs
  | smrg _ => exact execSmrg_keeps hs
  | smrgm _ => exact execSmrgm_keeps hs
  | stype _ => exact execStype_keeps hs
  | supdMom _ | supdRes _ | supdTopk _ | supdQh _ | supdCms _ | supdVacc _ | supdVaccm _ => exact supd_keeps hs
  | sqMom _ => exact execSqMom_keeps hs
  | sqRes _ => exact entryQuery_keeps (fun _ _ h => Hand.setWords_canonical h) hs
  | sqResn _ => exact execSqResn_keeps hs
  | sqTopk _ => exact execSqTopk_keeps hs
  | sqQh _ => exact execSqQh_keeps hs
  | sqCms _ => exact execSqCms_keeps hs
  | sqVacc _ => exact elementQuery_keeps (fun _ h => State.src_keeps h) hs
  | sqTile _ => exact execSqTile_keeps hs
  | sqFlags _ => exact scalarQuery_keeps hs (fun _ _ => noArg_keeps) fun _ _ _ _ => trivial
  | qdeal _ | qdealf _ => exact draw_keeps hs
  | qtab _ => exact execQtab_keeps hs
  | qseed _ => exact execQseed_keeps hs
  | seatq _ => exact execSeatq_keeps hs
  | seatw _ => exact execSeatw_keeps hs
  | seatr _ => exact execSeatr_keeps hs
  | seatf _ => exact execSeatf_keeps hs
  | seatp _ => exact execSeatp_keeps hs
  | seatin _ => exact execSeatin_keeps hs
  | seatx _ => exact execSeatx_keeps hs
  | seatst _ => exact execSeatst_keeps hs
  | rep _ => exact execRep_keeps hs
  | trap _ | brk _ => exact sysInstr_keeps hs fun _ h => h
  | csrr _ => exact execCsrr_keeps hs
  | csrw _ => exact execCsrw_keeps hs
  | csrx _ => exact execCsrx_keeps hs
  | halt _ => exact execHalt_keeps hs
  | yield _ => exact execYield_keeps hs
  | rett _ => exact guarded_keeps hs fun _ h => State.rett_keeps h
  | lbrk _ => exact execLbrk_keeps hs
  | spawn _ => exact execSpawn_keeps hs
  | spawnResult _ => exact execSpawnResult_keeps hs
  | nop => exact State.retire_canonical hs
  | vaddi _ | vandi _ | vori _ | vxori _ | vmini _ | vmaxi _ => exact vimm_keeps hs
  | vslli _ | vsrli _ | vsrai _ => exact vimmShift_keeps hs
  | vceqi _ => exact execVceqi_keeps hs
  | loadLanding _ => exact execLoadLanding_keeps hs
  | preemptionRequest _ => exact execPreemptionRequest_keeps hs
  | preemptionLanding _ => exact execPreemptionLanding_keeps hs
  | handResume _ => exact execHandResume_keeps hs
  | watchdog _ => exact execWatchdog_keeps hs
  | submissionRecord _ => exact execSubmissionRecord_keeps hs
  | graphAdmit => exact execGraphAdmit_keeps hs
  | nodeDispatch => exact execNodeDispatch_keeps hs
  | declaredFill _ => exact execDeclaredFill_keeps hs
  | nodeComplete _ => exact execNodeComplete_keeps hs
  | systemThreadExit _ => exact execSystemThreadExit_keeps hs
  | pairCommit _ => exact execPairCommit_keeps hs
  | powerWindow _ => exact execPowerWindow_keeps hs
  | bankFail _ => exact execBankFail_keeps hs
  | patrolScrub _ => exact State.ite_canonical hs (State.modCore_canonical hs)
  | stackOffline _ => exact execStackOffline_keeps hs
  | clusterMismatchLimit _ => exact execClusterMismatchLimit_keeps hs
  | coreRetire _ => exact execCoreRetire_keeps hs
  | reset _ => exact State.boot'_canonical
  | powerRamp _ | clockLock _ => exact State.bringUp_canonical hs fun _ h => h
  | crossingCalibration _ => exact execCrossingCalibration_keeps hs
  | hbmTraining _ => exact execHbmTraining_keeps hs
  | crossingLost _ => exact execCrossingLost_keeps hs
  | fieldLost _ => exact State.ite_canonical hs (State.loseField_canonical hs)
  | queueEnable _ => exact execQueueEnable_keeps hs
  | tail _ => exact execTail_keeps hs
  | registerWrite _ => exact execRegisterWrite_keeps hs
  | asidLoad _ => exact execAsidLoad_keeps hs
  | invalidate _ => exact execInvalidate_keeps hs
  | ctxRegion _ | setTimeout _ | dudelRegion _ | deviceNumber _ | reduce _ => exact State.command_keeps hs fun _ h => h
  | objOwner _ => exact execObjOwner_keeps hs
  | setFlim _ => exact State.command_keeps hs fun _ h => State.modField_canonical h
  | resume _ => exact execResume_keeps hs
  | forward _ => exact execForward_keeps hs
  | cancel _ => exact execCancel_keeps hs
  | cancelGraph _ => exact execCancelGraph_keeps hs
  | stripBreakpoint _ | watchpoint _ => exact State.command_keeps hs fun _ h => State.modHand_canonical h fun _ h₁ => h₁
  | machineHalt _ => exact execMachineHalt_keeps hs
  | machineResume _ => exact execMachineResume_keeps hs
  | gangSet _ => exact State.command_keeps hs fun _ h => State.modQueue_canonical h
  | mcast _ => exact execMcast_keeps hs
  | attest _ => exact execAttest_keeps hs
  | tileReset _ => exact execTileReset_keeps hs
  | debuggerStop _ => exact execDebuggerStop_keeps hs
  | debuggerWrite _ => exact execDebuggerWrite_keeps hs
  | debuggerRestart _ => exact State.modHand_canonical hs fun _ h => Hand.ite_canonical h h
  | inboundRequest _ => exact execInboundRequest_keeps hs
  | linkTraining _ => exact execLinkTraining_keeps hs
  | linkDown _ => exact execLinkDown_keeps hs
  | gangAcceptance _ => exact State.gangAccepted_canonical hs fun _ _ h => State.arrives_yields h
  | gangLaunchTimeout _ => exact execGangLaunchTimeout_keeps hs
  | gangAbort _ => exact State.gangAborted_canonical hs fun _ h => State.arrives_yields h
  | reductionComplete _ | mcastAck _ => exact State.switchAnswer_canonical hs
  | reductionTimeout _ => exact State.reductionFails_canonical hs fun _ _ h => State.arrives_yields h
  | replayDelivery _ => exact execReplayDelivery_keeps hs
  | storeAcknowledged _ => exact execStoreAcknowledged_keeps hs
  | copyBytesLanded _ => exact execCopyBytesLanded_keeps hs
  | failingCoreClear _ => exact State.modCore_canonical hs
  | systemCoreAccess _ => exact execSystemCoreAccess_keeps hs

/-! ### Machine/Issue -/

theorem State.issued_canonical {i : Instr} {a : Hand} (hs : s.canonical = true) : (s.issued i a).canonical = true :=
  State.ite_canonical (State.backPoint_canonical hs) hs

theorem State.redraw_canonical (hs : s.canonical = true) : (s.redraw h).canonical = true := hs

theorem atEnd_keeps {i : Instr} {o : Host.Outcome State Fault Refusal} (ho : OutcomeCanonical o) :
    OutcomeCanonical (atEnd i h o) := by
  unfold atEnd
  split
  · exact State.ite_canonical (State.issued_canonical ho) (State.redraw_canonical ho)
  · exact ho

theorem State.run_keeps {gate : Gate} {w : Word} {i : Instr} (hg : ∀ s w, s.canonical = true → (gate s w).1.canonical = true)
    (hs : s.canonical = true) :
    OutcomeCanonical (State.run gate s w i) := by
  have ht := hg s w hs
  unfold State.run
  split
  · rename_i e
    exact State.waits_canonical (fst_canonical ht e)
  · rename_i e
    exact atEnd_keeps (exec_keeps (fst_canonical ht e))

theorem State.raises_keeps {t : Trap} (hs : s.canonical = true) : OutcomeCanonical (s.raises t) := finish_keeps hs

theorem State.followers_canonical {n : Nat} {va : Reg64} (hs : s.canonical = true) : (s.followers n va).1.canonical = true := by
  induction n generalizing s va with
  | zero => exact hs
  | succ n ih =>
    unfold State.followers
    split
    · rename_i e
      have ht := (State.fetchWord_keeps hs).ok e
      split
      · exact ih ht
      · exact ht
    · exact hs

/-- What a convoy's members leave is canonical: the states, and the bytes that the producers made outstanding keep. -/
def Convoy.Canonical (v : Convoy) : Prop := v.after.canonical = true ∧ v.mid.canonical = true ∧ ∀ p ∈ v.made, Mem.wf p.was = true

theorem State.members_canonical {old new : List Producer} {l : List Instr} (hs : s.canonical = true)
    (ho : ∀ p ∈ old, Mem.wf p.was = true) (hn : ∀ p ∈ new, Mem.wf p.was = true) :
    (s.members old new l).Canonical := by
  induction l generalizing s new with
  | nil => exact ⟨hs, hs, hn⟩
  | cons i l ih =>
    unfold State.members
    split
    · rename_i t e
      have ht : t.canonical = true := (exec_keeps hs).next e
      split
      · refine ih (State.with_hand ht (Hand.canonical_of_producers (State.hand_canonical ht) ho))
          (List.forall_mem_append.2 ⟨hn, fun p hp => ?_⟩)
        exact Hand.was_wf (State.hand_canonical ht) p (List.mem_of_mem_drop hp)
      · exact ⟨ht, hs, hn⟩
    · exact ⟨hs, hs, hn⟩

theorem Hand.popFaulted_canonical {i : Option Instr} (hh : h.canonical = true) : (h.popFaulted i).canonical = true := by
  unfold Hand.popFaulted
  split <;> exact hh

theorem Convoy.undo_canonical {v : Convoy} {before : State} {trap : Bool} (hv : v.after.canonical = true)
    (hb : before.canonical = true) :
    (v.undo before trap).canonical = true := by
  have merged (b t : State) (g : Hand) (hb : b.canonical = true) (ht : t.canonical = true) (hg : g.canonical = true) :
      State.canonical { b with
        freeCtr := t.freeCtr, cores := t.cores, fields := t.fields, mem := t.mem, tasks := t.tasks
        dudel := t.dudel, hand := { g with ord := t.hand.ord } } = true :=
    State.canonical_iff.2 ⟨(State.live_wf ht :), (State.pub_wf ht :),
      Hand.canonical_of_snap hg (Hand.snap_wf (State.hand_canonical ht) :), (State.others_canonical hb :)⟩
  have hc {c : Prop} [Decidable c] : (if c then before.commit else before).canonical = true :=
    State.ite_canonical (State.commit_canonical hb) hb
  have hn {c : Prop} [Decidable c] {x : Csrs} {y : Sched} {st : Bool} :
      (Hand.stalled { (if c then before.commit else before).hand with csr := x, sched := y } st).canonical = true :=
    Hand.stalled_canonical (Hand.framed (State.hand_canonical hc))
  have hg {c d : Prop} [Decidable c] [Decidable d] {x : Csrs} {y : Sched} {st : Bool} {i : Option Instr} :
      (if d then (Hand.stalled { (if c then before.commit else before).hand with csr := x, sched := y } st).popFaulted i
        else Hand.stalled { (if c then before.commit else before).hand with csr := x, sched := y } st).canonical = true :=
    Hand.ite_canonical (Hand.popFaulted_canonical hn) hn
  exact State.ite_canonical (merged _ _ _ hc hv hg) (State.framed_with_hand (State.modCore_canonical hc) hg)

theorem State.chargedAll_canonical {before : State} {old : List Producer} {is : List Instr} (hs : s.canonical = true) :
    (s.chargedAll before old is).canonical = true := State.spent_canonical hs

theorem State.runConvoy_keeps {is : List Instr} (hs : s.canonical = true) : OutcomeCanonical (s.runConvoy is) := by
  have ho := Hand.was_wf (State.hand_canonical hs)
  obtain ⟨hafter, hmid, hmade⟩ := State.members_canonical (s := { s with hand := { s.hand with convoy := some s.hand.pc } })
    (new := []) (l := is) hs ho (fun _ hp => nomatch hp)
  have undone {v : Convoy} {trap : Bool} (hv : v.after.canonical = true) := Convoy.undo_canonical (trap := trap) hv hs
  have led (h : Hand) (l : List Producer) (hh : h.canonical = true) (hl : ∀ p ∈ l, Mem.wf p.was = true) :
      Hand.canonical { h with convoy := none, producers := l } = true := Hand.canonical_of_producers hh hl
  unfold State.runConvoy
  dsimp only
  split
  · exact State.raises_keeps (State.ite_canonical (State.chargedAll_canonical (undone hafter)) (undone hafter))
  · exact State.ite_canonical (State.chargedAll_canonical hafter) hafter
  · exact State.waits_canonical (State.ite_canonical (undone hafter) (undone hafter))
  · exact State.issued_canonical (State.with_hand hafter (Hand.iterEnd_canonical (led _ _ (State.hand_canonical hafter)
      (List.forall_mem_append.2 ⟨ho, hmade⟩))))

theorem State.issueMember_keeps {gate : Gate} {f : Frame} (hg : ∀ s w, s.canonical = true → (gate s w).1.canonical = true)
    (hs : s.canonical = true) :
    OutcomeCanonical (State.issueMember gate s f) := by
  unfold State.issueMember
  split
  · exact finish_keeps (State.resumeFrame_keeps hs fun _ h => h)
  · dsimp only
    split
    · exact State.raises_keeps (State.with_csr hs)
    · exact State.run_keeps hg (State.with_csr hs)

theorem State.issueAtPc_keeps {gate : Gate} (hg : ∀ s w, s.canonical = true → (gate s w).1.canonical = true)
    (hs : s.canonical = true) :
    OutcomeCanonical (State.issueAtPc gate s) := by
  have fated (t : State) (w l : Word) (ht : t.canonical = true) : OutcomeCanonical (match fate w l t.hand with
      | .error x => t.raises x
      | .ok i => t.run gate w i) := by
    split
    · exact State.raises_keeps ht
    · exact State.run_keeps hg ht
  unfold State.issueAtPc
  split
  · rename_i e
    exact finish_keeps ((State.fetchWord_keeps hs).error e)
  · rename_i t w e
    have ht : t.canonical = true := (State.fetchWord_keeps hs).ok e
    split
    · split
      · exact State.raises_keeps ht
      split
      · rename_i e
        exact finish_keeps ((State.fetchWord_keeps ht).error e)
      · rename_i e
        exact fated _ _ _ ((State.fetchWord_keeps ht).ok e)
    split
    · split <;> exact State.raises_keeps ht
    split
    · have hf := State.followers_canonical (n := 4) (va := t.hand.pc + 4) ht
      dsimp only
      split
      · exact fated _ _ _ hf
      split
      · exact State.raises_keeps hf
      split
      · rename_i e
        exact State.waits_canonical (fst_canonical (hg _ _ hf) e)
      · rename_i e
        exact State.runConvoy_keeps (fst_canonical (hg _ _ hf) e)
    · exact fated _ _ _ ht

theorem State.issueBy_keeps {gate : Gate} (hg : ∀ s w, s.canonical = true → (gate s w).1.canonical = true)
    (hs : s.canonical = true) :
    OutcomeCanonical (State.issueBy gate s) := by
  unfold State.issueBy
  split
  · exact State.issueMember_keeps hg hs
  · exact State.issueAtPc_keeps hg hs

theorem State.chooseHand_canonical {c n : Nat} (hs : s.canonical = true) : (s.chooseHand c n).1.canonical = true := by
  induction n generalizing s with
  | zero => exact hs
  | succ n ih =>
    unfold State.chooseHand
    dsimp only
    split
    · exact hs
    split
    · exact hs
    · refine ih (State.mapHands_canonical hs fun _ hg => ?_)
      split <;> exact hg

theorem State.regrant_canonical {before : State} (hs : s.canonical = true) : (before.regrant s).canonical = true :=
  foldl_canonical (fun _ _ h => State.chooseHand_canonical h) hs

theorem regranted_keeps {before : State} {o : Host.Outcome State Fault Refusal} (ho : OutcomeCanonical o) :
    OutcomeCanonical (regranted before o) := by
  unfold regranted
  split
  · exact State.regrant_canonical (s := _) ho
  · exact ho

theorem State.grant_canonical {w : Word} (hs : s.canonical = true) : (s.grant w).1.canonical = true := by
  unfold State.grant
  split
  · exact hs
  split
  · exact hs
  dsimp only
  split
  · exact hs
  · exact State.chooseHand_canonical hs

theorem State.moveHand_keeps (hs : s.canonical = true) : OutcomeCanonical s.moveHand := by
  unfold State.moveHand
  dsimp only
  split
  · exact hs
  split
  · split
    · exact State.waits_canonical hs
    · exact State.toSystem_canonical (State.countBad_canonical hs)
  split
  · split
    · exact State.waits_canonical hs
    · exact State.raises_keeps hs
  · exact State.issueBy_keeps (fun _ _ h => State.grant_canonical h) hs

theorem State.multicastArrives_canonical {addr : Nat} {bytes : List Byte} (hs : s.canonical = true) :
    (s.multicastArrives addr bytes).canonical = true := by
  unfold State.multicastArrives
  refine State.ite_canonical hs ?_
  split
  · exact hs
  · rename_i e
    obtain ⟨p, _, hp⟩ := Option.bind_eq_some_iff.1 e
    exact State.physWrite_canonical ((State.arrives_yields hs).some hp)

theorem State.upset_canonical {u : Upset} (hs : s.canonical = true) : (s.upset u).canonical = true := by
  unfold State.upset
  split
  · exact hs
  · exact hs
  · exact hs
  · exact State.ite_canonical (State.modCore_canonical hs) (State.modField_canonical hs)
  · exact State.ite_canonical (State.modCore_canonical hs) (State.modField_canonical hs)
  · exact State.modHand_canonical hs fun _ h => h
  · split
    · exact hs
    · exact State.ite_canonical hs (State.evict_canonical hs)
  · exact State.drawEntropy_canonical hs
  · exact State.multicastArrives_canonical hs
  · exact State.modField_canonical hs

theorem State.background_keeps {t : State} {f : State → Host.Outcome State Fault Refusal} (hf : f ∈ s.background)
    (ht : t.canonical = true) :
    OutcomeCanonical (f t) := by
  simp only [State.background, List.mem_append, List.mem_flatten, List.mem_map, List.mem_cons, List.not_mem_nil, or_false] at hf
  rcases hf with (((((((((⟨_, ⟨_, _, rfl⟩, hf⟩ | ⟨_, ⟨_, _, rfl⟩, hf⟩) | ⟨_, ⟨_, _, rfl⟩, hf⟩) | ⟨_, _, rfl⟩) | ⟨_, _, rfl⟩) |
    ⟨_, ⟨_, _, rfl⟩, hf⟩) | ⟨_, ⟨_, _, rfl⟩, hf⟩) | ⟨_, _, rfl⟩) | rfl | rfl) | ⟨_, _, rfl⟩)
  · obtain ⟨_, _, rfl⟩ := List.mem_map.1 hf
    exact execLoadLanding_keeps ht
  · simp only [List.mem_cons, List.not_mem_nil, or_false] at hf
    obtain rfl | rfl | rfl | rfl | rfl := hf
    exacts [execStoreAcknowledged_keeps ht, execMatrixJobStart_keeps ht, execMatrixJobComplete_keeps ht,
      execPreemptionLanding_keeps ht, execHandResume_keeps ht]
  · simp only [List.mem_cons, List.not_mem_nil, or_false] at hf
    obtain rfl | rfl | rfl := hf
    exacts [execCopyBytesLanded_keeps ht, execCopyCompletion_keeps ht, execDeclaredFill_keeps ht]
  · exact execCopyBytesLanded_keeps ht
  · exact execExchangeBlockLanding_keeps ht
  · obtain ⟨_, _, rfl⟩ := List.mem_map.1 hf
    exact execPhaseEndComplete_keeps ht
  · simp only [List.mem_cons, List.not_mem_nil, or_false] at hf
    obtain rfl | rfl := hf
    exacts [execNodeComplete_keeps ht, execPairCommit_keeps ht]
  · exact execSpawnResult_keeps ht
  · exact execNodeDispatch_keeps ht
  · exact execGraphAdmit_keeps ht
  · exact execSubmissionRecord_keeps ht

theorem State.backgroundStep_yields (hs : s.canonical = true) : Yields (·.canonical = true) s.backgroundStep := by
  cases e : s.backgroundStep with
  | none => trivial
  | some t =>
    obtain ⟨f, hf, h⟩ := List.exists_of_findSome?_eq_some e
    split at h
    next t' ht =>
      split at h
      · cases h
      · cases h
        exact (State.background_keeps hf hs).next ht
    next => cases h

theorem State.rotate_yields (hs : s.canonical = true) : Yields (·.canonical = true) s.rotate := by
  have ho := State.others_canonical hs
  unfold State.rotate
  split
  · trivial
  split
  · trivial
  · rename_i e
    refine State.with_hands hs (ho _ (List.mem_of_getElem? e)) fun g hg => ?_
    simp only [List.mem_append] at hg
    obtain (hg | hg) | hg := hg
    · exact ho g (List.mem_of_mem_drop hg)
    · exact ho g (List.mem_of_mem_take hg)
    · split at hg
      · cases hg
      · exact (List.mem_singleton.1 hg) ▸ State.hand_canonical hs

theorem State.auto_keeps (hs : s.canonical = true) : OutcomeCanonical s.auto := by
  refine regranted_keeps ?_
  extract_lets other
  have hother : OutcomeCanonical other := by
    unfold other
    split
    · rename_i e
      exact (State.backgroundStep_yields hs).some e
    · exact State.getD_canonical (State.rotate_yields hs) hs
  split
  · exact State.moveHand_keeps hs
  split
  · split
    · rename_i e
      split
      · exact hother
      · exact (State.moveHand_keeps hs).next e
    · exact State.moveHand_keeps hs
  · exact hother

theorem State.turn_keeps {t : Turn} (hs : s.canonical = true) : OutcomeCanonical (s.turn t) := by
  unfold State.turn
  refine regranted_keeps ?_
  split
  · exact State.moveHand_keeps (State.focus_canonical hs)
  · split
    · exact exec_keeps hs
    · exact hs
  · exact State.upset_canonical hs

/-! ### Machine/Step -/

theorem step_keeps (hs : s.canonical = true) : OutcomeCanonical (step s) := by
  unfold step
  split
  · exact trivial
  · split
    · exact State.auto_keeps hs
    · exact State.turn_keeps hs
end

/-- Settles O6: canonical memory is kept by every function a step goes through, so by the step. -/
theorem stepKeepsMemoryCanonical : Obligations.StepKeepsMemoryCanonical := by
  unfold Obligations.StepKeepsMemoryCanonical
  exact fun _ _ hs h => (step_keeps hs).next h

end Sys2Proof.Machine
end

section
/-!
## Where an address goes, and what a page of each kind gives (O31)

The statement has seven parts, and each has one theorem here that names it: `leafRules`, `permissions`, `pageWalk`, `translation`,
`pageTranslation`, `shadowPages`, `pageKinds`. Before each stand the equations of the functions it speaks of, one for each case that
the part distinguishes: `State.walk` by what the entry holds, `State.look` by where the address lies, `State.target` by the kind of the
page, `State.readTarget` by the target.
-/
namespace Sys2Proof.Machine

/-! ### What memory holds after a write -/

@[simp] theorem clearTag_live (s : State) (line : Nat) : (s.clearTag line).mem.live = s.mem.live := by
  unfold State.clearTag
  split
  · rfl
  · rw [State.modHand_mem]

@[simp] theorem putLive_live (s : State) (k : Nat) (b : Byte) : (s.putLive k b).mem.live = s.mem.live.put k b := by
  unfold State.putLive
  dsimp only
  split
  · split
    · rw [clearTag_live]
    · rw [State.modCore_mem, clearTag_live]
  · rw [clearTag_live]

@[simp] theorem putPub_live (s : State) (k : Nat) (b : Byte) : (s.putPub k b).mem.live = s.mem.live.put k b := putLive_live s k b

@[simp] theorem putLiveAll_live (s : State) (l : List (Nat × Byte)) : (s.putLiveAll l).mem.live = s.mem.live.putAll l := by
  induction l generalizing s with
  | nil => rfl
  | cons c l ih => exact (ih _).trans (congrArg (Mem.putAll · l) (putLive_live s c.1 c.2))

@[simp] theorem putPubAll_live (s : State) (l : List (Nat × Byte)) : (s.putPubAll l).mem.live = s.mem.live.putAll l := by
  induction l generalizing s with
  | nil => rfl
  | cons c l ih => exact (ih _).trans (congrArg (Mem.putAll · l) (putPub_live s c.1 c.2))

@[simp] theorem Mem.bytes_length (m : Mem) (a n : Nat) : (m.bytes a n).length = n := by simp [Mem.bytes]

/-- A number written little-endian reads back from the bytes where it stands, modulo its width. -/
theorem Mem.leNat_bytes_putAll (m : Mem) (a n v : Nat) (h : m.wf = true) :
    leNat ((m.putAll (atAddr a (leBytes n v))).bytes a n) = v % 256 ^ n := by
  have hb := Mem.bytes_putAll (leBytes n v) a m h
  rw [leBytes_length] at hb
  rw [hb, leNat_leBytes]

/-- A range of bytes apart from those written is as it was. -/
theorem Mem.bytes_putAll_apart (m : Mem) (l : List Byte) (a b n : Nat) (h : m.wf = true) (hab : a + l.length ≤ b ∨ b + n ≤ a) :
    (m.putAll (atAddr a l)).bytes b n = m.bytes b n := by
  refine List.map_congr_left fun j hj => Mem.get_putAll_outside l a j m h ?_
  have := (mem_upFrom b n j).1 hj
  omega

theorem leNat_lt (l : List Byte) : leNat l < 256 ^ l.length := by
  induction l with
  | nil => simp [leNat]
  | cons b l ih =>
    have := b.isLt
    rw [leNat, List.length_cons, Nat.pow_succ]
    omega

theorem leNat_append (l m : List Byte) : leNat (l ++ m) = leNat l + 256 ^ l.length * leNat m := by
  induction l with
  | nil => simp [leNat]
  | cons b l ih =>
    rw [List.cons_append, leNat, ih, leNat, List.length_cons, Nat.pow_succ]
    ring

/-- A published 64-bit number reads back live. -/
theorem live64_putPubAll (s : State) (k : Nat) (v : Reg64) (h : s.mem.live.wf = true) :
    (s.putPubAll (atAddr k (leBytes 8 v.toNat))).live64 k = v := by
  rw [State.live64, putPubAll_live, Mem.leNat_bytes_putAll _ _ _ _ h, Nat.mod_eq_of_lt (show v.toNat < 256 ^ 8 from v.isLt)]
  simp

/-! ### The rules of a leaf (R35, R36) -/

/-- Two or more of the four kinds of R36. -/
theorem one_lt_kinds_iff (p : Prop) [Decidable p] (x y z : Bool) :
    1 < (if p then 1 else 0) + (if x then 1 else 0) + (if y then 1 else 0) + (if z then 1 else 0) ↔
      (p ∧ (x = true ∨ y = true ∨ z = true)) ∨ (x = true ∧ y = true) ∨ (x = true ∧ z = true) ∨ (y = true ∧ z = true) := by
  by_cases hp : p <;> cases x <;> cases y <;> cases z <;> simp [hp]

/-- Each row of State.leafFault's chain is a row of the rules, and a leaf that passes them all breaks none. -/
theorem leafFault_meets_leafRules : leafRules := by
  intro lv e
  unfold leafFault attrFmt attrGeom attrFrame attrBit
  simp only [one_lt_kinds_iff, Bool.and_eq_true, Bool.or_eq_true, decide_eq_true_eq, Bool.not_eq_true']
  generalize e.toNat / 256 % 16 = fmt
  generalize e.toNat / 2 ^ 55 % 8 = geom
  generalize e.toNat / 4096 % 2 ^ 40 = frame
  generalize e.getLsbD 7 = cpx
  generalize e.getLsbD 6 = sh
  generalize e.getLsbD 5 = sc
  generalize e.getLsbD 54 = contig
  generalize e.toNat / 2 ^ 58 = top
  split_ifs
  all_goals refine ⟨?_, fun sub h => ?_⟩
  all_goals grind

/-! ### Permissions (Table 2.11) -/

theorem permFault_hand {ag : Agent} (a : Access) (attr : Reg64) (h : ag.sys = false) : permFault ag a attr =
    if !attr.getLsbD 3 then some 8
    else if a = .fetch then if attr.getLsbD 2 then none else some 10
    else if a.writes && !attr.getLsbD 1 then some 9 else none := if_neg (by rw [h]; nofun)

theorem permFault_system {ag : Agent} (a : Access) (attr : Reg64) (h : ag.sys = true) : permFault ag a attr =
    if !attr.getLsbD 4 then some 11 else if a.writes && !attr.getLsbD 1 then some 9 else none := if_pos h

theorem permFault_meets_permissions : permissions := by
  intro ag a attr
  dsimp only
  have hfetch (h : a.writes = true) : a ≠ .fetch := by rintro rfl; exact absurd h nofun
  refine ⟨fun hs hh => ?_, fun hs hh h => ?_, fun hs hh h => ?_, fun hs hh h hf => ?_, fun hs hh => ?_, fun hs hh => ?_⟩
  · simp only [permFault_hand a attr hs, hh]
    rfl
  · simp only [permFault_hand a attr hs, hh, hfetch h, h]
    cases attr.getLsbD 1 <;> rfl
  · subst h
    simp only [permFault_hand .fetch attr hs, hh]
    rfl
  · simp only [permFault_hand a attr hs, hh, h, hf]
    rfl
  · simp only [permFault_system a attr hs, hh]
    rfl
  · simp only [permFault_system a attr hs, hh]
    rfl

/-- A hand may load what HAND allows, and store where W does too. -/
theorem permFault_hand_none {ag : Agent} {a : Access} {attr : Reg64} (hs : ag.sys = false) (hf : a ≠ .fetch)
    (hhand : attr.getLsbD 3 = true) (hw : a.writes = true → attr.getLsbD 1 = true) : permFault ag a attr = none := by
  obtain ⟨-, hstore, -, hload, -, -⟩ := permFault_meets_permissions ag a attr
  cases h : a.writes with
  | false => exact hload hs hhand h hf
  | true => exact (hstore hs hhand h).trans (if_pos (hw h))

/-! ### The walk (R34, R37) -/

/-- The 16 entries from `a0` on make one page (R37): each is valid and of a CONTIG leaf, has the low bits of the first, and names the
frame after the one before; the first frame is aligned. -/
def State.OnePage (s : State) (a0 : Nat) : Prop :=
  (∀ j, j < 16 → (s.live64 (a0 + 8 * j)).getLsbD 0 = true ∧ (s.live64 (a0 + 8 * j)).getLsbD 54 = true ∧
    (s.live64 (a0 + 8 * j)).toNat % 4096 = (s.live64 a0).toNat % 4096 ∧
    attrFrame (s.live64 (a0 + 8 * j)) = attrFrame (s.live64 a0) + j) ∧ attrFrame (s.live64 a0) % 16 = 0

/-- What State.contigGroup tests is State.OnePage. -/
theorem onePage_iff (s : State) (a0 : Nat) : s.OnePage a0 ↔
    ((List.range 16).all (fun j =>
      let e := s.live64 (a0 + 8 * j)
      attrBit e 0 && attrBit e 54 && e.toNat % 4096 == (s.live64 a0).toNat % 4096 &&
        attrFrame e == attrFrame (s.live64 a0) + j) && attrFrame (s.live64 a0) % 16 == 0) = true := by
  simp only [State.OnePage, attrBit, Bool.and_eq_true, List.all_eq_true, List.mem_range, beq_iff_eq, and_assoc]

theorem contigGroup_of_onePage {s : State} {k : Nat} (h : s.OnePage (k / 128 * 128)) :
    s.contigGroup k = some (k / 128 * 128, s.live64 (k / 128 * 128)) := if_pos ((onePage_iff s _).1 h)

theorem contigGroup_of_not_onePage {s : State} {k : Nat} (h : ¬ s.OnePage (k / 128 * 128)) : s.contigGroup k = none :=
  if_neg (fun ht => h ((onePage_iff s _).2 ht))

/-- HAND or SYS is set: the entry is a leaf (R34). -/
theorem isLeaf_iff (e : Reg64) : (attrBit e 3 || attrBit e 4) = true ↔ e.toNat / 8 % 4 ≠ 0 := by
  have h3 : attrBit e 3 = decide (e.toNat / 8 % 2 = 1) := Nat.testBit_eq_decide_div_mod_eq
  have h4 : attrBit e 4 = decide (e.toNat / 16 % 2 = 1) := Nat.testBit_eq_decide_div_mod_eq
  rw [h3, h4, Bool.or_eq_true, decide_eq_true_eq, decide_eq_true_eq]
  omega

section
/-! One equation of the walk for each entry `e`, at `k`, that a level can meet. -/
variable {s : State} {va lv table k : Nat} {e : Reg64} (rest : List Nat) (hk : tableEntry va lv table = k) (he : s.live64 k = e)
include hk

theorem walk_stack_gone (hup : s.tableUp k = some false) : s.walk va (lv :: rest) table = .error (.fault 0 lv) := by
  simp only [State.walk, hk, hup]

theorem walk_stack_later (hup : s.tableUp k = none) : s.walk va (lv :: rest) table = .error .later := by
  simp only [State.walk, hk, hup]

variable (hup : s.tableUp k = some true) (hok : s.badKey k 8 = none)
include he hup hok

theorem walk_invalid (hv : attrBit e 0 = false) : s.walk va (lv :: rest) table = .error (.fault 0 lv) := by
  simp only [State.walk, hk, he, hup, hok, hv]
  rfl

variable (hv : attrBit e 0 = true)
include hv

section
variable (hleaf : (attrBit e 3 || attrBit e 4) = true)
include hleaf

theorem walk_leaf_high (hlv : 3 ≤ lv) : s.walk va (lv :: rest) table = .error (.fault 5 lv) := by
  simp only [State.walk, hk, he, hup, hok, hv, hleaf, hlv]
  rfl

variable (hlv : ¬ 3 ≤ lv)
include hlv

theorem walk_leaf_refused {sub : Nat} (hbad : leafFault lv e = some sub) : s.walk va (lv :: rest) table = .error (.fault sub lv) := by
  simp only [State.walk, hk, he, hup, hok, hv, hleaf, hlv, hbad]
  rfl

variable (hgood : leafFault lv e = none)
include hgood

theorem walk_leaf (hc : attrBit e 54 = false) : s.walk va (lv :: rest) table = .ok ⟨lv, k, e⟩ := by
  simp only [State.walk, hk, he, hup, hok, hv, hleaf, hlv, hgood, hc]
  rfl

theorem walk_group (hc : attrBit e 54 = true) (hg : s.OnePage (k / 128 * 128)) :
    s.walk va (lv :: rest) table = .ok ⟨lv, k / 128 * 128, s.live64 (k / 128 * 128)⟩ := by
  simp only [State.walk, hk, he, hup, hok, hv, hleaf, hlv, hgood, hc, contigGroup_of_onePage hg]
  rfl

theorem walk_no_group (hc : attrBit e 54 = true) (hg : ¬ s.OnePage (k / 128 * 128)) :
    s.walk va (lv :: rest) table = .error (.fault 6 lv) := by
  simp only [State.walk, hk, he, hup, hok, hv, hleaf, hlv, hgood, hc, contigGroup_of_not_onePage hg]
  rfl
end

section
variable (hptr : (attrBit e 3 || attrBit e 4) = false)
include hptr

theorem walk_pointer_low (hlv : lv = 0) : s.walk va (lv :: rest) table = .error (.fault 4 0) := by
  subst hlv
  simp only [State.walk, hk, he, hup, hok, hv, hptr]
  rfl

variable (hlv : lv ≠ 0)
include hlv

theorem walk_pointer_refused (hbad : e.toNat / 2 ^ 52 ≠ 0 ∨ e.toNat % 4096 ≠ 1) :
    s.walk va (lv :: rest) table = .error (.fault 4 lv) := by
  simp only [State.walk, hk, he, hup, hok, hv, hptr, hlv, hbad]
  rfl

theorem walk_pointer (hhigh : e.toNat / 2 ^ 52 = 0) (hlow : e.toNat % 4096 = 1) :
    s.walk va (lv :: rest) table = s.walk va rest (e.toNat / 4096 * 4096) := by
  simp only [State.walk, hk, he, hup, hok, hv, hptr, hlv, hhigh, hlow]
  rfl
end
end

theorem walk_meets_pageWalk : pageWalk := by
  intro s va lv table rest k e leaf walk group onePage up
  refine ⟨walk_stack_gone rest rfl, walk_stack_later rest rfl, fun hup hok => ⟨walk_invalid rest rfl rfl hup hok, ?_, ?_⟩⟩
  · intro hv hl
    have hleaf := (isLeaf_iff e).2 hl
    refine ⟨walk_leaf_high rest rfl rfl hup hok hv hleaf, fun hlv => ?_⟩
    have hlv := Nat.not_le.2 hlv
    refine ⟨fun sub => walk_leaf_refused rest rfl rfl hup hok hv hleaf hlv, fun hgood => ⟨?_, ?_, ?_⟩⟩
    · exact walk_leaf rest rfl rfl hup hok hv hleaf hlv hgood
    · exact walk_group rest rfl rfl hup hok hv hleaf hlv hgood
    · exact walk_no_group rest rfl rfl hup hok hv hleaf hlv hgood
  · intro hv hl
    have hptr := Bool.eq_false_iff.2 (mt (isLeaf_iff e).1 hl)
    refine ⟨?_, ?_, fun h0 hhigh hlow => ?_⟩
    · exact walk_pointer_low rest rfl rfl hup hok hv hptr
    · exact walk_pointer_refused rest rfl rfl hup hok hv hptr
    · have hframe : e.toNat / 4096 % 2 ^ 40 = e.toNat / 4096 := by omega
      rw [hframe]
      exact walk_pointer rest rfl rfl hup hok hv hptr h0 hhigh hlow

/-! ### A plain page, which a range entry or a leaf names (R33) -/

/-- The mapping is of plain bytes: its page is neither compressed nor a shadow page, and has no block format. -/
def PlainMapping (attr : Reg64) : Prop := attrBit attr 7 = false ∧ attrBit attr 6 = false ∧ attrFmt attr = 0

section
variable {s t : State} {ag : Agent} {a : Access} {va level : Nat} {attr : Reg64} {phys off : Nat} (h : PlainMapping attr)
include h

theorem mapped_plain : s.mapped attr phys off = mappable (phys + off) := by
  obtain ⟨h7, h6, hf⟩ := h
  simp only [State.mapped, h7, h6, hf]
  rfl

variable (hs : ag.side = .single)
include hs

theorem target_plain : s.target ag a va level attr phys off = .ok (s, .plain (phys + off) (attrBit attr 5)) := by
  obtain ⟨h7, h6, hf⟩ := h
  simp only [State.target, h7, h6, hf, hs]
  rfl

theorem targetServed_plain (hup : s.stackUp (phys + off) = some true) :
    s.targetServed ag a va level attr phys off = .ok (s, .plain (phys + off) (attrBit attr 5)) := by
  have hserved : s.served a va level (phys + off) = .ok () := by
    simp only [State.served, hup]
    exact ite_self _
  have htarget := target_plain (s := s) (a := a) (va := va) (level := level) (phys := phys) (off := off) h hs
  obtain ⟨h7, h6, -⟩ := h
  simp only [State.targetServed, h7, h6, Bool.or_self, Bool.false_eq_true, if_false, htarget, Target.key, hserved]
  rfl
end

/-! ### A translation, by where the address lies -/

section
variable {s t : State} {ag : Agent} {a : Access} {va : Nat}

theorem xlate_of_look_error {e : NoAddr} (h : s.look ag a va = .error e) : s.xlate ag a va = .error e := by
  rw [State.xlate, h]
  rfl

theorem xlate_of_look {g : Target} {l : Option Leaf} (h : s.look ag a va = .ok (t, g, l)) :
    s.xlate ag a va = .ok (t.reached l a g, g) := by
  rw [State.xlate, h]
  rfl

/-- Reaching a plain byte through no leaf uses its line alone. -/
theorem reached_plain (s : State) (a : Access) (k : Nat) (sc : Bool) :
    s.reached none a (.plain k sc) = { s with mem := s.mem.useLine (lineOf k) } := by
  have hl : linesOf k 1 = [lineOf k] := by simp [linesOf, upFrom]
  simp only [State.reached, State.marked, State.uses, Target.key, Target.span, hl]
  rfl

theorem look_noncanonical (h : 2 ^ 57 ≤ va) : s.look ag a va = .error (.trap (xfault .translation 1 7 a va)) :=
  if_pos (by omega)

/-- The window of a core's bench (Table 2.1). -/
theorem look_window {c : Nat} (hc : ag.core = some c) (hw : Config.benchWindow ≤ va) (h : va < 2 ^ 57) : s.look ag a va =
    if Config.benchHole ≤ va - Config.benchWindow then .error (.trap (xfault .translation 2 7 a va))
    else if a = .fetch ∨ a.livePath then .error (.trap (xfault .permission 13 7 a va))
    else if a.writes ∧ Config.chainOffset ≤ va - Config.benchWindow then .error (.trap (xfault .permission 13 7 a va))
    else .ok (s, .plain (Config.benchKey c (va - Config.benchWindow)) false, none) := by
  have h57 : ¬ va / 2 ^ 57 ≠ 0 := by omega
  simp only [State.look, if_neg h57, if_pos hw, hc]

theorem canonical_below_window (h : va < Config.benchWindow) : ¬ va / 2 ^ 57 ≠ 0 := by
  have : Config.benchWindow ≤ 2 ^ 57 := by decide
  omega

variable {d : AsidDesc} (hva : va < Config.benchWindow) (hd : mfind s.asids ag.asid.toNat = some d)
include hva hd

section
/-! A range entry holds it. -/
variable {r : Range} (hr : d.ranges.find? (fun r => attrBit r.attr 0 && decide (r.base ≤ va ∧ va < r.limit)) = some r)
  (hm : s.mapped r.attr r.offset (va - r.base) = true)
include hr hm

theorem look_range_denied {sub : Nat} (hp : permFault ag a r.attr = some sub) :
    s.look ag a va = .error (.trap (xfault .permission sub 7 a va)) := by
  simp only [State.look, if_neg (canonical_below_window hva), if_neg (Nat.not_le.2 hva), hd, Option.map_some, Option.getD_some, hr, hm, hp]
  rfl

theorem look_range (hp : permFault ag a r.attr = none) : s.look ag a va =
    (s.targetServed ag a va 7 r.attr r.offset (va - r.base)).map (fun st => (st.1, st.2, none)) := by
  simp only [State.look, if_neg (canonical_below_window hva), if_neg (Nat.not_le.2 hva), hd, Option.map_some, Option.getD_some, hr, hm, hp]
  rfl
end

section
/-! No range entry holds it: it goes by the leaf that State.leafFor gives. -/
variable (hr : d.ranges.find? (fun r => attrBit r.attr 0 && decide (r.base ≤ va ∧ va < r.limit)) = none)
include hr

theorem look_page_fault {sub lv : Nat} (hl : s.leafFor ag.asid va a.writes = (t, .error (.fault sub lv))) :
    s.look ag a va = .error (.trap (xfault .translation sub lv a va)) := by
  simp only [State.look, if_neg (canonical_below_window hva), if_neg (Nat.not_le.2 hva), hd, Option.map_some, Option.getD_some, hr, hl]

variable {l : Leaf} (hl : s.leafFor ag.asid va a.writes = (t, .ok l)) (hplain : PlainMapping l.pte)
  (hm : mappable (attrFrame l.pte * 4096 + va % 2 ^ leafBits l.level l.pte) = true)
include hl hplain hm

theorem look_page_denied {sub : Nat} (hp : permFault ag a l.pte = some sub) :
    s.look ag a va = .error (.trap (xfault .permission sub l.level a va)) := by
  have hm := (mapped_plain (s := t) hplain).trans hm
  obtain ⟨h7, h6, hf⟩ := hplain
  simp only [State.look, if_neg (canonical_below_window hva), if_neg (Nat.not_le.2 hva), hd, Option.map_some, Option.getD_some, hr, hl,
    h7, h6, hf]
  simp [hm, hp]

theorem look_page (hp : permFault ag a l.pte = none) : s.look ag a va =
    (t.targetServed ag a va l.level l.pte (attrFrame l.pte * 4096) (va % 2 ^ leafBits l.level l.pte)).map
      (fun st => (st.1, st.2, some l)) := by
  have hm := (mapped_plain (s := t) hplain).trans hm
  obtain ⟨h7, h6, hf⟩ := hplain
  simp only [State.look, if_neg (canonical_below_window hva), if_neg (Nat.not_le.2 hva), hd, Option.map_some, Option.getD_some, hr, hl,
    h7, h6, hf]
  simp [hm, hp]
end
end

theorem xlate_meets_translation : translation := by
  intro s a va k
  have hchain : Config.chainOffset ≤ Config.benchHole := by decide
  have hhole : Config.benchWindow + Config.benchHole ≤ 2 ^ 57 := by decide
  refine ⟨fun h => ?_, fun h h57 => ?_, fun hw h hden => ?_, fun ⟨hw, h, hk⟩ hf hl => ?_, fun hr hf => ?_,
    fun d r sub hva hd hr hm hp => ?_⟩
  · exact xlate_of_look_error (look_noncanonical h)
  · exact xlate_of_look_error ((look_window rfl (by omega) h57).trans (if_pos (by omega)))
  · refine xlate_of_look_error ((look_window rfl hw (by omega)).trans ((if_neg (by omega)).trans ?_))
    by_cases hfl : a = .fetch ∨ a.livePath = true
    · exact if_pos hfl
    · obtain ⟨hwrites, hbeyond⟩ := (or_assoc.2 hden).resolve_left hfl
      exact (if_neg hfl).trans (if_pos ⟨hwrites, by omega⟩)
  · rw [← reached_plain s a k false, hk]
    have hfl : ¬ (a = .fetch ∨ a.livePath = true) := not_or.2 ⟨hf, ne_true_of_eq_false hl⟩
    exact xlate_of_look ((look_window rfl hw (by omega)).trans
      ((if_neg (by omega)).trans ((if_neg hfl).trans (if_neg (fun hc => Nat.not_le.2 h hc.2)))))
  · obtain ⟨hva, hside, hmap, hup, d, r, hd, hfind, rfl, hhand, hw, hfmt, h5, h6, h7⟩ := hr
    have hplain : PlainMapping r.attr := ⟨h7, h6, hfmt⟩
    rw [← reached_plain s a _ false]
    refine xlate_of_look ((look_range hva hd hfind ((mapped_plain hplain).trans hmap) (permFault_hand_none rfl hf hhand hw)).trans ?_)
    rw [targetServed_plain hplain hside hup, h5]
    rfl
  · exact xlate_of_look_error (look_range_denied hva hd hr hm hp)

/-! ### A translation by the tables (R34, R38) -/

/-- A walk changes only which tagged lines were used last. -/
theorem walked_uses_lines (s : State) (asid : BitVec 16) (va : Nat) : ∃ lines : List Nat,
    s.walked asid va = { s with mem := lines.foldl MemState.useLine s.mem } := by
  have huses (l : List Nat) (s : State) : ∃ lines : List Nat,
      l.foldl (fun s a => s.uses a 8) s = { s with mem := lines.foldl MemState.useLine s.mem } := by
    induction l generalizing s with
    | nil => exact ⟨[], rfl⟩
    | cons a l ih =>
      obtain ⟨lines, h⟩ := ih (s.uses a 8)
      exact ⟨linesOf a 8 ++ lines, h.trans (by rw [List.foldl_append]; rfl)⟩
  unfold State.walked
  split
  · exact ⟨[], rfl⟩
  · exact huses _ s

theorem walked_keepLeaf_stackUp (s : State) (asid : BitVec 16) (va page k : Nat) (l : Leaf) :
    ((s.walked asid va).keepLeaf asid page l).stackUp k = s.stackUp k := by
  obtain ⟨lines, h⟩ := walked_uses_lines s asid va
  rw [h]
  rfl

section
variable {s : State} {asid : BitVec 16} {d : AsidDesc} (hd : mfind s.asids asid.toNat = some d) (hc : s.cached = []) {va : Nat}
  (write : Bool)
include hd hc

theorem leafFor_uncached_error {e : NoLeaf} (h : s.walk va [4, 3, 2, 1, 0] d.root = .error e) :
    s.leafFor asid va write = (s.walked asid va, .error e) := by
  simp only [State.leafFor, hd, hc, h, List.find?_nil, Option.filter_none]

theorem leafFor_uncached {l : Leaf} (h : s.walk va [4, 3, 2, 1, 0] d.root = .ok l) :
    s.leafFor asid va write = ((s.walked asid va).keepLeaf asid (va / 4096) l, .ok l) := by
  simp only [State.leafFor, hd, hc, h, List.find?_nil, Option.filter_none]
end

/-- The page size of a leaf. -/
theorem two_pow_leafBits (level : Nat) (pte : Reg64) : 2 ^ leafBits level pte =
    if level = 2 then 2 ^ 30 else if level = 1 then 2 ^ 21 else if pte.getLsbD 54 then 2 ^ 16 else 2 ^ 12 := by
  unfold leafBits
  split
  · rfl
  · rfl
  · next h2 h1 =>
    rw [if_neg h2, if_neg h1]
    exact apply_ite (2 ^ ·) _ 16 12

/-- The bits that marking sets: A, and D for a write. -/
theorem getLsbD_leafMarks (write : Bool) (n : Nat) (hn : n < 64) :
    (leafMarks write).getLsbD n = (decide (n = 52) || (decide (n = 53) && write)) := by
  cases write <;> revert n <;> decide

/-- All that marking a leaf does to memory: nothing, or the entry's eight bytes with A, and D for a write, set. -/
theorem markLeaf_cases (s : State) (l : Leaf) (write : Bool) :
    let new := s.live64 l.at' ||| leafMarks write
    ((new = s.live64 l.at' ∨ bareLeaf (s.live64 l.at') ≠ bareLeaf l.pte) ∧ (s.markLeaf l write).mem = s.mem) ∨
    (bareLeaf (s.live64 l.at') = bareLeaf l.pte ∧
      ∃ u : State, u.mem = s.mem ∧ s.markLeaf l write = u.putPubAll (atAddr l.at' (leBytes 8 new.toNat))) := by
  intro new
  by_cases h : new = s.live64 l.at' ∨ bareLeaf (s.live64 l.at') ≠ bareLeaf l.pte
  · refine .inl ⟨h, ?_⟩
    unfold State.markLeaf
    rw [if_pos h]
  · refine .inr ⟨not_not.1 (not_or.1 h).2, _, ?_, if_neg h⟩
    rfl

section
variable {s : State} {l : Leaf} (write : Bool)

theorem markLeaf_changed (h : bareLeaf (s.live64 l.at') ≠ bareLeaf l.pte) : (s.markLeaf l write).mem = s.mem := by
  rcases markLeaf_cases s l write with ⟨-, hm⟩ | ⟨he, -⟩
  · exact hm
  · exact absurd he h

variable (hw : s.mem.live.wf = true)
include hw

theorem markLeaf_marks (h : bareLeaf (s.live64 l.at') = bareLeaf l.pte) :
    (s.markLeaf l write).live64 l.at' = s.live64 l.at' ||| leafMarks write := by
  rcases markLeaf_cases s l write with ⟨hnew | hne, hm⟩ | ⟨-, u, hu, hm⟩
  · rw [State.live64, hm]
    exact hnew.symm
  · exact absurd h hne
  · rw [hm, live64_putPubAll u _ _ (hu ▸ hw)]

theorem markLeaf_outside {j : Nat} (hj : j < l.at' ∨ l.at' + 8 ≤ j) : (s.markLeaf l write).mem.live.get j = s.mem.live.get j := by
  rcases markLeaf_cases s l write with ⟨-, hm⟩ | ⟨-, u, hu, hm⟩
  · rw [hm]
  · rw [hm, putPubAll_live, hu]
    exact Mem.get_putAll_outside _ _ _ _ hw (by rwa [leBytes_length])
end

theorem xlate_meets_pageTranslation : pageTranslation := by
  refine ⟨fun s a va d hva hd hr hc => ⟨fun sub lv hwalk => ?_, ?_⟩, walked_uses_lines, ?_⟩
  · exact xlate_of_look_error (look_page_fault hva hd hr (leafFor_uncached_error hd hc a.writes hwalk))
  · intro l hwalk size k hf h6 h7 hside hm
    have hl := leafFor_uncached hd hc a.writes hwalk
    have hplain : PlainMapping l.pte := ⟨h7, h6, hf⟩
    have hk : attrFrame l.pte * 4096 + va % 2 ^ leafBits l.level l.pte = k := by rw [two_pow_leafBits]
    rw [← hk] at hm ⊢
    refine ⟨fun sub hp => xlate_of_look_error (look_page_denied hva hd hr hl hplain hm hp), fun hp hup => ?_⟩
    refine xlate_of_look ((look_page hva hd hr hl hplain hm hp).trans ?_)
    rw [targetServed_plain hplain hside ((walked_keepLeaf_stackUp ..).trans hup)]
    rfl
  · intro s l write hw t
    refine ⟨fun h n hn => ?_, markLeaf_changed write, fun j => markLeaf_outside write hw⟩
    rw [markLeaf_marks write hw h, BitVec.getLsbD_or, getLsbD_leafMarks write n hn, Bool.or_assoc]

/-! ### Shadow pages (R47, R48) -/

theorem shadowFirst_live (s : State) (k : Nat) (asid : BitVec 16) (side : Side) :
    let r := s.shadowRec k
    (s.shadowFirst k asid side).mem.live =
      (s.mem.live.copyFrame (shadowFrame r (if side = .b then 2 else 1) * 4096) (shadowFrame r 0 * 4096)).putAll
        (atAddr k (leBytes 16 (r + 2 ^ (if side = .b then 121 else 120)))) := by
  simp only [State.shadowFirst, putPubAll_live, putLiveAll_live, decide_eq_true_eq]
  rfl

theorem shadowRec_lt (s : State) (k : Nat) : s.shadowRec k < 2 ^ 128 := by
  have h := leNat_lt (s.mem.live.bytes k 16)
  rw [Mem.bytes_length] at h
  exact h

/-- Setting a clear dirty bit of a record leaves a record of 16 bytes. -/
theorem shadowRec_add_lt (s : State) (k : Nat) {bit : Nat} (hb : bit = 120 ∨ bit = 121) (h : (s.shadowRec k).testBit bit = false) :
    s.shadowRec k + 2 ^ bit < 2 ^ 128 := by
  have hlt := shadowRec_lt s k
  rw [Nat.testBit_eq_decide_div_mod_eq, decide_eq_false_iff_not] at h
  rcases hb with rfl | rfl <;> omega

section
variable {s : State} {k : Nat} (asid : BitVec 16) (side : Side) (hw : s.mem.live.wf = true)
include hw

/-- A side's first write copies LIVE whole, where the record does not stand in the side's own frame. -/
theorem shadowFirst_copies (h : k + 16 ≤ shadowFrame (s.shadowRec k) (if side = .b then 2 else 1) * 4096 ∨
      shadowFrame (s.shadowRec k) (if side = .b then 2 else 1) * 4096 + 4096 ≤ k) :
    (s.shadowFirst k asid side).mem.live.bytes (shadowFrame (s.shadowRec k) (if side = .b then 2 else 1) * 4096) 4096 =
      s.mem.live.bytes (shadowFrame (s.shadowRec k) 0 * 4096) 4096 := by
  rw [shadowFirst_live, Mem.bytes_putAll_apart _ _ _ _ _ (Mem.copyFrame_wf hw) (by rwa [leBytes_length])]
  have hb := Mem.bytes_putAll (s.mem.live.bytes (shadowFrame (s.shadowRec k) 0 * 4096) 4096)
    (shadowFrame (s.shadowRec k) (if side = .b then 2 else 1) * 4096) _ hw
  rwa [Mem.bytes_length] at hb

/-- It sets the side's dirty bit in the record. -/
theorem shadowFirst_marks (h : (s.shadowRec k).testBit (if side = .b then 121 else 120) = false) :
    (s.shadowFirst k asid side).shadowRec k = s.shadowRec k + 2 ^ (if side = .b then 121 else 120) := by
  have hlt := shadowRec_add_lt s k (by split <;> simp) h
  rw [State.shadowRec, shadowFirst_live, Mem.leNat_bytes_putAll _ _ _ _ (Mem.copyFrame_wf hw)]
  exact Nat.mod_eq_of_lt hlt
end

section
variable {s : State} {ag : Agent} {a : Access} {va level phys off : Nat} {attr : Reg64}
  (h7 : attrBit attr 7 = false) (h6 : attrBit attr 6 = true) (hf : attrFmt attr = 0)
  (hlive : mappable (shadowFrame (s.shadowRec phys) 0 * 4096 + off % 4096) = true)
include h7 h6 hf hlive

theorem target_shadow_single (hs : ag.side = .single) : s.target ag a va level attr phys off =
    if a.writes then .error (xfault .permission 12 level a va)
    else .ok (s, .plain (shadowFrame (s.shadowRec phys) 0 * 4096 + off % 4096) false) := by
  simp only [State.target, h7, h6, hf, hs, hlive]
  rfl

theorem target_shadow_side (hs : ag.side ≠ .single) (hl : a.livePath = false)
    (hown : mappable (shadowFrame (s.shadowRec phys) (if ag.side = .b then 2 else 1) * 4096 + off % 4096) = true) :
    s.target ag a va level attr phys off =
      if (s.shadowRec phys).testBit (if ag.side = .b then 121 else 120) then
        .ok (s, .plain (shadowFrame (s.shadowRec phys) (if ag.side = .b then 2 else 1) * 4096 + off % 4096) false)
      else if a.writes then
        .ok (s.shadowFirst phys ag.asid ag.side,
          .plain (shadowFrame (s.shadowRec phys) (if ag.side = .b then 2 else 1) * 4096 + off % 4096) false)
      else .ok (s, .plain (shadowFrame (s.shadowRec phys) 0 * 4096 + off % 4096) false) := by
  have hdirty (bit : Nat) : (s.shadowRec phys / 2 ^ bit % 2 == 1) = (s.shadowRec phys).testBit bit :=
    (Nat.testBit_eq_decide_div_mod_eq ..).symm
  simp only [State.target, h7, h6, hf, hl, hlive, hdirty, hown, decide_eq_true_eq]
  cases (s.shadowRec phys).testBit (if ag.side = .b then 121 else 120) <;> cases a.writes <;> rfl
end

theorem target_meets_shadowPages : shadowPages := by
  intro s ag a va level phys off attr h7 h6 hf r frame own bit goes hlive hown
  refine ⟨target_shadow_single h7 h6 hf hlive, fun hs hl => ?_⟩
  have hgoes := target_shadow_side (va := va) (level := level) h7 h6 hf hlive hs hl hown
  refine ⟨fun hd => hgoes.trans (if_pos hd), fun hd hw => hgoes.trans ?_, fun hd hw hwf hapart =>
    ⟨_, hgoes.trans ((if_neg (ne_true_of_eq_false hd)).trans (if_pos hw)), ?_, ?_⟩⟩
  · exact (if_neg (ne_true_of_eq_false hd)).trans (if_neg (ne_true_of_eq_false hw))
  · exact shadowFirst_copies ag.asid ag.side hwf hapart
  · exact shadowFirst_marks ag.asid ag.side hwf hd

/-! ### Rebuilt stripes (R64) -/

theorem core_modCore (s : State) (c : Nat) (f : Core → Core) (j : Nat) (h : rising s.cores = true) :
    (s.modCore c f).core j = if j = c then f (s.core c) else s.core j := mget_mput Core.atReset s.cores c j (f (s.core c)) h

/-- Rebuilding the stripes that a read meets counts them in a core, or does nothing. -/
theorem rebuilds_cases (s : State) (key w : Nat) :
    s.rebuilds key w = s ∨ ∃ c n, s.rebuilds key w = s.modCore c (fun k => { k with rebuilds := k.rebuilds + n }) := by
  unfold State.rebuilds
  split
  · exact .inl rfl
  · dsimp only
    split
    · exact .inr ⟨_, _, rfl⟩
    · exact .inl rfl

/-- What a hand may find at a byte does not depend on how many stripes have been rebuilt. -/
theorem byteView_rebuilds {s : State} (key w : Nat) (h : Hand) (cls j : Nat) (hc : rising s.cores = true) :
    (s.rebuilds key w).byteView h cls j = s.byteView h cls j := by
  rcases rebuilds_cases s key w with hr | ⟨c, n, hr⟩
  · rw [hr]
  · have hcore : ((s.rebuilds key w).core h.core).delivered = (s.core h.core).delivered := by
      rw [hr, core_modCore s c _ _ hc]
      split
      · next he => rw [he]
      · rfl
    have hdel : (s.rebuilds key w).deliveredAt h j = s.deliveredAt h j := by
      rw [State.deliveredAt, State.deliveredAt, hcore]
    simp only [State.byteView, hdel]
    rw [hr]
    rfl

/-! ### Settled bytes: a load finds one value, and makes no choice (R77) -/

theorem pickByte_settled (whole : Nat → Bool) (acc : State × List Byte) {b : ByteView} (hm : b.maybe = []) (ha : b.alt = none) :
    pickByte State.chooseRead whole none acc b = (acc.1, acc.2 ++ [b.value none]) := by
  simp [pickByte, hm, ha, State.chooseRead]

theorem pickBytes_settled (s : State) (key w : Nat) {views : List ByteView} (h : ∀ b ∈ views, b.maybe = [] ∧ b.alt = none) :
    pickBytes State.chooseRead s key w views = (s, views.map (ByteView.value · none)) := by
  have hbytes (whole : Nat → Bool) (l : List Byte) : views.foldl (pickByte State.chooseRead whole none) (s, l) =
      (s, l ++ views.map (ByteView.value · none)) := by
    induction views generalizing l with
    | nil => simp
    | cons b views ih =>
      obtain ⟨⟨hm, ha⟩, hviews⟩ := List.forall_mem_cons.1 h
      rw [List.foldl_cons, pickByte_settled _ _ hm ha, ih hviews]
      simp
  have hwhole : (views.map (fun b => (b.maybe.filter (fun x => x.ekey == key && x.width == w)).map (·.seq))).flatten = [] := by
    rw [List.flatten_eq_nil_iff]
    intro l hl
    obtain ⟨b, hb, rfl⟩ := List.mem_map.1 hl
    rw [(h b hb).1]
    rfl
  rw [pickBytes, hwhole]
  exact hbytes _ []

theorem viewBytes_settled {s : State} {h : Hand} {cls key w : Nat}
    (hv : ∀ j ∈ upFrom key w, (s.byteView h cls j).maybe = [] ∧ (s.byteView h cls j).alt = none) :
    s.viewBytes h cls key w = (s.readDone, (upFrom key w).map (fun j => (s.byteView h cls j).value none)) := by
  rw [State.viewBytes, State.pickRead, pickBytes_settled s key w (List.forall_mem_map.2 hv), List.map_map]
  rfl

/-! ### Reading a target (R117, R41, R208) -/

theorem readable_of_decodes {s : State} {k w : Nat} (access : Nat) (h : s.decodes k w) : s.readable k w access = .ok () := by
  simp only [State.readable, h]

theorem sound_of_soundIn {s : State} {struct : Nat} (addr : Nat) (h : s.soundIn struct) : s.sound struct addr = .ok () := by
  simp only [State.sound, State.badOf, h]
  rfl

theorem soundBytes_of_soundAt {s : State} {k w : Nat} (h : s.soundAt k w) : s.soundBytes k w = .ok () := by
  obtain ⟨hheel, hssb⟩ := h
  have hb : s.soundBuffer k w = .ok () := by
    unfold State.soundBuffer
    split
    · next hany => exact sound_of_soundIn _ (hssb hany)
    · rfl
  simp only [State.soundBytes, hb, sound_of_soundIn _ hheel]
  rfl

/-- An SC page is read live. -/
theorem readTarget_sc {s : State} (cls : Nat) (va : Reg64) {k w : Nat} (hd : s.decodes k w) (hk : isChain k = false) :
    s.readTarget .load cls (.plain k true) va w = .ok (s.rebuilds k w, leNat (s.mem.live.bytes k w)) := by
  rw [State.readTarget, readable_of_decodes _ hd, hk]
  rfl

section
variable {s : State} {cls b bw n : Nat} (hc : rising s.cores = true)
  (hv : ∀ j ∈ upFrom b (blockBytes bw n), (s.byteView s.hand cls j).maybe = [] ∧ (s.byteView s.hand cls j).alt = none)
include hc hv

/-- A settled block as a load of its view finds it. -/
theorem viewBytes_block : (s.rebuilds b (blockBytes bw n)).viewBytes s.hand cls b (blockBytes bw n) =
    ((s.rebuilds b (blockBytes bw n)).readDone, (upFrom b (blockBytes bw n)).map (fun j => (s.byteView s.hand cls j).value none)) := by
  simp only [← byteView_rebuilds b (blockBytes bw n) s.hand cls _ hc] at hv ⊢
  exact viewBytes_settled hv

variable (hd : s.decodes b (blockBytes bw n)) (hs : s.soundAt b (blockBytes bw n)) (off : Nat) (va : Reg64) (w : Nat)
include hd hs

theorem readTarget_view {blk : Block}
    (hb : readBlock bw n ((upFrom b (blockBytes bw n)).map (fun j => (s.byteView s.hand cls j).value none)) = some blk) :
    s.readTarget .load cls (.view b bw n off) va w = .ok ((s.rebuilds b (blockBytes bw n)).readDone,
      leNat ((((upFrom (off / 4) 2).map (fun j => leBytes 4 (blk.value bw j))).flatten.drop (off % 4)).take w)) := by
  simp only [State.readTarget, readable_of_decodes _ hd, soundBytes_of_soundAt hs, bind, Except.bind, viewBytes_block hc hv, hb]
  rfl

theorem readTarget_view_bad
    (hb : readBlock bw n ((upFrom b (blockBytes bw n)).map (fun j => (s.byteView s.hand cls j).value none)) = none) :
    s.readTarget .load cls (.view b bw n off) va w = .error (.trap { Trap.mk' .blockCheck (BitVec.ofNat 64 b) with access := 0 }
      (s.rebuilds b (blockBytes bw n)).readDone) := by
  simp only [State.readTarget, readable_of_decodes _ hd, soundBytes_of_soundAt hs, bind, Except.bind, viewBytes_block hc hv, hb]
  rfl
end

/-- The F32 encodings that an aligned load of a view takes: of element `e`, and of it and the next. -/
theorem leNat_take_view (v : Nat → Nat) (e : Nat) :
    let l := ((upFrom (4 * e / 4) 2).map (fun j => leBytes 4 (v j))).flatten.drop (4 * e % 4)
    leNat (l.take 4) = v e % 2 ^ 32 ∧ leNat (l.take 8) = v e % 2 ^ 32 + 2 ^ 32 * (v (e + 1) % 2 ^ 32) := by
  have hl : ((upFrom (4 * e / 4) 2).map (fun j => leBytes 4 (v j))).flatten.drop (4 * e % 4) =
      leBytes 4 (v e) ++ leBytes 4 (v (e + 1)) := by
    rw [Nat.mul_div_cancel_left e (by decide), Nat.mul_mod_right]
    simp [upFrom]
  dsimp only
  rw [hl, List.take_left' (leBytes_length 4 _), List.take_of_length_le (by simp), leNat_append, leNat_leBytes, leNat_leBytes,
    leBytes_length]
  exact ⟨rfl, rfl⟩

/-! ### Compressed pages and views (R43, R45) -/

section
variable {s : State} {ag : Agent} {a : Access} {va level phys off : Nat} {attr : Reg64}

theorem target_packed (h7 : attrBit attr 7 = true) : s.target ag a va level attr phys off =
    if a = .fetch then .error (xfault .fetchFault 15 level a va)
    else if a = .copyRead then .ok (s, .packed phys (off % 4096))
    else if a = .copyWrite then .error (xfault .permission 0 level a va)
    else .error (xfault .compressedAccess 0 level a va) := if_pos h7

variable (h7 : attrBit attr 7 = false) (hf : attrFmt attr ≠ 0)
include h7 hf

theorem target_view_fetch (h : a = .fetch) : s.target ag a va level attr phys off = .error (xfault .fetchFault 14 level a va) :=
  (if_neg (ne_true_of_eq_false h7)).trans ((if_pos hf).trans (if_pos h))

theorem target_view_livePath (hl : a.livePath = true) :
    s.target ag a va level attr phys off = .error (xfault .formatPath 0 level a va) := by
  have hfetch : a ≠ .fetch := by rintro rfl; exact absurd hl nofun
  exact (if_neg (ne_true_of_eq_false h7)).trans ((if_pos hf).trans ((if_neg hfetch).trans (if_pos hl)))
end

theorem pages_meet_pageKinds : pageKinds := by
  intro s cls va
  refine ⟨fun k w => readTarget_sc cls va, ?_, ?_⟩
  · rintro b bw n e l hd hs hc s1 hv rfl
    refine ⟨fun blk hb => ⟨?_, ?_⟩, readTarget_view_bad hc hv hd hs _ va 4⟩
    · rw [readTarget_view hc hv hd hs _ va 4 hb, (leNat_take_view (blk.value bw) e).1]
    · rw [readTarget_view hc hv hd hs _ va 8 hb, (leNat_take_view (blk.value bw) e).2]
  · intro ag a va level phys off attr goes
    refine ⟨fun h7 => ?_, fun h7 hf => ⟨target_view_fetch h7 hf, target_view_livePath h7 hf⟩⟩
    have hgoes : goes = _ := target_packed h7
    refine ⟨fun h => hgoes.trans (if_pos h), ?_, fun hf hr hw => ?_⟩
    · rintro rfl
      exact hgoes
    · rw [hgoes, if_neg hf, if_neg hr, if_neg hw]

/-- Settles O31: its seven parts, each by the theorem above that names it. -/
theorem translationAndPages : Obligations.TranslationAndPages := by
  unfold Obligations.TranslationAndPages
  exact ⟨xlate_meets_translation, walk_meets_pageWalk, leafFault_meets_leafRules, permFault_meets_permissions,
    xlate_meets_pageTranslation, target_meets_shadowPages, pages_meet_pageKinds⟩

end Sys2Proof.Machine
end

section
/-!
## The tile instructions (O38)

Each instruction has one equation, its body once the guard lets it execute and the tile table decodes; by the tile's state it then
has one theorem for each thing that it does.
-/
namespace Sys2Proof.Machine

/-! ### The commit point, and a wait that is a point -/

/-- A commit point that finds its buffer sound goes on from the committed state. -/
theorem bind_commits {s : State} (h : s.drains) (k : State → Run State) : (s.commits >>= k) = k s.commit := by
  simp only [State.commits, h]
  rfl

/-- A commit point leaves the hand on its core. -/
@[simp] theorem commit_hand_core (s : State) : s.commit.hand.core = s.hand.core := by
  obtain ⟨o, st, h⟩ := commit_sameButStrip s
  rw [h]

/-- With no request standing, a point of Table 7.10 is passed. -/
theorem atPoint_unasked {s : State} (w : Wait) (h : s.hand.unasked) : s.atPoint w = .ok () := by
  obtain ⟨hgang, hpre, hstop⟩ := h
  simp [State.atPoint, hgang, hpre, hstop]

/-- A body that starts with the check of a structure that decodes. -/
theorem bind_sound {s : State} {struct : Nat} (addr : Nat) (h : s.soundIn struct) (k : Run State) :
    (do s.sound struct addr; k) = k := by
  rw [sound_of_soundIn addr h]
  rfl

/-- A guarded instruction that its guard lets execute ends as its body does. -/
theorem finish_of_goes {o : Host.Outcome State Fault Refusal} {s : State} {g : BitVec 3} {body : State → Run State} {r : Run State}
    (ho : o = guarded s g body) (hg : s.goes g) (hb : body s = r) : o = finish r := by
  rw [ho, guarded_goes s g body hg, hb]

/-! ### tdef -/

section
variable {f : TdefF} {s : State} (hr : s.ready f.g [f.a]) (hs : s.soundIn 7)
include hr hs

theorem exec_tdef : exec (.tdef f) s = finish
    (if (s.tile s.hand.core (f.d.toNat + 32 * f.j.toNat)).state ≠ 0 then s.tileTrap (f.d.toNat + 32 * f.j.toNat)
    else if !tileDefOk (s.hand.getX f.a) then s.trap (Trap.mk' .reservedField (s.hand.getX f.a))
    else do
      let c ← s.commits
      pure ((c.modTile c.hand.core (f.d.toNat + 32 * f.j.toNat) (fun t => tileOfWord (s.hand.getX f.a) t.gen)).retire 4)) := by
  obtain ⟨hg, hfull⟩ := hr
  refine finish_of_goes (o := execTdef f s) rfl hg ?_
  rw [src_full s 0 f.a f.ta (hfull f.a List.mem_cons_self)]
  exact bind_sound 0 hs _

theorem tdef_defines (he : (s.tile s.hand.core (f.d.toNat + 32 * f.j.toNat)).state = 0) (hok : tileDefOk (s.hand.getX f.a) = true)
    (hd : s.drains) : exec (.tdef f) s = .next ((s.commit.modTile s.hand.core (f.d.toNat + 32 * f.j.toNat)
      (fun t => tileOfWord (s.hand.getX f.a) t.gen)).retire 4) := by
  rw [exec_tdef hr hs, if_neg (not_not.2 he), hok, bind_commits hd, ← commit_hand_core s]
  rfl

theorem tdef_of_not_empty (he : (s.tile s.hand.core (f.d.toNat + 32 * f.j.toNat)).state ≠ 0) :
    s.traps (.tdef f) (Trap.mk' .tileState (BitVec.ofNat 64 (f.d.toNat + 32 * f.j.toNat))) := by
  rw [State.traps, exec_tdef hr hs, if_pos he]
  rfl

theorem tdef_of_bad_definition (he : (s.tile s.hand.core (f.d.toNat + 32 * f.j.toNat)).state = 0)
    (hok : tileDefOk (s.hand.getX f.a) = false) : s.traps (.tdef f) (Trap.mk' .reservedField (s.hand.getX f.a)) := by
  rw [State.traps, exec_tdef hr hs, if_neg (not_not.2 he), hok]
  rfl
end

/-! ### tfree, tready and twait -/

section
variable {f : TileF} {s : State} (hg : s.goes f.g) (hs : s.soundIn 7)
include hg hs

theorem exec_tfree : exec (.tfree f) s = finish
    (if (s.tile s.hand.core (tileNum f)).state = 1 ∨ (s.tile s.hand.core (tileNum f)).state = 3 then s.tileTrap (tileNum f)
    else do
      let c ← s.commits
      if (s.tile s.hand.core (tileNum f)).state = 0 then pure (c.retire 4)
      else if c.engineReads s.hand.core (tileNum f) then c.wait .order
      else pure ((c.modTile s.hand.core (tileNum f) (fun t => { t with state := 0 })).retire 4)) :=
  finish_of_goes (o := execTfree f s) rfl hg (bind_sound 0 hs _)

theorem exec_tready : exec (.tready f) s = finish
    (if (s.tile s.hand.core (tileNum f)).state = 1 ∨ (s.tile s.hand.core (tileNum f)).state = 3 then s.tileTrap (tileNum f)
    else do
      let c ← s.commits
      let t := s.tile s.hand.core (tileNum f)
      if t.state = 2 then pure (c.retire 4)
      else if c.hand.strip.ssb.any (fun b => decide (t.key s.hand.core 0 ≤ b.key ∧ b.key < t.key s.hand.core 0 + t.size)) then
        (c.heelStall (fieldOfCore s.hand.core)).wait .heel
      else if !c.hand.classQuiet 1 then c.wait .order
      else pure ((c.modTile s.hand.core (tileNum f) (fun t => { t with
        state := 2, gen := (t.gen + 1) % 8, fill := 0, landed := [], since := c.mem.perfCtr })).retire 4)) :=
  finish_of_goes (o := execTready f s) rfl hg (bind_sound 0 hs _)

theorem exec_twait (hu : s.hand.unasked) : exec (.twait f) s = finish
    (if (s.tile s.hand.core (tileNum f)).state = 1 ∨ (s.tile s.hand.core (tileNum f)).state = 3 then s.dropGrant.wait .twait
    else pure ((s.sawTile (tileNum f)).clearAtPoint.retire 4)) := by
  refine finish_of_goes (o := execTwait f s) rfl hg ?_
  rw [atPoint_unasked .twait hu]
  exact bind_sound 0 hs _

theorem tfree_of_moving (h : (s.tile s.hand.core (tileNum f)).state = 1 ∨ (s.tile s.hand.core (tileNum f)).state = 3) :
    s.traps (.tfree f) (Trap.mk' .tileState (BitVec.ofNat 64 (tileNum f))) := by
  rw [State.traps, exec_tfree hg hs, if_pos h]
  rfl

theorem tready_of_moving (h : (s.tile s.hand.core (tileNum f)).state = 1 ∨ (s.tile s.hand.core (tileNum f)).state = 3) :
    s.traps (.tready f) (Trap.mk' .tileState (BitVec.ofNat 64 (tileNum f))) := by
  rw [State.traps, exec_tready hg hs, if_pos h]
  rfl

theorem twait_of_moving (hu : s.hand.unasked)
    (h : (s.tile s.hand.core (tileNum f)).state = 1 ∨ (s.tile s.hand.core (tileNum f)).state = 3) :
    exec (.twait f) s = .next (s.dropGrant.waits .twait) := by
  rw [exec_twait hg hs hu, if_pos h]
  rfl

theorem twait_of_still (hu : s.hand.unasked)
    (h : (s.tile s.hand.core (tileNum f)).state = 0 ∨ (s.tile s.hand.core (tileNum f)).state = 2) :
    exec (.twait f) s = .next ((s.sawTile (tileNum f)).clearAtPoint.retire 4) := by
  rw [exec_twait hg hs hu, if_neg (by omega)]
  rfl

variable (hd : s.drains)
include hd

theorem tfree_of_empty (h : (s.tile s.hand.core (tileNum f)).state = 0) : exec (.tfree f) s = .next (s.commit.retire 4) := by
  rw [exec_tfree hg hs, if_neg (by omega), bind_commits hd, if_pos h]
  rfl

theorem tfree_of_read (h : (s.tile s.hand.core (tileNum f)).state = 2)
    (hr : s.commit.engineReads s.hand.core (tileNum f) = true) : exec (.tfree f) s = .next (s.commit.waits .order) := by
  rw [exec_tfree hg hs, if_neg (by omega), bind_commits hd, if_neg (by omega)]
  exact congrArg finish (if_pos hr)

theorem tfree_of_unread (h : (s.tile s.hand.core (tileNum f)).state = 2)
    (hr : s.commit.engineReads s.hand.core (tileNum f) = false) : exec (.tfree f) s =
      .next ((s.commit.modTile s.hand.core (tileNum f) (fun t => { t with state := 0 })).retire 4) := by
  rw [exec_tfree hg hs, if_neg (by omega), bind_commits hd, if_neg (by omega)]
  exact congrArg finish (if_neg (ne_true_of_eq_false hr))

theorem tready_of_ready (h : (s.tile s.hand.core (tileNum f)).state = 2) : exec (.tready f) s = .next (s.commit.retire 4) := by
  rw [exec_tready hg hs, if_neg (by omega), bind_commits hd]
  exact congrArg finish (if_pos h)

/-- Once the hand's stores to the bench have landed, tready opens a new fill of an EMPTY tile, which is READY at once. -/
theorem tready_of_empty (h : (s.tile s.hand.core (tileNum f)).state = 0) (hssb : s.commit.hand.strip.ssb = [])
    (hq : s.commit.hand.classQuiet 1 = true) : exec (.tready f) s =
      .next ((s.commit.modTile s.hand.core (tileNum f) (fun t => { t with
        state := 2, gen := (t.gen + 1) % 8, fill := 0, landed := [], since := s.commit.mem.perfCtr })).retire 4) := by
  rw [exec_tready hg hs, if_neg (by omega), bind_commits hd, if_neg (by omega), hssb, hq]
  rfl
end

/-! ### tstat -/

theorem exec_tstat {f : TstatF} {s : State} (hr : s.ready f.g [f.d]) (hs : s.soundIn 7) : exec (.tstat f) s =
    .next (((s.sawReady (f.a.toNat + 32 * f.j.toNat)).setX f.d
      (s.tile s.hand.core (f.a.toNat + 32 * f.j.toNat)).word).retire 4) := by
  obtain ⟨hg, hfull⟩ := hr
  refine (finish_of_goes (o := execTstat f s) rfl hg ?_).trans (finish_ok _)
  rw [dest_full s f.d (hfull f.d List.mem_cons_self)]
  exact bind_sound 0 hs _

/-- Settles O38: each clause is the theorem above for that instruction and that state of the tile. -/
theorem tileInstructions : Obligations.TileInstructions := by
  unfold Obligations.TileInstructions
  refine ⟨fun f s hr hs => ⟨tdef_defines hr hs, tdef_of_not_empty hr hs, tdef_of_bad_definition hr hs⟩,
    fun f s hg hs => ⟨fun h => ⟨tfree_of_moving hg hs h, tready_of_moving hg hs h⟩, fun h hd => tfree_of_empty hg hs hd h,
      fun h hd => ⟨tready_of_ready hg hs hd h, tfree_of_read hg hs hd h, tfree_of_unread hg hs hd h⟩,
      fun h hd => tready_of_empty hg hs hd h, twait_of_still hg hs, twait_of_moving hg hs⟩,
    fun f s => exec_tstat⟩

end Sys2Proof.Machine
end

section
/-!
## What O42 asks of a command whose next position is landed
-/
namespace Sys2Proof.Machine

/-- The event lands one position of a command that runs, in a state whose memory is well formed. -/
structure State.Lands (s : State) (e : CmdEv) (c : Copy) : Prop where
  found : s.copyOf e.hand e.n.toNat = some c
  held : s.copyHeld c = false
  status : c.status = none
  pos : c.pos < c.vol
  one : e.count = 1
  chain : s.chainError c.hand = none
  place : s.arrivingAt e = none
  field : (s.field (fieldOfCore c.core)).state ≠ 6
  live : Mem.wf s.mem.live = true
  pub : Mem.wf s.mem.pub = true

end Sys2Proof.Machine
end

section
/-!
## Shared rules: what a commit point keeps, and how an instruction moves on

`commit_keeps` runs through a commit point once: what neither a byte performed nor a heel image kept changes, the commit point keeps.
`Hand.place` is all of a hand that `Hand.movedOn` speaks of, so that one equation says that an update leaves it.
-/
namespace Sys2Proof.Machine

/-! ### A byte performed -/

/-- Clearing a line's tag changes, of memory, the tags alone. -/
theorem clearTag_mem (s : State) (line : Nat) : ∃ tags, (s.clearTag line).mem = { s.mem with tags := tags } := by
  unfold State.clearTag
  split
  · exact ⟨s.mem.tags, rfl⟩
  · exact ⟨mdel s.mem.tags line, State.modHand_mem ..⟩

/-- A byte made live changes, of memory, the live contents, their notes and the tags alone. -/
theorem putLive_mem (s : State) (k : Nat) (b : Byte) : ∃ tags,
    (s.putLive k b).mem = { s.mem with live := s.mem.live.put k b, notes := mdel s.mem.notes k, tags := tags } := by
  obtain ⟨tags, h⟩ := clearTag_mem s (lineOf k)
  refine ⟨tags, ?_⟩
  unfold State.putLive
  simp only
  repeat' split
  all_goals simp [h]

@[simp] theorem putLive_pub (s : State) (k : Nat) (b : Byte) : (s.putLive k b).mem.pub = s.mem.pub := by
  obtain ⟨tags, h⟩ := putLive_mem s k b
  rw [h]

theorem putLive_gifts (s : State) (k : Nat) (b : Byte) : (s.putLive k b).mem.gifts = s.mem.gifts := by
  obtain ⟨tags, h⟩ := putLive_mem s k b
  rw [h]

/-- A change of a task that keeps every id and side keeps the side of each task (R384). -/
theorem sideOf_modTask (s : State) (n : Nat) {f : Task → Task} (hid : ∀ t, (f t).id = t.id) (hside : ∀ t, (f t).side = t.side)
    (task : Nat) : (s.modTask n f).sideOf task = s.sideOf task := by
  have hfind (l : List Task) : ((l.map (fun t => if t.id = n then f t else t)).find? (fun t => t.id == task)).map (·.side) =
      (l.find? (fun t => t.id == task)).map (·.side) := by
    induction l with
    | nil => rfl
    | cons t l ih =>
      have ht : (if t.id = n then f t else t).id = t.id := by split <;> simp [hid]
      have hs : (if t.id = n then f t else t).side = t.side := by split <;> simp [hside]
      rw [List.map_cons, List.find?_cons, List.find?_cons, ht]
      split
      · exact congrArg some hs
      · exact ih
  exact congrArg (·.getD .single) (hfind s.tasks)

theorem sideOf_stamp (s : State) (t m q k : Nat) (b : Byte) (p : Bool) (task : Nat) :
    (s.stamp t m q k b p).sideOf task = s.sideOf task := by
  unfold State.stamp
  refine (sideOf_modTask _ t (by exact fun _ => rfl) (by exact fun _ => rfl) task).trans ?_
  simp only [State.sideOf, State.taskOf, State.putLive_tasks]

/-! ### Runs that go on -/

theorem ok_bind {α β : Type} (a : α) (f : α → Run β) : ((Except.ok a : Run α) >>= f) = f a := rfl

theorem error_bind {α β : Type} (e : Stop) (f : α → Run β) : ((Except.error e : Run α) >>= f) = .error e := rfl

/-! ### What a commit point keeps -/

/-- A commit point keeps what a byte performed, a heel image, and a change of the hand keep. -/
theorem commit_keeps {α : Type} {p : State → α} (hhand : ∀ s h, p { s with hand := h } = p s)
    (hheel : ∀ s l, p { s with mem := { s.mem with heel := l } } = p s)
    (hstamp : ∀ s t m q k b pl, p (State.stamp s t m q k b pl) = p s) (s : State) : p s.commit = p s := by
  have hretain {s t : State} {w : Writer} {k : Nat} (h : s.retain w k = some t) : p t = p s := by
    simp only [State.retain] at h
    split at h
    · exact Option.some.inj h ▸ hheel s _
    · split at h
      · cases h
      · exact Option.some.inj h ▸ hheel s _
  have hbyte (s : State) (b : Buffered) : p (s.performByte b) = p s := by
    simp only [State.performByte]
    split
    · next t ht => exact (hstamp ..).trans (hretain ht)
    · exact hhand ..
  have hbytes (l : List Buffered) (s : State) : p (l.foldl State.performByte s) = p s := by
    induction l generalizing s with
    | nil => rfl
    | cons b l ih => exact (ih _).trans (hbyte s b)
  have hdrain (s : State) : p s.drain = p s := by
    simp only [State.drain]
    split
    · rfl
    · exact (hhand ..).trans ((hbytes ..).trans (hhand ..))
  simp only [State.commit]
  split
  · exact (hhand ..).trans (hdrain s)
  · rfl

@[simp] theorem commit_dudel (s : State) : s.commit.dudel = s.dudel :=
  commit_keeps (p := State.dudel) (fun _ _ => rfl) (fun _ _ => rfl) (fun _ _ _ _ _ _ _ => State.stamp_dudel ..) s

@[simp] theorem commit_seats (s : State) : s.commit.seats = s.seats :=
  commit_keeps (p := State.seats) (fun _ _ => rfl) (fun _ _ => rfl) (fun _ _ _ _ _ _ _ => State.stamp_seats ..) s

@[simp] theorem commit_sideOf (s : State) (task : Nat) : s.commit.sideOf task = s.sideOf task :=
  commit_keeps (p := (State.sideOf · task)) (fun _ _ => rfl) (fun _ _ => rfl) (fun _ _ _ _ _ _ _ => sideOf_stamp ..) s

@[simp] theorem commit_pub (s : State) : s.commit.mem.pub = s.mem.pub :=
  commit_keeps (p := fun s => s.mem.pub) (fun _ _ => rfl) (fun _ _ => rfl) (fun s _ _ _ k b _ => putLive_pub s k b) s

@[simp] theorem commit_gifts (s : State) : s.commit.mem.gifts = s.mem.gifts :=
  commit_keeps (p := fun s => s.mem.gifts) (fun _ _ => rfl) (fun _ _ => rfl) (fun s _ _ _ k b _ => putLive_gifts s k b) s

/-- A commit point that finds its buffer sound is passed. -/
theorem commits_of_drains {s : State} (h : s.drains) : s.commits = .ok s.commit := by
  rw [State.commits, h]

theorem commit_noDudel {s : State} (h : s.noDudel) : s.commit.noDudel := by
  rwa [State.noDudel, commit_dudel]

/-! ### Where a hand stands, and how it moves on (R191) -/

/-- What `Hand.movedOn` speaks of: the position, the identity, the arrival and the count of retired instructions. -/
def Hand.place (h : Hand) :=
  (h.pc, h.loops, h.frame, h.convoy, h.id, h.core, h.slot, h.task, h.asid, h.taskid, h.member, h.prio, h.dispatchCore, h.arrived,
    h.sched.retiredCount)

/-- The next position depends on the position alone. -/
theorem advance_congr {h k : Hand} (hpc : k.pc = h.pc) (hloops : k.loops = h.loops) (hframe : k.frame = h.frame)
    (hconvoy : k.convoy = h.convoy) (n : Nat) :
    (k.advance n).pc = (h.advance n).pc ∧ (k.advance n).loops = (h.advance n).loops ∧ (k.advance n).frame = (h.advance n).frame := by
  have hend (g g' : Hand) (a b : Nat) (hp : g'.pc = g.pc) (hl : g'.loops = g.loops) (hf : g'.frame = g.frame) :
      (g'.iterEnd a b).pc = (g.iterEnd a b).pc ∧ (g'.iterEnd a b).loops = (g.iterEnd a b).loops ∧
        (g'.iterEnd a b).frame = (g.iterEnd a b).frame := by
    simp only [Hand.iterEnd, hl]
    split
    · exact ⟨hp, hl, hf⟩
    · split
      · exact ⟨rfl, rfl, hf⟩
      · exact ⟨hp, hl, hf⟩
  simp only [Hand.advance, hframe, hconvoy, hpc]
  split
  · repeat' split
    · exact ⟨rfl, hloops, rfl⟩
    · exact ⟨rfl, hloops, rfl⟩
    · exact hend _ _ _ _ rfl hloops rfl
  · split
    · exact ⟨rfl, hloops, rfl⟩
    · exact hend _ _ _ _ rfl hloops rfl

/-- An instruction that leaves the hand where it stood moves it on as it completes. -/
theorem movedOn_retire {h : Hand} {t : State} (hp : t.hand.place = h.place) (n : Nat) : h.movedOn (t.retire n).hand n := by
  simp only [Hand.place, Prod.mk.injEq] at hp
  obtain ⟨hpc, hloops, hframe, hconvoy, hid, hcore, hslot, htask, hasid, htaskid, hmember, hprio, hdispatch, harrived, hcount⟩ := hp
  obtain ⟨hpc', hloops', hframe'⟩ := advance_congr hpc hloops hframe hconvoy n
  rw [retire_hand]
  exact ⟨hpc', hloops', hframe', hconvoy, rfl, congrArg (· + 1) hcount, hid, hcore, hslot, htask, hasid, htaskid, hmember, hprio,
    hdispatch, harrived⟩

/-- A commit point changes, of the hand, its ordering and its strip alone. -/
theorem commit_hand (s : State) : s.commit.hand = { s.hand with ord := s.commit.hand.ord, strip := s.commit.hand.strip } := by
  obtain ⟨o, st, h⟩ := commit_sameButStrip s
  rw [h]

theorem commit_hand_id (s : State) : s.commit.hand.id = s.hand.id := by rw [commit_hand]

theorem commit_hand_asid (s : State) : s.commit.hand.asid = s.hand.asid := by rw [commit_hand]

theorem commit_hand_status (s : State) : s.commit.hand.status = s.hand.status := by rw [commit_hand]

theorem commit_hand_inbox (s : State) : s.commit.hand.inbox = s.hand.inbox := by rw [commit_hand]

theorem commit_hand_x (s : State) : s.commit.hand.x = s.hand.x := by rw [commit_hand]

@[simp] theorem commit_place (s : State) : s.commit.hand.place = s.hand.place := by
  rw [commit_hand]
  rfl

theorem commit_unasked {s : State} (h : s.hand.unasked) : s.commit.hand.unasked := by
  rw [commit_hand]
  exact h

/-- An instruction that sets nothing but strip-local registers leaves the hand where it stood. -/
@[simp] theorem clearStripLocal_place (h : Hand) : h.clearStripLocal.place = h.place := rfl

theorem clearStripLocal_getP (h : Hand) (q : Fld5) (hq : q ≠ 0) : h.clearStripLocal.getP q.toNat = 0 := by
  have h0 : q.toNat ≠ 0 := fun e => hq (BitVec.eq_of_toNat_eq e)
  have hlt : q.toNat < 32 := q.isLt
  simp [Hand.getP, Hand.clearStripLocal, h0, Array.getD, hlt, Ne.symm h0]

/-! ### A scalar register written (R152) -/

theorem getX_eq (h : Hand) (r : Fld5) : h.getX r = if r = 0 then 0 else h.x[r.toNat]'r.isLt := rfl

theorem getX_setX_same (h : Hand) {d : Fld5} (v : Reg64) (hd : d ≠ 0) : (h.setX d v).getX d = v := by
  simp only [getX_eq, if_neg hd, Hand.setX, Vector.getElem_set_self]

theorem getX_setX_other (h : Hand) {d r : Fld5} (v : Reg64) (hr : r ≠ d) : (h.setX d v).getX r = h.getX r := by
  have hne : d.toNat ≠ r.toNat := fun e => hr (BitVec.eq_of_toNat_eq e).symm
  unfold Hand.setX
  split
  · rfl
  · simp only [getX_eq, Vector.getElem_set_ne _ _ hne]

theorem getX_congr {h k : Hand} (hx : k.x = h.x) (r : Fld5) : k.getX r = h.getX r := by rw [Hand.getX, Hand.getX, hx]

/-- What an instruction's result and its end change: x[d], the producers and the position. -/
theorem result_retired {s u : State} (hp : u.hand.place = s.hand.place) (hx : u.hand.x = s.hand.x) (d : Fld5) (v : Reg64) (n : Nat) :
    s.hand.movedOn ((u.result d v).retire n).hand n ∧ (d ≠ 0 → ((u.result d v).retire n).hand.getX d = v) ∧
      s.hand.sameXBut ((u.result d v).retire n).hand d := by
  have hplace : (u.result d v).hand.place = s.hand.place := by
    rw [← hp]
    simp [Hand.place, State.result, State.setX]
  have hxs : ((u.result d v).retire n).hand.x = (u.hand.setX d v).x := by
    rw [retire_hand]
    exact Hand.produce_x ..
  refine ⟨movedOn_retire hplace n, fun hd => (getX_congr hxs d).trans (getX_setX_same _ v hd), fun r hr => ?_⟩
  exact ((getX_congr hxs r).trans (getX_setX_other _ v hr)).trans (getX_congr hx r)

theorem result_inbox (s : State) (d : Fld5) (v : Reg64) (n : Nat) : ((s.result d v).retire n).hand.inbox = s.hand.inbox := by
  rw [retire_hand]
  simp [State.result, State.setX]

/-! ### The registers that stay -/

theorem sameRegs_trans {h k l : Hand} (hk : h.sameRegs k) (kl : k.sameRegs l) : h.sameRegs l := by
  obtain ⟨hx, hcsr, hstreams, hlq, hhandles, hdealer, hbound, hinbox⟩ := hk
  obtain ⟨lx, lcsr, lstreams, llq, lhandles, ldealer, lbound, linbox⟩ := kl
  exact ⟨lx.trans hx, lcsr.trans hcsr, lstreams.trans hstreams, llq.trans hlq, lhandles.trans hhandles, ldealer.trans hdealer,
    lbound.trans hbound, linbox.trans hinbox⟩

theorem commit_sameRegs (s : State) : s.hand.sameRegs s.commit.hand := by
  rw [commit_hand]
  exact ⟨rfl, rfl, rfl, rfl, rfl, rfl, rfl, rfl⟩

theorem retire_sameRegs (s : State) (n : Nat) : s.hand.sameRegs (s.retire n).hand := by
  rw [retire_hand]
  exact ⟨rfl, rfl, rfl, rfl, rfl, rfl, rfl, rfl⟩

@[simp] theorem retire_v (s : State) (n : Nat) : (s.retire n).hand.v = s.hand.v := by rw [retire_hand]

theorem retire_getP (s : State) (n r : Nat) : (s.retire n).hand.getP r = s.hand.getP r := by rw [retire_hand, Hand.getP, Hand.getP]

/-! ### The hand of an id -/

theorem handOf_id {s : State} {id : Nat} {h : Hand} (hh : s.handOf id = some h) : h.id = id := by
  unfold State.handOf at hh
  split at hh
  · next hc => exact Option.some.inj hh ▸ hc.1
  · have := List.find?_some hh
    simp only [Bool.and_eq_true, beq_iff_eq] at this
    exact this.1

/-- A change of the hand of an id that keeps ids and statuses is what is found there afterwards. -/
theorem handOf_modHand {s : State} {id : Nat} {h : Hand} {f : Hand → Hand} (hid : ∀ h, (f h).id = h.id)
    (hstatus : ∀ h, (f h).status = h.status) (hh : s.handOf id = some h) : (s.modHand id f).handOf id = some (f h) := by
  unfold State.handOf at hh
  split at hh
  · next hc =>
    rw [State.modHand, if_pos hc, State.handOf, if_pos ⟨(hid _).trans hc.1, (hstatus s.hand).symm ▸ hc.2⟩, Option.some.inj hh]
  · next hc =>
    rw [State.modHand, if_neg hc]
    refine (if_neg hc).trans ?_
    have hfind (l : List Hand) (hl : l.find? (fun g => g.id == id && g.status != .none) = some h) :
        (l.map (fun g => if g.id = id then f g else g)).find? (fun g => g.id == id && g.status != .none) = some (f h) := by
      induction l with
      | nil => cases hl
      | cons g l ih =>
        have hp : ((if g.id = id then f g else g).id == id && (if g.id = id then f g else g).status != .none) =
            (g.id == id && g.status != .none) := by split <;> simp [hid, hstatus]
        rw [List.map_cons, List.find?_cons, hp]
        rw [List.find?_cons] at hl
        split at hl
        · next hg =>
          rw [if_pos (beq_iff_eq.1 (Bool.and_eq_true_iff.1 hg).1), Option.some.inj hl]
        · exact ih hl
    exact hfind _ hh

/-- What a change of the hand of an id leaves of every hand, it leaves of the current one. -/
theorem modHand_hand {α : Type} {p : Hand → α} {f : Hand → Hand} (hp : ∀ h, p (f h) = p h) (s : State) (id : Nat) :
    p (s.modHand id f).hand = p s.hand := by
  unfold State.modHand
  split
  · exact hp _
  · rfl

theorem retire_handOf_inbox {s : State} (h : s.hand.status ≠ .none) (n id : Nat) :
    ((s.retire n).handOf id).map (·.inbox) = (s.handOf id).map (·.inbox) := by
  have hid : (s.retire n).hand.id = s.hand.id := by rw [retire_hand]
  have hstatus : (s.retire n).hand.status ≠ .none := by
    rw [retire_hand]
    nofun
  simp only [State.handOf, hid, h, hstatus, State.retire_others, ne_eq, not_false_eq_true, and_true]
  split
  · rw [retire_hand]
    rfl
  · rfl

/-! ### Operations that Dudel would record (R393) -/

/-- With neither recording nor replay on, an operation is not noted. -/
theorem dudelOp_of_noDudel {s : State} (h : s.noDudel) (kind : Byte) (source : BitVec 16) (stamp : Reg64) (payload : List Byte) :
    s.dudelOp kind source stamp payload = s := by
  obtain ⟨hon, hreplay⟩ := h
  simp [State.dudelOp, State.record, hon, hreplay]

/-- Outside a replay every operation has its turn (R394). -/
theorem replayTurn_of_noDudel {s : State} (h : s.noDudel) (kind : Byte) (source : BitVec 16) : s.replayTurn kind source = true := by
  simp [State.replayTurn, State.replayNext, h.2]

end Sys2Proof.Machine
end

section
/-!
## The fences, xfence, waitge, waitne and unlink (O36)

A live wait has one equation, its body once the guard lets it execute and its address reaches a plain byte; whether the live value ends
the wait is the one case split.
-/
namespace Sys2Proof.Machine

/-! ### Fences (R80, R121, R232) -/

/-- A fence between the scalar and the vector path orders the classes once the first is quiet, and waits until then. -/
theorem exec_fence {f : GF} {s : State} {i : Instr} {a b : Nat} (hi : exec i s = fence a b f s) (hg : s.goes f.g) :
    exec i s = .next (if s.hand.classQuiet a = true then
      State.retire { s with hand := { s.hand with ord := s.hand.ord.orders a b } } 4 else s.waits .order) := by
  refine (finish_of_goes (hi.trans rfl) hg rfl).trans ?_
  split <;> rfl

/-- A commit point that only some of the accesses make. -/
theorem bind_commits_if {s : State} {p : Prop} [Decidable p] (hd : p → s.drains) (k : State → Run State) :
    (if p then s.commits >>= k else pure s >>= k) = k (if p then s.commit else s) := by
  split
  · next hp => exact bind_commits (hd hp) k
  · rfl

/-- xfence orders the classes from its commit point on, once the first is complete or needs no wait. -/
theorem exec_xfence {f : ClsG} {s c : State} (hg : s.goes f.g) (hd : 2 ≤ f.b.toNat → s.drains)
    (hc : c = if 2 ≤ f.b.toNat then s.commit else s) : exec (.xfence f) s =
      .next (if f.a = f.b ∧ (f.a = 0 ∨ f.a = 2) ∨ c.completeBefore f.a.toNat = true then
        State.retire { c with
          hand := ({ c.hand with ord := c.hand.ord.orders f.a.toNat f.b.toNat } : Hand).afresh f.b.toNat } 4
      else c.waits .order) := by
  have hdone : (f.a.toNat = f.b.toNat ∧ (f.a.toNat = 0 ∨ f.a.toNat = 2) ∨ c.completeBefore f.a.toNat = true) ↔
      (f.a = f.b ∧ (f.a = 0 ∨ f.a = 2) ∨ c.completeBefore f.a.toNat = true) := by
    rw [BitVec.toNat_eq (x := f.a) (y := f.b), BitVec.toNat_eq (x := f.a) (y := 0), BitVec.toNat_eq (x := f.a) (y := 2)]
    rfl
  refine (finish_of_goes (o := execXfence f s) rfl hg (bind_commits_if hd _)).trans ?_
  rw [← hc]
  simp only [hdone]
  split <;> rfl

/-- The mark of a pair of classes is the count of own writes so far; every other pair keeps its own. -/
theorem orders_fence {o : Order} (h : rising o.fences = true) (a b a' b' : Nat) :
    (o.orders a b).fence a' b' = if 8 * a' + b' = 8 * a + b then o.wseq else o.fence a' b' := by
  have hf : (o.orders a b).fences = mput 0 o.fences (8 * a + b) o.wseq := by
    simp only [Order.orders]
    split <;> rfl
  rw [Order.fence, hf, mget_mput 0 _ _ _ _ h]
  rfl

theorem fences_hold : fences := by
  refine ⟨fun f s hg => ?_, fun f s hg hd => ?_, fun o a b h => ?_⟩
  · have hon (i : Instr) (a b : Nat) (hi : exec i s = fence a b f s) :=
      exec_fence hi hg
    refine ⟨⟨fun h => ?_, fun h => ?_⟩, ⟨fun h => ?_, fun h => ?_⟩, ⟨fun h => ?_, fun h => ?_⟩⟩
    · exact (hon _ 0 1 rfl).trans (congrArg _ (if_pos h))
    · exact (hon _ 0 1 rfl).trans (congrArg _ (if_neg (ne_true_of_eq_false h)))
    · exact (hon _ 1 0 rfl).trans (congrArg _ (if_pos h))
    · exact (hon _ 1 0 rfl).trans (congrArg _ (if_neg (ne_true_of_eq_false h)))
    · exact (hon _ 1 1 rfl).trans (congrArg _ (if_pos h))
    · exact (hon _ 1 1 rfl).trans (congrArg _ (if_neg (ne_true_of_eq_false h)))
  · have hx := exec_xfence hg hd rfl
    exact ⟨fun h => hx.trans (congrArg _ (if_pos h)), fun h => hx.trans (congrArg _ (if_neg h))⟩
  · exact ⟨(orders_fence h a b a b).trans (if_pos rfl), fun a' b' hne => (orders_fence h a b a' b').trans (if_neg hne)⟩

/-! ### Live waits (R118, R230, R233) -/

/-- A range entry that maps an address to a plain byte, as the agent that it serves finds it. -/
theorem look_of_rangeOf {s : State} {ag : Agent} {a : Access} {va k : Nat} (hs : ag.sys = false) (hf : a ≠ .fetch)
    (h : s.rangeOf ag.asid ag.side a.writes va k) : s.look ag a va = .ok (s, .plain k false, none) := by
  obtain ⟨hva, hside, hk, hup, d, r, hd, hr, hoff, h3, h1, hfmt, h5, h6, h7⟩ := h
  have hplain : PlainMapping r.attr := ⟨h7, h6, hfmt⟩
  have hmapped : s.mapped r.attr r.offset (va - r.base) = true := by rwa [mapped_plain hplain, ← hoff]
  rw [look_range hva hd hr hmapped (permFault_hand_none hs hf h3 h1),
    targetServed_plain hplain hside (by rwa [← hoff]), ← hoff, h5]
  rfl

/-- What HBM4E holds for hands lies below the benches. -/
theorem isBench_of_mappable {k : Nat} (h : mappable k = true) : isBench k = false := by
  have hk : k < 12 * Config.stackBytes := by
    simp only [mappable, decide_eq_true_eq] at h
    exact h.1
  have : 12 * Config.stackBytes ≤ Config.benchKey 0 0 := by decide
  simp only [isBench, decide_eq_false_iff_not]
  omega

theorem rebuilds_of_not_bench {s : State} {k : Nat} (h : isBench k = false) (w : Nat) : s.rebuilds k w = s := by
  rw [State.rebuilds, h]
  rfl

theorem linkedRead_noDudel {s : State} (h : s.noDudel) (k w : Nat) : (s.linkedRead k w).1.noDudel := h

/-- With no watchpoint set an access meets none. -/
theorem watch_of_unwatched {s : State} (h : s.hand.sched.watches = []) (va w : Nat) (write : Bool) (elem : Nat) :
    s.watch va w write elem = s := by
  rw [State.watch, h]
  rfl

/-- A live wait whose address reaches a plain byte: the live value decides whether it ends. -/
theorem exec_liveWait {done : Reg64 → Reg64 → Bool} {f : ABG} {s : State} {k : Nat} {i : Instr} (hi : exec i s = liveWait done f s)
    (hr : s.ready f.g [f.a, f.b]) (hw : s.hand.sched.watches = []) (hu : s.hand.unasked) (hd : s.drains) (hn : s.noDudel)
    (ha : (s.hand.getX f.a).toNat % 8 = 0) (hk : s.rangeAt false (s.hand.getX f.a).toNat k) (hdec : s.decodes k 8) :
    exec i s = finish (if done (s.commit.live64 k) (s.hand.getX f.b) = true then
      pure (((s.commit.uses k 1).linkedRead k 8).1.clearAtPoint.retire 4) else (s.commit.uses k 1).dropGrant.wait .live) := by
  obtain ⟨hg, hfull⟩ := hr
  have hsrc := src_full s 0 f.a f.ta (hfull f.a (by simp))
  have hsrc' := src_full s 1 f.b f.tb (hfull f.b (by simp))
  have hlook : s.xlook .linked (s.hand.getX f.a) = .ok (s, .plain k false, none) := by
    rw [State.xlook, look_of_rangeOf (k := k) (a := .linked) rfl nofun hk]
  have haligned : s.aligned .linked (s.hand.getX f.a) 8 = .ok () := if_pos ha
  have hbench : isBench k = false := isBench_of_mappable hk.2.2.1
  have hwatch : (s.commit.uses k 1).hand.sched.watches = [] := (congrArg (·.sched.watches) (commit_hand s)).trans hw
  have hreads : ((s.commit.uses k 1).watch (s.hand.getX f.a).toNat 8 false 0).rebuilds k 8 = s.commit.uses k 1 := by
    rw [watch_of_unwatched hwatch, rebuilds_of_not_bench hbench]
  have hlive : (s.commit.uses k 1).live64 k = s.commit.live64 k := congrArg (fun m => BitVec.ofNat 64 (leNat (Mem.bytes m k 8)))
    (uses_live ..)
  have hnc : (s.commit.uses k 1).noDudel := commit_noDudel hn
  have hop := dudelOp_of_noDudel (linkedRead_noDudel hnc k 8)
  have hturn := replayTurn_of_noDudel hnc 4 (BitVec.ofNat 16 (s.commit.uses k 1).hand.id)
  unfold liveWait at hi
  refine finish_of_goes hi hg ?_
  rw [hsrc, hsrc']
  simp only [haligned, hlook, readable_of_decodes 3 hdec, commits_of_drains hd, atPoint_unasked .live (commit_unasked hu),
    bind, Except.bind, pure, Except.pure, Bool.false_eq_true, if_false, State.reached, State.marked, Target.key, Target.span,
    hreads, hlive, hturn, State.linkOp, hop, Bool.and_true]

/-- The live value that a wait compares is the number that its eight bytes stand for. -/
theorem live64_toNat (s : State) (k : Nat) : (s.live64 k).toNat = leNat (s.mem.live.bytes k 8) := by
  have h := leNat_lt (s.mem.live.bytes k 8)
  rw [Mem.bytes_length] at h
  exact (BitVec.toNat_ofNat ..).trans (Nat.mod_eq_of_lt h)

/-- A linked read changes, of the hand, its ordering alone. -/
theorem linkedRead_hand (s : State) (k w : Nat) : ∃ o, (s.linkedRead k w).1.hand = { s.hand with ord := o } := ⟨_, rfl⟩

theorem linkedRead_mem (s : State) (k w : Nat) : (s.linkedRead k w).1.mem = s.mem := rfl

/-- A live wait that ends: the hand moves on with vector and predicate registers clear, and all else of it stays. -/
theorem liveWait_ended {s u : State} (hp : u.hand.place = s.hand.place) (hr : s.hand.sameRegs u.hand) (k : Nat) :
    let t := (u.linkedRead k 8).1.clearAtPoint.retire 4
    s.hand.movedOn t.hand 4 ∧ s.hand.sameRegs t.hand ∧ u.sameMem t ∧ t.hand.v = [] ∧ ∀ q : Fld5, q ≠ 0 → t.hand.getP q.toNat = 0 := by
  obtain ⟨o, ho⟩ := linkedRead_hand u k 8
  have hm := linkedRead_mem u k 8
  generalize (u.linkedRead k 8).1 = r at ho hm ⊢
  have hclear : r.clearAtPoint.hand = ({ u.hand with ord := o } : Hand).clearStripLocal := congrArg Hand.clearStripLocal ho
  have hplace : r.clearAtPoint.hand.place = s.hand.place := by
    rw [hclear]
    exact hp
  have hregs : s.hand.sameRegs r.clearAtPoint.hand := by
    rw [hclear]
    exact hr
  exact ⟨movedOn_retire hplace 4, sameRegs_trans hregs (retire_sameRegs ..), ⟨congrArg (·.live) hm, congrArg (·.pub) hm⟩, retire_v ..,
    fun q hq => (retire_getP ..).trans (clearStripLocal_getP _ q hq)⟩

/-- A live wait that goes on: the hand waits where it stands, its registers as they are. -/
theorem liveWait_waiting {s u : State} (hp : u.hand.place = s.hand.place) (hr : s.hand.sameRegs u.hand)
    (hv : u.hand.v = s.hand.v ∧ u.hand.p = s.hand.p) :
    let t := u.dropGrant.waits .live
    t.hand.status = .waiting .live ∧ t.hand.pc = s.hand.pc ∧ s.hand.sameRegs t.hand ∧ u.sameMem t ∧ t.hand.v = s.hand.v ∧
      t.hand.p = s.hand.p := by
  simp only [Hand.place, Prod.mk.injEq] at hp
  exact ⟨rfl, hp.1, hr, ⟨rfl, rfl⟩, hv⟩

theorem exec_unlink {f : GF} {s : State} (hg : s.goes f.g) : exec (.unlink f) s = .next (s.advanceSerial.retire 4) :=
  (finish_of_goes (o := execUnlink f s) rfl hg rfl).trans (finish_ok _)

/-- Whether a live wait ends is the comparison of the live value. -/
theorem liveWait_outcome {done : Reg64 → Reg64 → Bool} {f : ABG} {s : State} {k : Nat} {i : Instr} {p : Prop}
    (hi : exec i s = liveWait done f s) (hp : done (s.commit.live64 k) (s.hand.getX f.b) = true ↔ p)
    (hr : s.ready f.g [f.a, f.b]) (hw : s.hand.sched.watches = []) (hu : s.hand.unasked) (hd : s.drains) (hn : s.noDudel)
    (ha : (s.hand.getX f.a).toNat % 8 = 0) (hk : s.rangeAt false (s.hand.getX f.a).toNat k) (hdec : s.decodes k 8) :
    (p → ∃ t, exec i s = .next t ∧ s.hand.movedOn t.hand 4 ∧ s.hand.sameRegs t.hand ∧ s.commit.sameMem t ∧ t.hand.v = [] ∧
      ∀ q : Fld5, q ≠ 0 → t.hand.getP q.toNat = 0) ∧
    (¬ p → ∃ t, exec i s = .next t ∧ t.hand.status = .waiting .live ∧ t.hand.pc = s.hand.pc ∧ s.hand.sameRegs t.hand ∧
      s.commit.sameMem t ∧ t.hand.v = s.hand.v ∧ t.hand.p = s.hand.p) := by
  have hx := exec_liveWait hi hr hw hu hd hn ha hk hdec
  have hlive := uses_live s.commit k 1
  have hpub := uses_pub s.commit k 1
  have hplace := commit_place s
  have hregs := commit_sameRegs s
  have hvp : s.commit.hand.v = s.hand.v ∧ s.commit.hand.p = s.hand.p := by
    rw [commit_hand]
    exact ⟨rfl, rfl⟩
  rw [← uses_hand s.commit k 1] at hplace hregs hvp
  generalize s.commit.uses k 1 = u at hx hlive hpub hplace hregs hvp
  constructor
  · intro h
    rw [if_pos (hp.2 h)] at hx
    obtain ⟨hmoved, hsame, ⟨hl, hq⟩, hclear⟩ := liveWait_ended hplace hregs k
    exact ⟨_, hx, hmoved, hsame, ⟨hl.trans hlive, hq.trans hpub⟩, hclear⟩
  · intro h
    rw [if_neg (mt hp.1 h)] at hx
    obtain ⟨hstatus, hpc, hsame, ⟨hl, hq⟩, hrest⟩ := liveWait_waiting hplace hregs hvp
    exact ⟨_, hx, hstatus, hpc, hsame, ⟨hl.trans hlive, hq.trans hpub⟩, hrest⟩

theorem liveWaits_hold : liveWaits := by
  refine ⟨fun f s k hr hw hu hd hn ha hk hdec => ?_, fun f s hg => ⟨exec_unlink hg, rfl, rfl⟩⟩
  refine ⟨liveWait_outcome (done := fun m v => !m.ult v) rfl ?_ hr hw hu hd hn ha hk hdec,
    liveWait_outcome (done := fun m v => m != v) rfl ?_ hr hw hu hd hn ha hk hdec⟩
  · rw [Bool.not_eq_true', BitVec.ult, decide_eq_false_iff_not, Nat.not_lt, live64_toNat]
  · rw [bne_iff_ne, ne_eq, BitVec.toNat_eq, live64_toNat]

/-- Settles O36: the fences and xfence, then the live waits and unlink, each by its equation above. -/
theorem fencesAndLiveWaits : Obligations.FencesAndLiveWaits := by
  unfold Obligations.FencesAndLiveWaits
  exact ⟨fences_hold, liveWaits_hold⟩

end Sys2Proof.Machine
end

section
/-!
## The seat instructions (O49)

Every seat instruction starts with its registers, a commit point and R329's checks, all of which leave the seats as they are: the
lemmas of `State.ownsSeat` pass them once. What then happens to an object is one write of the object, `State.putObj`.
-/
namespace Sys2Proof.Machine

/-! ### Objects -/

@[simp] theorem commit_seatObj (s : State) (obj : Nat) : s.commit.seatObj obj = s.seatObj obj := by
  rw [State.seatObj, commit_seats, ← State.seatObj]

/-- An object with a seat in its queue reads as it was written. -/
theorem seatObj_putObj_same (s : State) {obj : Nat} {o : SeatObj} (h : o.queue ≠ []) : (s.putObj obj o).seatObj obj = o := by
  have hins (m : SMap SeatObj) : mget SeatObj.atReset (mins m obj o) obj = o := by
    induction m with
    | nil => exact if_pos rfl
    | cons x m ih =>
      unfold mins
      split
      · exact if_pos rfl
      · split
        · exact if_pos rfl
        · next hne => exact (if_neg hne).trans ih
  have hne : o ≠ SeatObj.atReset := fun e => h (congrArg SeatObj.queue e)
  exact (congrArg (mget _ · obj) (if_neg hne)).trans (hins s.seats)

theorem seatObj_putObj (s : State) (obj j : Nat) (o : SeatObj) (h : rising s.seats = true) :
    (s.putObj obj o).seatObj j = if j = obj then o else s.seatObj j := mget_mput _ _ _ _ _ h

/-- The folded seats at the head of a queue leave it, and the first other seat owns (R332). -/
theorem promote_eq (g : Nat × Clock) (l : List Seat) : promote g l = match l.dropWhile (fun q => q.state == 2) with
    | [] => []
    | q :: r => { q with state := 1, released := some g } :: r := by
  induction l with
  | nil => rfl
  | cons q l ih =>
    by_cases h : q.state = 2
    · rw [promote, if_pos h, ih, List.dropWhile_cons_of_pos (by simpa using h)]
    · rw [promote, if_neg h, List.dropWhile_cons_of_neg (by simpa using h)]

theorem seatObj_modSeat (s : State) (obj j : Nat) (n : BitVec 17) (f : Seat → Seat) (h : rising s.seats = true) :
    (s.modSeat obj n f).seatObj j = if j = obj then
      { s.seatObj obj with queue := (s.seatObj obj).queue.map (fun q => if q.number = n then f q else q) } else s.seatObj j :=
  seatObj_putObj s obj j _ h

/-! ### Release and fold (R332) -/

/-- What a release hands on (R88): the hand's task and its writes, all of them when it has retired. -/
def handedOn (s : State) (h : Hand) : Nat × Clock := (h.task, if h.status = .retired then s.fullClock h else s.clockOf h)

theorem seatObj_releaseSeat (s : State) (obj j : Nat) (h : Hand) (hs : rising s.seats = true) :
    (s.releaseSeat obj h).seatObj j = if j = obj then
      { s.seatObj obj with queue := promote (handedOn s h) ((s.seatObj obj).queue.drop 1) } else s.seatObj j :=
  seatObj_putObj s obj j _ hs

section
variable {s : State} {obj : Nat} {n : BitVec 17} {h : Hand} {q : Seat}

theorem foldSeat_of_owner (hq : (s.seatObj obj).find n = some q) (h1 : q.state = 1) : s.foldSeat obj n h = s.releaseSeat obj h := by
  rw [State.foldSeat, State.seatAt, hq]
  exact if_pos h1

theorem foldSeat_of_waiting (hq : (s.seatObj obj).find n = some q) (h0 : q.state = 0) :
    s.foldSeat obj n h = s.modSeat obj n (fun q => { q with state := 2, holder := none }) := by
  rw [State.foldSeat, State.seatAt, hq]
  exact (if_neg (by omega)).trans (if_pos h0)

theorem foldSeat_of_absent (hq : (s.seatObj obj).find n = none) : s.foldSeat obj n h = s := by
  rw [State.foldSeat, State.seatAt, hq]
end

/-! ### What every seat instruction does first (R329, R385) -/

theorem me_side (s : State) : s.me.side = s.sideOf s.hand.task := rfl

theorem commit_single {s : State} (h : s.me.side = .single) : s.commit.me.side = .single := by
  rw [me_side, commit_sideOf, commit_hand]
  exact h

theorem unpaired_of_single {s : State} (h : s.me.side = .single) (x : Reg64) : s.unpaired x = .ok () := if_pos h

theorem seatTurn_of_noDudel {s : State} (h : s.noDudel) : s.seatTurn = .ok () := if_pos (replayTurn_of_noDudel h ..)

theorem seatDone_of_noDudel {s : State} (h : s.noDudel) (obj fn hd : Nat) : s.seatDone obj fn hd = s := dudelOp_of_noDudel h ..

theorem putObj_noDudel {s : State} (h : s.noDudel) (obj : Nat) (o : SeatObj) : (s.putObj obj o).noDudel := h

theorem receiveSeat_noDudel {s : State} (h : s.noDudel) (obj : Nat) (q : Seat) : (s.receiveSeat obj q).noDudel := h

theorem releaseSeat_noDudel {s : State} (h : s.noDudel) (obj : Nat) (k : Hand) : (s.releaseSeat obj k).noDudel := h

/-- A fold changes the seats alone. -/
theorem foldSeat_seats (s : State) (obj : Nat) (n : BitVec 17) (h : Hand) :
    s.foldSeat obj n h = { s with seats := (s.foldSeat obj n h).seats } := by
  unfold State.foldSeat
  repeat' split
  all_goals rfl

theorem foldSeat_noDudel {s : State} (h : s.noDudel) (obj : Nat) (n : BitVec 17) (k : Hand) : (s.foldSeat obj n k).noDudel := by
  rw [foldSeat_seats]
  exact h

/-- A hand that holds a seat holds it after a commit point. -/
theorem commit_ownsSeat {s : State} {x : Reg64} {obj : Nat} {o : SeatObj} {q : Seat} (h : s.ownsSeat x obj o q) :
    s.commit.ownsSeat x obj o q := by
  obtain ⟨hname, hobj, hasid, hfind, hholder, hside⟩ := h
  refine ⟨hname, (commit_seatObj s obj).trans hobj, ?_, hfind, ?_, commit_single hside⟩
  · rwa [commit_hand_asid]
  · rwa [commit_hand_id]

theorem seatOf_of_owned {s : State} {x : Reg64} {obj : Nat} {n : BitVec 17} (hname : seatName x = some (obj, n))
    (hasid : (s.seatObj obj).asid = s.hand.asid) : s.seatOf x = .ok (obj, n) := by
  rw [State.seatOf, hname]
  exact if_pos hasid

theorem seatHeld_of_ownsSeat {s : State} {x : Reg64} {obj : Nat} {o : SeatObj} {q : Seat} (h : s.ownsSeat x obj o q) :
    s.seatHeld x = .ok (obj, q) := by
  obtain ⟨hname, rfl, hasid, hfind, hholder, -⟩ := h
  rw [State.seatHeld, seatOf_of_owned hname hasid, ok_bind]
  simp only [State.seatAt, hfind, hholder, if_true]
  rfl

/-- A seat of an object of the hand's ASID that the hand does not hold is SEAT-NOT-HELD. -/
theorem seatHeld_of_not_held {s : State} {x : Reg64} {obj : Nat} {n : BitVec 17} (hname : seatName x = some (obj, n))
    (hasid : (s.seatObj obj).asid = s.hand.asid) (hq : ∀ q, (s.seatObj obj).find n = some q → q.holder ≠ some s.hand.id) :
    s.seatHeld x = s.trap (Trap.mk' .seatNotHeld x) := by
  rw [State.seatHeld, seatOf_of_owned hname hasid, ok_bind]
  simp only [State.seatAt]
  split
  · rfl
  · next q h => exact if_neg (hq q h)

/-! ### What the taker of a seat receives (R88, R96) -/

/-- What a hand receives changes, of it, its ordering alone, and not the snapshot. -/
theorem foldl_receive (l : List (Nat × Clock)) (before : Nat × Clock → Clock) (h : Hand) :
    ∃ o, l.foldl (fun (h : Hand) g => h.receive g.2 (before g)) h = { h with ord := o } ∧ o.snap = h.ord.snap := by
  induction l generalizing h with
  | nil => exact ⟨h.ord, rfl, rfl⟩
  | cons g l ih =>
    obtain ⟨o, ho, hs⟩ := ih (h.receive g.2 (before g))
    exact ⟨o, ho, hs⟩

/-- Taking ownership changes, of the hand, its ordering and what its streams have read ahead; its snapshot is what is published. -/
theorem receiveSeat_hand (s : State) (obj : Nat) (q : Seat) :
    ∃ o st, (s.receiveSeat obj q).hand = { s.hand with ord := o, streams := st } ∧ o.snap = s.mem.pubFor s.hand := by
  obtain ⟨o, ho, hs⟩ := foldl_receive (([q.released, q.passed].filterMap id).filter (fun g => g.1 == s.hand.task))
    (fun g => s.preceding s.hand.task g.2) (s.hand.refresh (s.mem.pubFor s.hand) s.mem.tokens.length)
  exact ⟨o, _, ho, hs⟩

theorem commit_pubFor (s : State) : s.commit.mem.pubFor s.commit.hand = s.mem.pubFor s.hand := by
  rw [MemState.pubFor, commit_pub, commit_gifts, commit_hand, MemState.pubFor]

/-! ### Instructions on a seat that the hand holds -/

section
variable {f : SeatA} {s : State} {obj : Nat} {o : SeatObj} {q : Seat} (hr : s.ready f.g [f.a]) (hd : s.drains) (hn : s.noDudel)
  (ho : s.ownsSeat (s.hand.getX f.a) obj o q)
include hr hd hn ho

theorem exec_seatw (hu : s.hand.unasked) : exec (.seatw f) s = .next (if q.state = 1 then
    (s.commit.receiveSeat obj q).clearAtPoint.retire 4 else s.commit.dropGrant.waits .seatw) := by
  obtain ⟨hg, hfull⟩ := hr
  have hc := commit_ownsSeat ho
  have hnc := commit_noDudel hn
  refine (finish_of_goes (o := execSeatw f s) rfl hg rfl).trans ?_
  simp only [src_full s 0 f.a f.ta (hfull f.a (by simp)), commits_of_drains hd, ok_bind, unpaired_of_single hc.2.2.2.2.2,
    seatHeld_of_ownsSeat hc, atPoint_unasked .seatw (commit_unasked hu), seatTurn_of_noDudel hnc,
    seatDone_of_noDudel (receiveSeat_noDudel hnc obj q), ite_not]
  split <;> rfl

/-- A release of a seat that owns waits until the hand's accesses have performed; any other seat is SEAT-STATE. -/
theorem exec_seatr : exec (.seatr f) s = .next (if q.state = 1 then
    if (s.commit.hand.classQuiet 0 && s.commit.hand.classQuiet 1 && s.commit.hand.classQuiet 2) = true then
      (s.commit.releaseSeat obj s.commit.hand).retire 4 else s.commit.waits .order
    else s.commit.trapped ((Trap.mk' .seatState (s.hand.getX f.a)).at' q.state)) := by
  obtain ⟨hg, hfull⟩ := hr
  have hc := commit_ownsSeat ho
  have hnc := commit_noDudel hn
  refine (finish_of_goes (o := execSeatr f s) rfl hg rfl).trans ?_
  simp only [src_full s 0 f.a f.ta (hfull f.a (by simp)), commits_of_drains hd, ok_bind, unpaired_of_single hc.2.2.2.2.2,
    seatHeld_of_ownsSeat hc, seatTurn_of_noDudel hnc, seatDone_of_noDudel (releaseSeat_noDudel hnc obj s.commit.hand), ite_not,
    State.beforeRelease]
  split
  · split <;> rfl
  · rfl

/-- A fold of a seat that owns waits as a release does. -/
theorem exec_seatf : exec (.seatf f) s = .next (if q.state = 1 ∧
      (s.commit.hand.classQuiet 0 && s.commit.hand.classQuiet 1 && s.commit.hand.classQuiet 2) = false then s.commit.waits .order
    else (s.commit.foldSeat obj q.number s.commit.hand).retire 4) := by
  obtain ⟨hg, hfull⟩ := hr
  have hc := commit_ownsSeat ho
  have hnc := commit_noDudel hn
  refine (finish_of_goes (o := execSeatf f s) rfl hg rfl).trans ?_
  simp only [src_full s 0 f.a f.ta (hfull f.a (by simp)), commits_of_drains hd, ok_bind, unpaired_of_single hc.2.2.2.2.2,
    seatHeld_of_ownsSeat hc, seatTurn_of_noDudel hnc, seatDone_of_noDudel (foldSeat_noDudel hnc obj q.number s.commit.hand),
    State.beforeRelease]
  by_cases h1 : q.state = 1
  · simp only [h1, if_true, true_and]
    cases s.commit.hand.classQuiet 0 && s.commit.hand.classQuiet 1 && s.commit.hand.classQuiet 2 <;> rfl
  · simp only [h1, if_false, false_and]
    rfl

/-- seatw of a seat that owns: the hand sees what is published, and moves on with vector and predicate registers clear. -/
theorem seatw_owner (h1 : q.state = 1) (hu : s.hand.unasked) : ∃ t, exec (.seatw f) s = .next t ∧ s.hand.movedOn t.hand 4 ∧
    t.hand.x = s.hand.x ∧ t.hand.ord.snap = s.mem.pubFor s.hand ∧ t.hand.v = [] ∧ ∀ r : Fld5, r ≠ 0 → t.hand.getP r.toNat = 0 := by
  have hx := exec_seatw hr hd hn ho hu
  rw [if_pos h1] at hx
  obtain ⟨ord, st, hhand, hsnap⟩ := receiveSeat_hand s.commit obj q
  have hplace : (s.commit.receiveSeat obj q).hand.place = s.hand.place := by
    rw [hhand, ← commit_place s]
    rfl
  have hxs : (s.commit.receiveSeat obj q).hand.x = s.hand.x := by
    rw [hhand, commit_hand_x]
  have hord : (s.commit.receiveSeat obj q).hand.ord.snap = s.mem.pubFor s.hand := by
    rw [hhand, ← commit_pubFor s]
    exact hsnap
  generalize s.commit.receiveSeat obj q = u at hx hplace hxs hord
  exact ⟨_, hx, movedOn_retire (t := u.clearAtPoint) hplace 4, (retire_sameRegs ..).1.trans hxs,
    (congrArg (·.ord.snap) (retire_hand u.clearAtPoint 4)).trans hord,
    retire_v .., fun r hr => (retire_getP ..).trans (clearStripLocal_getP _ r hr)⟩

/-- seatr of a seat that does not own is SEAT-STATE. -/
theorem seatr_of_not_owner (h1 : q.state ≠ 1) :
    s.trapsAfter (.seatr f) ((Trap.mk' .seatState (s.hand.getX f.a)).at' q.state) :=
  (exec_seatr hr hd hn ho).trans (congrArg _ (if_neg h1))

variable (hs : rising s.seats = true)
include hs

/-- A release by seatr, or by seatf of a seat that owns: the first seat not folded owns next. -/
theorem seat_released (h1 : q.state = 1)
    (hquiet : (s.commit.hand.classQuiet 0 && s.commit.hand.classQuiet 1 && s.commit.hand.classQuiet 2) = true)
    (hstatus : s.hand.status ≠ .retired) : ∀ i ∈ [Instr.seatr f, .seatf f], ∃ t, exec i s = .next t ∧
      t.seatObj obj = { o with queue := promote (s.commit.hand.task, s.commit.clockOf s.commit.hand) (o.queue.drop 1) } ∧
      ∀ j, j ≠ obj → t.seatObj j = s.seatObj j := by
  have hboth : ∀ i ∈ [Instr.seatr f, .seatf f], exec i s = .next ((s.commit.releaseSeat obj s.commit.hand).retire 4) := by
    have hfind : (s.commit.seatObj obj).find q.number = some q := (commit_ownsSeat ho).2.1.symm ▸ ho.2.2.2.1
    have hseatf := exec_seatf hr hd hn ho
    rw [if_neg (by simp [hquiet]), foldSeat_of_owner hfind h1] at hseatf
    have hseatr := exec_seatr hr hd hn ho
    rw [if_pos h1, if_pos hquiet] at hseatr
    simpa using ⟨hseatr, hseatf⟩
  have hstatus' : s.commit.hand.status ≠ .retired := by rwa [commit_hand_status]
  have hobj (j : Nat) := seatObj_releaseSeat s.commit obj j s.commit.hand ((commit_seats s).symm ▸ hs)
  rw [commit_seatObj, ho.2.1] at hobj
  intro i hi
  refine ⟨_, hboth i hi, ?_, fun j hj => ?_⟩
  · refine (hobj obj).trans ?_
    rw [if_pos rfl, handedOn, if_neg hstatus']
  · exact ((hobj j).trans (if_neg hj)).trans (commit_seatObj s j)

/-- A fold of a seat that waits leaves it folded in its place. -/
theorem seat_folded (h0 : q.state = 0) : ∃ t, exec (.seatf f) s = .next t ∧
      t.seatObj obj = { o with queue := o.queue.map (fun z => if z.number = q.number then { z with state := 2, holder := none } else z) } ∧
      ∀ j, j ≠ obj → t.seatObj j = s.seatObj j := by
  have hfind : (s.commit.seatObj obj).find q.number = some q := (commit_ownsSeat ho).2.1.symm ▸ ho.2.2.2.1
  have hx := exec_seatf hr hd hn ho
  rw [if_neg (by omega), foldSeat_of_waiting hfind h0] at hx
  have hobj (j : Nat) := seatObj_modSeat s.commit obj j q.number (fun q => { q with state := 2, holder := none })
    ((commit_seats s).symm ▸ hs)
  rw [commit_seatObj, ho.2.1] at hobj
  exact ⟨_, hx, (hobj obj).trans (if_pos rfl), fun j hj => ((hobj j).trans (if_neg hj)).trans (commit_seatObj s j)⟩
end

/-- An instruction on a seat that the hand does not hold is SEAT-NOT-HELD, behind its commit point. -/
theorem seat_not_held {f : SeatA} {s : State} {obj : Nat} {n : BitVec 17} (hr : s.ready f.g [f.a]) (hd : s.drains)
    (hside : s.me.side = .single) (hname : seatName (s.hand.getX f.a) = some (obj, n))
    (hasid : (s.seatObj obj).asid = s.hand.asid) (hq : ∀ q, (s.seatObj obj).find n = some q → q.holder ≠ some s.hand.id) :
    ∀ i ∈ [Instr.seatw f, .seatr f, .seatf f], s.trapsAfter i (Trap.mk' .seatNotHeld (s.hand.getX f.a)) := by
  obtain ⟨hg, hfull⟩ := hr
  have hsrc := src_full s 0 f.a f.ta (hfull f.a (by simp))
  have hid : s.commit.hand.id = s.hand.id := commit_hand_id s
  have hasid' : s.commit.hand.asid = s.hand.asid := commit_hand_asid s
  have hheld : s.commit.seatHeld (s.hand.getX f.a) = .error (.trap (Trap.mk' .seatNotHeld (s.hand.getX f.a)) s.commit) :=
    seatHeld_of_not_held hname (by rw [commit_seatObj, hasid', hasid]) (by rwa [commit_seatObj, hid])
  have hpass := unpaired_of_single (commit_single hside) (s.hand.getX f.a)
  have hw : exec (.seatw f) s = .next (s.commit.trapped (Trap.mk' .seatNotHeld (s.hand.getX f.a))) := by
    refine (finish_of_goes (o := execSeatw f s) rfl hg rfl).trans ?_
    simp only [hsrc, commits_of_drains hd, ok_bind, hpass, hheld, error_bind, finish_trap]
  have hr : exec (.seatr f) s = .next (s.commit.trapped (Trap.mk' .seatNotHeld (s.hand.getX f.a))) := by
    refine (finish_of_goes (o := execSeatr f s) rfl hg rfl).trans ?_
    simp only [hsrc, commits_of_drains hd, ok_bind, hpass, hheld, error_bind, finish_trap]
  have hf : exec (.seatf f) s = .next (s.commit.trapped (Trap.mk' .seatNotHeld (s.hand.getX f.a))) := by
    refine (finish_of_goes (o := execSeatf f s) rfl hg rfl).trans ?_
    simp only [hsrc, commits_of_drains hd, ok_bind, hpass, hheld, error_bind, finish_trap]
  simpa [State.trapsAfter] using ⟨hw, hr, hf⟩

/-! ### seatq (R330) -/

theorem seatq_joins {f : UnG} {s : State} {o : SeatObj} (hr : s.ready f.g [f.a, f.d]) (hd : s.drains) (hn : s.noDudel)
    (hside : s.me.side = .single) (hx : (s.hand.getX f.a).toNat < 24576) (ho : s.seatObj (s.hand.getX f.a).toNat = o)
    (hasid : o.asid = s.hand.asid) (hroom : s.seatsUsed ((s.hand.getX f.a).toNat / 4096) < 65536) :
    ∃ t, exec (.seatq f) s = .next t ∧ s.hand.movedOn t.hand 4 ∧
      (f.d ≠ 0 → t.hand.getX f.d = (seatHandle (s.hand.getX f.a).toNat o.next).setWidth 64) ∧ s.hand.sameXBut t.hand f.d ∧
      t.seatObj (s.hand.getX f.a).toNat = { o with
        next := o.next + 1, queue := o.queue ++ [⟨o.next, if o.queue = [] then 1 else 0, some s.hand.id, none, none⟩] } := by
  obtain ⟨hg, hfull⟩ := hr
  have hside' : ¬ s.commit.me.side ≠ .single := not_not.2 (commit_single hside)
  have hobj : s.commit.seatObj (s.hand.getX f.a).toNat = o := (commit_seatObj ..).trans ho
  have hasid' : ¬ o.asid ≠ s.commit.hand.asid := by rw [commit_hand_asid]; exact not_not.2 hasid
  have hroom' : ¬ seatStorage ≤ s.commit.seatsUsed ((s.hand.getX f.a).toNat / objectsPerField) := by
    rw [State.seatsUsed, commit_seats]
    exact Nat.not_le.2 hroom
  have hx' : ¬ objectCount ≤ (s.hand.getX f.a).toNat := Nat.not_le.2 hx
  have hplace := commit_place s
  have hxs := commit_hand_x s
  have hid := commit_hand_id s
  have hnc := commit_noDudel hn
  have hexec : exec (.seatq f) s = _ := finish_of_goes (o := execSeatq f s) rfl hg rfl
  simp only [src_full s 0 f.a f.ta (hfull f.a (by simp)), dest_full s f.d (hfull f.d (by simp)), commits_of_drains hd, ok_bind,
    hside', hobj, hasid', hroom', hx', if_false, seatTurn_of_noDudel hnc, seatDone_of_noDudel (putObj_noDudel hnc _ _)] at hexec
  generalize s.commit = c at hexec hplace hxs hid
  obtain ⟨hmoved, hval, hrest⟩ := result_retired (u := c.putObj (s.hand.getX f.a).toNat { o with
    next := o.next + 1, queue := o.queue ++ [⟨o.next, if o.queue.isEmpty then 1 else 0, some c.hand.id, none, none⟩] })
    hplace hxs f.d ((seatHandle (s.hand.getX f.a).toNat o.next).setWidth 64) 4
  refine ⟨_, hexec, hmoved, hval, hrest, (seatObj_putObj_same c (by simp)).trans ?_⟩
  simp [hid]

/-! ### Handing a seat on (R333), exchanging two (R334) -/

/-- A handle enters a hand's inbox. -/
def Hand.inboxed (k : Hand) (hdl : BitVec 32) : Hand := { k with inbox := k.inbox ++ [hdl] }

/-- What seatp does once nothing holds it back: the seat leaves its holder with what the passer hands on (R88), and its handle enters
the inbox of the hand `id`. -/
def State.passSeat (s : State) (obj : Nat) (n : BitVec 17) (id : Nat) : State :=
  (s.modSeat obj n (fun z => { z with holder := none, released := none, passed := some (s.hand.task, s.clockOf s.hand) })).modHand id
    (Hand.inboxed · (seatHandle obj n))

theorem passSeat_noDudel {s : State} (h : s.noDudel) (obj : Nat) (n : BitVec 17) (id : Nat) : (s.passSeat obj n id).noDudel := by
  rw [State.noDudel, State.passSeat, State.modHand_dudel]
  exact h

theorem passSeat_x (s : State) (obj : Nat) (n : BitVec 17) (id : Nat) : (s.passSeat obj n id).hand.x = s.hand.x :=
  modHand_hand (p := Hand.x) (f := (Hand.inboxed · _)) (fun _ => rfl) _ _

theorem passSeat_status (s : State) (obj : Nat) (n : BitVec 17) (id : Nat) : (s.passSeat obj n id).hand.status = s.hand.status :=
  modHand_hand (p := Hand.status) (f := (Hand.inboxed · _)) (fun _ => rfl) _ _

theorem passSeat_inbox {s : State} (obj : Nat) (n : BitVec 17) {id : Nat} {k : Hand} (hk : s.handOf id = some k) :
    ((s.passSeat obj n id).handOf id).map (·.inbox) = some (k.inbox ++ [seatHandle obj n]) := by
  rw [State.passSeat, handOf_modHand (f := (Hand.inboxed · _)) (fun _ => rfl) (fun _ => rfl) (by exact hk)]
  rfl

theorem passSeat_seatObj (s : State) {obj : Nat} {n : BitVec 17} {id : Nat} (h : (s.seatObj obj).queue ≠ []) :
    (s.passSeat obj n id).seatObj obj = { s.seatObj obj with queue := (s.seatObj obj).queue.map (fun z => if z.number = n then
      { z with holder := none, released := none, passed := some (s.hand.task, s.clockOf s.hand) } else z) } := by
  rw [State.seatObj, State.passSeat, State.modHand_seats]
  exact seatObj_putObj_same s (by simpa using h)

section
variable {f : ABG} {s : State} {obj : Nat} {o : SeatObj} {q : Seat} (hr : s.ready f.g [f.a, f.b]) (hd : s.drains) (hn : s.noDudel)
  (ho : s.ownsSeat (s.hand.getX f.a) obj o q)
include hr hd hn ho

theorem exec_seatp {k : Hand} (hk : s.commit.handOf (s.hand.getX f.b).toNat = some k) (hliving : k.living = true)
    (hasid : k.asid = s.hand.asid) (hroom : k.inbox.length < 16) :
    exec (.seatp f) s = .next ((s.commit.passSeat obj q.number (s.hand.getX f.b).toNat).retire 4) := by
  obtain ⟨hg, hfull⟩ := hr
  have hc := commit_ownsSeat ho
  have hnc := commit_noDudel hn
  have hgo : ¬ ((!k.living) = true ∨ k.asid ≠ s.commit.hand.asid) := by simp [hliving, hasid, commit_hand_asid]
  refine (finish_of_goes (o := execSeatp f s) rfl hg rfl).trans ?_
  simp only [src_full s 0 f.a f.ta (hfull f.a (by simp)), src_full s 1 f.b f.tb (hfull f.b (by simp)), commits_of_drains hd, ok_bind,
    unpaired_of_single hc.2.2.2.2.2, seatHeld_of_ownsSeat hc, hk, hgo, if_false, inboxSize, Nat.not_le.2 hroom,
    seatTurn_of_noDudel hnc, handOf_id hk]
  exact congrArg (fun u : State => Host.Outcome.next (u.retire 4)) (seatDone_of_noDudel (passSeat_noDudel hnc ..) ..)

/-- seatp passes the seat into the inbox of a living hand of the ASID that has room. -/
theorem seatp_passes {k : Hand} (hk : s.commit.handOf (s.hand.getX f.b).toNat = some k) (hs : s.hand.status ≠ .none)
    (hliving : k.living = true) (hasid : k.asid = s.hand.asid) (hroom : k.inbox.length < 16) :
    ∃ t, exec (.seatp f) s = .next t ∧ t.hand.x = s.hand.x ∧
      (t.handOf (s.hand.getX f.b).toNat).map (·.inbox) = some (k.inbox ++ [seatHandle obj q.number]) ∧
      t.seatObj obj = { o with queue := o.queue.map (fun z => if z.number = q.number then
        { z with holder := none, released := none, passed := some (s.commit.hand.task, s.commit.clockOf s.commit.hand) } else z) } := by
  obtain ⟨-, hobj, -, hfind, -, -⟩ := commit_ownsSeat ho
  have hq : o.queue ≠ [] := fun e => by simp [SeatObj.find, e] at hfind
  have hexec := exec_seatp hr hd hn ho hk hliving hasid hroom
  have hx := (passSeat_x s.commit obj q.number (s.hand.getX f.b).toNat).trans (commit_hand_x s)
  have hstatus : (s.commit.passSeat obj q.number (s.hand.getX f.b).toNat).hand.status ≠ .none := by
    rwa [passSeat_status, commit_hand_status]
  have hinbox := passSeat_inbox obj q.number hk
  have hseat := passSeat_seatObj s.commit (n := q.number) (id := (s.hand.getX f.b).toNat)
    (hobj.symm ▸ hq : (s.commit.seatObj obj).queue ≠ [])
  rw [hobj] at hseat
  generalize s.commit.passSeat obj q.number (s.hand.getX f.b).toNat = u at hexec hx hstatus hinbox hseat
  exact ⟨_, hexec, (retire_sameRegs ..).1.trans hx, (retire_handOf_inbox hstatus ..).trans hinbox, hseat⟩

theorem seatx_swaps {n : BitVec 17} {r : Seat} (h1 : q.state ≠ 1) (hname : seatName (s.hand.getX f.b) = some (obj, n))
    (hfind : o.find n = some r)
    (hlt : o.queue.findIdx (fun z => z.number == q.number) < o.queue.findIdx (fun z => z.number == r.number)) :
    ∃ t, exec (.seatx f) s = .next t ∧ s.hand.movedOn t.hand 4 ∧ t.hand.x = s.hand.x ∧
      t.seatObj obj = { o with queue := swapSeats q r o.queue } := by
  obtain ⟨hg, hfull⟩ := hr
  have hc := commit_ownsSeat ho
  have hnc := commit_noDudel hn
  have hexec : exec (.seatx f) s = _ := finish_of_goes (o := execSeatx f s) rfl hg rfl
  simp only [src_full s 0 f.a f.ta (hfull f.a (by simp)), src_full s 1 f.b f.tb (hfull f.b (by simp)), commits_of_drains hd, ok_bind,
    unpaired_of_single hc.2.2.2.2.2, seatHeld_of_ownsSeat hc, h1, if_false, hname, Option.bind_some, if_true, State.seatAt, hc.2.1,
    hfind, Nat.not_le.2 hlt, seatTurn_of_noDudel hnc, seatDone_of_noDudel (putObj_noDudel hnc _ _)] at hexec
  have hq : o.queue ≠ [] := fun e => by simp [SeatObj.find, e] at hfind
  have hxs := commit_hand_x s
  have hplace := commit_place s
  generalize s.commit = c at hexec hplace hxs
  refine ⟨_, hexec, movedOn_retire hplace 4, (retire_sameRegs ..).1.trans hxs, seatObj_putObj_same c ?_⟩
  simpa [swapSeats] using hq
end

/-! ### seatin (R333) -/

/-- What seatin does with the seat that it takes out of the inbox: a hand-off where it owns (R90), and the hand holds it. -/
def State.collectSeat (s : State) (obj : Nat) (n : BitVec 17) (me : Nat) : State :=
  match s.seatAt obj n with
  | none => s
  | some q => (if q.state = 1 then s.receiveSeat obj q else s).modSeat obj n (fun q => { q with holder := some me, passed := none })

/-- It changes, of the hand, its ordering and what its streams have read ahead. -/
theorem collectSeat_hand (s : State) (obj : Nat) (n : BitVec 17) (me : Nat) :
    ∃ o st, (s.collectSeat obj n me).hand = { s.hand with ord := o, streams := st } := by
  unfold State.collectSeat
  split
  · exact ⟨s.hand.ord, s.hand.streams, rfl⟩
  · next q _ =>
    split
    · obtain ⟨o, st, h, -⟩ := receiveSeat_hand s obj q
      exact ⟨o, st, h⟩
    · exact ⟨s.hand.ord, s.hand.streams, rfl⟩

theorem collectSeat_noDudel {s : State} (h : s.noDudel) (obj : Nat) (n : BitVec 17) (me : Nat) :
    (s.collectSeat obj n me).noDudel := by
  unfold State.collectSeat
  repeat' split
  all_goals exact h

section
variable {f : DG} {s : State} (hr : s.ready f.g [f.d]) (hd : s.drains) (hside : s.me.side = .single) (hu : s.hand.unasked)
include hr hd hside hu

theorem seatin_waits (hi : s.hand.inbox = []) : exec (.seatin f) s = .next (s.commit.dropGrant.waits .seatin) := by
  obtain ⟨hg, hfull⟩ := hr
  refine (finish_of_goes (o := execSeatin f s) rfl hg rfl).trans ?_
  simp only [dest_full s f.d (hfull f.d (by simp)), commits_of_drains hd, ok_bind, unpaired_of_single (commit_single hside),
    atPoint_unasked .seatin (commit_unasked hu), commit_hand_inbox, hi]
  rfl

theorem exec_seatin (hn : s.noDudel) {hdl : BitVec 32} {rest : List (BitVec 32)} (hi : s.hand.inbox = hdl :: rest) :
    exec (.seatin f) s = .next ((((s.commit.put { s.commit.hand with inbox := rest }).collectSeat
      (((seatName (hdl.setWidth 64)).map (·.1)).getD 0) (BitVec.ofNat 17 hdl.toNat) s.commit.hand.id).clearAtPoint.result f.d
        (hdl.setWidth 64)).retire 4) := by
  obtain ⟨hg, hfull⟩ := hr
  have hnc := commit_noDudel hn
  refine (finish_of_goes (o := execSeatin f s) rfl hg rfl).trans ?_
  simp only [dest_full s f.d (hfull f.d (by simp)), commits_of_drains hd, ok_bind, unpaired_of_single (commit_single hside),
    atPoint_unasked .seatin (commit_unasked hu), commit_hand_inbox, hi, seatTurn_of_noDudel hnc]
  generalize s.commit = c at hnc ⊢
  exact congrArg (fun u : State => Host.Outcome.next ((u.clearAtPoint.result f.d (hdl.setWidth 64)).retire 4))
    (seatDone_of_noDudel (collectSeat_noDudel (s := c.put { c.hand with inbox := rest }) hnc ..) ..)

/-- seatin takes the first handle of the inbox. -/
theorem seatin_collects (hn : s.noDudel) {hdl : BitVec 32} {rest : List (BitVec 32)} (hi : s.hand.inbox = hdl :: rest) :
    ∃ t, exec (.seatin f) s = .next t ∧ s.hand.movedOn t.hand 4 ∧ t.hand.inbox = rest ∧
      (f.d ≠ 0 → t.hand.getX f.d = hdl.setWidth 64) ∧ s.hand.sameXBut t.hand f.d := by
  have hexec := exec_seatin hr hd hside hu hn hi
  have hplace := commit_place s
  have hx := commit_hand_x s
  generalize s.commit = c at hexec hplace hx
  obtain ⟨o, st, hhand⟩ := collectSeat_hand (c.put { c.hand with inbox := rest })
    (((seatName (hdl.setWidth 64)).map (·.1)).getD 0) (BitVec.ofNat 17 hdl.toNat) c.hand.id
  generalize (c.put { c.hand with inbox := rest }).collectSeat _ _ _ = u at hexec hhand
  have hplace' : u.clearAtPoint.hand.place = s.hand.place := by
    rw [← hplace, State.clearAtPoint, hhand]
    rfl
  have hx' : u.clearAtPoint.hand.x = s.hand.x := by
    rw [← hx, State.clearAtPoint, hhand]
    rfl
  obtain ⟨hmoved, hval, hrest⟩ := result_retired hplace' hx' f.d (hdl.setWidth 64) 4
  refine ⟨_, hexec, hmoved, (result_inbox ..).trans ?_, hval, hrest⟩
  rw [State.clearAtPoint, hhand]
  rfl
end

/-! ### seatst (R335) -/

/-- What seatst reports of a handle: the seat's status, or INVALID. -/
def State.seatReport (s : State) (x : Reg64) : Reg64 :=
  match s.seatOf x with
  | .error _ => 0xFFFF_FFFF_0000_0003
  | .ok (obj, n) => ((s.seatAt obj n).map (seatStatus (s.seatObj obj))).getD 0xFFFF_FFFF_0000_0003

theorem seatReport_of_malformed {s : State} {x : Reg64} (h : seatName x = none) : s.seatReport x = 0xFFFF_FFFF_0000_0003 := by
  rw [State.seatReport, State.seatOf, h]
  rfl

theorem seatReport_of_absent {s : State} {x : Reg64} {obj : Nat} {n : BitVec 17} (hname : seatName x = some (obj, n))
    (h : (s.seatObj obj).asid ≠ s.hand.asid ∨ (s.seatObj obj).find n = none) : s.seatReport x = 0xFFFF_FFFF_0000_0003 := by
  rw [State.seatReport, State.seatOf, hname]
  dsimp only
  split
  · rfl
  · next obj' n' hok =>
    split at hok
    · next hasid =>
      cases hok
      rw [State.seatAt, h.resolve_left (not_not.2 hasid)]
      rfl
    · cases hok

theorem seatReport_of_stored {s : State} {x : Reg64} {obj : Nat} {n : BitVec 17} {q : Seat} (hname : seatName x = some (obj, n))
    (hasid : (s.seatObj obj).asid = s.hand.asid) (hq : (s.seatObj obj).find n = some q) :
    s.seatReport x = seatStatus (s.seatObj obj) q := by
  rw [State.seatReport, seatOf_of_owned hname hasid]
  dsimp only
  rw [State.seatAt, hq]
  rfl

/-- A commit point changes nothing that seatst reports. -/
theorem commit_seatReport (s : State) (x : Reg64) : s.commit.seatReport x = s.seatReport x := by
  cases hname : seatName x with
  | none => rw [seatReport_of_malformed hname, seatReport_of_malformed hname]
  | some name =>
    obtain ⟨obj, n⟩ := name
    have hobj := commit_seatObj s obj
    have hasid := commit_hand_asid s
    by_cases ha : (s.seatObj obj).asid = s.hand.asid
    · cases hq : (s.seatObj obj).find n with
      | none => rw [seatReport_of_absent hname (.inr hq), seatReport_of_absent hname (.inr (hobj.symm ▸ hq))]
      | some q =>
        rw [seatReport_of_stored hname ha hq, seatReport_of_stored hname (by rw [hobj, hasid, ha]) (hobj.symm ▸ hq), hobj]
    · rw [seatReport_of_absent hname (.inl ha), seatReport_of_absent hname (.inl (by rwa [hobj, hasid]))]

/-- seatst puts its report in x[d] and leaves the seats as they are. -/
theorem seatst_reports {f : UnG} {s : State} (hr : s.ready f.g [f.a, f.d]) (hd : s.drains) (hn : s.noDudel)
    (hside : s.me.side = .single) {v : Reg64} (hv : s.seatReport (s.hand.getX f.a) = v) : ∃ t, exec (.seatst f) s = .next t ∧
      s.hand.movedOn t.hand 4 ∧ (f.d ≠ 0 → t.hand.getX f.d = v) ∧ s.hand.sameXBut t.hand f.d ∧ t.seats = s.seats := by
  obtain ⟨hg, hfull⟩ := hr
  have hnc := commit_noDudel hn
  have hexec : exec (.seatst f) s = .next ((s.commit.result f.d (s.commit.seatReport (s.hand.getX f.a))).retire 4) := by
    refine (finish_of_goes (o := execSeatst f s) rfl hg rfl).trans ?_
    simp only [src_full s 0 f.a f.ta (hfull f.a (by simp)), dest_full s f.d (hfull f.d (by simp)), commits_of_drains hd, ok_bind,
      unpaired_of_single (commit_single hside), seatTurn_of_noDudel hnc, seatDone_of_noDudel hnc]
    refine congrArg (fun v => Host.Outcome.next ((s.commit.result f.d v).retire 4)) ?_
    unfold State.seatReport
    cases s.commit.seatOf (s.hand.getX f.a) with
    | error _ => rfl
    | ok name =>
      obtain ⟨obj, n⟩ := name
      cases hq : s.commit.seatAt obj n <;> simp only [hq] <;> rfl
  rw [commit_seatReport, hv] at hexec
  obtain ⟨hmoved, hval, hrest⟩ := result_retired (commit_place s) (commit_hand_x s) f.d v 4
  exact ⟨_, hexec, hmoved, hval, hrest, commit_seats s⟩

/-- Settles O49: each clause is the theorem above for that instruction and that state of the seat. -/
theorem seats : Obligations.Seats := by
  unfold Obligations.Seats
  refine ⟨fun f s o hr hd hn hside => seatq_joins hr hd hn hside, fun f s obj o q hr hd hn ho => ?_,
    fun f s obj n hr hd hside => seat_not_held hr hd hside, promote_eq, fun s obj n h hs => ?_,
    fun f s obj o q hr hd hn ho => ?_, fun f s hr hd hn hside hu => ?_, fun f s hr hd hn hside => ?_⟩
  · refine ⟨fun h1 => ⟨seatw_owner hr hd hn ho h1, ?_, fun hquiet hs => seat_released hr hd hn ho hs h1 hquiet⟩,
      fun h0 hs => seat_folded hr hd hn ho hs h0, fun h1 => ⟨fun hu => ?_, seatr_of_not_owner hr hd hn ho h1⟩, ?_⟩
    · rw [exec_seatr hr hd hn ho, if_pos h1]
    · rw [exec_seatw hr hd hn ho hu, if_neg h1]
    · rw [exec_seatf hr hd hn ho]
  · refine ⟨⟨rfl, ?_, fun j hj => ?_⟩, fun q => foldSeat_of_owner, fun q hq h0 => ?_, foldSeat_of_absent⟩
    · exact (seatObj_releaseSeat s obj obj h hs).trans (if_pos rfl)
    · exact (seatObj_releaseSeat s obj j h hs).trans (if_neg hj)
    · refine ⟨foldSeat_seats s obj n h, fun j hj => ?_, ?_⟩
      · rw [foldSeat_of_waiting hq h0, seatObj_modSeat s obj j n _ hs, if_neg hj]
      · rw [foldSeat_of_waiting hq h0, seatObj_modSeat s obj obj n _ hs, if_pos rfl]
  · exact ⟨fun k => seatp_passes hr hd hn ho, fun n r h1 => seatx_swaps hr hd hn ho h1⟩
  · exact ⟨fun hdl rest => seatin_collects hr hd hside hu hn, seatin_waits hr hd hside hu⟩
  · refine ⟨fun h => seatst_reports hr hd hn hside (seatReport_of_malformed h), fun obj n hname => ⟨fun h => ?_, fun q ha hq => ?_⟩⟩
    · exact seatst_reports hr hd hn hside (seatReport_of_absent hname h)
    · exact seatst_reports hr hd hn hside (seatReport_of_stored hname ha hq)

end Sys2Proof.Machine
end

section
/-!
## The plane layout (O42)

Arithmetic on lists of blocks and on bits, then the row of planes, bit by bit.
-/
namespace Sys2Proof.Machine

/-! ### Lists of blocks of one length -/

theorem length_flatten_of_forall {α : Type} {m : Nat} {l : List (List α)} (h : ∀ b ∈ l, b.length = m) :
    l.flatten.length = l.length * m := by
  rw [List.length_flatten, List.map_congr_left h, List.map_const', List.sum_replicate, smul_eq_mul]

/-- Element `i` of block `q` of a list of blocks of `m` elements each. -/
theorem getD_flatten {α : Type} {m : Nat} {l : List (List α)} (h : ∀ b ∈ l, b.length = m) {q i : Nat} (hq : q < l.length)
    (hi : i < m) (d : α) : l.flatten.getD (q * m + i) d = (l.getD q []).getD i d := by
  induction l generalizing q with
  | nil => exact absurd hq (Nat.not_lt_zero _)
  | cons b l ih =>
    obtain ⟨hb, hl⟩ := List.forall_mem_cons.1 h
    rw [List.flatten_cons]
    cases q with
    | zero => rw [List.getD_append _ _ _ _ (by omega), Nat.zero_mul, Nat.zero_add, List.getD_cons_zero]
    | succ q =>
      rw [List.getD_append_right _ _ _ _ (by rw [hb, Nat.succ_mul]; omega), List.getD_cons_succ, ← ih hl (Nat.lt_of_succ_lt_succ hq), hb]
      congr 1
      rw [Nat.succ_mul]
      omega

/-- A list is what a function gives at its places. -/
theorem map_upFrom_eq {α : Type} {l : List α} {d : α} {f : Nat → α} {a : Nat} (h : ∀ j, j < l.length → f (a + j) = l.getD j d) :
    (upFrom a l.length).map f = l := by
  induction l generalizing a with
  | nil => rfl
  | cons x l ih =>
    rw [List.length_cons, upFrom, List.map_cons, ih (a := a + 1) (fun j hj => ?_)]
    · rw [show f a = x from h 0 (Nat.succ_pos _)]
    · rw [Nat.add_assoc, Nat.add_comm 1 j, h (j + 1) (Nat.succ_lt_succ hj), List.getD_cons_succ]

theorem foldUp_succ {α : Type} (n : Nat) (f : α → Nat → α) (a : α) : foldUp (n + 1) f a = f (foldUp n f a) n := by
  rw [foldUp, List.range_succ, List.foldl_append]
  rfl

/-! ### Numbers by their bits and their digits -/

theorem leBytes_leNat (l : List Byte) : leBytes l.length (leNat l) = l := by
  induction l with
  | nil => rfl
  | cons b l ih =>
    have hb := b.isLt
    rw [List.length_cons, leBytes, leNat, Nat.add_mul_div_left _ _ (by decide), Nat.div_eq_of_lt hb, Nat.zero_add, ih]
    congr 1
    apply BitVec.eq_of_toNat_eq
    rw [BitVec.toNat_ofNat, Nat.add_mul_mod_self_left, Nat.mod_eq_of_lt hb]

/-- The number of `n` bits. -/
theorem foldUp_bits (n : Nat) {b : Nat → Nat} (hb : ∀ j, b j < 2) : foldUp n (fun a j => a + 2 ^ j * b j) 0 < 2 ^ n ∧
    ∀ j, j < n → (foldUp n (fun a j => a + 2 ^ j * b j) 0).testBit j = decide (b j = 1) := by
  induction n with
  | zero => exact ⟨Nat.one_pos, fun j hj => absurd hj (Nat.not_lt_zero j)⟩
  | succ n ih =>
    obtain ⟨hlt, hbits⟩ := ih
    rw [foldUp_succ]
    have hn := hb n
    refine ⟨?_, fun j hj => ?_⟩
    · rw [Nat.pow_succ]
      have : 2 ^ n * b n ≤ 2 ^ n * 1 := Nat.mul_le_mul_left _ (by omega)
      omega
    · rw [Nat.add_comm, Nat.testBit_two_pow_mul_add _ hlt]
      split
      · next hjn => exact hbits j hjn
      · next hjn =>
        obtain rfl : j = n := by omega
        rw [Nat.sub_self, Nat.testBit_zero]
        congr 1
        rw [Nat.mod_eq_of_lt hn]

/-- The bits of a number from `k` on, `n` of them. -/
theorem foldUp_testBit (n k x : Nat) {b : Nat → Nat} (hb : ∀ j, b j < 2) (h : ∀ j, j < n → decide (b j = 1) = x.testBit (k + j)) :
    foldUp n (fun a j => a + 2 ^ j * b j) 0 = x / 2 ^ k % 2 ^ n := by
  obtain ⟨hlt, hbits⟩ := foldUp_bits n hb
  refine Nat.eq_of_testBit_eq fun j => ?_
  rw [Nat.testBit_mod_two_pow, Nat.testBit_div_two_pow]
  by_cases hj : j < n
  · rw [hbits j hj, h j hj, decide_eq_true hj, Bool.true_and, Nat.add_comm]
  · rw [Nat.testBit_lt_two_pow (lt_of_lt_of_le hlt (Nat.pow_le_pow_right (by decide) (by omega))), decide_eq_false hj, Bool.false_and]

/-- A number is the sum of its digits of `w` bits. -/
theorem foldUp_digits (n w x : Nat) : foldUp n (fun a j => a + x / 2 ^ (j * w) % 2 ^ w * 2 ^ (j * w)) 0 = x % 2 ^ (n * w) := by
  induction n with
  | zero => simp [foldUp, Nat.mod_one]
  | succ n ih => rw [foldUp_succ, ih, Nat.succ_mul, Nat.pow_add, Nat.mod_mul, Nat.mul_comm (2 ^ (n * w))]

/-- A digit as a signed number keeps its residue. -/
theorem toSigned_emod {w v : Nat} (h : v < 2 ^ w) : (toSigned w v % (2 ^ w : Nat)).toNat = v := by
  have hmod : ((v : Int) % (2 ^ w : Nat)).toNat = v := by
    rw [← Int.natCast_emod, Int.toNat_natCast, Nat.mod_eq_of_lt h]
  unfold toSigned
  split
  · exact hmod
  · rw [Int.sub_emod_right]
    exact hmod

/-! ### The plane layout (R67, R207) -/

/-- Byte `i` of plane `q` of a row of packed blocks. -/
def planeByte (w : Nat) (blocks : List (List Byte)) (q i : Nat) : Byte :=
  BitVec.ofNat 8 (foldUp 8 (fun a j => a + 2 ^ j *
    ((blocks.map (fun b => leNat (b.drop 4))).getD ((8 * i + j) / 32) 0 / 2 ^ ((8 * i + j) % 32 * w + q) % 2)) 0)

/-- The planes of a row, and its header words. -/
def planesOf (w : Nat) (blocks : List (List Byte)) : List (List Byte) :=
  (List.range w).map (fun q => (List.range (4 * blocks.length)).map (planeByte w blocks q))

def headersOf (blocks : List (List Byte)) : List (List Byte) := blocks.map (fun b => b.take 4)

theorem planeRow_eq (w : Nat) (blocks : List (List Byte)) :
    planeRow w blocks = (planesOf w blocks).flatten ++ (headersOf blocks).flatten := rfl

theorem planesOf_length (w : Nat) (blocks : List (List Byte)) : (planesOf w blocks).length = w := by
  rw [planesOf, List.length_map, List.length_range]

theorem length_of_mem_planesOf {w : Nat} {blocks : List (List Byte)} (b : List Byte) (hb : b ∈ planesOf w blocks) :
    b.length = 4 * blocks.length := by
  obtain ⟨q, -, rfl⟩ := List.mem_map.1 hb
  rw [List.length_map, List.length_range]

theorem planesOf_flatten_length (w : Nat) (blocks : List (List Byte)) : (planesOf w blocks).flatten.length = 4 * w * blocks.length := by
  rw [length_flatten_of_forall length_of_mem_planesOf, planesOf_length, ← Nat.mul_assoc, Nat.mul_comm w 4]

/-- Bit `j` of byte `i` of a plane is a bit of a mantissa. -/
theorem planeByte_bit (w : Nat) (blocks : List (List Byte)) (q i : Nat) {j : Nat} (hj : j < 8) :
    (planeByte w blocks q i).getLsbD j =
      (leNat ((blocks.getD ((8 * i + j) / 32) []).drop 4)).testBit ((8 * i + j) % 32 * w + q) := by
  obtain ⟨-, hbits⟩ := foldUp_bits 8 (b := fun j =>
    (blocks.map (fun b => leNat (b.drop 4))).getD ((8 * i + j) / 32) 0 / 2 ^ ((8 * i + j) % 32 * w + q) % 2)
    (fun _ => Nat.mod_lt _ Nat.two_pos)
  rw [planeByte, BitVec.getLsbD_ofNat, decide_eq_true hj, Bool.true_and, hbits j hj, Nat.testBit_eq_decide_div_mod_eq]
  rw [show (0 : Nat) = leNat (([] : List Byte).drop 4) from rfl, List.getD_map]

section
variable {w : Nat} {blocks : List (List Byte)} (h : ∀ b ∈ blocks, b.length = 4 + 4 * w)
include h

theorem length_of_mem_headersOf (b : List Byte) (hb : b ∈ headersOf blocks) : b.length = 4 := by
  obtain ⟨c, hc, rfl⟩ := List.mem_map.1 hb
  rw [List.length_take, h c hc]
  omega

theorem planeRow_length : (planeRow w blocks).length = 4 * w * blocks.length + 4 * blocks.length := by
  rw [planeRow_eq, List.length_append, planesOf_flatten_length, length_flatten_of_forall (length_of_mem_headersOf h), headersOf,
    List.length_map, Nat.mul_comm blocks.length 4]

omit h in
/-- Bit q of element e's mantissa is bit e of plane q. -/
theorem planeRow_bit {q e : Nat} (hq : q < w) (he : e < 32 * blocks.length) :
    ((planeRow w blocks).getD (q * (4 * blocks.length) + e / 8) 0).getLsbD (e % 8) =
      (leNat ((blocks.getD (e / 32) []).drop 4)).testBit (e % 32 * w + q) := by
  have hi : e / 8 < 4 * blocks.length := by omega
  have hle : (q + 1) * (4 * blocks.length) ≤ w * (4 * blocks.length) := Nat.mul_le_mul_right _ hq
  have hat : q * (4 * blocks.length) + e / 8 < (planesOf w blocks).flatten.length := by
    rw [planesOf_flatten_length, Nat.mul_comm 4 w, Nat.mul_assoc]
    rw [Nat.succ_mul] at hle
    omega
  rw [planeRow_eq, List.getD_append _ _ _ _ hat, getD_flatten length_of_mem_planesOf (by rwa [planesOf_length]) hi]
  have hplane : ((planesOf w blocks).getD q []).getD (e / 8) 0 = planeByte w blocks q (e / 8) := by
    simp [planesOf, List.getD_eq_getElem?_getD, hq, hi]
  rw [hplane, planeByte_bit _ _ _ _ (Nat.mod_lt _ (by decide)), Nat.div_add_mod]

/-- The header words follow the planes. -/
theorem planeRow_header {b j : Nat} (hb : b < blocks.length) (hj : j < 4) :
    (planeRow w blocks).getD (4 * w * blocks.length + 4 * b + j) 0 = (blocks.getD b []).getD j 0 := by
  rw [planeRow_eq, List.getD_append_right _ _ _ _ (by rw [planesOf_flatten_length]; omega), planesOf_flatten_length,
    show 4 * w * blocks.length + 4 * b + j - 4 * w * blocks.length = b * 4 + j by omega,
    getD_flatten (length_of_mem_headersOf h) (by rwa [headersOf, List.length_map]) hj, headersOf,
    show ([] : List Byte) = [].take 4 from rfl, List.getD_map]
  simp [List.getD_eq_getElem?_getD, hj]

omit h in
/-- What the planes give of a mantissa is the digit of its block's payload. -/
theorem planeRow_mantissa {b j : Nat} (hb : b < blocks.length) (hj : j < 32) :
    foldUp w (fun a q => a + 2 ^ q *
      (((planeRow w blocks).getD (q * (32 * blocks.length / 8) + (32 * b + j) / 8) 0).toNat / 2 ^ ((32 * b + j) % 8) % 2)) 0 =
      leNat ((blocks.getD b []).drop 4) / 2 ^ (j * w) % 2 ^ w := by
  refine foldUp_testBit w (j * w) _ (fun _ => Nat.mod_lt _ Nat.two_pos) fun q hq => ?_
  have hbit := planeRow_bit (w := w) (blocks := blocks) (e := 32 * b + j) hq (by omega)
  rw [show (32 * b + j) / 32 = b by omega, show (32 * b + j) % 32 = j by omega] at hbit
  rw [← hbit, ← Nat.testBit_eq_decide_div_mod_eq, show 32 * blocks.length / 8 = 4 * blocks.length by omega]
  rfl

omit h in
/-- Signed mantissas packed again are their number. -/
theorem pack_mantissas (n w x : Nat) :
    ((((List.range n).map (fun j => toSigned w (x / 2 ^ (j * w) % 2 ^ w))).zipIdx).foldl
      (fun (a : Nat) (mj : Int × Nat) => a + (mj.1 % (2 ^ w : Nat)).toNat * 2 ^ (mj.2 * w)) 0) = x % 2 ^ (n * w) := by
  rw [← foldUp_digits, foldUp]
  induction n with
  | zero => rfl
  | succ n ih =>
    rw [List.range_succ, List.map_append, List.zipIdx_append, List.foldl_append, List.foldl_append, ih]
    simp only [List.map_cons, List.map_nil, List.zipIdx_cons, List.zipIdx_nil, List.foldl_cons, List.foldl_nil, List.length_map,
      List.length_range, Nat.zero_add]
    rw [toSigned_emod (Nat.mod_lt _ (Nat.two_pow_pos w))]

/-- What is taken out of a row, packed, is each block again. -/
theorem planePacked_planeRow {b : Nat} (hb : b < blocks.length) :
    planePacked (fun o => (planeRow w blocks).getD o 0) w (32 * blocks.length) b = blocks.getD b [] := by
  have hlen : (blocks.getD b []).length = 4 + 4 * w := by
    rw [List.getD_eq_getElem _ _ hb]
    exact h _ (List.getElem_mem hb)
  have hhead : (upFrom (w * (32 * blocks.length) / 8 + 4 * b) 4).map (fun o => (planeRow w blocks).getD o 0) =
      (blocks.getD b []).take 4 := by
    have h4 : ((blocks.getD b []).take 4).length = 4 := by rw [List.length_take]; omega
    have hat : w * (32 * blocks.length) / 8 = 4 * w * blocks.length := by
      rw [show w * (32 * blocks.length) = 8 * (4 * w * blocks.length) by ring, Nat.mul_div_cancel_left _ (by decide)]
    have hmap := map_upFrom_eq (l := (blocks.getD b []).take 4) (d := 0) (f := fun o => (planeRow w blocks).getD o 0)
      (a := 4 * w * blocks.length + 4 * b) (fun j hj => by
        rw [h4] at hj
        rw [planeRow_header h hb hj]
        simp [List.getD_eq_getElem?_getD, hj])
    rwa [h4, ← hat] at hmap
  have hms : (planeBlock (fun o => (planeRow w blocks).getD o 0) w (32 * blocks.length) b).ms =
      (List.range 32).map (fun j => toSigned w (leNat ((blocks.getD b []).drop 4) / 2 ^ (j * w) % 2 ^ w)) :=
    List.map_congr_left fun j hj => congrArg (toSigned w) (planeRow_mantissa hb (List.mem_range.1 hj))
  have hdrop : ((blocks.getD b []).drop 4).length = 4 * w := by rw [List.length_drop]; omega
  have hlt : leNat ((blocks.getD b []).drop 4) < 2 ^ (32 * w) := by
    have := leNat_lt ((blocks.getD b []).drop 4)
    rwa [hdrop, show (256 : Nat) = 2 ^ 8 from rfl, ← Nat.pow_mul, ← Nat.mul_assoc] at this
  rw [planePacked, hhead, hms, pack_mantissas, Nat.mod_eq_of_lt hlt, ← hdrop, leBytes_leNat, List.take_append_drop]
end

theorem planeLayout_holds : planeLayout :=
  fun _ _ h => ⟨planeRow_length h, fun _ _ => planeRow_bit, fun _ _ => planeRow_header h, fun _ => planePacked_planeRow h⟩

end Sys2Proof.Machine
end

section
/-!
## Data and acknowledgements that come back (O42; R83, R100, R237)
-/
namespace Sys2Proof.Machine

/-- Data that land fill one outstanding producer. -/
theorem handOf_loadLanding {e : EntryEv} {s : State} {h : Hand} (hh : s.handOf e.hand = some h) {p : Producer}
    (hp : h.producers[e.idx]? = some p) (hs : p.spawn = none) : ∃ t, exec (.loadLanding e) s = .next t ∧
      t.handOf e.hand = some (if h.mayLand e.idx then { h with producers := h.producers.eraseIdx e.idx } else h) ∧
      t.mem = s.mem ∧ t.cores = s.cores := by
  refine ⟨_, rfl, ?_, State.modHand_mem .., State.modHand_cores ..⟩
  rw [handOf_modHand (fun h => ?_) (fun h => ?_) hh]
  · rw [hp]
    dsimp only
    rw [hs, Option.isSome_none, Bool.false_or]
    cases h.mayLand e.idx <;> rfl
  all_goals
    split
    · rfl
    · split <;> rfl

/-- One acknowledgement returns. -/
theorem handOf_storeAcknowledged {e : EntryEv} {s : State} {h : Hand} (hh : s.handOf e.hand = some h) :
    ∃ t, exec (.storeAcknowledged e) s = .next t ∧
      t.handOf e.hand = some { h with ord := { h.ord with acks := h.ord.acks.eraseIdx e.idx } } ∧ t.mem = s.mem ∧ t.cores = s.cores :=
  ⟨_, rfl, handOf_modHand (fun _ => rfl) (fun _ => rfl) hh, State.modHand_mem .., State.modHand_cores ..⟩

theorem landings_holds : landings :=
  fun _ _ _ hh => ⟨fun _ hp hs => handOf_loadLanding hh hp hs, handOf_storeAcknowledged hh⟩

end Sys2Proof.Machine
end

section
/-!
## What the engines do to memory and to the commands that run (O42)

One rule per operation: what it makes live, what it publishes, and that the commands and the arriving copies stay.
-/
namespace Sys2Proof.Machine

/-! ### What stays while bytes land -/

/-- The copies of this device that run, and those that arrive. -/
def State.transfers (s : State) := (s.copies, s.arrivals)

theorem copies_of_transfers {s t : State} (h : t.transfers = s.transfers) : t.copies = s.copies := congrArg Prod.fst h

theorem arrivals_of_transfers {s t : State} (h : t.transfers = s.transfers) : t.arrivals = s.arrivals := congrArg Prod.snd h

theorem foldl_keeps {α β σ : Type} {p : σ → β} {f : σ → α → σ} (h : ∀ s a, p (f s a) = p s) (l : List α) (s : σ) :
    p (l.foldl f s) = p s :=
  foldl_inv (fun t => p t = p s) (fun t a ht => (h t a).trans ht) rfl

theorem modHand_transfers (s : State) (n : Nat) (f : Hand → Hand) : (s.modHand n f).transfers = s.transfers := by
  unfold State.modHand
  split <;> rfl

theorem clearTag_transfers (s : State) (line : Nat) : (s.clearTag line).transfers = s.transfers := by
  unfold State.clearTag
  split
  · rfl
  · exact modHand_transfers ..

theorem putLive_transfers (s : State) (k : Nat) (b : Byte) : (s.putLive k b).transfers = s.transfers := by
  refine Eq.trans ?_ (clearTag_transfers s (lineOf k))
  unfold State.putLive
  simp only
  split
  · split <;> rfl
  · rfl

theorem putPub_transfers (s : State) (k : Nat) (b : Byte) : (s.putPub k b).transfers = s.transfers := putLive_transfers s k b

theorem deliver_transfers (s : State) (c t g k : Nat) (b : Byte) : (s.deliver c t g k b).transfers = s.transfers :=
  putPub_transfers s k b

theorem land_transfers (s : State) (c t g o : Nat) (l : List Byte) : (s.land c t g o l).transfers = s.transfers :=
  foldl_keeps (p := State.transfers) (f := fun (s : State) (kb : Nat × Byte) => s.deliver c t g kb.1 kb.2)
    (fun s kb => deliver_transfers s c t g kb.1 kb.2) _ s

theorem putLiveAll_transfers (s : State) (l : List (Nat × Byte)) : (s.putLiveAll l).transfers = s.transfers :=
  foldl_keeps (p := State.transfers) (f := fun (s : State) (kb : Nat × Byte) => s.putLive kb.1 kb.2)
    (fun s kb => putLive_transfers s kb.1 kb.2) l s

theorem putPubAll_transfers (s : State) (l : List (Nat × Byte)) : (s.putPubAll l).transfers = s.transfers :=
  foldl_keeps (p := State.transfers) (f := fun (s : State) (kb : Nat × Byte) => s.putPub kb.1 kb.2)
    (fun s kb => putPub_transfers s kb.1 kb.2) l s

theorem engineWrite_transfers {perform : State → State} (h : ∀ s, (perform s).transfers = s.transfers) (s : State) (w : EngineWrite)
    (kb : List (Nat × Byte)) : (s.engineWrite w kb perform).transfers = s.transfers :=
  h (s.modTask w.task _)

/-! ### What reaches memory -/

theorem putPub_pub (s : State) (k : Nat) (b : Byte) : (s.putPub k b).mem.pub = s.mem.pub.put k b :=
  congrArg (Mem.put · k b) (putLive_pub s k b)

theorem putLiveAll_pub (s : State) (l : List (Nat × Byte)) : (s.putLiveAll l).mem.pub = s.mem.pub :=
  foldl_keeps (p := fun s => s.mem.pub) (fun s kb => putLive_pub s kb.1 kb.2) l s

/-- What is delivered into a tile is live and published. -/
theorem land_mem (s : State) (c t g o : Nat) (l : List Byte) :
    (s.land c t g o l).mem.live = s.mem.live.putAll (atAddr ((s.tile c t).key c o) l) ∧
      (s.land c t g o l).mem.pub = s.mem.pub.putAll (atAddr ((s.tile c t).key c o) l) := by
  have hall (kbs : List (Nat × Byte)) (s : State) :
      (kbs.foldl (fun (s : State) kb => s.deliver c t g kb.1 kb.2) s).mem.live = s.mem.live.putAll kbs ∧
        (kbs.foldl (fun (s : State) kb => s.deliver c t g kb.1 kb.2) s).mem.pub = s.mem.pub.putAll kbs := by
    induction kbs generalizing s with
    | nil => exact ⟨rfl, rfl⟩
    | cons kb kbs ih =>
      obtain ⟨hlive, hpub⟩ := ih (s.deliver c t g kb.1 kb.2)
      exact ⟨hlive.trans (congrArg (Mem.putAll · kbs) (putPub_live s kb.1 kb.2)),
        hpub.trans (congrArg (Mem.putAll · kbs) (putPub_pub s kb.1 kb.2))⟩
  exact hall _ s

section
variable (s : State) (c : Copy) (o : Nat) (l : List Byte)

theorem copyLand_live : (s.copyLand c o l).mem.live = s.mem.live.putAll (atAddr ((s.tile c.core c.tile).key c.core o) l) :=
  (land_mem ..).1

theorem copyLand_pub : (s.copyLand c o l).mem.pub = s.mem.pub.putAll (atAddr ((s.tile c.core c.tile).key c.core o) l) :=
  (land_mem ..).2

theorem copyLand_transfers : (s.copyLand c o l).transfers = s.transfers :=
  engineWrite_transfers (fun s => land_transfers s ..) ..
end

section
variable (s : State) (f : PeerF) (gen o : Nat) (l : List Byte)

theorem peerBytes_live : (s.peerBytes f gen o l).mem.live = s.mem.live.putAll (atAddr ((s.tile f.core f.tile).key f.core o) l) :=
  (land_mem ..).1

theorem peerBytes_transfers : (s.peerBytes f gen o l).transfers = s.transfers :=
  engineWrite_transfers (fun s => land_transfers s ..) ..
end

/-- The heel images of some bytes are all that their retention changes. -/
theorem retainAll_heel (s : State) (w : Writer) (kb : List (Nat × Byte)) :
    ∃ heel, s.retainAll w kb = { s with mem := { s.mem with heel := heel } } := by
  induction kb generalizing s with
  | nil => exact ⟨_, rfl⟩
  | cons x kb ih =>
    have hone : ∃ heel, (s.retain w x.1).getD s = { s with mem := { s.mem with heel := heel } } := by
      unfold State.retain
      dsimp only
      split
      · exact ⟨_, rfl⟩
      · split <;> exact ⟨_, rfl⟩
    obtain ⟨heel, hheel⟩ := hone
    obtain ⟨heel', hheel'⟩ := ih ((s.retain w x.1).getD s)
    refine ⟨heel', hheel'.trans ?_⟩
    rw [hheel]

section
variable (s : State) (c : Copy) (kb : List (Nat × Byte))

theorem copyStore_live : (s.copyStore c kb).mem.live = s.mem.live.putAll kb := by
  obtain ⟨heel, hheel⟩ := retainAll_heel s (s.copyWriter c) kb
  refine (putLiveAll_live _ kb).trans ?_
  rw [hheel]
  rfl

theorem copyStore_pub : (s.copyStore c kb).mem.pub = s.mem.pub := by
  obtain ⟨heel, hheel⟩ := retainAll_heel s (s.copyWriter c) kb
  refine (putLiveAll_pub _ kb).trans ?_
  rw [hheel]
  rfl

theorem copyStore_transfers : (s.copyStore c kb).transfers = s.transfers := by
  obtain ⟨heel, hheel⟩ := retainAll_heel s (s.copyWriter c) kb
  refine (engineWrite_transfers (fun s => putLiveAll_transfers s kb) ..).trans ?_
  rw [hheel]
  rfl
end

/-! ### The commands that run -/

theorem copyOf_mem {s : State} {hand n : Nat} {c : Copy} (h : s.copyOf hand n = some c) : c ∈ s.copies ∧ c.hand = hand ∧ c.n = n := by
  have hp := List.find?_some h
  simp only [Bool.and_eq_true, beq_iff_eq] at hp
  exact ⟨List.mem_of_find?_eq_some h, hp⟩

/-- A command replaced is what is found under its number. -/
theorem copyOf_setCopy {s : State} {hand n : Nat} {c d : Copy} (h : s.copyOf hand n = some c) (hh : d.hand = c.hand) (hn : d.n = c.n)
    (hg : d.gen = c.gen) : (s.setCopy d).copyOf c.hand c.n = some d := by
  obtain ⟨-, rfl, rfl⟩ := copyOf_mem h
  have hfind (l : List Copy) (hl : l.find? (fun x => x.hand == c.hand && x.n == c.n) = some c) :
      (l.map (fun x => if x.hand = d.hand ∧ x.n = d.n ∧ x.gen = d.gen then d else x)).find?
        (fun x => x.hand == c.hand && x.n == c.n) = some d := by
    induction l with
    | nil => cases hl
    | cons x l ih =>
      have hp : ((if x.hand = d.hand ∧ x.n = d.n ∧ x.gen = d.gen then d else x).hand == c.hand &&
          (if x.hand = d.hand ∧ x.n = d.n ∧ x.gen = d.gen then d else x).n == c.n) = (x.hand == c.hand && x.n == c.n) := by
        split
        · next hx => rw [hx.1, hx.2.1]
        · rfl
      rw [List.map_cons, List.find?_cons, hp]
      rw [List.find?_cons] at hl
      split at hl
      · rw [Option.some.inj hl, if_pos ⟨hh.symm, hn.symm, hg.symm⟩]
      · exact ih hl
  exact hfind s.copies h

theorem copyOf_congr {s t : State} (h : t.transfers = s.transfers) (hand n : Nat) : t.copyOf hand n = s.copyOf hand n := by
  rw [State.copyOf, State.copyOf, copies_of_transfers h]

/-- A command taken out is not found, when no other has its number. -/
theorem copyOf_dropCopy {s : State} {c : Copy} (h : ∀ d ∈ s.copies, d.hand = c.hand → d.n = c.n → d = c) :
    (s.dropCopy c).copyOf c.hand c.n = none := by
  refine List.find?_eq_none.2 fun d hd hp => ?_
  obtain ⟨hmem, hkept⟩ := List.mem_filter.1 hd
  simp only [Bool.and_eq_true, beq_iff_eq] at hp
  rw [h d hmem hp.1 hp.2] at hkept
  simp at hkept

end Sys2Proof.Machine
end

section
/-!
## The events of the copy engine (O42)
-/
namespace Sys2Proof.Machine

/-! ### The next position of a command (R274, R276) -/

theorem exec_copyBytesLanded {e : CmdEv} {s : State} {c : Copy} (hc : s.copyOf e.hand e.n.toNat = some c) (hheld : s.copyHeld c = false)
    (hone : e.count = 1) (ha : s.arrivingAt e = none) :
    exec (.copyBytesLanded e) s = .next (s.copyRun e.hand e.n.toNat 1) := by
  refine congrArg Host.Outcome.next ?_
  rw [ha]
  dsimp only
  rw [hc]
  dsimp only
  rw [hheld, hone]
  rfl

section
variable {e : CmdEv} {s : State} {c : Copy} (hc : s.copyOf e.hand e.n.toNat = some c) (hheld : s.copyHeld c = false)
  (hstatus : c.status = none) (hpos : c.pos < c.vol) (hone : e.count = 1) (hchain : s.chainError c.hand = none)
  (ha : s.arrivingAt e = none)
include hc hheld hstatus hpos hone hchain ha

/-- A position that lands. -/
theorem exec_copyBytesLanded_ok {s' : State} {c' : Copy} (h : s.copyStep c = .ok (s', c')) :
    exec (.copyBytesLanded e) s = .next (s'.setCopy c') := by
  rw [exec_copyBytesLanded hc hheld hone ha]
  simp [State.copyRun, hc, hstatus, Nat.not_le.2 hpos, State.copyTry, hchain, h]

/-- A position that stops its command with a status. -/
theorem exec_copyBytesLanded_stop {b : Byte} (h : s.copyStep c = .error (.status b)) :
    exec (.copyBytesLanded e) s = .next (s.setCopy { c with status := some b }) := by
  rw [exec_copyBytesLanded hc hheld hone ha]
  simp [State.copyRun, hc, hstatus, Nat.not_le.2 hpos, State.copyTry, hchain, h]
end

/-! ### The end of a command (R272) -/

/-- The completion record of a command that ended with a status. -/
def recordOf (c : Copy) (status : Byte) : List Byte :=
  leBytes 8 c.n ++ leBytes 4 (if status = 0 then crc32c c.moved else 0) ++ [status, 0, 0, 0]

theorem recordOf_length (c : Copy) (status : Byte) : (recordOf c status).length = 16 := by simp [recordOf]

/-- The state of a command's tile once the command has ended. -/
def State.endTile (s : State) (c : Copy) (status : Byte) : State :=
  if c.vol = 0 then s
  else if c.kind.fills then
    (if status = 0 then s else s.modTile c.core c.tile (fun t => if t.gen = c.gen ∧ t.state = 1 then { t with state := 0 } else t))
  else if c.kind = .cpyOut then
    s.modTile c.core c.tile (fun t => if t.state = 3 then { t with state := if status = 0 then 0 else 2 } else t)
  else s

theorem endTile_mem (s : State) (c : Copy) (status : Byte) : (s.endTile c status).mem = s.mem := by
  unfold State.endTile
  repeat' split
  all_goals rfl

theorem endTile_copies (s : State) (c : Copy) (status : Byte) : (s.endTile c status).copies = s.copies := by
  unfold State.endTile
  repeat' split
  all_goals rfl

theorem publish_live (s : State) (l : List (Nat × Byte)) : (s.publish l).mem.live = s.mem.live :=
  foldl_inv (fun m : MemState => m.live = s.mem.live) (fun _ _ h => h) rfl

/-- What a command's end changes, in order. -/
theorem endCopy_eq (s : State) (c : Copy) (status : Byte) : ∃ l g f, s.endCopy c status =
    (((((((s.publish l).freeImages (s.copyWriter c)).putPubAll (atAddr (s.recordKey c) (recordOf c status))).endTile c status).modCore
      c.core g).dropCopy c).modHand c.hand f) := ⟨_, _, _, rfl⟩

/-- A command that ends leaves the chain, and its completion record stands in the heel of its hand's slot. -/
theorem endCopy_ends {s : State} {c : Copy} (status : Byte) (hwf : Mem.wf s.mem.live = true)
    (honly : ∀ d ∈ s.copies, d.hand = c.hand → d.n = c.n → d = c) :
    (s.endCopy c status).copyOf c.hand c.n = none ∧
      (s.endCopy c status).mem.live.bytes (s.recordKey c) 16 = recordOf c status := by
  obtain ⟨l, g, f, heq⟩ := endCopy_eq s c status
  rw [heq]
  constructor
  · rw [copyOf_congr (modHand_transfers ..)]
    refine copyOf_dropCopy ?_
    rw [State.modCore_copies, endTile_copies, copies_of_transfers (putPubAll_transfers ..)]
    exact honly
  · have hlive : (((s.publish l).freeImages (s.copyWriter c)).putPubAll (atAddr (s.recordKey c) (recordOf c status))).mem.live =
        s.mem.live.putAll (atAddr (s.recordKey c) (recordOf c status)) := by
      rw [putPubAll_live]
      exact congrArg (Mem.putAll · _) (publish_live s l)
    rw [State.modHand_mem]
    change (State.endTile _ c status).mem.live.bytes _ _ = _
    rw [endTile_mem, hlive, ← recordOf_length c status, Mem.bytes_putAll _ _ _ hwf]

section
variable {e : CmdEv} {s : State} {c : Copy} (hc : s.copyOf e.hand e.n.toNat = some c) (hkind : c.kind ≠ .fill)
include hc hkind

/-- A command that has stopped ends with its status. -/
theorem exec_copyCompletion_stopped {b : Byte} (hstatus : c.status = some b) :
    exec (.copyCompletion e) s = .next (s.endCopy c b) := by
  refine congrArg Host.Outcome.next ?_
  simp [hc, hstatus, hkind]

/-- A command whose sweep has ended ends with status 0. -/
theorem exec_copyCompletion_swept (hstatus : c.status = none) (hpos : c.vol ≤ c.pos) (hheld : s.copyHeld c = false)
    (hpeer : c.kind ≠ .cpyPeer) : exec (.copyCompletion e) s = .next (s.endCopy c 0) := by
  refine congrArg Host.Outcome.next ?_
  simp [hc, hstatus, hkind, hheld, hpeer, Nat.not_lt.2 hpos]
end

/-! ### Deliveries from other devices (R277, R392) -/

/-- A delivery during a machine halt, or one that no port brings. -/
theorem exec_peerDelivery_none {f : PeerF} {s : State} (h : s.pod.halted = true ∨ s.portTo f.src = none) :
    exec (.peerDelivery f) s = .next s := by
  refine congrArg Host.Outcome.next ?_
  split
  · rfl
  · next hh =>
    rw [h.resolve_left hh]

section
variable {f : PeerF} {s s0 : State} {p : Nat} (hhalt : s.pod.halted = false) (hport : s.portTo f.src = some p)
  (ha : s.arrives (256 + p) f.bytes.length (s.recvBuffer f) = some s0) (hkind : f.kind = 1)

include hhalt hport ha in
theorem exec_peerDelivery : exec (.peerDelivery f) s = .next (s0.peerArrives f) := by
  refine congrArg Host.Outcome.next ?_
  simp [hhalt, hport, ha]

include hkind in
/-- A tile that is READY or DRAINING takes no delivery (R68). -/
theorem peerArrives_busy (h : (s0.tile f.core f.tile).state = 2 ∨ (s0.tile f.core f.tile).state = 3) : s0.peerArrives f = s0 := by
  refine if_pos (Or.inr ⟨?_, ?_⟩)
  · rw [hkind]
    decide
  · rcases h with h | h
    · exact Or.inr (Or.inr (Or.inr (Or.inl h)))
    · exact Or.inr (Or.inr (Or.inr (Or.inr (Or.inl h))))

include hkind in
/-- A sound delivery opens the fill of its tile. -/
theorem peerArrives_sound (hcore : f.core < Config.coreCount) (htile : f.tile < 64) (h2 : (s0.tile f.core f.tile).state ≠ 2)
    (h3 : (s0.tile f.core f.tile).state ≠ 3) (hwhole : f.bytes.length % (s0.tile f.core f.tile).slotBytes = 0) (hpos : 0 < f.sweep.esize)
    (hsize : f.sweep.esize = (s0.tile f.core f.tile).slotBytes)
    (hfits : (s0.tile f.core f.tile).fits f.roff.toNat (f.bytes.length / (s0.tile f.core f.tile).slotBytes) = true) (hne : f.bytes ≠ [])
    (hfield : (s0.field (fieldOfCore f.core)).state ≠ 6) :
    s0.peerArrives f = { s0.modTile f.core f.tile Tile.accept with arrivals := (s0.modTile f.core f.tile Tile.accept).arrivals ++
      [⟨f, ((s0.modTile f.core f.tile Tile.accept).tile f.core f.tile).gen, 0, []⟩] } := by
  unfold State.peerArrives
  dsimp only
  rw [if_neg, if_neg, if_pos]
  · exact ⟨hkind, by simpa using hne⟩
  · exact fun h => hne (List.isEmpty_iff.1 h.1)
  · rw [← hsize] at hwhole hfits
    simp [hkind, h2, h3, hsize.symm, hfield, hwhole, hfits, hpos.ne', hcore, htile]
end

/-! ### A copy that arrives (R277, R392, R412) -/

theorem tile_modTile {s : State} {c t : Nat} {f : Tile → Tile} (hc : rising s.cores = true) (ht : rising (s.core c).tiles = true) :
    (s.modTile c t f).tile c t = f (s.tile c t) := by
  rw [State.tile, State.modTile, core_modCore _ _ _ _ hc, if_pos rfl, mget_mput _ _ _ _ _ ht, if_pos rfl]
  rfl

/-- Some of a tile's bytes in row layout stand where the offset of their slot says. -/
theorem peerLand_of_row {s : State} {f : PeerF} (h : (s.tile f.core f.tile).plane = false) (gen p : Nat) :
    s.peerLand f gen p = s.peerBytes f gen ((s.tile f.core f.tile).slotAt f.roff.toNat p) (peerElem f p) := by
  rw [State.peerLand, h]
  rfl

theorem peerWord_of_none {s : State} {f : PeerF} (h : f.cwa = 0) (bytes : Mem) : s.peerWord f bytes = s := if_pos h

section
variable {e : CmdEv} {s : State} {i : Nat} {a : Arrival} (hhand : e.hand = 2 ^ 32 + i) (hone : e.count = 1)
  (ha : s.arrivals[i]? = some a)

include hhand ha in
theorem arrivingAt_eq : s.arrivingAt e = some i := by
  obtain ⟨hi, -⟩ := List.getElem?_eq_some_iff.1 ha
  rw [State.arrivingAt, hhand, Nat.add_sub_cancel_left, if_pos ⟨Nat.le_add_right .., hi⟩]

include hhand ha in
theorem exec_copyBytesLanded_halted (h : s.pod.halted = true) : exec (.copyBytesLanded e) s = .next s := by
  refine congrArg Host.Outcome.next ?_
  rw [arrivingAt_eq hhand ha]
  exact if_pos h

include hhand ha hone in
theorem exec_copyBytesLanded_arriving (h : s.pod.halted = false) : exec (.copyBytesLanded e) s = .next (s.arriveRun i 1) := by
  refine congrArg Host.Outcome.next ?_
  rw [arrivingAt_eq hhand ha, hone]
  dsimp only
  rw [h]
  rfl

/-- An element for a tile waits for no stack. -/
theorem arriveWaits_of_tile {s : State} {a : Arrival} (hkind : a.f.kind = 1) (h : a.pos < peerCount a.f ∨ a.f.cwa = 0) :
    s.arriveWaits a = false := by
  unfold State.arriveWaits
  split
  · next hle => simp [h.resolve_left (Nat.not_lt.2 hle)]
  · simp [hkind]

variable (hkind : a.f.kind = 1) (hpos : a.pos < peerCount a.f)

include ha hkind hpos in
/-- A failed field's tile takes nothing: the copy ends there. -/
theorem arriveRun_failed (h : (s.field (fieldOfCore a.f.core)).state = 6) :
    s.arriveRun i 1 = ({ s with arrivals := s.arrivals.eraseIdx i }).arriveEnd a false := by
  have hstep : s.arriveStep a = none := by simp [State.arriveStep, hkind, h]
  simp [State.arriveRun, ha, arriveWaits_of_tile hkind (.inl hpos), Nat.not_le.2 hpos, hstep]

theorem arriveEnd_tile {r : State} {a : Arrival} (hkind : a.f.kind = 1) (hc : rising r.cores = true)
    (ht : rising (r.core a.f.core).tiles = true) : ((r.arriveEnd a false).tile a.f.core a.f.tile).state =
      if (r.tile a.f.core a.f.tile).gen = a.gen ∧ (r.tile a.f.core a.f.tile).state = 1 then 0 else (r.tile a.f.core a.f.tile).state := by
  have hend : r.arriveEnd a false = ((r.publish a.wrote).freeImages (peerWriter a.f)).modTile a.f.core a.f.tile
      (fun t => if t.gen = a.gen ∧ t.state = 1 then { t with state := 0 } else t) := by
    simp [State.arriveEnd, hkind]
  rw [hend, tile_modTile (s := (r.publish a.wrote).freeImages (peerWriter a.f)) hc ht]
  exact apply_ite Tile.state ..

variable (hfield : (s.field (fieldOfCore a.f.core)).state ≠ 6)

include hkind hfield in
theorem arriveStep_tile : s.arriveStep a = some (s.peerLand a.f a.gen a.pos, { a with pos := a.pos + 1 }) := by
  simp [State.arriveStep, hkind, hfield]

include ha hkind hpos hfield in
/-- An element that is not the last lands, and the copy stands at the next one. -/
theorem arriveRun_more (hmore : a.pos + 1 < peerCount a.f) : s.arriveRun i 1 =
    { s.peerLand a.f a.gen a.pos with arrivals := (s.peerLand a.f a.gen a.pos).arrivals.set i { a with pos := a.pos + 1 } } := by
  simp [State.arriveRun, ha, arriveWaits_of_tile hkind (.inl hpos), Nat.not_le.2 hpos, arriveStep_tile hkind hfield,
    Nat.not_le.2 hmore]

include ha hkind hpos hfield in
/-- With the last element the copy ends. -/
theorem arriveRun_last (hlast : peerCount a.f ≤ a.pos + 1) (hcwa : a.f.cwa = 0) : s.arriveRun i 1 =
    ({ s.peerLand a.f a.gen a.pos with arrivals := (s.peerLand a.f a.gen a.pos).arrivals.eraseIdx i }).arriveEnd
      { a with pos := a.pos + 1 } true := by
  have hwaits (t : State) : t.arriveWaits { a with pos := a.pos + 1 } = false := arriveWaits_of_tile hkind (.inr hcwa)
  simp [State.arriveRun, ha, arriveWaits_of_tile hkind (.inl hpos), Nat.not_le.2 hpos, arriveStep_tile hkind hfield, hlast, hwaits]

end

/-- The end of a copy that brings no completion word writes nothing. -/
theorem arriveEnd_whole {r : State} {a : Arrival} (hcwa : a.f.cwa = 0) :
    (r.arriveEnd a true).mem.live = r.mem.live ∧ (r.arriveEnd a true).arrivals = r.arrivals := by
  have hend : r.arriveEnd a true = (r.publish a.wrote).freeImages (peerWriter a.f) := peerWord_of_none hcwa _
  rw [hend]
  exact ⟨publish_live r a.wrote, rfl⟩

/-- An element of an arriving stream stands in its slot. -/
theorem peerLand_bytes {s : State} {a : Arrival} (hplane : (s.tile a.f.core a.f.tile).plane = false) (hwf : Mem.wf s.mem.live = true) :
    (s.peerLand a.f a.gen a.pos).mem.live.bytes ((s.tile a.f.core a.f.tile).key a.f.core
      ((s.tile a.f.core a.f.tile).slotAt a.f.roff.toNat a.pos)) (peerElem a.f a.pos).length = peerElem a.f a.pos := by
  rw [peerLand_of_row hplane, peerBytes_live, Mem.bytes_putAll _ _ _ hwf]

theorem peerLand_arrivals {s : State} {f : PeerF} (hplane : (s.tile f.core f.tile).plane = false) (gen p : Nat) :
    (s.peerLand f gen p).arrivals = s.arrivals := by
  rw [peerLand_of_row hplane, arrivals_of_transfers (peerBytes_transfers ..)]

theorem copyEngine_holds : copyEngine := by
  refine ⟨fun e s c hc hheld hstatus hpos hone hchain ha =>
      ⟨fun _ _ => exec_copyBytesLanded_ok hc hheld hstatus hpos hone hchain ha,
        fun _ => exec_copyBytesLanded_stop hc hheld hstatus hpos hone hchain ha⟩,
    fun e s c hc hkind hwf honly => ⟨fun b hstatus => ?_, fun hstatus hpos hheld hpeer => ?_⟩, fun _ _ h => exec_peerDelivery_none h,
    fun f s s0 p hhalt hport ha hkind hcore htile => ⟨fun hbusy => ?_, fun h2 h3 hsound => ?_⟩,
    fun e s i a hhand hone ha => ⟨fun hhalt => exec_copyBytesLanded_halted hhand ha hhalt,
      fun hhalt hkind hpos hfield => ⟨?_, fun hcores htiles => arriveEnd_tile hkind hcores htiles⟩,
      fun hhalt hkind hpos hplane hfield hwf => ⟨fun hmore => ?_, fun hlast hcwa => ?_⟩⟩⟩
  · exact ⟨_, exec_copyCompletion_stopped hc hkind hstatus, endCopy_ends b hwf honly⟩
  · exact ⟨_, exec_copyCompletion_swept hc hkind hstatus hpos hheld hpeer, endCopy_ends 0 hwf honly⟩
  · rw [exec_peerDelivery hhalt hport ha, peerArrives_busy hkind hbusy]
  · obtain ⟨hwhole, hesize, hsize, hfits, hne, hfield⟩ := hsound
    rw [exec_peerDelivery hhalt hport ha, peerArrives_sound hkind hcore htile h2 h3 hwhole hesize hsize hfits hne hfield]
  · rw [exec_copyBytesLanded_arriving hhand hone ha hhalt, arriveRun_failed ha hkind hpos hfield]
  · refine ⟨_, exec_copyBytesLanded_arriving hhand hone ha hhalt, ?_⟩
    rw [arriveRun_more ha hkind hpos hfield hmore]
    exact ⟨peerLand_bytes hplane hwf, congrArg (List.set · i _) (peerLand_arrivals hplane ..)⟩
  · refine ⟨_, exec_copyBytesLanded_arriving hhand hone ha hhalt, ?_⟩
    rw [arriveRun_last ha hkind hpos hfield hlast hcwa]
    obtain ⟨hlive, harrivals⟩ := arriveEnd_whole (a := { a with pos := a.pos + 1 }) hcwa
    exact ⟨(congrArg (Mem.bytes · _ _) hlive).trans (peerLand_bytes hplane hwf),
      harrivals.trans (congrArg (List.eraseIdx · i) (peerLand_arrivals hplane ..))⟩

end Sys2Proof.Machine
end

section
/-!
## What the copy engine reads (R274)

A read of the engine leaves all of the state but the cache's marks and the count of stripes rebuilt (`State.looked`).
-/
namespace Sys2Proof.Machine

/-! ### Settled bytes, as the engine finds them (R77, R120) -/

section
/-! Any way to make the open choices that chooses nothing where there is one outcome. -/
variable {pick : State → Nat → Nat → State × Nat} (hone : ∀ s j, pick s j 1 = (s, 0))
include hone

theorem pickByte_of_settled (whole : Nat → Bool) (acc : State × List Byte) {b : ByteView} (hm : b.maybe = []) (ha : b.alt = none) :
    pickByte pick whole none acc b = (acc.1, acc.2 ++ [b.value none]) := by
  simp [pickByte, hm, ha, hone]

theorem pickBytes_of_settled (s : State) (key w : Nat) {views : List ByteView} (h : ∀ b ∈ views, b.maybe = [] ∧ b.alt = none) :
    pickBytes pick s key w views = (s, views.map (ByteView.value · none)) := by
  have hbytes (whole : Nat → Bool) (l : List Byte) : views.foldl (pickByte pick whole none) (s, l) =
      (s, l ++ views.map (ByteView.value · none)) := by
    induction views generalizing l with
    | nil => rw [List.foldl_nil, List.map_nil, List.append_nil]
    | cons b views ih =>
      obtain ⟨⟨hm, ha⟩, hviews⟩ := List.forall_mem_cons.1 h
      rw [List.foldl_cons, pickByte_of_settled hone _ _ hm ha, ih hviews, List.append_assoc, List.map_cons, List.singleton_append]
  have hwhole : (views.map (fun b => (b.maybe.filter (fun x => x.ekey == key && x.width == w)).map (·.seq))).flatten = [] :=
    List.flatten_eq_nil_iff.2 (List.forall_mem_map.2 fun b hb => by rw [(h b hb).1]; rfl)
  have hseen : pick s 0 ((distinct ([] : List Nat)).length + 1) = (s, 0) := hone s 0
  rw [pickBytes, hwhole, hseen]
  exact hbytes _ []
end

theorem chooseFree_one (s : State) (j : Nat) : s.chooseFree j 1 = (s, 0) := rfl

/-- The log of a task some of whose writes are left out. -/
theorem logOf_filter (s : State) (n : Nat) (p : Wr → Bool) :
    (s.modTask n (fun t => { t with log := t.log.filter p })).logOf n = (s.logOf n).filter p := by
  have hfind (l : List Task) : ((l.map (fun t => if t.id = n then { t with log := t.log.filter p } else t)).find? (fun t => t.id == n)) =
      (l.find? (fun t => t.id == n)).map (fun t => { t with log := t.log.filter p }) := by
    induction l with
    | nil => rfl
    | cons t l ih =>
      rw [List.map_cons, List.find?_cons, List.find?_cons]
      by_cases ht : t.id = n
      · simp [ht]
      · rw [if_neg ht, ih, beq_eq_false_iff_ne.2 ht]
  simp only [State.logOf, State.taskOf, State.modTask, hfind]
  cases s.tasks.find? (fun t => t.id == n) <;> rfl

/-- Is a write certain to a load of class `c` by hand `h` (R77, R124)? -/
def State.certainTo (s : State) (h : Hand) (c : Nat) (w : Wr) : Bool :=
  s.tokenCovers h c w || (if w.member = h.member then h.ownCertain c w else Clock.covers h.ord.hb w)

/-- The writes of a log that bear on a byte (R126). -/
def State.bearing (s : State) (h : Hand) (key : Nat) (log : List Wr) : List Wr :=
  let log := log.filter (fun w => w.key == key)
  if (s.deliveredAt h key).isNone then log else log.filter (fun w => w.perf == 0 && !engineClass w.cls)

/-- A byte's view from what a tile's fill delivered there, its base, and the writes that a load sees. -/
def viewFrom (d : Option (Delivered × Bool)) (base : Byte) (sure maybe : List Wr) : ByteView :=
  match d with
  | some (d, true) => ⟨d.new, sure, maybe, none⟩
  | some (d, false) => ⟨d.old, sure, maybe, if sure.isEmpty then some d.new else none⟩
  | none => ⟨base, sure, maybe, none⟩

theorem viewFrom_sure (d : Option (Delivered × Bool)) (base : Byte) (sure maybe : List Wr) : (viewFrom d base sure maybe).sure = sure := by
  unfold viewFrom
  split <;> rfl

theorem viewFrom_maybe (d : Option (Delivered × Bool)) (base : Byte) (sure maybe : List Wr) :
    (viewFrom d base sure maybe).maybe = maybe := by
  unfold viewFrom
  split <;> rfl

/-- The view of a byte when the task's log is `log`. -/
def State.viewIn (s : State) (h : Hand) (c key : Nat) (log : List Wr) : ByteView :=
  let l := s.bearing h key log
  viewFrom (s.deliveredAt h key) (s.baseByte h c key) (l.filter (s.certainTo h c))
    (unsettled (l.filter (s.certainTo h c)) (l.filter (fun w => w.member == h.member && !s.certainTo h c w)))

theorem byteView_eq (s : State) (h : Hand) (c key : Nat) : s.byteView h c key = s.viewIn h c key (s.logOf h.task) := rfl

theorem bearing_filter (s : State) (h : Hand) (key : Nat) (p : Wr → Bool) (log : List Wr) :
    s.bearing h key (log.filter p) = (s.bearing h key log).filter p := by
  unfold State.bearing
  dsimp only
  split
  · exact List.filter_comm _ _ log
  · rw [List.filter_comm _ p log, List.filter_comm _ p]

/-- Leaving out writes that are not performed leaves a settled view as it is. -/
theorem byteView_filter {s : State} {h : Hand} {c key : Nat} {p : Wr → Bool} (hp : ∀ x : Wr, x.perf ≠ 0 → p x = true)
    (hm : (s.byteView h c key).maybe = []) (hsure : ∀ x ∈ (s.byteView h c key).sure, x.perf ≠ 0) :
    (s.modTask h.task (fun t => { t with log := t.log.filter p })).byteView h c key = s.byteView h c key := by
  have hlog : (s.modTask h.task (fun t => { t with log := t.log.filter p })).byteView h c key =
      s.viewIn h c key ((s.logOf h.task).filter p) := by
    rw [byteView_eq, logOf_filter]
    rfl
  rw [hlog, byteView_eq]
  rw [byteView_eq, State.viewIn] at hm hsure
  rw [viewFrom_maybe] at hm
  rw [viewFrom_sure] at hsure
  have hcertain : ((s.bearing h key (s.logOf h.task)).filter p).filter (s.certainTo h c) =
      (s.bearing h key (s.logOf h.task)).filter (s.certainTo h c) := by
    rw [List.filter_comm]
    exact List.filter_eq_self.2 fun x hx => hp x (hsure x hx)
  rw [State.viewIn, State.viewIn, bearing_filter, hcertain, hm, unsettled, List.filter_comm _ p, List.filter_comm _ p]
  rw [unsettled] at hm
  rw [hm]
  rfl

/-! ### What a read of the engine leaves -/

/-- All of the state as it was, but for the cache's marks and the count of stripes rebuilt. -/
def State.looked (s t : State) : Prop :=
  ∃ tags cores, t = { s with cores := cores, mem := { s.mem with tags := tags } } ∧
    (rising s.cores = true → rising cores = true ∧ ∀ c n, t.tile c n = s.tile c n)

theorem looked_uses (s : State) (k n : Nat) : s.looked (s.uses k n) := ⟨_, _, uses_mem s k n, fun h => ⟨h, fun _ _ => rfl⟩⟩

theorem looked_rebuilds (s : State) (k n : Nat) : s.looked (s.rebuilds k n) := by
  rcases rebuilds_cases s k n with h | ⟨c, m, h⟩
  · exact ⟨s.mem.tags, s.cores, h, fun hc => ⟨hc, fun _ _ => by rw [h]⟩⟩
  · refine ⟨s.mem.tags, _, h, fun hc => ⟨rising_mput _ _ _ _ hc, fun c' t => ?_⟩⟩
    have hcore : ((s.rebuilds k n).core c').tiles = (s.core c').tiles := by
      rw [h, core_modCore _ _ _ _ hc]
      split
      · next hcc => rw [hcc]
      · rfl
    rw [State.tile, State.tile, hcore]

theorem looked_trans {s t u : State} (h : s.looked t) (k : t.looked u) : s.looked u := by
  obtain ⟨tags, cores, rfl, htile⟩ := h
  obtain ⟨tags', cores', rfl, htile'⟩ := k
  refine ⟨tags', cores', rfl, fun hc => ?_⟩
  obtain ⟨hcores, htiles⟩ := htile hc
  obtain ⟨hcores', htiles'⟩ := htile' hcores
  exact ⟨hcores', fun c n => (htiles' c n).trans (htiles c n)⟩

theorem looked_live {s t : State} (h : s.looked t) : t.mem.live = s.mem.live := by
  obtain ⟨tags, cores, rfl, -⟩ := h
  rfl

theorem looked_pub {s t : State} (h : s.looked t) : t.mem.pub = s.mem.pub := by
  obtain ⟨tags, cores, rfl, -⟩ := h
  rfl

theorem looked_transfers {s t : State} (h : s.looked t) : t.transfers = s.transfers := by
  obtain ⟨tags, cores, rfl, -⟩ := h
  rfl

theorem looked_tile {s t : State} (h : s.looked t) (hc : rising s.cores = true) (c n : Nat) : t.tile c n = s.tile c n := by
  obtain ⟨_, _, -, htile⟩ := h
  exact (htile hc).2 c n

theorem looked_reaches {s t : State} (h : s.looked t) {c : Copy} {wr : Bool} {va : Reg64} {k : Nat} (hr : s.copyReaches c wr va k) :
    t.copyReaches c wr va k := by
  obtain ⟨tags, cores, rfl, -⟩ := h
  exact hr

/-! ### Where a command's address lies -/

section
variable {s : State} {c : Copy} {va : Reg64} {k : Nat}

/-- What a command's address reaches is a plain byte. -/
theorem copyXl_of_reaches {a : Access} (ha : a = .copyRead ∨ a = .copyWrite) (h : s.copyReaches c a.writes va k) :
    s.copyXl c a va = .ok (s.uses k 1, .plain k false) := by
  have hlook : s.look ⟨c.asid, some c.core, false, s.peerSide c⟩ a va.toNat = .ok (s, .plain k false, none) := by
    have hf : a ≠ .fetch := by rcases ha with rfl | rfl <;> decide
    rcases h with ⟨hwin, hoff, hk⟩ | h
    · have hchain : Config.chainOffset < Config.benchHole := by decide
      have htop : Config.benchWindow + Config.chainOffset < 2 ^ 57 := by decide
      have hlive : a.livePath = false := by rcases ha with rfl | rfl <;> rfl
      rw [hk, look_window rfl hwin (by omega), if_neg (by omega), if_neg (by simp [hf, hlive]), if_neg (fun h => by omega)]
    · exact look_of_rangeOf rfl hf h
  have hxl := xlate_of_look hlook
  rw [State.peerSide] at hxl
  rw [State.copyXl, hxl]
  rfl

/-- What a command's address reaches is none of the command chain's window. -/
theorem isChain_of_reaches {wr : Bool} (h : s.copyReaches c wr va k) : isChain k = false := by
  rcases h with ⟨hwin, hoff, hk⟩ | ⟨-, -, hk, -⟩
  · have hmod : (Config.benchKey c.core (va.toNat - Config.benchWindow) - Config.benchKey 0 0) % 0x80_0000 =
        va.toNat - Config.benchWindow := by
      simp only [Config.benchKey, Config.chainOffset] at hoff ⊢
      omega
    rw [isChain, hk, hmod, decide_eq_false (Nat.not_le.2 hoff), Bool.and_false]
  · rw [isChain, isBench_of_mappable hk, Bool.false_and]

/-- The state in which the engine has read `w` bytes at key `k`. -/
def State.engineRead (s : State) (k w : Nat) : State := ((s.uses k 1).uses k w).rebuilds k w

theorem looked_engineRead (s : State) (k w : Nat) : s.looked (s.engineRead k w) :=
  looked_trans (looked_uses s k 1) (looked_trans (looked_uses _ k w) (looked_rebuilds _ k w))

theorem byteView_uses (s : State) (k n : Nat) (h : Hand) (cls j : Nat) : (s.uses k n).byteView h cls j = s.byteView h cls j := by
  rw [uses_mem]
  rfl

theorem byteView_engineRead {s : State} (hc : rising s.cores = true) (k w : Nat) (h : Hand) (cls j : Nat) :
    (s.engineRead k w).byteView h cls j = s.byteView h cls j := by
  rw [State.engineRead, byteView_rebuilds (s := (s.uses k 1).uses k w) _ _ _ _ _ hc, byteView_uses, byteView_uses]

theorem looked_badKey {s t : State} (h : s.looked t) (k w : Nat) : t.badKey k w = s.badKey k w := by
  obtain ⟨tags, cores, rfl, -⟩ := h
  rfl

theorem looked_badOf {s t : State} (h : s.looked t) (hand struct addr : Nat) : t.badOf hand struct addr = s.badOf hand struct addr := by
  obtain ⟨tags, cores, rfl, -⟩ := h
  rfl

theorem looked_copyHand {s t : State} (h : s.looked t) (c : Copy) : t.copyHand c = s.copyHand c := by
  obtain ⟨tags, cores, rfl, -⟩ := h
  rfl

/-- Settled bytes as the engine reads them for a hand. -/
theorem engineBytes_settled {s : State} {h : Hand} {cls k w : Nat} (hs : ∀ j ∈ upFrom k w, (s.byteView h cls j).maybe = [] ∧
    (s.byteView h cls j).alt = none ∧ ∀ x ∈ (s.byteView h cls j).sure, x.perf ≠ 0) :
    s.engineBytes State.chooseFree h cls k w = (s, (upFrom k w).map (fun j => (s.byteView h cls j).value none)) := by
  have hview (j : Nat) (hj : j ∈ upFrom k w) := byteView_filter (s := s) (h := h) (c := cls) (key := j)
    (p := fun x => !(x.member == h.member && (h.strip.ssb.map (·.seq)).contains x.seq && x.perf == 0))
    (fun x hx => by simp [hx]) (hs j hj).1 (hs j hj).2.2
  have hsettled : ∀ b ∈ (upFrom k w).map (s.byteView h cls), b.maybe = [] ∧ b.alt = none :=
    List.forall_mem_map.2 fun j hj => ⟨(hs j hj).1, (hs j hj).2.1⟩
  rw [State.engineBytes, List.map_congr_left hview, pickBytes_of_settled chooseFree_one _ _ _ hsettled, List.map_map]
  rfl

/-- The engine finds the settled bytes that a command's address reaches. -/
theorem copyPiece_of_sees {w : Nat} {l : List Byte} (h : s.copySees c va w l) :
    ∃ u, s.copyPiece c va w = .ok (u, c, l) ∧ s.looked u := by
  obtain ⟨k, hreach, hdecodes, hheel, hrising, hsettled, hl⟩ := h
  have hu := looked_engineRead s k w
  have hbytes : (s.engineRead k w).engineBytes State.chooseFree (s.copyHand c) 3 k w = (s.engineRead k w, l) := by
    rw [engineBytes_settled (fun j hj => by rw [byteView_engineRead hrising]; exact hsettled j hj), hl]
    simp only [byteView_engineRead hrising]
  have htarget : ((s.uses k 1).uses k w).engineTarget State.chooseFree (s.copyHand c) .copyRead 3 (.plain k false) 0 w =
      .ok (s.engineRead k w, l) := by
    have hkey : (s.engineRead k w).badKey k w = none := (looked_badKey hu k w).trans hdecodes
    have hheel' : (s.engineRead k w).badOf (s.copyHand c).id 8 (placeOf k) = none := (looked_badOf hu ..).trans hheel
    rw [State.engineRead] at hkey hheel' hbytes ⊢
    simp only [State.engineTarget, Target.key, hkey, isChain_of_reaches hreach, hheel', hbytes, Bool.false_eq_true, if_false]
  have hraw : (s.uses k 1).copyRaw c k w false = .ok (s.engineRead k w, l) := by
    rw [State.copyRaw, looked_copyHand (looked_uses s k 1), htarget]
    rfl
  refine ⟨s.engineRead k w, ?_, hu⟩
  rw [State.copyPiece, copyXl_of_reaches (.inl rfl) hreach]
  simp only [bind, Except.bind, hraw]
  rfl
end

end Sys2Proof.Machine
end

section
/-!
## The bytes that a command's position moves, and where they stand then (O42)
-/
namespace Sys2Proof.Machine

/-! ### Reading an element or a block, and finding its place -/

section
variable {s : State} {c : Copy} {va : Reg64} {l : List Byte}

theorem length_of_sees {w : Nat} (h : s.copySees c va w l) : l.length = w := by
  obtain ⟨k, -, -, -, -, -, rfl⟩ := h
  rw [List.length_map, upFrom_length]

theorem rising_of_sees {w : Nat} (h : s.copySees c va w l) : rising s.cores = true := by
  obtain ⟨-, -, -, -, hrising, -, -⟩ := h
  exact hrising

/-- An element of a command's sweep. -/
theorem copyRead_element (hcode : c.code < 4) (halign : va.toNat % 2 ^ c.code = 0) (h : s.copySees c va (2 ^ c.code) l) (wd : Option Nat) :
    ∃ u, s.copyRead c wd va = .ok (u, c, l, none) ∧ s.looked u := by
  obtain ⟨k, hreach, -⟩ := id h
  obtain ⟨u, hpiece, hu⟩ := copyPiece_of_sees h
  have h4 : c.code ≠ 4 := by omega
  refine ⟨u, ?_, hu⟩
  simp only [State.copyRead, if_neg h4, halign, copyXl_of_reaches (.inl rfl) hreach, bind, Except.bind, if_pos h4, hpiece, ne_eq,
    not_true_eq_false, if_false]
  rfl

/-- A block of a command's sweep, of the width that the other side names. -/
theorem copyRead_block {w : Nat} (hcode : c.code = 4) (halign : va.toNat % 4 = 0) (hpage : va.toNat % 4096 + (4 + 4 * w) ≤ 4096)
    (h : s.copySees c va (4 + 4 * w) l) (hblock : (readBlock w 32 l).isSome = true) :
    ∃ u, s.copyRead c (some w) va = .ok (u, c, l, some w) ∧ s.looked u := by
  obtain ⟨k, hreach, -⟩ := id h
  obtain ⟨u, hpiece, hu⟩ := copyPiece_of_sees h
  have hmin : Nat.min (4 + 4 * w) (4096 - va.toNat % 4096) = 4 + 4 * w := Nat.min_eq_left (by omega)
  have hsome : (readBlock w 32 l).isNone = false := by rw [← Option.not_isSome, hblock]; rfl
  refine ⟨u, ?_, hu⟩
  simp only [State.copyRead, hcode, halign, copyXl_of_reaches (.inl rfl) hreach, bind, Except.bind, hmin, hpiece, hsome, ne_eq,
    not_true_eq_false, if_true, if_false, pure, Except.pure, List.append_nil, Bool.false_eq_true]

/-- An element that lies in one page of memory goes where its address reaches. -/
theorem copyPlace_of_reaches {w : Option Nat} {k : Nat} (halign : va.toNat % (if w.isSome then 4 else l.length) = 0)
    (hpage : va.toNat % 4096 + l.length ≤ 4096) (h : s.copyReaches c true va k) :
    s.copyPlace c w va l = .ok (s.uses k 1, atAddr k l) := by
  have hmin : Nat.min l.length (4096 - va.toNat % 4096) = l.length := Nat.min_eq_left (by omega)
  simp only [State.copyPlace, halign, copyXl_of_reaches (.inr rfl) h, bind, Except.bind, hmin, ne_eq, not_true_eq_false, if_true,
    if_false, pure, Except.pure, Bool.false_eq_true]
end

/-! ### Bytes put -/

/-- Bytes that become live, where what is published changes at them alone. -/
theorem bytesPut_of_putAll {s u : State} {k : Nat} {l : List Byte} (hwf : Mem.wf s.mem.live = true)
    (hlive : u.mem.live = s.mem.live.putAll (atAddr k l))
    (hpub : ∀ j, j < k ∨ k + l.length ≤ j → u.mem.pub.get j = s.mem.pub.get j) : s.bytesPut u k l := by
  rw [State.bytesPut, hlive]
  exact ⟨Mem.bytes_putAll l k _ hwf, fun j hj => ⟨Mem.get_putAll_outside l k j _ hwf hj, hpub j hj⟩⟩

/-- What a tile takes is live and published. -/
theorem bytesPut_of_fill {s u : State} {k : Nat} {l : List Byte} (hwf : Mem.wf s.mem.live = true) (hpwf : Mem.wf s.mem.pub = true)
    (hlive : u.mem.live = s.mem.live.putAll (atAddr k l)) (hpub : u.mem.pub = s.mem.pub.putAll (atAddr k l)) :
    s.bytesPut u k l ∧ u.mem.pub.bytes k l.length = l := by
  refine ⟨bytesPut_of_putAll hwf hlive fun j hj => ?_, ?_⟩
  · rw [hpub, Mem.get_putAll_outside l k j _ hpwf hj]
  · rw [hpub, Mem.bytes_putAll l k _ hpwf]

/-- What memory takes is live. -/
theorem bytesPut_of_store {s u : State} {k : Nat} {l : List Byte} (hwf : Mem.wf s.mem.live = true)
    (hlive : u.mem.live = s.mem.live.putAll (atAddr k l)) (hpub : u.mem.pub = s.mem.pub) :
    s.bytesPut u k l ∧ u.mem.pub = s.mem.pub :=
  ⟨bytesPut_of_putAll hwf hlive fun j _ => by rw [hpub], hpub⟩

/-! ### What a read leaves, and what then reaches a tile or memory -/

section
variable {s u : State} (hu : s.looked u) (c : Copy)
include hu

theorem looked_copyLand (hc : rising s.cores = true) (o : Nat) (l : List Byte) :
    (u.copyLand c o l).mem.live = s.mem.live.putAll (atAddr ((s.tile c.core c.tile).key c.core o) l) ∧
      (u.copyLand c o l).mem.pub = s.mem.pub.putAll (atAddr ((s.tile c.core c.tile).key c.core o) l) ∧
      (u.copyLand c o l).transfers = s.transfers := by
  rw [copyLand_live, copyLand_pub, copyLand_transfers, looked_tile hu hc, looked_live hu, looked_pub hu, looked_transfers hu]
  exact ⟨rfl, rfl, rfl⟩

theorem looked_copyStore (kb : List (Nat × Byte)) : (u.copyStore c kb).mem.live = s.mem.live.putAll kb ∧
    (u.copyStore c kb).mem.pub = s.mem.pub ∧ (u.copyStore c kb).transfers = s.transfers := by
  rw [copyStore_live, copyStore_pub, copyStore_transfers, looked_live hu, looked_pub hu, looked_transfers hu]
  exact ⟨rfl, rfl, rfl⟩
end


/-! ### A position of each kind of command (R273 to R276, R422) -/

/-- A command once its next position has moved some bytes. -/
def Copy.after (c : Copy) (l : List Byte) : Copy := { c with pos := c.pos + 1, moved := c.moved ++ l }

/-- Where a command's next position reads memory, and where it writes it. -/
def Copy.src (c : Copy) : Reg64 := recAddr c.shape (recBase c.shape c.srcOff) c.pos

def Copy.dest (c : Copy) : Reg64 := recAddr c.shape (recBase c.shape c.dst) c.pos

/-- The last `n` blocks of `z` bytes among the bytes moved. -/
def blocksOf (z n : Nat) (moved : List Byte) : List (List Byte) :=
  (List.range n).map (fun b => ((moved.drop (moved.length - z * n)).drop (z * b)).take z)

theorem take_drop_flatten {α : Type} {z : Nat} {l : List (List α)} (h : ∀ b ∈ l, b.length = z) {q : Nat} (hq : q < l.length) :
    (l.flatten.drop (z * q)).take z = l.getD q [] := by
  induction l generalizing q with
  | nil => exact absurd hq (Nat.not_lt_zero _)
  | cons b l ih =>
    obtain ⟨hb, hl⟩ := List.forall_mem_cons.1 h
    rw [List.flatten_cons]
    cases q with
    | zero => rw [Nat.mul_zero, List.drop_zero, ← hb, List.take_left, List.getD_cons_zero]
    | succ q => rw [Nat.mul_succ, Nat.add_comm, ← List.drop_drop, ← hb, List.drop_left, hb, ih hl (Nat.lt_of_succ_lt_succ hq),
        List.getD_cons_succ]

theorem blocksOf_append {z : Nat} (old : List Byte) {row : List (List Byte)} (h : ∀ b ∈ row, b.length = z) :
    blocksOf z row.length (old ++ row.flatten) = row := by
  have hlen : (old ++ row.flatten).length - z * row.length = old.length := by
    rw [List.length_append, length_flatten_of_forall h, Nat.mul_comm, Nat.add_sub_cancel]
  rw [blocksOf, hlen, List.drop_left]
  refine List.ext_getElem (by rw [List.length_map, List.length_range]) fun q hq hq' => ?_
  rw [List.getElem_map, List.getElem_range, take_drop_flatten h hq', List.getD_eq_getElem _ _ hq']

theorem step_ok {ε α β : Type} {x : Except ε α} {a : α} (h : x = .ok a) (f : α → Except ε β) : (x >>= f) = f a := by
  rw [h]
  rfl

section
variable {s : State} {c : Copy} (hfield : (s.field (fieldOfCore c.core)).state ≠ 6) {u : State} {l : List Byte} {sw : Option Nat}
include hfield

theorem copyStep_cpyIn (hkind : c.kind = .cpyIn)
    (hread : s.copyRead c (some ((s.tile c.core c.tile).efmt - 5)) c.src = .ok (u, c, l, sw)) :
    s.copyStep c = .ok (u.copyLand c ((s.tile c.core c.tile).slotAt (wordAt c.shape 9) c.pos) l, c.after l) := by
  cases c
  cases hkind
  exact (if_neg (by simp [hfield])).trans (step_ok hread _)

theorem copyStep_cpyInp_part (hkind : c.kind = .cpyInp)
    (hread : s.copyRead c (some ((s.tile c.core c.tile).efmt - 5)) c.src = .ok (u, c, l, sw))
    (hpart : (c.pos + 1) % (s.tile c.core c.tile).rowSlots ≠ 0) : s.copyStep c = .ok (u, c.after l) := by
  cases c
  cases hkind
  exact (if_neg (by simp [hfield])).trans ((step_ok hread _).trans (if_pos hpart))

/-- With its last block a row of planes lands whole; the tile counts the row's fill bytes. -/
theorem copyStep_cpyInp_whole (hkind : c.kind = .cpyInp)
    (hread : s.copyRead c (some ((s.tile c.core c.tile).efmt - 5)) c.src = .ok (u, c, l, sw))
    (hwhole : (c.pos + 1) % (s.tile c.core c.tile).rowSlots = 0) : ∃ count, s.copyStep c = .ok ((u.copyLand (c.after l)
      (wordAt c.shape 9 + c.pos / (s.tile c.core c.tile).rowSlots * (s.tile c.core c.tile).rowBytes)
      (planeRow ((s.tile c.core c.tile).efmt - 5) (blocksOf (4 + 4 * ((s.tile c.core c.tile).efmt - 5)) (s.tile c.core c.tile).rowSlots
        (c.moved ++ l)))).modTile c.core c.tile count, c.after l) := by
  cases c
  cases hkind
  exact ⟨_, (if_neg (by simp [hfield])).trans ((step_ok hread _).trans (if_neg (not_not.2 hwhole)))⟩

theorem copyStep_fill (hkind : c.kind = .fill) (hread : s.copyRead c none c.src = .ok (u, c, l, sw)) :
    s.copyStep c = .ok (u.copyLand c c.pos l, { c with pos := c.pos + 1 }) := by
  cases c
  cases hkind
  exact (if_neg (by simp [hfield])).trans (step_ok hread _)

omit hfield
variable {v : State} {kb : List (Nat × Byte)}

theorem copyStep_cpyOut (hkind : c.kind = .cpyOut) (helem : s.tileElem c c.pos = .ok (u, l))
    (hplace : u.copyPlace c (if c.code = 4 then some ((s.tile c.core c.tile).efmt - 5) else none) c.dest l = .ok (v, kb)) :
    s.copyStep c = .ok (v.copyStore c kb, c.after l) := by
  cases c
  cases hkind
  exact (step_ok helem _).trans (step_ok hplace _)

theorem copyStep_cpyMem (hkind : c.kind = .cpyMem) (hcode : c.code ≠ 4) (hread : s.copyRead c none c.src = .ok (u, c, l, none))
    (hplace : u.copyPlace c none (c.dst + BitVec.ofNat 64 (c.pos * l.length)) l = .ok (v, kb)) :
    s.copyStep c = .ok (v.copyStore c kb, c.after l) := by
  have hwidth : (if c.code = 4 then s.destWidth c else none) = none := if_neg hcode
  have hread' : s.copyRead c (if c.code = 4 then s.destWidth c else none) c.src = .ok (u, c, l, none) := by rwa [hwidth]
  have hplace' : u.copyPlace c none (c.dst + BitVec.ofNat 64 (c.pos *
      (if (if c.code = 4 then s.destWidth c else none).isSome then 128 else l.length))) l = .ok (v, kb) := by
    rwa [hwidth]
  cases c
  cases hkind
  exact (step_ok hread' _).trans (step_ok hplace' _)
end

end Sys2Proof.Machine
end

section
/-!
## The positions of a command, and O42
-/
namespace Sys2Proof.Machine

/-! ### What stands in a tile (R276) -/

section
variable {s : State} {c : Copy} {p : Nat} {t : Tile} (ht : s.tile c.core c.tile = t) {l : List Byte}
  (hblock : 7 ≤ t.efmt → (readBlock (t.efmt - 5) 32 l).isSome = true)
include ht hblock

theorem tileElem_row (hplane : t.plane = false) {k : Nat} (hk : k = t.key c.core (t.slotAt (wordAt c.shape 9) p))
    (hl : l = s.mem.live.bytes k t.slotBytes) (hd : s.decodes k t.slotBytes) :
    s.tileElem c p = .ok (s.rebuilds k t.slotBytes, l) := by
  have hsound : ¬ (7 ≤ t.efmt ∧ (readBlock (t.efmt - 5) 32 l).isNone = true) :=
    fun h => Option.ne_none_iff_isSome.2 (hblock h.1) (Option.isNone_iff_eq_none.1 h.2)
  subst hl hk
  simp only [State.tileElem, ht, hplane, Bool.false_eq_true, if_false, hd, if_neg hsound]

theorem tileElem_plane (hplane : t.plane = true) {base : Nat}
    (hbase : base = (wordAt c.shape 9 / t.rowBytes + p / t.rowSlots) * t.rowBytes)
    (hl : l = planePacked (fun o => s.mem.live.get (t.key c.core (base + o))) (t.efmt - 5) (t.cols + 1) (p % t.rowSlots))
    (hd : s.decodes (t.key c.core base) t.rowBytes) :
    s.tileElem c p = .ok (s.rebuilds (t.key c.core base) t.rowBytes, l) := by
  have hsound : ¬ (7 ≤ t.efmt ∧ (readBlock (t.efmt - 5) 32 l).isNone = true) :=
    fun h => Option.ne_none_iff_isSome.2 (hblock h.1) (Option.isNone_iff_eq_none.1 h.2)
  subst hl hbase
  simp only [State.tileElem, ht, hplane, if_true, hd, if_neg hsound]
end

/-! ### A position that lands -/

/-- Once the event has landed the position, the command stands as `c'`, and `P` holds. -/
def State.copyMoves (s : State) (e : CmdEv) (c c' : Copy) (P : State → Prop) : Prop :=
  ∃ u, exec (.copyBytesLanded e) s = .next u ∧ u.copyOf c.hand c.n = some c' ∧ P u

/-- A tile has taken the bytes: they are live and published. -/
def State.fillsAt (s : State) (k : Nat) (l : List Byte) (u : State) : Prop := s.bytesPut u k l ∧ u.mem.pub.bytes k l.length = l

/-- Memory has taken the bytes: they are live alone. -/
def State.storesAt (s : State) (k : Nat) (l : List Byte) (u : State) : Prop := s.bytesPut u k l ∧ u.mem.pub = s.mem.pub

section
variable {s : State} {e : CmdEv} {c : Copy} (h : s.Lands e c)
include h

/-- A position that lands leaves the command as the step gives it, and memory as the step leaves it. -/
theorem copyMoves_of_copyStep {s' : State} {c' : Copy} {P : State → Prop} (hstep : s.copyStep c = .ok (s', c'))
    (ht : s'.transfers = s.transfers) (hhand : c'.hand = c.hand) (hn : c'.n = c.n) (hgen : c'.gen = c.gen)
    (hP : ∀ v : State, v.mem = s'.mem → P v) : s.copyMoves e c c' P := by
  refine ⟨_, exec_copyBytesLanded_ok h.found h.held h.status h.pos h.one h.chain h.place hstep, ?_, hP _ rfl⟩
  exact copyOf_setCopy ((copyOf_congr ht _ _).trans h.found) hhand hn hgen

omit h in
theorem modTile_transfers (s : State) (c t : Nat) (f : Tile → Tile) : (s.modTile c t f).transfers = s.transfers := rfl

/-- A step that lands bytes in the tile. -/
theorem copyMoves_of_copyLand {s' u : State} {c' d : Copy} {o : Nat} {l : List Byte} (hstep : s.copyStep c = .ok (s', c'))
    (hmem : s'.mem = (u.copyLand d o l).mem) (ht : s'.transfers = (u.copyLand d o l).transfers) (hu : s.looked u)
    (hrising : rising s.cores = true) (hhand : c'.hand = c.hand) (hn : c'.n = c.n) (hgen : c'.gen = c.gen) :
    s.copyMoves e c c' (s.fillsAt ((s.tile d.core d.tile).key d.core o) l) := by
  obtain ⟨hlive, hpub, htransfers⟩ := looked_copyLand hu d hrising o l
  refine copyMoves_of_copyStep h hstep (ht.trans htransfers) hhand hn hgen fun v hv => ?_
  rw [← hmem, ← hv] at hlive hpub
  exact bytesPut_of_fill h.live h.pub hlive hpub

/-- A step that stores bytes in memory. -/
theorem copyMoves_of_copyStore {u : State} {c' : Copy} {k : Nat} {l : List Byte}
    (hstep : s.copyStep c = .ok (u.copyStore c (atAddr k l), c')) (hu : s.looked u) (hhand : c'.hand = c.hand) (hn : c'.n = c.n)
    (hgen : c'.gen = c.gen) : s.copyMoves e c c' (s.storesAt k l) := by
  obtain ⟨hlive, hpub, htransfers⟩ := looked_copyStore hu c (atAddr k l)
  refine copyMoves_of_copyStep h hstep htransfers hhand hn hgen fun v hv => ?_
  rw [← hv] at hlive hpub
  exact bytesPut_of_store h.live hlive hpub

variable {l : List Byte}

/-- A byte of a declared fill goes to its own place in the tile. -/
theorem fill_moves (hkind : c.kind = .fill) (hcode : c.code < 4) (halign : c.src.toNat % 2 ^ c.code = 0)
    (hsees : s.copySees c c.src (2 ^ c.code) l) : s.copyMoves e c { c with pos := c.pos + 1 }
      (s.fillsAt ((s.tile c.core c.tile).key c.core c.pos) l) := by
  obtain ⟨u, hread, hu⟩ := copyRead_element hcode halign hsees none
  exact copyMoves_of_copyLand h (copyStep_fill h.field hkind hread) rfl rfl hu (rising_of_sees hsees) rfl rfl rfl

/-- What a cpy.mem reads goes to its place in the order of positions. -/
theorem cpyMem_moves (hkind : c.kind = .cpyMem) (hcode : c.code < 4) (halign : c.src.toNat % 2 ^ c.code = 0)
    (hsees : s.copySees c c.src (2 ^ c.code) l) (hdst : (c.dst + BitVec.ofNat 64 (c.pos * 2 ^ c.code)).toNat % 2 ^ c.code = 0) {k : Nat}
    (hreach : s.copyReaches c true (c.dst + BitVec.ofNat 64 (c.pos * 2 ^ c.code)) k) :
    s.copyMoves e c (c.after l) (s.storesAt k l) := by
  obtain ⟨u, hread, hu⟩ := copyRead_element hcode halign hsees none
  have hlen := length_of_sees hsees
  have hpage : (c.dst + BitVec.ofNat 64 (c.pos * 2 ^ c.code)).toNat % 4096 + 2 ^ c.code ≤ 4096 := by
    interval_cases c.code <;> omega
  rw [← hlen] at hdst hreach hpage
  have hplace := copyPlace_of_reaches (w := none) hdst hpage (looked_reaches hu hreach)
  exact copyMoves_of_copyStore h (copyStep_cpyMem hkind (by omega) hread hplace) (looked_trans hu (looked_uses u k 1)) rfl rfl rfl

/-- What a slot or a plane row's block holds goes to its place in memory. -/
theorem cpyOut_moves (hkind : c.kind = .cpyOut) {u : State} (helem : s.tileElem c c.pos = .ok (u, l)) (hu : s.looked u)
    (halign : c.dest.toNat % (if c.code = 4 then 4 else l.length) = 0) (hpage : c.dest.toNat % 4096 + l.length ≤ 4096) {k : Nat}
    (hreach : s.copyReaches c true c.dest k) : s.copyMoves e c (c.after l) (s.storesAt k l) := by
  have hplace : u.copyPlace c (if c.code = 4 then some ((s.tile c.core c.tile).efmt - 5) else none) c.dest l =
      .ok (u.uses k 1, atAddr k l) := by
    refine copyPlace_of_reaches ?_ hpage (looked_reaches hu hreach)
    rw [← halign]
    split <;> rfl
  exact copyMoves_of_copyStore h (copyStep_cpyOut hkind helem hplace) (looked_trans hu (looked_uses u k 1)) rfl rfl rfl

variable {t : Tile} (ht : s.tile c.core c.tile = t)
include ht

/-- What a command reads goes into its slot of a row-layout tile. -/
theorem cpyIn_moves (hkind : c.kind = .cpyIn) {u : State} {sw : Option Nat}
    (hread : s.copyRead c (some (t.efmt - 5)) c.src = .ok (u, c, l, sw)) (hu : s.looked u) (hrising : rising s.cores = true) :
    s.copyMoves e c (c.after l) (s.fillsAt (t.key c.core (t.slotAt (wordAt c.shape 9) c.pos)) l) := by
  subst ht
  exact copyMoves_of_copyLand h (copyStep_cpyIn h.field hkind hread) rfl rfl hu hrising rfl rfl rfl

/-- A block of a row of planes that is not whole yet moves nothing. -/
theorem cpyInp_part_moves (hkind : c.kind = .cpyInp) {u : State} {sw : Option Nat}
    (hread : s.copyRead c (some (t.efmt - 5)) c.src = .ok (u, c, l, sw)) (hu : s.looked u) (hpart : (c.pos + 1) % t.rowSlots ≠ 0) :
    s.copyMoves e c (c.after l) (fun u => u.mem.live = s.mem.live ∧ u.mem.pub = s.mem.pub) := by
  subst ht
  refine copyMoves_of_copyStep h (copyStep_cpyInp_part h.field hkind hread hpart) (looked_transfers hu) rfl rfl rfl fun v hv => ?_
  rw [hv]
  exact ⟨looked_live hu, looked_pub hu⟩

/-- With its last block all of a row of planes lands. -/
theorem cpyInp_whole_moves (hkind : c.kind = .cpyInp) {u : State} {sw : Option Nat}
    (hread : s.copyRead c (some (t.efmt - 5)) c.src = .ok (u, c, l, sw)) (hu : s.looked u) (hrising : rising s.cores = true)
    {old : List Byte} {row : List (List Byte)} (hwhole : (c.pos + 1) % t.rowSlots = 0) (hlen : row.length = t.rowSlots)
    (hrow : ∀ b ∈ row, b.length = 4 + 4 * (t.efmt - 5)) (hmoved : c.moved ++ l = old ++ row.flatten) :
    s.copyMoves e c (c.after l)
      (s.fillsAt (t.key c.core (wordAt c.shape 9 + c.pos / t.rowSlots * t.rowBytes)) (planeRow (t.efmt - 5) row)) := by
  subst ht
  obtain ⟨count, hstep⟩ := copyStep_cpyInp_whole h.field hkind hread hwhole
  have hblocks : blocksOf (4 + 4 * ((s.tile c.core c.tile).efmt - 5)) (s.tile c.core c.tile).rowSlots (c.moved ++ l) = row := by
    rw [hmoved, ← hlen, blocksOf_append old hrow]
  rw [hblocks] at hstep
  exact copyMoves_of_copyLand h (d := c.after l) hstep (State.modTile_mem ..) (modTile_transfers ..) hu hrising rfl rfl rfl
end

theorem copyPositions_holds : copyPositions := by
  intro e s c hfound hheld hstatus hpos hone hchain hplace hfield hlive hpub
  have h : s.Lands e c := ⟨hfound, hheld, hstatus, hpos, hone, hchain, hplace, hfield, hlive, hpub⟩
  refine ⟨fun l hkind hread => ?_, fun l hkind ⟨hcode, halign, hpage, hsees, hblock⟩ => ?_,
    fun l hkind _ ⟨hcode, halign, hsees⟩ => fill_moves h hkind hcode halign hsees,
    fun hkind hplane hdecodes hblock halign hpage k hreach => ?_, fun hkind hplane hdecodes hblock halign hpage k hreach => ?_,
    fun l hkind ⟨hcode, halign, hsees⟩ hdst k hreach => cpyMem_moves h hkind hcode halign hsees hdst hreach⟩
  · rcases hread with ⟨hcode, halign, hsees⟩ | ⟨hcode, halign, hpage, hsees, hblock⟩
    · obtain ⟨u, hread, hu⟩ := copyRead_element hcode halign hsees _
      exact cpyIn_moves h rfl hkind hread hu (rising_of_sees hsees)
    · obtain ⟨u, hread, hu⟩ := copyRead_block hcode halign hpage hsees hblock
      exact cpyIn_moves h rfl hkind hread hu (rising_of_sees hsees)
  · obtain ⟨u, hread, hu⟩ := copyRead_block hcode halign hpage hsees hblock
    exact ⟨cpyInp_part_moves h rfl hkind hread hu, fun old row hwhole hlen hrow hmoved =>
      cpyInp_whole_moves h rfl hkind hread hu (rising_of_sees hsees) hwhole hlen hrow hmoved⟩
  · exact cpyOut_moves h hkind (tileElem_row rfl hblock hplane rfl rfl hdecodes) (looked_rebuilds ..) halign hpage hreach
  · exact cpyOut_moves h hkind (tileElem_plane rfl hblock hplane rfl rfl hdecodes) (looked_rebuilds ..) halign hpage hreach

/-- Settles O42: what the copy engine does, event by event; the bytes of a command's position, kind by kind; the plane layout, by the bits
of a row; and what comes back. -/
theorem copyEngineAndLandings : Obligations.CopyEngineAndLandings := by
  unfold Obligations.CopyEngineAndLandings
  exact ⟨copyEngine_holds, copyPositions_holds, planeLayout_holds, landings_holds⟩

end Sys2Proof.Machine
end

section
/-!
## phend, phase, and the end of a phase (O43)
-/
namespace Sys2Proof.Machine

/-! ### phend and phase (R94, R96, R100 to R103) -/

/-- A phend that has not arrived commits, and arrives once nothing of the hand is outstanding; in either case it waits. -/
theorem exec_phend_unarrived {f : ScopeG} {s c : State} (hc : c = s.commit.dropGrant) (hg : s.goes f.g) (ha : s.hand.arrived = none)
    (hu : s.hand.unasked) (hd : s.drains) : exec (.phend f) s =
      .next ((if c.hand.unacked || !c.commandsDone then c else c.arrive (c.scopeKey c.hand f.a.toNat)).waits .phend) := by
  subst hc
  change execPhend f s = _
  unfold execPhend
  rw [ha, Option.filter_none]
  refine (guarded_goes _ _ _ hg).trans ?_
  simp only [ha, bind_commits hd, atPoint_unasked .phend (commit_unasked hu), ok_bind]
  split
  · rfl
  · rfl

/-- A phend that has arrived, at its own PC or where its guard lets it execute, waits for its phase end. -/
theorem exec_phend_arrived {f : ScopeG} {s : State} {ar : Arrived} (ha : s.hand.arrived = some ar)
    (h : ar.pc = s.hand.pc ∨ s.goes f.g) : exec (.phend f) s = finish (s.afterArrival ar) := by
  change execPhend f s = _
  unfold execPhend
  rw [ha, Option.filter_some]
  by_cases hpc : ar.pc = s.hand.pc
  · simp only [hpc, beq_self_eq_true, if_true]
  · simp only [beq_eq_false_iff_ne.2 hpc, Bool.false_eq_true, if_false]
    refine (guarded_goes _ _ _ (h.resolve_left hpc)).trans ?_
    rw [ha]

/-- Once its phase end has completed, the hand departs. -/
theorem afterArrival_departs {s : State} {ar : Arrived} (h : ar.number < (s.myInst ar.scope).number) :
    s.afterArrival ar = .ok ((s.depart ar.scope ar.number).dropGrant.retire 4) := if_pos h

/-- An instruction that also ends the hand's arrival moves it on as any other. -/
theorem movedOn_with_arrived {h k : Hand} {n : Nat} (hm : ({ h with arrived := k.arrived } : Hand).movedOn k n) :
    h.movedOn { k with arrived := h.arrived } n := by
  obtain ⟨hpc, hloops, hframe, hconvoy, hstatus, hcount, hid, hcore, hslot, htask, hasid, htaskid, hmember, hprio, hdispatch, -⟩ := hm
  obtain ⟨apc, aloops, aframe⟩ := advance_congr (h := h) (k := { h with arrived := k.arrived }) rfl rfl rfl rfl n
  exact ⟨hpc.trans apc, hloops.trans aloops, hframe.trans aframe, hconvoy, hstatus, hcount, hid, hcore, hslot, htask, hasid, htaskid,
    hmember, hprio, hdispatch, rfl⟩

/-- What a refresh takes in stands in the snapshot, so that every completion word read so far is marked so. -/
theorem refresh_links_taken (h : Hand) (pub : Mem) (known : Nat) : ∀ tl ∈ (h.refresh pub known).ord.links, linkTaken ≤ tl.2 := by
  refine List.forall_mem_map.2 fun tl _ => ?_
  dsimp only
  split
  · assumption
  · exact Nat.le_add_left ..

@[simp] theorem retire_ord (s : State) (n : Nat) : (s.retire n).hand.ord = s.hand.ord := by rw [retire_hand]

/-- The departure from a phase end, as the hand and memory stand once it has moved on (R96, R100). -/
theorem depart_retired (s : State) (scope n : Nat) :
    let t := (s.depart scope n).dropGrant.retire 4
    s.hand.movedOn { t.hand with arrived := s.hand.arrived } 4 ∧ t.hand.arrived = none ∧ t.hand.ord.snap = s.mem.pubFor s.hand ∧
      t.hand.ord.epoch = s.hand.ord.epoch + 1 ∧ t.hand.ord.serial = s.hand.ord.serial + 1 ∧
      (∀ tl ∈ t.hand.ord.links, linkTaken ≤ tl.2) ∧ t.hand.ord.seen = mput 0 s.hand.ord.seen scope (n + 1) ∧ t.hand.x = s.hand.x ∧
      t.hand.v = [] ∧ (∀ q : Fld5, q ≠ 0 → t.hand.getP q.toNat = 0) ∧ s.sameMem t := by
  have hmoved := movedOn_retire (h := { s.hand with arrived := none }) (t := (s.depart scope n).dropGrant) rfl 4
  have harrived : ((s.depart scope n).dropGrant.retire 4).hand.arrived = none := by
    rw [retire_hand]
    rfl
  have hx : ((s.depart scope n).dropGrant.retire 4).hand.x = s.hand.x := (retire_sameRegs ..).1
  have hlinks := refresh_links_taken s.hand (s.mem.pubFor s.hand) s.mem.tokens.length
  have hmem : s.sameMem (s.depart scope n) := by
    unfold State.depart State.advanceSerial
    constructor <;> dsimp only <;> split <;> rfl
  refine ⟨movedOn_with_arrived (harrived.symm ▸ hmoved), harrived, ?_⟩
  simp only [retire_ord, retire_v, retire_getP]
  exact ⟨rfl, rfl, rfl, hlinks, rfl, hx, rfl, clearStripLocal_getP s.hand, hmem⟩

theorem exec_phase {f : DAG} {s : State} (hr : s.ready f.g [f.d]) :
    s.writes (.phase f) f.d (BitVec.ofNat 64 (mget 0 s.hand.ord.seen (s.scopeKey s.hand f.a.toNat))) 4 := by
  obtain ⟨hg, hfull⟩ := hr
  refine (finish_of_goes (o := execPhase f s) rfl hg ?_).trans (finish_ok _)
  rw [dest_full s f.d (hfull f.d List.mem_cons_self)]
  rfl

theorem phases_hold : phases := by
  refine ⟨fun f s => ⟨fun hg ha hu hd => ?_, fun ar ha h hnum => ?_⟩, fun f s => exec_phase⟩
  · have hx := exec_phend_unarrived rfl hg ha hu hd
    refine ⟨fun h => ?_, fun hq hdone => ?_⟩
    · rwa [if_pos (by simpa using h)] at hx
    · rwa [if_neg (by simp [hq, hdone])] at hx
  · have hx := exec_phend_arrived ha h
    rw [afterArrival_departs hnum] at hx
    exact ⟨_, hx, depart_retired s ar.scope ar.number⟩

/-! ### Tasks and their instances -/

/-- The task of a number after a change of a task that keeps every id. -/
theorem taskOf_modTask (s : State) (m n : Nat) {f : Task → Task} (hid : ∀ t, (f t).id = t.id) :
    (s.modTask m f).taskOf n = (s.taskOf n).map (fun t => if t.id = m then f t else t) := by
  have hsame : ((fun t : Task => t.id == n) ∘ fun t => if t.id = m then f t else t) = fun t => t.id == n := by
    funext t
    by_cases h : t.id = m <;> simp [h, hid]
  rw [State.taskOf, State.modTask, List.find?_map, hsame, State.taskOf]

theorem taskOf_id {s : State} {n : Nat} {t : Task} (h : s.taskOf n = some t) : t.id = n := by
  simpa using List.find?_some h

/-- An instance of a task is kept at its scope and unit. -/
theorem inst_place (t : Task) (scope unit : Nat) : (t.inst scope unit).scope = scope ∧ (t.inst scope unit).unit = unit := by
  unfold Task.inst
  cases h : t.instances.find? (fun i => i.scope == scope && i.unit == unit) with
  | none => exact ⟨rfl, rfl⟩
  | some i => simpa using List.find?_some h

theorem inst_setInst (t : Task) (i : Instance) : (t.setInst i).inst i.scope i.unit = i := by
  simp [Task.inst, Task.setInst]

/-! ### Settling (R98) -/

theorem mem_addOnce {a n : Nat} {l : List Nat} : a ∈ addOnce l n ↔ a ∈ l ∨ a = n := by
  unfold addOnce
  split
  · next h => exact ⟨.inl, (Or.elim · id (· ▸ h))⟩
  · simp

/-- The distinct numbers of a list are its members. -/
theorem mem_distinct {a : Nat} {l : List Nat} : a ∈ distinct l ↔ a ∈ l := by
  have hfold (l acc : List Nat) : a ∈ l.foldl addOnce acc ↔ a ∈ acc ∨ a ∈ l := by
    induction l generalizing acc with
    | nil => simp
    | cons n l ih => rw [List.foldl_cons, ih, mem_addOnce, List.mem_cons, or_assoc]
  exact (hfold l []).trans (by simp)

@[simp] theorem stamp_live (s : State) (t m q k : Nat) (b : Byte) (p : Bool) :
    (s.stamp t m q k b p).mem.live = s.mem.live.put k b := putLive_live s k b

@[simp] theorem stamp_pub (s : State) (t m q k : Nat) (b : Byte) (p : Bool) :
    (s.stamp t m q k b p).mem.pub = s.mem.pub := putLive_pub s k b

/-- A write performed leaves every task in flight. -/
theorem stamp_taskOf_isSome (s : State) (t m q k : Nat) (b : Byte) (p : Bool) (n : Nat) :
    ((s.stamp t m q k b p).taskOf n).isSome = (s.taskOf n).isSome := by
  have hput : (s.putLive k b).taskOf n = s.taskOf n := by rw [State.taskOf, State.putLive_tasks, State.taskOf]
  rw [← hput]
  unfold State.stamp
  refine (congrArg Option.isSome (taskOf_modTask _ t n (by exact fun _ => rfl))).trans ?_
  rw [Option.isSome_map]
  rfl

/-- One byte settles: it takes the survivor of its writes, where there is one (R97, R98). -/
def State.settleByte (task : Nat) (survives : Nat → Option Wr) (s : State) (k : Nat) : State :=
  (survives k).elim s fun w => s.stamp task w.member w.seq k w.val false

section
variable (task : Nat) (survives : Nat → Option Wr)

theorem settleByte_keeps {α : Type} {p : State → α} (hp : ∀ s t m q k b pl, p (State.stamp s t m q k b pl) = p s) (s : State) (k : Nat) :
    p (s.settleByte task survives k) = p s := by
  unfold State.settleByte
  cases survives k with
  | none => rfl
  | some w => exact hp ..

theorem settleByte_wf {s : State} (h : Mem.wf s.mem.live = true) (k : Nat) : Mem.wf (s.settleByte task survives k).mem.live = true := by
  unfold State.settleByte
  cases survives k with
  | none => exact h
  | some w =>
    rw [Option.elim_some, stamp_live]
    exact Mem.wf_put _ _ _ h

theorem settleByte_get {s : State} (h : Mem.wf s.mem.live = true) (k j : Nat) :
    (s.settleByte task survives k).mem.live.get j = if j = k then ((survives j).map (·.val)).getD (s.mem.live.get j) else s.mem.live.get j := by
  unfold State.settleByte
  split
  · next hj =>
    subst hj
    cases survives j with
    | none => rfl
    | some w => rw [Option.elim_some, stamp_live, Mem.get_put _ _ _ _ h, if_pos rfl]; rfl
  · next hj =>
    cases survives k with
    | none => rfl
    | some w => rw [Option.elim_some, stamp_live, Mem.get_put _ _ _ _ h, if_neg hj]

/-- After some bytes have settled each of them holds its survivor, and every other byte is as it was. -/
theorem foldl_settleByte_get (keys : List Nat) {s : State} (h : Mem.wf s.mem.live = true) (j : Nat) :
    (keys.foldl (State.settleByte task survives) s).mem.live.get j =
      if j ∈ keys then ((survives j).map (·.val)).getD (s.mem.live.get j) else s.mem.live.get j := by
  induction keys generalizing s with
  | nil => rfl
  | cons k keys ih =>
    rw [List.foldl_cons, ih (settleByte_wf task survives h k), settleByte_get task survives h]
    by_cases hk : j = k
    · subst hk
      rw [if_pos rfl, if_pos List.mem_cons_self]
      split
      · cases survives j <;> rfl
      · rfl
    · simp only [hk, List.mem_cons, false_or, if_false]
end

/-- The writes of a task to a byte that happen before the departures and have reached the line. -/
def Task.settling (t : Task) (clock : Clock) (key : Nat) : List Wr :=
  t.log.filter (fun w => w.key == key && Clock.covers clock w && w.perf != 0)

/-- A write is what its byte settles for: a member's own store of the phase, ordered before its end (R98, R126). -/
def Wr.ofPhase (members : List Nat) (prev clock : Clock) (w : Wr) : Bool :=
  Clock.covers clock w && w.perf != 0 && members.contains w.member && !(Clock.covers prev w) && !w.tile

/-- The bytes that a phase end settles. -/
def Task.settledKeys (t : Task) (members : List Nat) (prev clock : Clock) : List Nat :=
  distinct ((t.log.filter (Wr.ofPhase members prev clock)).map (·.key))

theorem settle_eq (s : State) (t : Task) (members : List Nat) (prev clock : Clock) : s.settle t members prev clock =
    (t.settledKeys members prev clock).foldl (State.settleByte t.id fun k => survivor (t.settling clock k)) s := by
  unfold State.settle Task.settledKeys Wr.ofPhase
  dsimp only
  congr 1
  funext s k
  unfold State.settleByte Task.settling
  simp only [Bool.and_assoc]
  split
  · next w hw => rw [hw]; rfl
  · next hw => rw [hw]; rfl

theorem settle_taskOf_isSome (s : State) (t : Task) (members : List Nat) (prev clock : Clock) (n : Nat) :
    ((s.settle t members prev clock).taskOf n).isSome = (s.taskOf n).isSome := by
  rw [settle_eq]
  exact foldl_keeps (p := fun s => (s.taskOf n).isSome) (settleByte_keeps (p := fun s => (s.taskOf n).isSome) _ _
    (fun s t m q k b pl => stamp_taskOf_isSome s t m q k b pl n)) _ s

theorem settle_pub (s : State) (t : Task) (members : List Nat) (prev clock : Clock) :
    (s.settle t members prev clock).mem.pub = s.mem.pub := by
  rw [settle_eq]
  exact foldl_keeps (p := fun s => s.mem.pub) (settleByte_keeps (p := fun s => s.mem.pub) _ _ stamp_pub) _ s

/-- Which bytes settle, write by write. -/
theorem mem_settledKeys {t : Task} {members : List Nat} {prev clock : Clock} {key : Nat} :
    key ∈ t.settledKeys members prev clock ↔ ∃ w ∈ t.log, w.key = key ∧ (Clock.covers clock w = true ∧ w.perf ≠ 0) ∧
      Clock.covers prev w = false ∧ w.tile = false ∧ w.member ∈ members := by
  simp only [Task.settledKeys, mem_distinct, List.mem_map, List.mem_filter, Wr.ofPhase, Bool.and_eq_true, bne_iff_ne, ne_eq,
    Bool.not_eq_true', List.contains_iff_mem]
  exact ⟨fun ⟨w, ⟨hw, (⟨⟨⟨hc, hp⟩, hm⟩, hv⟩), ht⟩, hk⟩ => ⟨w, hw, hk, ⟨hc, hp⟩, hv, ht, hm⟩,
    fun ⟨w, hw, hk, ⟨hc, hp⟩, hv, ht, hm⟩ => ⟨w, ⟨hw, ⟨⟨⟨hc, hp⟩, hm⟩, hv⟩, ht⟩, hk⟩⟩

/-! ### The end of a phase (R94, R98) -/

/-- What a phase end does once the bytes have settled: where the whole task takes part its heel images collapse (R61), the instance moves
on, and what happened before the departures now happens before the accesses of the members that have arrived (R95). -/
def State.closePhase (s : State) (e : InstEv) (t : Task) (ms : List Hand) (i : Instance) (clock : Clock) : State :=
  let whole := (decide (t.gangn ≤ 1) || e.scope == 5) && s.allHands.all (fun h => h.task != e.task || ms.any (fun m => m.id == h.id))
  let s := if whole then { s with mem := { s.mem with heel := collapseHeel e.task [] s.mem.heel } } else s
  let s := s.modTask e.task (fun t => t.setInst { i with number := i.number + 1, clock := clock, prev := clock, stalled := false })
  let before := s.preceding e.task clock
  ms.foldl (fun s m => s.modHand m.id (fun h => if h.arrived.isSome then h.receive clock before else h)) s

/-- Changing some hands leaves memory and the tasks. -/
theorem foldl_modHand (ms : List Hand) (f : Hand → Hand) (s : State) :
    (ms.foldl (fun s m => s.modHand m.id f) s).mem = s.mem ∧ (ms.foldl (fun s m => s.modHand m.id f) s).tasks = s.tasks :=
  ⟨foldl_keeps (p := State.mem) (f := fun s m => s.modHand m.id f) (fun s m => State.modHand_mem s m.id f) ms s,
    foldl_keeps (p := State.tasks) (f := fun s m => s.modHand m.id f) (fun s m => State.modHand_tasks s m.id f) ms s⟩

section
variable (s : State) (e : InstEv) (t : Task) (ms : List Hand) (i : Instance) (clock : Clock)

/-- A phase end that closes changes, of memory, the heel alone. -/
theorem closePhase_mem : ∃ heel, (s.closePhase e t ms i clock).mem = { s.mem with heel := heel } := by
  unfold State.closePhase
  dsimp only
  rw [(foldl_modHand ..).1]
  split
  · exact ⟨_, rfl⟩
  · exact ⟨s.mem.heel, rfl⟩

/-- Of the tasks it changes the instance alone. -/
theorem closePhase_tasks : (s.closePhase e t ms i clock).tasks = (s.modTask e.task (fun t => t.setInst
    { i with number := i.number + 1, clock := clock, prev := clock, stalled := false })).tasks := by
  unfold State.closePhase
  dsimp only
  rw [(foldl_modHand ..).2]
  split <;> rfl

/-- The instance moves on by one phase. -/
theorem closePhase_number {t' : Task} (ht : s.taskOf e.task = some t') (hi : i.scope = e.scope ∧ i.unit = e.unit) :
    ((s.closePhase e t ms i clock).taskOf e.task).map (fun t => (t.inst e.scope e.unit).number) = some (i.number + 1) := by
  obtain ⟨hscope, hunit⟩ := hi
  rw [State.taskOf, closePhase_tasks, ← State.taskOf, taskOf_modTask _ _ _ (by exact fun _ => rfl), ht, Option.map_some, Option.map_some,
    if_pos (taskOf_id ht), ← hscope, ← hunit]
  exact congrArg (fun j : Instance => some j.number) (inst_setInst t' { i with
    number := i.number + 1, clock := clock, prev := clock, stalled := false })
end

/-- At a scope within the device a phase end that is due, with every held store performed, settles what its members wrote and closes. -/
theorem exec_phaseEndComplete {e : InstEv} {s s1 : State} {t t1 : Task} {ms : List Hand} {i : Instance} {clock : Clock}
    (hms : ms = s.membersOf e.task e.scope e.unit) (hi : i = t.inst e.scope e.unit)
    (hclock : clock = (ms.filter (fun h => h.status == .retired)).foldl (fun c h => Clock.join c (s1.fullClock h)) i.clock)
    (ht : s.taskOf e.task = some t) (hscope : e.scope ≠ 5) (ht1 : s1.taskOf e.task = some t1) (hlive : ∃ h ∈ ms, h.status ≠ .retired)
    (hready : ∀ h ∈ ms, h.status = .retired ∨ i.number < mget 0 i.arrivals h.member) (hbad : s.badHeld ms = none)
    (hheld : ms.foldlM (fun s h => s.performAllHeld h) s = .ok s1) : exec (.phaseEndComplete e) s =
      .next ((s1.settle t1 (ms.map (·.member)) i.prev clock).closePhase e t1 ms i clock) := by
  obtain ⟨h, hh, hne⟩ := hlive
  have hsome : ms.isEmpty = false := by cases ms <;> simp at hh ⊢
  have hnot : ms.all (fun h => h.status == .retired) = false := List.all_eq_false.2 ⟨h, hh, by simpa using hne⟩
  have hall : ms.all (fun h => h.status == .retired || decide (i.number < mget 0 i.arrivals h.member)) = true :=
    List.all_eq_true.2 fun h hh => by simpa using hready h hh
  have haway : t1.remote e.scope (t1.hands.map (·.1)) = [] := if_neg hscope
  have hnone : t1.clockOf [] = [] := by simp [Task.clockOf]
  change execPhaseEndComplete e s = _
  subst hms hi hclock
  simp only [execPhaseEndComplete, ht, hsome, hnot, hall, hbad, hheld, ht1, Option.getD_some, haway, hnone, List.append_nil]
  rfl

theorem phaseEnds_hold : phaseEnds := by
  intro e s s1 t t1 ht hscope ht1 ms i hlive hready hbad hheld hwf clock before inPhase
  have hx := exec_phaseEndComplete (ms := ms) (i := i) rfl rfl rfl ht hscope ht1 hlive hready hbad hheld
  have hid : t1.id = e.task := taskOf_id ht1
  have hkeys (key : Nat) : inPhase key ↔ key ∈ t1.settledKeys (ms.map (·.member)) i.prev clock := by
    rw [mem_settledKeys]
    simp only [List.mem_map]
    exact Iff.rfl
  have hget (key : Nat) := foldl_settleByte_get t1.id (fun k => survivor (t1.settling clock k))
    (t1.settledKeys (ms.map (·.member)) i.prev clock) hwf key
  rw [← settle_eq] at hget
  obtain ⟨t', ht'⟩ := Option.isSome_iff_exists.1 ((settle_taskOf_isSome s1 t1 (ms.map (·.member)) i.prev clock e.task).trans
    (by rw [ht1]; rfl))
  obtain ⟨heel, hmem⟩ := closePhase_mem (s1.settle t1 (ms.map (·.member)) i.prev clock) e t1 ms i clock
  refine ⟨_, hx, closePhase_number _ _ _ _ _ _ ht' (inst_place ..), ?_, fun key w hin hw => ?_, fun key hout => ?_⟩
  · rw [hmem]
    exact settle_pub ..
  · have hw : survivor (t1.settling clock key) = some w := hw
    rw [hmem, hget, if_pos ((hkeys key).1 hin), hw]
    rfl
  · rw [hmem, hget, if_neg (mt (hkeys key).2 hout)]

/-- Settles O43: phend and phase by their equations; the end of a phase by the bytes that settle, each by its survivor. -/
theorem phaseInstructionsAndEnds : Obligations.PhaseInstructionsAndEnds := by
  unfold Obligations.PhaseInstructionsAndEnds
  exact ⟨phases_hold, phaseEnds_hold⟩

end Sys2Proof.Machine
end


section
/-!
## vgl and vsc, the linked path (O34)

Both instructions go line by line. `SameButOrder` is what no line changes; `MemState.linkOf` is what a link is of a line's tag, so that an
intact link is one equation; `WroteLine` is what a line of a vsc that succeeds does. The vector file and memory are both byte maps, and
`storedAt_putAll` says of both what stands there once some elements have been written.
-/
namespace Sys2Proof.Machine

/-! ### How a memory instruction of the convoy set ends -/

/-- An instruction that may run ends as its effect does, with what it leaves outstanding. -/
theorem vrun_of_mayRun {o : Host.Outcome State Fault Refusal} {i : Instr} {s t : State} {body : State → Run State}
    (ho : o = vrun i s body) (hr : s.mayRun i) (hb : body s = .ok t) :
    o = .next ((t.outstanding s.hand (vshape i) (vflow i) (canFlag i)).retire 4) := by
  obtain ⟨-, -, henc, hpreds, -⟩ := hr
  have henc : (vshape i).bind (fun v => v.fault s.hand) = none := henc
  rw [ho]
  simp only [vrun, State.encodes, henc, State.predsReady, hpreds, if_true, ok_bind, hb]
  rfl

/-- A vector source that chains is passed. -/
theorem vsrc_of_chains {s : State} {r : Fld5} {n : Nat} {trap : Bit} (field : Nat) (hs : s.soundIn 5) (h : s.hand.chains r n trap) :
    s.vsrc field r n trap = .ok () := by
  have hno : ¬ (trap = 1 ∧ s.hand.vEmpty r.toNat n = true) := by
    rintro ⟨rfl, he⟩
    rcases h with h | h
    · exact absurd h (by decide)
    · exact absurd he (ne_true_of_eq_false h)
  simp only [State.vsrc, sound_of_soundIn 0 hs, ok_bind, if_neg hno]

/-- The producers of an instruction whose effect leaves some of its own outstanding. -/
theorem outstanding_producers {s t : State} {ds : List (Dest × Option Nat)} (i : Instr)
    (hp : t.hand.producers = s.hand.producers ++ ds.map (fun d => ⟨d.1, d.2, none, [], false, []⟩)) :
    (t.outstanding s.hand (vshape i) (vflow i) (canFlag i)).hand.producers = s.hand.producers ++ s.made i ds := by
  unfold State.outstanding State.made
  dsimp only
  rw [hp, List.drop_left, ← List.map_append, List.map_map]
  simp only [Function.comp_def, List.append_nil]

@[simp] theorem retire_p (s : State) (n : Nat) : (s.retire n).hand.p = s.hand.p := by rw [retire_hand]

@[simp] theorem retire_strip (s : State) (n : Nat) : (s.retire n).hand.strip = s.hand.strip := by rw [retire_hand]

@[simp] theorem retire_producers (s : State) (n : Nat) : (s.retire n).hand.producers = s.hand.producers := by rw [retire_hand]

/-! ### Elements written to a byte map -/

theorem Mem.putAll_append (m : Mem) (l l' : List (Nat × Byte)) : m.putAll (l ++ l') = (m.putAll l).putAll l' := List.foldl_append

theorem Mem.putAll_atAddr_outside {m : Mem} (h : m.wf = true) (a w v : Nat) {j : Nat} (hj : j < a ∨ a + w ≤ j) :
    (m.putAll (atAddr a (leBytes w v))).get j = m.get j :=
  Mem.get_putAll_outside _ _ _ _ h (by rwa [leBytes_length])

/-- Elements that lie apart, written in any order: their bytes are the values, and every other byte is as it was. -/
theorem storedAt_putAll {m : Mem} (hm : m.wf = true) {w : Nat} {es : List Nat} {k : Nat → Nat} (val : Nat → Nat) (ha : apart w es k) :
    storedAt m (m.putAll (es.flatMap fun e => atAddr (k e) (leBytes w (val e)))) w es k val := by
  induction es generalizing m with
  | nil => exact ⟨nofun, fun _ _ => rfl⟩
  | cons e es ih =>
    rw [List.flatMap_cons, Mem.putAll_append]
    obtain ⟨hin, hout⟩ := ih (Mem.wf_putAll (atAddr (k e) (leBytes w (val e))) m hm)
      fun f hf g hg => ha f (List.mem_cons_of_mem _ hf) g (List.mem_cons_of_mem _ hg)
    refine ⟨fun f hf => ?_, fun j hj => ?_⟩
    · by_cases hfe : f ∈ es
      · exact hin f hfe
      · obtain rfl := (List.mem_cons.1 hf).resolve_right hfe
        have hb := Mem.bytes_putAll (leBytes w (val f)) (k f) m hm
        rw [leBytes_length] at hb
        refine Eq.trans (List.map_congr_left fun j hj => hout j fun g hg => ?_) hb
        have hj := (mem_upFrom _ _ _).1 hj
        have hfg := (ha f List.mem_cons_self g (List.mem_cons_of_mem _ hg)).resolve_left (by rintro rfl; exact hfe hg)
        omega
    · rw [hout j fun f hf => hj f (List.mem_cons_of_mem _ hf)]
      exact Mem.putAll_atAddr_outside hm _ _ _ (hj e List.mem_cons_self)

/-- What is stored for some elements is stored for the same elements in another list. -/
theorem storedAt_congr {old new : Mem} {w : Nat} {es es' : List Nat} {k val : Nat → Nat} (h : storedAt old new w es k val)
    (hes : ∀ e, e ∈ es ↔ e ∈ es') : storedAt old new w es' k val :=
  ⟨fun e he => h.1 e ((hes e).2 he), fun j hj => h.2 j fun e he => hj e ((hes e).1 he)⟩

/-! ### Elements of the vector file (R236) -/

/-- Where an element of a group stands in the vector file. -/
def Hand.elemKey (h : Hand) (r : Fld5) (e : Nat) : Nat := r.toNat * 4096 + e * h.sewBytes

/-- An element is the number that its bytes of the vector file stand for. -/
theorem elem_eq (h : Hand) (r : Fld5) (e : Nat) : h.elem r e = leNat (Mem.bytes h.v (h.elemKey r e) h.sewBytes) := by
  have hshift (a n : Nat) : (upFrom a n).map (h.getVB r.toNat) = (upFrom (r.toNat * 4096 + a) n).map (Mem.get h.v) := by
    induction n generalizing a with
    | zero => rfl
    | succ n ih =>
      rw [upFrom, upFrom, List.map_cons, List.map_cons, ih, Nat.add_assoc]
      rfl
  rw [Hand.elem, Hand.getVN, hshift, Mem.bytes, Hand.elemKey]

theorem setElem_v (h : Hand) (r : Fld5) (e v : Nat) :
    (h.setElem r e v).v = Mem.putAll h.v (atAddr (h.elemKey r e) (leBytes h.sewBytes v)) := by
  have hput (l : List Byte) (n : Nat) (m : Mem) (a : Nat) :
      (l.zipIdx n).foldl (fun m bi => mput 0 m (a + bi.2) bi.1) m = Mem.putAll m (atAddr (a + n) l) := by
    induction l generalizing n m with
    | nil => rfl
    | cons b l ih =>
      rw [List.zipIdx_cons, List.foldl_cons, ih, atAddr, ← Nat.add_assoc]
      rfl
  rw [Hand.setElem, Hand.setVN, hput, Nat.add_zero, Hand.elemKey]

/-- Elements set change, of the hand, the vector file alone. -/
theorem setElems_hand (h : Hand) (r : Fld5) (l : List (Nat × Nat)) : h.setElems r l = { h with v := (h.setElems r l).v } := by
  induction l generalizing h with
  | nil => rfl
  | cons x l ih => exact ih (h.setElem r x.1 x.2)

theorem produce_vector (h : Hand) (r n : Nat) (cls : Option Nat) : h.produce (.vector r n) cls =
    { h with producers := h.producers ++ [⟨.vector r n, cls, none, [], false, []⟩] } := if_neg nofun

theorem setElems_keeps {α : Type} {p : Hand → α} (hp : ∀ (h : Hand) v, p { h with v := v } = p h) (h : Hand) (r : Fld5)
    (l : List (Nat × Nat)) : p (h.setElems r l) = p h :=
  foldl_keeps (p := p) (fun h _ => hp h _) l h

theorem setElems_v (h : Hand) (r : Fld5) (l : List (Nat × Nat)) :
    (h.setElems r l).v = Mem.putAll h.v (l.flatMap fun x => atAddr (h.elemKey r x.1) (leBytes h.sewBytes x.2)) := by
  induction l generalizing h with
  | nil => rfl
  | cons x l ih =>
    rw [List.flatMap_cons, Mem.putAll_append, ← setElem_v]
    exact ih (h.setElem r x.1 x.2)

theorem elemKeys_apart (h : Hand) (r : Fld5) (es : List Nat) : apart h.sewBytes es (h.elemKey r) := by
  intro e _ f _
  rcases Nat.lt_trichotomy e f with hlt | heq | hgt
  · have : (e + 1) * h.sewBytes ≤ f * h.sewBytes := Nat.mul_le_mul_right _ hlt
    rw [Nat.succ_mul] at this
    simp only [Hand.elemKey]
    omega
  · exact .inl heq
  · have : (f + 1) * h.sewBytes ≤ e * h.sewBytes := Nat.mul_le_mul_right _ hgt
    rw [Nat.succ_mul] at this
    simp only [Hand.elemKey]
    omega

/-- Elements set to values of their width read so, and every other byte of the vector file is as it was. -/
theorem setElems_result {h : Hand} (hv : Mem.wf h.v = true) (r : Fld5) {es order : List Nat} (hes : ∀ e, e ∈ order ↔ e ∈ es)
    {val : Nat → Nat} (hval : ∀ e ∈ es, val e < 256 ^ h.sewBytes) :
    let k := h.setElems r (order.map fun e => (e, val e))
    (∀ e ∈ es, k.elem r e = val e) ∧ h.sameVBut k (elemKeys r h.sewBytes es) := by
  have hk : (h.setElems r (order.map fun e => (e, val e))).v =
      Mem.putAll h.v (order.flatMap fun e => atAddr (h.elemKey r e) (leBytes h.sewBytes (val e))) := by
    rw [setElems_v, List.flatMap_map]
  have hw : (h.setElems r (order.map fun e => (e, val e))).sewBytes = h.sewBytes :=
    setElems_keeps (p := Hand.sewBytes) (fun _ _ => rfl) ..
  obtain ⟨hin, hout⟩ := storedAt_congr (storedAt_putAll hv val (elemKeys_apart h r order)) hes
  rw [← hk] at hin hout
  refine ⟨fun e he => ?_, fun j hj => hout j fun e he => ?_⟩
  · rw [elem_eq, Hand.elemKey, hw, ← Hand.elemKey, hin e he, leNat_leBytes, Nat.mod_eq_of_lt (hval e he)]
  · have hnot : j ∉ upFrom (h.elemKey r e) h.sewBytes := fun hm =>
      hj (List.mem_flatten.2 ⟨_, List.mem_map.2 ⟨e, he, rfl⟩, hm⟩)
    rw [mem_upFrom] at hnot
    omega

/-! ### What no linked access changes -/

/-- Of the current hand a state differs from another in its ordering alone, its link serial apart, and neither published memory nor Dudel's
log differs. -/
structure SameButOrder (s t : State) : Prop where
  hand : ∃ o : Order, t.hand = { s.hand with ord := o } ∧ o.serial = s.hand.ord.serial
  pub : t.mem.pub = s.mem.pub
  dudel : t.dudel = s.dudel

/-- The same, and live memory is as it was too. -/
structure SameBytes (s t : State) : Prop extends SameButOrder s t where
  live : t.mem.live = s.mem.live

section
variable {s t u : State}

theorem SameButOrder.refl (s : State) : SameButOrder s s := ⟨⟨s.hand.ord, rfl, rfl⟩, rfl, rfl⟩

theorem SameButOrder.trans (h : SameButOrder s t) (k : SameButOrder t u) : SameButOrder s u := by
  obtain ⟨⟨o, ho, hserial⟩, hpub, hdudel⟩ := h
  obtain ⟨⟨o', ko, kserial⟩, kpub, kdudel⟩ := k
  refine ⟨⟨o', ?_, ?_⟩, kpub.trans hpub, kdudel.trans hdudel⟩
  · rw [ko, ho]
  · rw [kserial, ho, hserial]

theorem SameBytes.refl (s : State) : SameBytes s s := ⟨.refl s, rfl⟩

theorem SameBytes.trans (h : SameBytes s t) (k : SameBytes t u) : SameBytes s u :=
  ⟨h.toSameButOrder.trans k.toSameButOrder, k.live.trans h.live⟩

theorem SameButOrder.noDudel (h : SameButOrder s t) (hn : s.noDudel) : t.noDudel := by
  rwa [State.noDudel, h.dudel]

theorem SameButOrder.id (h : SameButOrder s t) : t.hand.id = s.hand.id := by
  obtain ⟨o, ho, -⟩ := h.hand
  rw [ho]

theorem SameButOrder.serial (h : SameButOrder s t) : t.hand.ord.serial = s.hand.ord.serial := by
  obtain ⟨o, ho, hserial⟩ := h.hand
  rw [ho, hserial]

theorem SameButOrder.v (h : SameButOrder s t) : t.hand.v = s.hand.v := by
  obtain ⟨o, ho, -⟩ := h.hand
  rw [ho]

theorem SameButOrder.elem (h : SameButOrder s t) (r : Fld5) (e : Nat) : t.hand.elem r e = s.hand.elem r e := by
  obtain ⟨o, ho, -⟩ := h.hand
  rw [ho]
  rfl

theorem SameButOrder.sewBytes (h : SameButOrder s t) : t.hand.sewBytes = s.hand.sewBytes := by
  obtain ⟨o, ho, -⟩ := h.hand
  rw [ho]
  rfl
end

theorem modHand_sameButOrder (s : State) (id : Nat) {f : Hand → Hand}
    (hf : ∀ h, ∃ o : Order, f h = { h with ord := o } ∧ o.serial = h.ord.serial) : SameButOrder s (s.modHand id f) := by
  unfold State.modHand
  split
  · exact ⟨hf s.hand, rfl, rfl⟩
  · exact ⟨⟨s.hand.ord, rfl, rfl⟩, rfl, rfl⟩

theorem clearTag_sameBytes (s : State) (line : Nat) : SameBytes s (s.clearTag line) := by
  refine ⟨?_, clearTag_live s line⟩
  unfold State.clearTag
  split
  · exact .refl s
  · exact SameButOrder.trans (t := { s with mem := { s.mem with tags := mdel s.mem.tags line } })
      ⟨⟨s.hand.ord, rfl, rfl⟩, rfl, rfl⟩ (modHand_sameButOrder _ _ fun h => ⟨_, rfl, rfl⟩)

theorem putLive_sameButOrder (s : State) (k : Nat) (b : Byte) : SameButOrder s (s.putLive k b) := by
  refine ⟨?_, putLive_pub s k b, State.putLive_dudel s k b⟩
  obtain ⟨o, ho, hserial⟩ := (clearTag_sameBytes s (lineOf k)).hand
  refine ⟨o, Eq.trans ?_ ho, hserial⟩
  unfold State.putLive
  dsimp only
  repeat' split
  all_goals rfl

theorem stamp_sameButOrder (s : State) (t m q k : Nat) (b : Byte) (p : Bool) : SameButOrder s (s.stamp t m q k b p) :=
  (putLive_sameButOrder s k b).trans ⟨⟨_, rfl, rfl⟩, rfl, rfl⟩

/-- A linked access that performs uses its line alone. -/
theorem useLine_sameBytes (s : State) (line : Nat) : SameBytes s { s with mem := s.mem.useLine line } := by
  have hmem := useLine_tags s.mem line
  refine ⟨⟨⟨s.hand.ord, rfl, rfl⟩, ?_, rfl⟩, ?_⟩ <;> dsimp only <;> rw [hmem]

theorem linkedRead_sameBytes (s : State) (k w : Nat) : SameBytes s (s.linkedRead k w).1 := ⟨⟨⟨_, rfl, rfl⟩, rfl, rfl⟩, rfl⟩

/-! ### Who has linked a line (R107) -/

/-- The hand and the serial of a line's link. -/
def MemState.linkOf (m : MemState) (line : Nat) : Option (Nat × BitVec 16) := (mfind m.tags line).map fun t => (t.hand, t.serial)

theorem intact_iff {s : State} {line : Nat} : s.intact line = true ↔ s.mem.linkOf line = some (s.hand.id, s.hand.ord.serial) := by
  unfold State.intact MemState.linkOf
  cases mfind s.mem.tags line <;> simp

theorem intact_congr {s t : State} (h : SameButOrder s t) {line : Nat} (hl : t.mem.linkOf line = s.mem.linkOf line) :
    t.intact line = s.intact line := by
  rw [Bool.eq_iff_iff, intact_iff, intact_iff, h.id, h.serial, hl]

theorem intact_of_unlinked {s : State} {line : Nat} (h : s.mem.linkOf line = none) : s.intact line = false := by
  rw [Bool.eq_false_iff, ne_eq, intact_iff, h]
  nofun

theorem useLine_linkOf (m : MemState) (line j : Nat) : (m.useLine line).linkOf j = m.linkOf j := by
  unfold MemState.useLine
  split
  · rfl
  · next t ht =>
    simp only [MemState.linkOf, mfind_mins]
    split
    · next hj => rw [hj, ht]; rfl
    · rfl

theorem useLine_rising {m : MemState} (h : rising m.tags = true) (line : Nat) : rising (m.useLine line).tags = true := by
  unfold MemState.useLine
  split
  · exact h
  · exact rising_mins _ _ _ h

theorem clearTag_rising {s : State} (h : rising s.mem.tags = true) (line : Nat) : rising (s.clearTag line).mem.tags = true := by
  unfold State.clearTag
  split
  · exact h
  · rw [State.modHand_mem]
    exact rising_mdel _ _ h

theorem clearTag_linkOf {s : State} (h : rising s.mem.tags = true) (line j : Nat) :
    (s.clearTag line).mem.linkOf j = if j = line then none else s.mem.linkOf j := by
  unfold State.clearTag
  split
  · next hnone =>
    split
    · next hj => rw [hj, MemState.linkOf, hnone]; rfl
    · rfl
  · rw [State.modHand_mem, MemState.linkOf, mfind_mdel _ _ _ h]
    split <;> rfl

/-- A write performed clears its line's tag (R58). -/
theorem stamp_tags (s : State) (t m q k : Nat) (b : Byte) (p : Bool) :
    (s.stamp t m q k b p).mem.tags = (s.clearTag (lineOf k)).mem.tags := by
  unfold State.stamp State.putLive
  dsimp only
  split
  · split
    · rfl
    · rfl
  · rfl

/-! ### What the elements reach -/

/-- Element `e` reaches byte `k e`, on a plain page that a range entry maps. -/
def linkTo (k : Nat → Nat) (e : Nat) : LinkTo := ⟨e, k e, false, none⟩

/-- The element's address is aligned, and a range entry maps it to its byte, whose data decode. -/
def State.linksTo (s : State) (wr : Bool) (va : Nat → Reg64) (k : Nat → Nat) (e : Nat) : Prop :=
  (va e).toNat % s.hand.sewBytes = 0 ∧ s.rangeAt wr (va e).toNat (k e) ∧ s.decodes (k e) s.hand.sewBytes

theorem isBench_of_linksTo {s : State} {wr : Bool} {va : Nat → Reg64} {k : Nat → Nat} {e : Nat} (h : s.linksTo wr va k e) :
    isBench (k e) = false := by
  obtain ⟨-, ⟨-, -, hmap, -⟩, -⟩ := h
  exact isBench_of_mappable hmap

section
variable {s : State} {a : Access} {va : Nat → Reg64} {k : Nat → Nat} (ha : a ≠ .fetch) (hw : s.hand.sched.watches = [])
include ha hw

theorem linkTarget_of_linksTo {e : Nat} (h : s.linksTo a.writes va k e) :
    s.linkTarget a (Elem.at' e (va e)) = .ok (s, linkTo k e) := by
  obtain ⟨halign, hrange, hdec⟩ := h
  have hlook : s.xlook a (va e) = .ok (s, .plain (k e) false, none) := by
    rw [State.xlook, look_of_rangeOf (k := k e) (a := a) rfl ha hrange]
  have haligned : s.aligned a (va e) s.hand.sewBytes = .ok () := if_pos halign
  simp only [State.linkTarget, Elem.at', haligned, hlook, ok_bind, readable_of_decodes _ hdec, watch_of_unwatched hw]
  rfl

/-- Every element finds its byte, and nothing changes. -/
theorem linkTargets_of_linksTo {es : List Nat} (h : ∀ e ∈ es, s.linksTo a.writes va k e) :
    s.linkTargets a (es.map fun e => Elem.at' e (va e)) = .ok (s, es.map (linkTo k)) := by
  have hfold (es : List Nat) (h : ∀ e ∈ es, s.linksTo a.writes va k e) (l : List LinkTo) :
      (es.map fun e => Elem.at' e (va e)).foldlM (fun (acc : State × List LinkTo) x => do
        let (s, t) ← tagged x (acc.1.linkTarget a x)
        pure (s, acc.2 ++ [t])) (s, l) = (.ok (s, l ++ es.map (linkTo k)) : Run (State × List LinkTo)) := by
    induction es generalizing l with
    | nil => rw [List.map_nil, List.map_nil, List.append_nil]; rfl
    | cons e es ih =>
      obtain ⟨he, hes⟩ := List.forall_mem_cons.1 h
      rw [List.map_cons, List.foldlM_cons, linkTarget_of_linksTo ha hw he]
      exact (ih hes (l ++ [linkTo k e])).trans (by rw [List.map_cons, List.append_assoc, List.singleton_append])
  exact hfold es h []
end

/-- No element of those reaches an SC page. -/
theorem linkTo_not_sc (k : Nat → Nat) (es : List Nat) : (es.map (linkTo k)).any (·.sc) = false := by
  simp [linkTo]

/-- The lines that the elements reach. -/
def linesAt (k : Nat → Nat) (es : List Nat) : List Nat := distinct (es.map fun e => lineOf (k e))

theorem mem_linesAt {k : Nat → Nat} {es : List Nat} {line : Nat} : line ∈ linesAt k es ↔ ∃ e ∈ es, lineOf (k e) = line := by
  rw [linesAt, mem_distinct, List.mem_map]

/-- The elements that reach a line, in their order. -/
def elemsIn (k : Nat → Nat) (es : List Nat) (line : Nat) : List Nat := es.filter fun e => lineOf (k e) == line

theorem mem_elemsIn {k : Nat → Nat} {es : List Nat} {line e : Nat} : e ∈ elemsIn k es line ↔ e ∈ es ∧ lineOf (k e) = line := by
  simp [elemsIn]

theorem filter_linkTo (k : Nat → Nat) (es : List Nat) (line : Nat) :
    (es.map (linkTo k)).filter (fun t => lineOf t.key == line) = (elemsIn k es line).map (linkTo k) := List.filter_map ..

theorem linesOf_linkTo (k : Nat → Nat) (es : List Nat) : distinct ((es.map (linkTo k)).map fun t => lineOf t.key) = linesAt k es := by
  rw [List.map_map]
  rfl

/-- A linked access of an element uses its line. -/
theorem linkReached_linkTo (s : State) (a : Access) (k : Nat → Nat) (e : Nat) :
    s.linkReached a (linkTo k e) = { s with mem := s.mem.useLine (lineOf (k e)) } := reached_plain ..

theorem linkOp_of_noDudel {s : State} (hn : s.noDudel) (line mask : Nat) : s.linkOp line mask = s := dudelOp_of_noDudel hn ..

/-! ### Linking a line (R57 to R59, R106) -/

theorem noWay_useLine (s : State) (line : Nat) : State.noWay { s with mem := s.mem.useLine line } line = s.noWay line := by
  unfold State.noWay MemState.useLine
  split
  · rfl
  · next t ht => simp [mfind_mins, ht]

theorem makeWay_sameBytes {s : State} (hn : s.noDudel) (line : Nat) : SameBytes s (s.makeWay line) := by
  have hevict (l : Nat) : SameBytes s (s.evict l) := by
    unfold State.evict
    split
    · exact .refl s
    · dsimp only
      rw [dudelOp_of_noDudel hn]
      exact clearTag_sameBytes s l
  unfold State.makeWay
  dsimp only
  split
  · exact .refl s
  · split
    · exact hevict _
    · exact .refl s

/-- Unless its set has no way for it, the line gets the tag of the hand and of its serial, whoever had linked it. -/
theorem link_of_way {s : State} (hn : s.noDudel) {line : Nat} (h : s.noWay line = false) : ∃ (u : State) (pin : Bool) (pins : List Nat),
    SameBytes s u ∧ s.link line = { u with
      mem := { u.mem with tags := mins u.mem.tags line ⟨u.hand.id, u.hand.ord.serial, pin, u.mem.nextUse⟩ }
      hand := { u.hand with ord := { u.hand.ord with pins := pins } } } := by
  have hway := makeWay_sameBytes hn line
  have hcleared := hway.trans (clearTag_sameBytes _ line)
  unfold State.link
  rw [if_neg (ne_true_of_eq_false h)]
  dsimp only
  split
  · split <;> split
    exacts [⟨_, _, _, hway, rfl⟩, ⟨_, _, _, hway, rfl⟩, ⟨_, _, _, hcleared, rfl⟩, ⟨_, _, _, hcleared, rfl⟩]
  · split
    exacts [⟨_, _, _, hway, rfl⟩, ⟨_, _, _, hway, rfl⟩]

theorem link_sameBytes {s : State} (hn : s.noDudel) (line : Nat) : SameBytes s (s.link line) := by
  by_cases h : s.noWay line = true
  · rw [State.link, if_pos h]
    exact .refl s
  · obtain ⟨u, pin, pins, hu, hlink⟩ := link_of_way hn (Bool.eq_false_iff.2 h)
    rw [hlink]
    exact hu.trans ⟨⟨⟨_, rfl, rfl⟩, rfl, rfl⟩, rfl⟩

theorem link_intact {s : State} (hn : s.noDudel) {line : Nat} (h : s.noWay line = false) : (s.link line).intact line = true := by
  obtain ⟨u, pin, pins, -, hlink⟩ := link_of_way hn h
  rw [hlink, intact_iff, MemState.linkOf, mfind_mins, if_pos rfl]
  rfl

/-! ### vgl (R106, R228) -/

/-- One element of a vgl read: its line is used, and its bytes are taken live. -/
def readLink (w : Nat) (acc : State × List (Nat × Nat)) (t : LinkTo) : State × List (Nat × Nat) :=
  let r := ((acc.1.linkReached .linked t).rebuilds t.key w).linkedRead t.key w
  (r.1, acc.2 ++ [(t.e, r.2)])

/-- One line of a vgl: its elements are read, and it is linked. -/
def vglLine (w : Nat) (ts : List LinkTo) (acc : State × List (Nat × Nat)) (line : Nat) : State × List (Nat × Nat) :=
  let r := (ts.filter (fun t => lineOf t.key == line)).foldl (readLink w) acc
  ((r.1.link line).linkOp line 0, r.2)

/-- The value that live memory holds at an element's byte. -/
def State.liveAt (s : State) (w : Nat) (k : Nat → Nat) (e : Nat) : Nat := leNat (s.mem.live.bytes (k e) w)

/-- The state and the values once all the lines of a vgl are read and linked. -/
def State.vglLines (s : State) (k : Nat → Nat) (es : List Nat) : State × List (Nat × Nat) :=
  (linesAt k es).foldl (vglLine s.hand.sewBytes (es.map (linkTo k))) (s, [])

theorem exec_vgl {f : VReg} {s : State} {k : Nat → Nat} {va : Nat → Reg64}
    (hva : va = fun e => s.hand.getX f.a + BitVec.ofNat 64 (s.hand.elem f.b e)) (hr : s.mayRun (.vgl f)) (ha : s.hand.full f.a)
    (hb : s.hand.chains f.b s.hand.grpN f.tb) (hw : s.hand.sched.watches = []) (hn : s.noDudel) (hes : s.hand.actives f.m ≠ [])
    (h : ∀ e ∈ s.hand.actives f.m, s.linksTo false va k e)
    {r : State × List (Nat × Nat)} (hr' : r = s.vglLines k (s.hand.actives f.m)) :
    exec (.vgl f) s = .next ((((r.1.put ((r.1.hand.setElems f.d r.2).produce
      (.vector f.d.toNat (r.1.hand.setElems f.d r.2).grpN) (some 2))).memBeats).outstanding s.hand (vshape (.vgl f)) (vflow (.vgl f))
        (canFlag (.vgl f))).retire 4) := by
  have hindexed : s.hand.indexed f.m (s.hand.getX f.a) f.b = (s.hand.actives f.m).map fun e => Elem.at' e (va e) := by rw [hva]; rfl
  have hsome : ((s.hand.actives f.m).map fun e => Elem.at' e (va e)).isEmpty = false := by simpa using hes
  have hturn : s.linkTurn = .ok () := if_pos (replayTurn_of_noDudel hn ..)
  refine vrun_of_mayRun (o := execVgl f s) rfl hr ?_
  subst hr'
  simp only [src_full s 0 f.a f.ta ha, vsrc_of_chains 1 hr.2.1 hb, ok_bind, hindexed, hsome, Bool.false_eq_true, if_false, hturn,
    linkTargets_of_linksTo (a := .linked) nofun hw h, linkTo_not_sc, pure_bind, linesOf_linkTo]
  rfl

section
variable {s : State} {k : Nat → Nat} {es : List Nat}

/-- What reading some elements gives: their live values, in order, and nothing of memory changed. -/
structure LinesRead (s : State) (w : Nat) (k : Nat → Nat) (order : List Nat) (acc : State × List (Nat × Nat)) : Prop where
  same : SameBytes s acc.1
  values : acc.2 = order.map fun e => (e, s.liveAt w k e)

theorem readLink_linkTo {w : Nat} {acc : State × List (Nat × Nat)} {e : Nat} (hb : isBench (k e) = false) :
    readLink w acc (linkTo k e) = ((State.linkedRead { acc.1 with mem := acc.1.mem.useLine (lineOf (k e)) } (k e) w).1,
      acc.2 ++ [(e, State.liveAt { acc.1 with mem := acc.1.mem.useLine (lineOf (k e)) } w k e)]) := by
  unfold readLink
  rw [linkReached_linkTo]
  dsimp only [linkTo]
  rw [rebuilds_of_not_bench hb]
  rfl

theorem readLink_read {w : Nat} {order : List Nat} {acc : State × List (Nat × Nat)} {e : Nat} (hb : isBench (k e) = false)
    (h : LinesRead s w k order acc) : LinesRead s w k (order ++ [e]) (readLink w acc (linkTo k e)) := by
  obtain ⟨hsame, hvalues⟩ := h
  have hused := hsame.trans (useLine_sameBytes acc.1 (lineOf (k e)))
  rw [readLink_linkTo hb]
  refine ⟨hused.trans (linkedRead_sameBytes _ _ _), ?_⟩
  rw [hvalues, State.liveAt, hused.live, ← State.liveAt, List.map_append]
  rfl

/-- The elements of a line, read one after another. -/
theorem foldl_readLink_read {w : Nat} {order l : List Nat} {acc : State × List (Nat × Nat)} (hb : ∀ e ∈ l, isBench (k e) = false)
    (h : LinesRead s w k order acc) : LinesRead s w k (order ++ l) ((l.map (linkTo k)).foldl (readLink w) acc) := by
  induction l generalizing order acc with
  | nil => rwa [List.append_nil]
  | cons e l ih =>
    obtain ⟨he, hl⟩ := List.forall_mem_cons.1 hb
    rw [List.append_cons]
    exact ih hl (readLink_read he h)

theorem vglLine_read {w line : Nat} {order : List Nat} {acc : State × List (Nat × Nat)} (hn : s.noDudel)
    (hb : ∀ e ∈ es, isBench (k e) = false) (h : LinesRead s w k order acc) :
    LinesRead s w k (order ++ elemsIn k es line) (vglLine w (es.map (linkTo k)) acc line) := by
  unfold vglLine
  rw [filter_linkTo]
  obtain ⟨hsame, hvalues⟩ := foldl_readLink_read (fun e he => hb e (mem_elemsIn.1 he).1) h
  generalize ((elemsIn k es line).map (linkTo k)).foldl (readLink w) acc = r at hsame hvalues ⊢
  have hlink := link_sameBytes (hsame.noDudel hn) line
  refine ⟨?_, hvalues⟩
  dsimp only
  rw [linkOp_of_noDudel (hlink.noDudel (hsame.noDudel hn))]
  exact hsame.trans hlink

/-- All the lines, read one after another. -/
theorem foldl_vglLine_read {w : Nat} (lines : List Nat) {order : List Nat} {acc : State × List (Nat × Nat)} (hn : s.noDudel)
    (hb : ∀ e ∈ es, isBench (k e) = false) (h : LinesRead s w k order acc) :
    LinesRead s w k (order ++ lines.flatMap (elemsIn k es)) (lines.foldl (vglLine w (es.map (linkTo k))) acc) := by
  induction lines generalizing order acc with
  | nil => rwa [List.flatMap_nil, List.append_nil]
  | cons line lines ih =>
    rw [List.flatMap_cons, ← List.append_assoc]
    exact ih (vglLine_read hn hb h)

/-- Reading elements of a line leaves open whether its set has a way for it. -/
theorem foldl_readLink_noWay {w line : Nat} {l : List Nat} {acc : State × List (Nat × Nat)} (hb : ∀ e ∈ l, isBench (k e) = false)
    (hl : ∀ e ∈ l, lineOf (k e) = line) : ((l.map (linkTo k)).foldl (readLink w) acc).1.noWay line = acc.1.noWay line := by
  induction l generalizing acc with
  | nil => rfl
  | cons e l ih =>
    obtain ⟨hbe, hbl⟩ := List.forall_mem_cons.1 hb
    obtain ⟨he, hl⟩ := List.forall_mem_cons.1 hl
    rw [List.map_cons, List.foldl_cons, ih hbl hl, readLink_linkTo hbe, he]
    exact noWay_useLine acc.1 line

theorem distinct_of_forall_eq {l : List Nat} {a : Nat} (hne : l ≠ []) (h : ∀ b ∈ l, b = a) : distinct l = [a] := by
  have hfold (l : List Nat) (h : ∀ b ∈ l, b = a) : l.foldl addOnce [a] = [a] := by
    induction l with
    | nil => rfl
    | cons b l ih =>
      obtain ⟨rfl, hl⟩ := List.forall_mem_cons.1 h
      rw [List.foldl_cons, addOnce, if_pos List.mem_cons_self]
      exact ih hl
  obtain ⟨b, l, rfl⟩ := List.exists_cons_of_ne_nil hne
  obtain ⟨rfl, hl⟩ := List.forall_mem_cons.1 h
  exact hfold l hl

/-- Where all the elements reach one line, it is linked, unless its set has no way for it (R59, R106). -/
theorem vglLines_intact (hn : s.noDudel) (hb : ∀ e ∈ es, isBench (k e) = false) (hne : es ≠ []) {line : Nat}
    (hl : ∀ e ∈ es, lineOf (k e) = line) (hway : s.noWay line = false) : (s.vglLines k es).1.intact line = true := by
  have hlines : linesAt k es = [line] := distinct_of_forall_eq (by simpa using hne) (List.forall_mem_map.2 hl)
  have hread := foldl_readLink_read (w := s.hand.sewBytes) (order := []) (acc := (s, [])) hb ⟨.refl s, rfl⟩
  have hkept := foldl_readLink_noWay (w := s.hand.sewBytes) (acc := (s, [])) hb hl
  have hall : elemsIn k es line = es := List.filter_eq_self.2 fun e he => beq_iff_eq.2 (hl e he)
  rw [State.vglLines, hlines, List.foldl_cons, List.foldl_nil, vglLine, filter_linkTo, hall]
  dsimp only
  generalize (es.map (linkTo k)).foldl (readLink s.hand.sewBytes) (s, []) = r at hread hkept ⊢
  have hdudel := hread.same.noDudel hn
  rw [linkOp_of_noDudel ((link_sameBytes hdudel line).noDudel hdudel)]
  exact link_intact hdudel (hkept.trans hway)

/-- The elements in the order of their lines are the elements. -/
theorem mem_linesAt_flatMap {e : Nat} : e ∈ (linesAt k es).flatMap (elemsIn k es) ↔ e ∈ es := by
  simp only [List.mem_flatMap, mem_linesAt, mem_elemsIn]
  exact ⟨fun ⟨_, _, he, _⟩ => he, fun he => ⟨_, ⟨e, he, rfl⟩, he, rfl⟩⟩

theorem vglLines_read (hn : s.noDudel) (hb : ∀ e ∈ es, isBench (k e) = false) :
    LinesRead s s.hand.sewBytes k ((linesAt k es).flatMap (elemsIn k es)) (s.vglLines k es) := by
  have h := foldl_vglLine_read (s := s) (es := es) (w := s.hand.sewBytes) (linesAt k es) (order := []) (acc := (s, []))
    hn hb ⟨.refl s, rfl⟩
  rwa [List.nil_append] at h
end

theorem elem_congr {h g : Hand} (hv : g.v = h.v) (hcsr : g.csr = h.csr) (r : Fld5) (e : Nat) : g.elem r e = h.elem r e := by
  rw [elem_eq, elem_eq, hv, Hand.elemKey, Hand.elemKey, Hand.sewBytes, Hand.sewBytes, hcsr]

theorem liveAt_lt (s : State) (w : Nat) (k : Nat → Nat) (e : Nat) : s.liveAt w k e < 256 ^ w := by
  have h := leNat_lt (s.mem.live.bytes (k e) w)
  rwa [Mem.bytes_length] at h

/-- A vgl over elements that reach their bytes. -/
theorem vgl_some {f : VReg} {s : State} {k : Nat → Nat} {va : Nat → Reg64}
    (hva : va = fun e => s.hand.getX f.a + BitVec.ofNat 64 (s.hand.elem f.b e)) (hr : s.mayRun (.vgl f)) (ha : s.hand.full f.a)
    (hb : s.hand.chains f.b s.hand.grpN f.tb) (hw : s.hand.sched.watches = []) (hn : s.noDudel) (hes : s.hand.actives f.m ≠ [])
    (h : ∀ e ∈ s.hand.actives f.m, s.linksTo false va k e) :
    ∃ t, exec (.vgl f) s = .next t ∧ s.hand.movedOn t.hand 4 ∧ s.hand.sameRegs t.hand ∧ t.hand.p = s.hand.p ∧ s.sameMem t ∧
      (∀ e ∈ s.hand.actives f.m, t.hand.elem f.d e = s.liveAt s.hand.sewBytes k e) ∧
      s.hand.sameVBut t.hand (elemKeys f.d s.hand.sewBytes (s.hand.actives f.m)) ∧
      t.hand.producers = s.hand.producers ++ s.made (.vgl f) [(.vector f.d.toNat s.hand.grpN, some 2)] ∧
      (∀ line, (∀ e ∈ s.hand.actives f.m, lineOf (k e) = line) → s.noWay line = false → t.intact line = true) := by
  have hbench (e) (he : e ∈ s.hand.actives f.m) := isBench_of_linksTo (h e he)
  have hx := exec_vgl hva hr ha hb hw hn hes h rfl
  have hread := vglLines_read hn hbench
  have hintact (line) := vglLines_intact (line := line) hn hbench hes
  obtain ⟨hsame, hvalues⟩ := hread
  generalize s.vglLines k (s.hand.actives f.m) = r at hx hintact hsame hvalues
  obtain ⟨u, vals⟩ := r
  dsimp only at hx hsame hvalues hintact
  obtain ⟨hin, hout⟩ := setElems_result (h := u.hand) (by rw [hsame.v]; exact hr.1) f.d
    (fun e => mem_linesAt_flatMap (k := k) (es := s.hand.actives f.m)) (val := s.liveAt s.hand.sewBytes k)
    (fun e _ => by rw [hsame.sewBytes]; exact liveAt_lt ..)
  rw [← hvalues] at hin hout
  rw [setElems_hand] at hx hin hout
  generalize (u.hand.setElems f.d vals).v = v at hx hin hout
  obtain ⟨⟨⟨o, ho, -⟩, hpub, -⟩, hlive⟩ := hsame
  rw [ho] at hx hin hout
  rw [produce_vector] at hx
  refine ⟨_, hx, movedOn_retire (by rfl) 4, retire_sameRegs _ 4, retire_p .., ⟨hlive, hpub⟩, fun e he => ?_, fun j hj => ?_,
    (retire_producers ..).trans (outstanding_producers (.vgl f) (ds := [(.vector f.d.toNat s.hand.grpN, some 2)]) rfl),
    fun line hl hway => ?_⟩
  · rw [← hin e he, retire_hand]
    exact elem_congr rfl rfl f.d e
  · rw [retire_v]
    exact hout j hj
  · have hlinked := intact_iff.1 (hintact line hl hway)
    rw [ho] at hlinked
    rw [intact_iff, retire_hand]
    exact hlinked

/-! ### A line of a vsc (R107, R229) -/

/-- Bytes written, all of them in one line: the link of that line is broken, once there is a byte, and every other line's is as it was. -/
structure WroteLine (line : Nat) (s t : State) (l : List (Nat × Byte)) : Prop where
  same : SameButOrder s t
  live : t.mem.live = s.mem.live.putAll l
  tags : rising t.mem.tags = true
  link : ∀ j, t.mem.linkOf j = if j = line ∧ l ≠ [] then none else s.mem.linkOf j

section
variable {line : Nat} {s t u : State} {l l' : List (Nat × Byte)}

theorem WroteLine.trans (h : WroteLine line s t l) (k : WroteLine line t u l') : WroteLine line s u (l ++ l') := by
  refine ⟨h.same.trans k.same, ?_, k.tags, fun j => ?_⟩
  · rw [Mem.putAll_append, k.live, h.live]
  · rw [k.link, h.link]
    by_cases hl' : l' = []
    · simp [hl']
    · by_cases hj : j = line <;> simp [hj, hl']

/-- Nothing written, and no link changed. -/
theorem WroteLine.of_sameBytes (h : SameBytes s t) (hr : rising t.mem.tags = true) (hl : ∀ j, t.mem.linkOf j = s.mem.linkOf j) :
    WroteLine line s t [] :=
  ⟨h.toSameButOrder, h.live, hr, fun j => by simpa using hl j⟩

/-- What one step after another writes, each of them from a state that differs from the first in the ordering alone. -/
theorem WroteLine.foldl {α : Type} {f : State → α → State} {g : α → List (Nat × Byte)} (as : List α) {s : State}
    (hr : rising s.mem.tags = true)
    (h : ∀ a ∈ as, ∀ t, SameButOrder s t → rising t.mem.tags = true → WroteLine line t (f t a) (g a)) :
    WroteLine line s (as.foldl f s) (as.flatMap g) := by
  induction as generalizing s with
  | nil => exact .of_sameBytes (.refl s) hr fun _ => rfl
  | cons a as ih =>
    have ha := h a List.mem_cons_self s (.refl s) hr
    exact ha.trans (ih ha.tags fun b hb t ht => h b (List.mem_cons_of_mem _ hb) t (ha.same.trans ht))

theorem stamp_wroteLine (hr : rising s.mem.tags = true) (t m q : Nat) {k : Nat} (b : Byte) (p : Bool) (hk : lineOf k = line) :
    WroteLine line s (s.stamp t m q k b p) [(k, b)] := by
  refine ⟨stamp_sameButOrder .., stamp_live .., ?_, fun j => ?_⟩
  · rw [stamp_tags]
    exact clearTag_rising hr _
  · rw [MemState.linkOf, stamp_tags, ← MemState.linkOf, clearTag_linkOf hr, hk]
    simp

theorem useLine_wroteLine (hr : rising s.mem.tags = true) (n : Nat) : WroteLine line s { s with mem := s.mem.useLine n } [] :=
  .of_sameBytes (useLine_sameBytes s n) (useLine_rising hr n) (useLine_linkOf s.mem n)

/-- The heel images that some bytes need are all that their retention changes. -/
theorem retaining_heel (s : State) (w : Writer) (keys : List Nat) :
    ∃ heel, (s.retaining w keys).1 = { s with mem := { s.mem with heel := heel } } := by
  refine foldl_inv (σ := State × List Nat) (fun acc => ∃ heel, acc.1 = { s with mem := { s.mem with heel := heel } }) ?_
    ⟨s.mem.heel, rfl⟩
  rintro ⟨t, held⟩ k ⟨heel, rfl⟩
  dsimp only
  split
  · next u hu =>
    simp only [State.retain] at hu
    split at hu
    · exact ⟨_, (Option.some.inj hu).symm⟩
    · split at hu
      · cases hu
      · exact ⟨_, (Option.some.inj hu).symm⟩
  · exact ⟨heel, rfl⟩

theorem ackStore_serial (o : Order) (cls : Nat) (lanes : List Nat) : (o.ackStore cls lanes).serial = o.serial := by
  have hadd (o : Order) (a : Ack) : (o.addAck a).serial = o.serial := by
    unfold Order.addAck
    split <;> split <;> rfl
  unfold Order.ackStore
  split
  · exact hadd ..
  · exact foldl_keeps (p := Order.serial) (f := fun o l => o.addAck ⟨cls, some l⟩) (fun o l => hadd o _) lanes o

/-- A live store to bytes of one line. -/
theorem storeLive_wroteLine (hr : rising s.mem.tags = true) (cls : Nat) (lanes : List Nat) {k : Nat} {b : List Byte}
    (hk : ∀ c ∈ atAddr k b, lineOf c.1 = line) : WroteLine line s (s.storeLive cls lanes k b) (atAddr k b) := by
  obtain ⟨heel, hheel⟩ := retaining_heel s s.storer (upFrom k b.length)
  unfold State.storeLive
  rw [hheel]
  dsimp only
  generalize hlog : State.logWrite { s with mem := { s.mem with heel := heel } } cls k b = u
  have hlogged : WroteLine line s u [] := by
    subst hlog
    exact .of_sameBytes ⟨⟨⟨_, rfl, rfl⟩, rfl, rfl⟩, rfl⟩ hr fun _ => rfl
  have hstamped := WroteLine.foldl (f := fun (t : State) kb => t.stamp t.hand.task t.hand.member s.hand.ord.wseq kb.1 kb.2 false)
    (g := fun c => [c]) (line := line) (atAddr k b) hlogged.tags fun c hc t _ ht => stamp_wroteLine ht _ _ _ _ _ (hk c hc)
  rw [List.flatMap_singleton'] at hstamped
  have hacked (t : State) (ht : rising t.mem.tags = true) :
      WroteLine line t { t with hand := { t.hand with ord := t.hand.ord.ackStore cls lanes } } [] :=
    .of_sameBytes ⟨⟨⟨_, rfl, ackStore_serial ..⟩, rfl, rfl⟩, rfl⟩ ht fun _ => rfl
  have hall := (hlogged.trans hstamped).trans (hacked _ hstamped.tags)
  rw [List.nil_append, List.append_nil] at hall
  exact hall
end


/-- The bytes of an aligned element lie in one line. -/
theorem lineOf_of_aligned (h : Hand) {key : Nat} (hk : key % h.sewBytes = 0) (v : Nat) :
    ∀ c ∈ atAddr key (leBytes h.sewBytes v), lineOf c.1 = lineOf key := by
  intro c hc
  have hc := atAddr_addr _ _ c hc
  rw [leBytes_length] at hc
  obtain ⟨n, hn⟩ : h.sewBytes ∣ 128 := Nat.pow_dvd_pow (n := 7) 2 (by omega)
  have hfst : c.1 / h.sewBytes = key / h.sewBytes := by
    have hbase := Nat.div_mul_cancel (Nat.dvd_of_mod_eq_zero hk)
    refine Nat.div_eq_of_lt_le ?_ ?_
    · omega
    · rw [Nat.succ_mul]
      omega
  rw [lineOf, lineOf, hn, ← Nat.div_div_eq_div_mul, ← Nat.div_div_eq_div_mul, hfst]

/-- The bytes that an element writes. -/
def State.elemBytes (s : State) (d : Fld5) (k : Nat → Nat) (e : Nat) : List (Nat × Byte) :=
  atAddr (k e) (leBytes s.hand.sewBytes (s.hand.elem d e))

theorem SameButOrder.elemBytes {s t : State} (h : SameButOrder s t) (d : Fld5) (k : Nat → Nat) (e : Nat) :
    t.elemBytes d k e = s.elemBytes d k e := by
  rw [State.elemBytes, State.elemBytes, h.sewBytes, h.elem]

section
variable {s : State} {d : Fld5} {k : Nat → Nat} {es : List Nat} {line : Nat}

theorem lineSucceeds_of_noDudel (hn : s.noDudel) (line : Nat) : s.lineSucceeds line = s.intact line := by
  have hforced : s.forced 4 (BitVec.ofNat 16 s.hand.id) = none := by
    simp [State.forced, State.replayNext, hn.2]
  rw [State.lineSucceeds, hforced]

/-- A line whose link is not intact writes nothing. -/
theorem vscLine_of_broken (hn : s.noDudel) (h : s.intact line = false) : s.vscLine d line (es.map (linkTo k)) = (s, []) := by
  unfold State.vscLine
  rw [lineSucceeds_of_noDudel hn, h]
  exact congrArg (·, []) (linkOp_of_noDudel hn line 0)

/-- Where elements lie apart, the data of none of them are hidden by another's. -/
theorem shown_linkTo {w : Nat} (hw : 0 < w) (ha : apart w es k) (l : List Nat) (hl : ∀ e ∈ l, e ∈ es) :
    (l.map (linkTo k)).filter (fun t => !((l.map (linkTo k)).any fun u => u.key == t.key && decide (t.e < u.e))) = l.map (linkTo k) := by
  refine List.filter_eq_self.2 (List.forall_mem_map.2 fun e he => ?_)
  rw [Bool.not_eq_true', List.any_eq_false]
  refine List.forall_mem_map.2 fun f hf => ?_
  simp only [linkTo, Bool.and_eq_true, beq_iff_eq]
  rintro ⟨hkey, hlt⟩
  have hapart := ha e (hl e he) f (hl f hf)
  have hlt := of_decide_eq_true hlt
  omega

/-- The elements of a line, stored one after another. -/
theorem foldl_storeLive_wroteLine (hr : rising s.mem.tags = true) (hal : ∀ e ∈ es, k e % s.hand.sewBytes = 0)
    (lanes : Nat → List Nat) :
    WroteLine line s ((elemsIn k es line).foldl (fun (t : State) e =>
      t.storeLive 2 (lanes e) (k e) (leBytes s.hand.sewBytes (t.hand.elem d e))) s) ((elemsIn k es line).flatMap (s.elemBytes d k)) := by
  refine WroteLine.foldl _ hr fun e he t ht hrt => ?_
  obtain ⟨hes, hline⟩ := mem_elemsIn.1 he
  rw [ht.elem, State.elemBytes]
  exact storeLive_wroteLine hrt _ _ fun c hc => (lineOf_of_aligned s.hand (hal e hes) _ c hc).trans hline

/-- A line whose link is intact: its elements write, and that breaks the link. -/
theorem vscLine_of_intact (hn : s.noDudel) (hr : rising s.mem.tags = true) (h : s.intact line = true)
    (hal : ∀ e ∈ es, k e % s.hand.sewBytes = 0) (ha : apart s.hand.sewBytes es k) :
    let r := s.vscLine d line (es.map (linkTo k))
    WroteLine line s r.1 ((elemsIn k es line).flatMap (s.elemBytes d k)) ∧ r.2 = elemsIn k es line := by
  have hused := WroteLine.foldl (f := fun (t : State) e => t.linkReached .vsc (linkTo k e)) (g := fun _ => []) (line := line)
    (elemsIn k es line) hr fun e _ t _ ht => by
      rw [linkReached_linkTo]
      exact useLine_wroteLine ht _
  rw [List.flatMap_eq_nil_iff.2 fun _ _ => rfl] at hused
  unfold State.vscLine
  rw [lineSucceeds_of_noDudel hn, h, if_pos rfl, filter_linkTo,
    shown_linkTo (Nat.two_pow_pos _) ha _ fun e he => (mem_elemsIn.1 he).1]
  dsimp only
  rw [List.foldl_map, List.foldl_map, List.map_map]
  generalize (elemsIn k es line).foldl (fun (t : State) e => t.linkReached .vsc (linkTo k e)) s = u at hused ⊢
  have hstored := foldl_storeLive_wroteLine (d := d) (k := k) (es := es) (line := line) (s := u) hused.tags
    (by rw [hused.same.sewBytes]; exact hal)
    fun e => (((elemsIn k es line).map (linkTo k)).filter fun v => v.key == k e).map fun v => v.e * s.hand.sewBytes % 1024 / 4
  rw [hused.same.sewBytes, funext (hused.same.elemBytes d k)] at hstored
  have hwrote := hused.trans hstored
  rw [List.nil_append] at hwrote
  refine ⟨?_, (List.map_congr_left fun _ _ => rfl).trans (List.map_id _)⟩
  rw [linkOp_of_noDudel]
  · exact hwrote
  · exact hwrote.same.noDudel hn
end

/-! ### All the lines of a vsc -/

/-- The state, and the elements that wrote, once a line more is decided. -/
def vscStep (d : Fld5) (ts : List LinkTo) (acc : State × List Nat) (line : Nat) : State × List Nat :=
  let r := acc.1.vscLine d line ts
  (r.1, acc.2 ++ r.2)

/-- What deciding some lines gives: the elements whose line is among them and was intact have written, and the links of those lines are
broken. -/
structure LinesWrote (c : State) (d : Fld5) (k : Nat → Nat) (es lines : List Nat) (acc : State × List Nat) : Prop where
  same : SameButOrder c acc.1
  live : acc.1.mem.live = c.mem.live.putAll (acc.2.flatMap (c.elemBytes d k))
  tags : rising acc.1.mem.tags = true
  intact : ∀ line, acc.1.intact line = (c.intact line && !decide (line ∈ lines))
  wrote : ∀ e, e ∈ acc.2 ↔ e ∈ es ∧ lineOf (k e) ∈ lines ∧ c.intact (lineOf (k e)) = true

theorem elemBytes_ne_nil (s : State) (d : Fld5) (k : Nat → Nat) (e : Nat) : s.elemBytes d k e ≠ [] := by
  refine List.ne_nil_of_length_pos ?_
  rw [State.elemBytes, atAddr_length, leBytes_length]
  exact Nat.two_pow_pos _

section
variable {c : State} {d : Fld5} {k : Nat → Nat} {es lines : List Nat} {acc : State × List Nat} {line : Nat}

/-- A line that some element reaches. -/
theorem vscStep_wrote (hn : c.noDudel) (hal : ∀ e ∈ es, k e % c.hand.sewBytes = 0) (ha : apart c.hand.sewBytes es k)
    (hline : line ∈ linesAt k es) (h : LinesWrote c d k es lines acc) :
    LinesWrote c d k es (lines ++ [line]) (vscStep d (es.map (linkTo k)) acc line) := by
  obtain ⟨hsame, hlive, htags, hintact, hwrote⟩ := h
  unfold vscStep
  cases hi : acc.1.intact line with
  | false =>
    rw [vscLine_of_broken (hsame.noDudel hn) hi]
    have hbroken : c.intact line = false ∨ line ∈ lines := by
      simpa [or_iff_not_imp_left] using (hintact line).symm.trans hi
    dsimp only
    rw [List.append_nil]
    refine ⟨hsame, hlive, htags, fun j => (hintact j).trans ?_, fun e => (hwrote e).trans ?_⟩
    · by_cases hj : j = line
      · subst hj; rcases hbroken with hb | hb <;> simp [hb]
      · simp [hj]
    · by_cases hj : lineOf (k e) = line
      · rw [hj]; rcases hbroken with hb | hb <;> simp [hb]
      · simp [hj]
  | true =>
    obtain ⟨hone, hels⟩ := vscLine_of_intact (d := d) (k := k) (es := es) (hsame.noDudel hn) htags hi
      (by rw [hsame.sewBytes]; exact hal) (by rw [hsame.sewBytes]; exact ha)
    rw [funext (hsame.elemBytes d k)] at hone
    generalize acc.1.vscLine d line (es.map (linkTo k)) = r at hone hels ⊢
    obtain ⟨hcline, hnew⟩ : c.intact line = true ∧ line ∉ lines := by
      simpa using (hintact line).symm.trans hi
    obtain ⟨e, he, hek⟩ := mem_linesAt.1 hline
    have hsome : (elemsIn k es line).flatMap (c.elemBytes d k) ≠ [] := fun hnil =>
      elemBytes_ne_nil c d k e (List.flatMap_eq_nil_iff.1 hnil e (mem_elemsIn.2 ⟨he, hek⟩))
    dsimp only
    refine ⟨hsame.trans hone.same, ?_, hone.tags, fun j => ?_, fun f => ?_⟩
    · rw [hone.live, hlive, hels, List.flatMap_append, Mem.putAll_append]
    · by_cases hj : j = line
      · rw [intact_of_unlinked (by rw [hone.link, if_pos ⟨hj, hsome⟩])]
        simp [hj]
      · rw [intact_congr hone.same (by rw [hone.link, if_neg fun h => hj h.1]), hintact]
        simp [hj]
    · rw [hels, List.mem_append, hwrote, mem_elemsIn, List.mem_append, List.mem_singleton]
      by_cases hj : lineOf (k f) = line
      · simp [hj, hcline, hnew]
      · simp [hj]

theorem foldl_vscStep_wrote (hn : c.noDudel) (hal : ∀ e ∈ es, k e % c.hand.sewBytes = 0) (ha : apart c.hand.sewBytes es k)
    (more : List Nat) (hmore : ∀ line ∈ more, line ∈ linesAt k es) (h : LinesWrote c d k es lines acc) :
    LinesWrote c d k es (lines ++ more) (more.foldl (vscStep d (es.map (linkTo k))) acc) := by
  induction more generalizing lines acc with
  | nil => rwa [List.append_nil]
  | cons line more ih =>
    obtain ⟨hl, hm⟩ := List.forall_mem_cons.1 hmore
    rw [List.append_cons]
    exact ih hm (vscStep_wrote hn hal ha hl h)

/-- The state, and the elements that wrote, once all the lines of a vsc are decided. -/
def State.vscLines (c : State) (d : Fld5) (k : Nat → Nat) (es : List Nat) : State × List Nat :=
  (linesAt k es).foldl (vscStep d (es.map (linkTo k))) (c, [])

theorem vscLines_wrote (hn : c.noDudel) (hr : rising c.mem.tags = true) (hal : ∀ e ∈ es, k e % c.hand.sewBytes = 0)
    (ha : apart c.hand.sewBytes es k) : LinesWrote c d k es (linesAt k es) (c.vscLines d k es) :=
  foldl_vscStep_wrote (lines := []) hn hal ha _ (fun _ h => h) ⟨.refl c, rfl, hr, fun line => by simp, fun e => by simp⟩
end

/-! ### Writing a predicate register (R239) -/

/-- A predicate with the positions of a list set has those bits. -/
theorem getLsbD_foldl_or (l : List Nat) (b : BitVec 1024) {j : Nat} (hj : j < 1024) :
    (l.foldl (fun p e => p ||| BitVec.ofNat 1024 (2 ^ e)) b).getLsbD j = (b.getLsbD j || decide (j ∈ l)) := by
  induction l generalizing b with
  | nil => simp
  | cons e l ih =>
    rw [List.foldl_cons, ih, BitVec.getLsbD_or, BitVec.getLsbD_ofNat, Nat.testBit_two_pow]
    simp [hj, eq_comm, Bool.or_assoc]

theorem getP_setP_same (h : Hand) {q : Fld5} (hq : q ≠ 0) (v : BitVec 1024) : (h.setP q.toNat v).getP q.toNat = v := by
  have hne : q.toNat ≠ 0 := fun h0 => hq (BitVec.eq_of_toNat_eq h0)
  simp [Hand.setP, Hand.getP, hne, q.isLt]

theorem getP_setP_ne (h : Hand) {q r : Nat} (hq : q ≠ r) (v : BitVec 1024) : (h.setP r v).getP q = h.getP q := by
  unfold Hand.setP
  split
  · rfl
  · simp [Hand.getP, Array.getD_eq_getD_getElem?, hq.symm]

section
variable (h : Hand) (d : Fld5) (l : List Nat)

theorem putPred_hand : h.putPred d l = { h with p := (h.putPred d l).p } := by
  unfold Hand.putPred Hand.setP
  repeat' split
  all_goals rfl

theorem getP_putPred_ne {q : Fld5} (hq : q ≠ d) : (h.putPred d l).getP q.toNat = h.getP q.toNat := by
  unfold Hand.putPred
  split
  · rfl
  · exact getP_setP_ne h (fun he => hq (BitVec.eq_of_toNat_eq he)) _

theorem getP_putPred_same {h : Hand} {d : Fld5} {l : List Nat} (hd : d ≠ 0) (hvl : h.csr.vl ≠ 0) {j : Nat} (hj : j < 1024) :
    ((h.putPred d l).getP d.toNat).getLsbD j = decide (j ∈ l) := by
  rw [Hand.putPred, if_neg hvl, getP_setP_same _ hd, getLsbD_foldl_or _ _ hj]
  simp

theorem putPred_of_vl_zero (hvl : h.csr.vl = 0) : h.putPred d l = h := if_pos hvl
end

theorem getP_congr {h g : Hand} (hp : g.p = h.p) (r : Nat) : g.getP r = h.getP r := by rw [Hand.getP, Hand.getP, hp]

/-! ### vsc (R107, R229) -/

/-- The state that the effect of a vsc leaves has completed. -/
def vscEnd (f : VscF) (s b : State) : State := (b.outstanding s.hand (vshape (.vsc f)) (vflow (.vsc f)) (canFlag (.vsc f))).retire 4

section
variable {f : VscF} {s : State} (hr : s.mayRun (.vsc f)) (ha : s.hand.full f.a) (hb : s.hand.chains f.b s.hand.grpN f.tb) (hd : s.drains)
include hr ha hb hd

theorem exec_vsc_none (hes : s.hand.actives f.m = []) :
    exec (.vsc f) s = .next (vscEnd f s (s.commit.put (s.commit.hand.putPred f.p []))) := by
  refine vrun_of_mayRun (o := execVsc f s) rfl hr ?_
  have hnone : (s.commit.hand.indexed f.m (s.hand.getX f.a) f.b).isEmpty = true := by
    rw [commit_hand]
    exact List.isEmpty_iff.2 (List.map_eq_nil_iff.2 hes)
  simp only [src_full s 0 f.a f.ta ha, vsrc_of_chains 1 hr.2.1 hb, State.vdata, vsrc_of_chains (trap := 0) 0 hr.2.1 (.inl rfl), ok_bind,
    bind_commits hd, hnone, if_true]
  rfl

theorem exec_vsc {k : Nat → Nat} {va : Nat → Reg64} (hva : va = fun e => s.hand.getX f.a + BitVec.ofNat 64 (s.hand.elem f.b e))
    (hw : s.hand.sched.watches = []) (hn : s.noDudel) (hes : s.hand.actives f.m ≠ [])
    (h : ∀ e ∈ s.hand.actives f.m, s.commit.linksTo true va k e) {r : State × List Nat}
    (hr' : r = s.commit.vscLines f.d k (s.hand.actives f.m)) : 
      exec (.vsc f) s = .next (vscEnd f s (r.1.put (r.1.hand.putPred f.p r.2)).memBeats) := by
  refine vrun_of_mayRun (o := execVsc f s) rfl hr ?_
  have hindexed : s.commit.hand.indexed f.m (s.hand.getX f.a) f.b = (s.hand.actives f.m).map fun e => Elem.at' e (va e) := by
    rw [commit_hand, hva]
    rfl
  have hsome : ((s.hand.actives f.m).map fun e => Elem.at' e (va e)).isEmpty = false := by simpa using hes
  have hturn : s.commit.linkTurn = .ok () := if_pos (replayTurn_of_noDudel (commit_noDudel hn) ..)
  have hwc : s.commit.hand.sched.watches = [] := by rwa [commit_hand]
  subst hr'
  simp only [src_full s 0 f.a f.ta ha, vsrc_of_chains 1 hr.2.1 hb, State.vdata, vsrc_of_chains (trap := 0) 0 hr.2.1 (.inl rfl), ok_bind,
    bind_commits hd, hindexed, hsome, Bool.false_eq_true, if_false, hturn,
    linkTargets_of_linksTo (a := .vsc) nofun hwc h, linkTo_not_sc, pure_bind, linesOf_linkTo]
  rfl
end

/-- What every vsc leaves (R20, R107): the positions of p[P] are those that wrote, and of the rest of the hand its ordering, the strip's
record and the deficit alone differ from what its commit left. -/
structure VscLeft (f : VscF) (s : State) (good : List Nat) (b : State) : Prop where
  hand : ∃ (o : Order) (st : Strip) (d : Int), st.prot = false ∧
    b.hand = { s.hand with ord := o, strip := st, sched := { s.hand.sched with deficit := d }, p := (s.hand.putPred f.p good).p }
  pub : b.mem.pub = s.mem.pub

theorem putPred_p_congr {h g : Hand} (hcsr : g.csr = h.csr) (hp : g.p = h.p) (d : Fld5) (l : List Nat) :
    (g.putPred d l).p = (h.putPred d l).p := by
  unfold Hand.putPred Hand.setP
  rw [hcsr]
  split
  · exact hp
  · split
    · exact hp
    · dsimp only
      rw [hp]

theorem vscLeft_put {f : VscF} {s u : State} (h : SameButOrder s.commit u) (good : List Nat) :
    VscLeft f s good (u.put (u.hand.putPred f.p good)) := by
  obtain ⟨⟨o, ho, -⟩, hpub, -⟩ := h
  rw [commit_hand] at ho
  refine ⟨⟨o, s.commit.hand.strip, s.hand.sched.deficit, commit_prot s, ?_⟩, hpub.trans (commit_pub s)⟩
  rw [State.put, putPred_hand, putPred_p_congr (h := s.hand) (by rw [ho]) (by rw [ho]), ho]

/-- Beats of the memory pipe count in the strip's record and the deficit. -/
theorem memBeats_hand (b : State) : ∃ (st : Strip) (d : Int), st.prot = b.hand.strip.prot ∧
    b.memBeats.hand = { b.hand with strip := st, sched := { b.hand.sched with deficit := d } } :=
  ⟨b.memBeats.hand.strip, b.memBeats.hand.sched.deficit, rfl, rfl⟩

theorem VscLeft.memBeats {f : VscF} {s b : State} {good : List Nat} (h : VscLeft f s good b) : VscLeft f s good b.memBeats := by
  obtain ⟨⟨o, st, d, hst, hb⟩, hpub⟩ := h
  obtain ⟨st', d', hst', hb'⟩ := memBeats_hand b
  rw [hb] at hst' hb'
  exact ⟨⟨o, st', d', hst'.trans hst, hb'⟩, hpub⟩

/-- What the statement says of every vsc, whatever it wrote. -/
def State.vscCommon (s : State) (f : VscF) (wrote : List Nat) (t : State) : Prop :=
  s.hand.movedOn t.hand 4 ∧ s.hand.sameRegs t.hand ∧ t.hand.v = s.hand.v ∧ t.mem.pub = s.commit.mem.pub ∧
    (∀ q : Fld5, q ≠ f.p → t.hand.getP q.toNat = s.hand.getP q.toNat) ∧ t.hand.strip.prot = false ∧
    (f.p ≠ 0 → s.hand.csr.vl ≠ 0 → ∀ e, e < 1024 → (t.hand.getP f.p.toNat).getLsbD e = decide (e ∈ wrote))

theorem VscLeft.common {f : VscF} {s b : State} {good wrote : List Nat} (h : VscLeft f s good b) (hw : ∀ e, e ∈ good ↔ e ∈ wrote) :
    s.vscCommon f wrote (vscEnd f s b) := by
  obtain ⟨⟨o, st, d, hst, hb⟩, hpub⟩ := h
  have hp : (vscEnd f s b).hand.p = (s.hand.putPred f.p good).p := by
    rw [vscEnd, retire_p, State.outstanding, hb]
  refine ⟨movedOn_retire ?_ 4, sameRegs_trans (k := b.hand) ?_ (retire_sameRegs _ 4), ?_, ?_, fun q hq => ?_, ?_,
    fun hne hvl e he => ?_⟩
  · rw [State.outstanding, hb]
    rfl
  · rw [hb]
    exact ⟨rfl, rfl, rfl, rfl, rfl, rfl, rfl, rfl⟩
  · rw [vscEnd, retire_v, State.outstanding, hb]
  · exact hpub.trans (commit_pub s).symm
  · rw [getP_congr hp, getP_putPred_ne _ _ _ hq]
  · rw [vscEnd, retire_strip, State.outstanding, hb]
    exact hst
  · rw [getP_congr hp, getP_putPred_same hne hvl he, Bool.eq_iff_iff, decide_eq_true_iff, decide_eq_true_iff, hw]

/-- A vsc over elements that reach their bytes. -/
theorem vsc_some {f : VscF} {s : State} {k : Nat → Nat} {va : Nat → Reg64}
    (hva : va = fun e => s.hand.getX f.a + BitVec.ofNat 64 (s.hand.elem f.b e)) (hr : s.mayRun (.vsc f)) (ha : s.hand.full f.a)
    (hb : s.hand.chains f.b s.hand.grpN f.tb) (hd : s.drains) (hw : s.hand.sched.watches = []) (hn : s.noDudel)
    {es wrote : List Nat} (hes : s.hand.actives f.m = es) (hwrote : es.filter (fun e => s.commit.intact (lineOf (k e))) = wrote)
    (hne : es ≠ []) (hwf : Mem.wf s.commit.mem.live = true) (hrise : rising s.commit.mem.tags = true)
    (h : ∀ e ∈ es, s.commit.linksTo true va k e) (hal : ∀ e ∈ es, k e % s.hand.sewBytes = 0) (hapart : apart s.hand.sewBytes es k) :
    ∃ t, exec (.vsc f) s = .next t ∧ s.vscCommon f wrote t ∧
      storedAt s.commit.mem.live t.mem.live s.hand.sewBytes wrote k (s.hand.elem f.d) ∧
      ∀ e ∈ wrote, t.intact (lineOf (k e)) = false := by
  subst hes hwrote
  have hsew : s.commit.hand.sewBytes = s.hand.sewBytes := by rw [commit_hand]; rfl
  have helem : s.commit.hand.elem f.d = s.hand.elem f.d := by
    rw [commit_hand]
    rfl
  obtain ⟨hsame, hlive, -, hintact, hgood⟩ := vscLines_wrote (d := f.d) (commit_noDudel hn) hrise (by rwa [hsew]) (by rwa [hsew])
  have hx := exec_vsc hr ha hb hd hva hw hn hne h rfl
  generalize s.commit.vscLines f.d k (s.hand.actives f.m) = r at hx hsame hlive hintact hgood
  have hmem (e) : e ∈ r.2 ↔ e ∈ (s.hand.actives f.m).filter fun e => s.commit.intact (lineOf (k e)) := by
    rw [hgood, List.mem_filter]
    exact ⟨fun ⟨he, _, hi⟩ => ⟨he, hi⟩, fun ⟨he, hi⟩ => ⟨he, mem_linesAt.2 ⟨e, he, rfl⟩, hi⟩⟩
  refine ⟨_, hx, (vscLeft_put hsame r.2).memBeats.common hmem, ?_, fun e he => ?_⟩
  · have hput := storedAt_putAll (m := s.commit.mem.live) hwf (s.hand.elem f.d)
      fun e he g hg => hapart e ((hgood e).1 he).1 g ((hgood g).1 hg).1
    refine storedAt_congr ?_ hmem
    convert hput using 1
    rw [← hsew, ← helem]
    exact hlive
  · have hend : (vscEnd f s (r.1.put (r.1.hand.putPred f.p r.2)).memBeats).intact (lineOf (k e)) = r.1.intact (lineOf (k e)) := by
      rw [Bool.eq_iff_iff, intact_iff, intact_iff, vscEnd, retire_hand, putPred_hand]
      rfl
    rw [hend, hintact, decide_eq_true ((hgood e).1 ((hmem e).2 he)).2.1, Bool.not_true, Bool.and_false]

/-- A vsc without an active element. -/
theorem vsc_none {f : VscF} {s : State} (hr : s.mayRun (.vsc f)) (ha : s.hand.full f.a) (hb : s.hand.chains f.b s.hand.grpN f.tb)
    (hd : s.drains) (hes : s.hand.actives f.m = []) :
    ∃ t, exec (.vsc f) s = .next t ∧ s.vscCommon f [] t ∧ t.mem = s.commit.mem ∧ (s.hand.csr.vl = 0 → t.hand.p = s.hand.p) := by
  have hleft := vscLeft_put (f := f) (.refl s.commit) []
  refine ⟨_, exec_vsc_none hr ha hb hd hes, hleft.common fun _ => Iff.rfl, rfl, fun hvl => ?_⟩
  obtain ⟨⟨o, st, d, -, hhand⟩, -⟩ := hleft
  rw [vscEnd, retire_p, State.outstanding, hhand, putPred_of_vl_zero _ _ _ hvl]

/-- Settles O34, line by line: a vgl reads and links each line that its elements reach, and each line that a vsc reaches is decided by its
link, which the bytes written to it break. -/
theorem linkedPath : Obligations.LinkedPath := by
  unfold Obligations.LinkedPath
  refine ⟨fun f s k hr ha hb hw hn hes h => vgl_some rfl hr ha hb hw hn hes h, fun f s k hr ha hb hw hn hd => ⟨?_, fun hes => ?_⟩⟩
  · intro hne hwf hrise h hapart
    have hsew : s.commit.hand.sewBytes = s.hand.sewBytes := by rw [commit_hand]; rfl
    refine vsc_some rfl hr ha hb hd hw hn rfl rfl hne hwf hrise (fun e he => ?_) (fun e he => ?_) hapart
    · obtain ⟨halign, -, hrange, hdec⟩ := h e he
      rw [← hsew] at halign hdec
      exact ⟨halign, hrange, hdec⟩
    · obtain ⟨-, hkey, -⟩ := h e he
      exact hkey
  · have hnone := vsc_none hr ha hb hd hes
    dsimp only
    rw [hes]
    exact hnone
end Sys2Proof.Machine
end


section
/-!
## Reset (O8)

What a map without an entry gives is its default, so that one equation says what every queue, tile and field is at reset.
-/
namespace Sys2Proof.Machine

theorem reset_bounded : State.reset.bounded = true := by decide

/-- A queue that nothing has set is not enabled. -/
theorem reset_queue (q : Nat) : State.reset.queue q = Queue.empty := rfl

/-- No core has a tile entry yet (Table 3.2). -/
theorem reset_tile (c t : Nat) : State.reset.tile c t = Tile.empty := rfl

theorem reset_field (f : Nat) : State.reset.field f = Field.atReset := by
  rw [State.field, State.reset, Vector.toArray_replicate, Array.getD_eq_getD_getElem?, Array.getElem?_replicate]
  split <;> rfl

/-- Settles O8: both invariants, then queues, tiles and fields by what each of them is at reset. -/
theorem resetState : Obligations.ResetState := by
  unfold Obligations.ResetState
  refine ⟨State.reset_canonical, reset_bounded, rfl, rfl, rfl, rfl, rfl, rfl, fun q => ?_, rfl, rfl, rfl, fun c t => ?_, fun f _ => ?_⟩
  · rw [reset_queue]; rfl
  · rw [reset_tile]; rfl
  · rw [reset_field]; rfl

end Sys2Proof.Machine
end

section
/-!
## vldsq and vstsq, the accesses that draw tickets (O35)

Elements perform one after another, each in the state that those before it have left. `Performed` is what some of them leave: the tickets
drawn, the bytes written, and that whatever a further element is translated and checked by is as it was. `TicketsLeft` is what both
instructions leave once all elements have performed.
-/
namespace Sys2Proof.Machine

/-! ### The order point (R114) -/

theorem passPoint_hand (s : State) : ∃ o : Order, s.passPoint = { s with hand := { s.hand with ord := o } } := ⟨_, rfl⟩

/-- An order point that is passed goes on from its commit point. -/
theorem orderPoint_ok {s c : State} (h : s.orderPoint = .ok c) : c = s.commit.passPoint := by
  unfold State.orderPoint State.commits at h
  split at h
  · cases h
  · rw [ok_bind] at h
    split at h
    · exact (Except.ok.inj h).symm
    · cases h

/-- Behind a commit point, an order point changes the ordering alone. -/
theorem orderPoint_committed {s c : State} (h : s.commit.orderPoint = .ok c) :
    ∃ o : Order, c = { s.commit with hand := { s.commit.hand with ord := o } } := by
  obtain ⟨o, ho⟩ := passPoint_hand s.commit
  exact ⟨o, by rw [orderPoint_ok h, commit_of_not_prot _ (commit_prot s), ho]⟩

theorem stamp_ticket (s : State) (t m q k : Nat) (b : Byte) (p : Bool) : (s.stamp t m q k b p).mem.ticket = s.mem.ticket := by
  obtain ⟨tags, h⟩ := putLive_mem s k b
  exact (congrArg MemState.ticket h : (s.putLive k b).mem.ticket = _)

theorem stamp_bad (s : State) (t m q k : Nat) (b : Byte) (p : Bool) : (s.stamp t m q k b p).mem.bad = s.mem.bad := by
  obtain ⟨tags, h⟩ := putLive_mem s k b
  exact (congrArg MemState.bad h : (s.putLive k b).mem.bad = _)

@[simp] theorem commit_ticket (s : State) : s.commit.mem.ticket = s.mem.ticket :=
  commit_keeps (p := fun s => s.mem.ticket) (fun _ _ => rfl) (fun _ _ => rfl) stamp_ticket s

/-! ### What the elements that have performed leave -/

/-- `n` tickets are drawn and the bytes `l` are written; the hand, its ordering apart, and all that an element's translation and checks
rest on are as they were. -/
structure Performed (s t : State) (n : Nat) (l : List (Nat × Byte)) : Prop extends SameButOrder s t where
  asids : t.asids = s.asids
  fields : t.fields = s.fields
  sides : ∀ task, t.sideOf task = s.sideOf task
  bad : t.mem.bad = s.mem.bad
  ticket : t.mem.ticket = s.mem.ticket + n
  live : t.mem.live = s.mem.live.putAll l

section
variable {s t u : State} {n n' : Nat} {l l' : List (Nat × Byte)}

theorem Performed.refl (s : State) : Performed s s 0 [] := ⟨.refl s, rfl, rfl, fun _ => rfl, rfl, rfl, rfl⟩

theorem Performed.trans (h : Performed s t n l) (k : Performed t u n' l') : Performed s u (n + n') (l ++ l') where
  toSameButOrder := h.toSameButOrder.trans k.toSameButOrder
  asids := k.asids.trans h.asids
  fields := k.fields.trans h.fields
  sides task := (k.sides task).trans (h.sides task)
  bad := k.bad.trans h.bad
  ticket := by rw [k.ticket, h.ticket, Nat.add_assoc]
  live := by rw [k.live, h.live, Mem.putAll_append]

/-- An element that reaches its byte still does once others have performed. -/
theorem Performed.linksTo (h : Performed s t n l) {wr : Bool} {va : Nat → Reg64} {k : Nat → Nat} {e : Nat} (hl : s.linksTo wr va k e) :
    t.linksTo wr va k e := by
  obtain ⟨halign, hrange, hdec⟩ := hl
  have hside : t.me.side = s.me.side := by
    obtain ⟨o, ho, -⟩ := h.hand
    refine Eq.trans ?_ (h.sides s.hand.task)
    rw [State.me, ho]
    rfl
  have hup : t.stackUp (k e) = s.stackUp (k e) := by
    rw [State.stackUp, State.stackUp, State.field, State.field, h.fields]
  refine ⟨by rwa [h.sewBytes], ?_, ?_⟩
  · obtain ⟨o, ho, -⟩ := h.hand
    rwa [State.rangeAt, State.rangeOf, hup, h.asids, hside, ho]
  · rwa [State.decodes, State.badKey, h.bad, h.sewBytes]

theorem Performed.watches (h : Performed s t n l) (hw : s.hand.sched.watches = []) : t.hand.sched.watches = [] := by
  obtain ⟨o, ho, -⟩ := h.hand
  rwa [ho]
end

/-! ### An element of a store performed live (R58, R115) -/

theorem heel_performed (s : State) (heel : List HeelImage) : Performed s { s with mem := { s.mem with heel := heel } } 0 [] :=
  ⟨⟨⟨_, rfl, rfl⟩, rfl, rfl⟩, rfl, rfl, fun _ => rfl, rfl, rfl, rfl⟩

theorem logWrite_performed (s : State) (cls k : Nat) (l : List Byte) : Performed s (s.logWrite cls k l) 0 [] :=
  ⟨⟨⟨_, rfl, rfl⟩, rfl, rfl⟩, rfl, rfl, sideOf_modTask s _ (by exact fun _ => rfl) (by exact fun _ => rfl), rfl, rfl, rfl⟩

theorem stamp_performed (s : State) (t m q k : Nat) (b : Byte) (p : Bool) : Performed s (s.stamp t m q k b p) 0 [(k, b)] :=
  ⟨stamp_sameButOrder .., State.stamp_asids .., State.stamp_fields .., fun _ => sideOf_stamp .., stamp_bad ..,
    stamp_ticket .., stamp_live ..⟩

theorem ackStore_performed (s : State) (cls : Nat) (lanes : List Nat) :
    Performed s { s with hand := { s.hand with ord := s.hand.ord.ackStore cls lanes } } 0 [] :=
  ⟨⟨⟨_, rfl, ackStore_serial ..⟩, rfl, rfl⟩, rfl, rfl, fun _ => rfl, rfl, rfl, rfl⟩

/-- Bytes performed one after another. -/
theorem foldl_stamp_performed (q : Nat) (l : List (Nat × Byte)) (s : State) :
    Performed s (l.foldl (fun (s : State) kb => s.stamp s.hand.task s.hand.member q kb.1 kb.2 false) s) 0 l := by
  induction l generalizing s with
  | nil => exact .refl s
  | cons kb l ih => exact (stamp_performed s _ _ q kb.1 kb.2 false).trans (ih _)

theorem storeLive_performed (s : State) (cls : Nat) (lanes : List Nat) (k : Nat) (b : List Byte) :
    Performed s (s.storeLive cls lanes k b) 0 (atAddr k b) := by
  obtain ⟨heel, hheel⟩ := retaining_heel s s.storer (upFrom k b.length)
  unfold State.storeLive
  rw [hheel]
  have h := (((heel_performed s heel).trans (logWrite_performed _ cls k b)).trans
    (foldl_stamp_performed s.hand.ord.wseq (atAddr k b) _)).trans (ackStore_performed _ cls lanes)
  rwa [List.append_nil] at h

/-! ### An element draws its ticket (R112) -/

/-- The state once an element that reaches byte `key` has drawn its ticket: its line is used. -/
def State.drew (s : State) (key : Nat) : State :=
  { s with mem := { s.mem.useLine (lineOf key) with ticket := s.mem.ticket + 1 } }

theorem drew_mem (s : State) (key : Nat) : ∃ tags, (s.drew key).mem = { s.mem with tags := tags, ticket := s.mem.ticket + 1 } :=
  ⟨(s.mem.useLine (lineOf key)).tags, by rw [State.drew, useLine_tags]⟩

theorem drew_performed (s : State) (key : Nat) : Performed s (s.drew key) 1 [] := by
  obtain ⟨tags, h⟩ := drew_mem s key
  refine ⟨⟨⟨s.hand.ord, rfl, rfl⟩, ?_, rfl⟩, rfl, rfl, fun _ => rfl, ?_, rfl, ?_⟩ <;> rw [h]
  rfl

theorem drew_scByte (s : State) (key : Nat) : (s.drew key).mem.scByte = s.mem.scByte := by
  obtain ⟨tags, h⟩ := drew_mem s key
  rw [h]
  rfl

theorem nextTicket_of_noDudel {s : State} (hn : s.noDudel) : s.nextTicket = s.mem.ticket := by
  have hforced : s.forced 6 (BitVec.ofNat 16 s.hand.id) = none := by
    simp [State.forced, State.replayNext, hn.2]
  rw [State.nextTicket, hforced]

theorem ticketElem_of_linksTo {s : State} {a : Access} {va : Nat → Reg64} {k : Nat → Nat} {e : Nat} (ha : a ≠ .fetch)
    (hw : s.hand.sched.watches = []) (hn : s.noDudel) (h : s.linksTo a.writes va k e) :
    s.ticketElem a (Elem.at' e (va e)) = .ok (s.drew (k e), k e, false) := by
  obtain ⟨halign, hrange, hdec⟩ := h
  have hlook : s.xlook a (va e) = .ok (s, .plain (k e) false, none) := by
    rw [State.xlook, look_of_rangeOf (k := k e) (a := a) rfl ha hrange]
  have haligned : s.aligned a (va e) s.hand.sewBytes = .ok () := if_pos halign
  have hused : s.reached none a (.plain (k e) false) = { s with mem := s.mem.useLine (lineOf (k e)) } := reached_plain ..
  have hticket : (s.mem.useLine (lineOf (k e))).ticket = s.mem.ticket := by rw [useLine_tags]
  have hwatch := watch_of_unwatched (s := { s with mem := s.mem.useLine (lineOf (k e)) }) hw
  have hnext := nextTicket_of_noDudel (s := { s with mem := s.mem.useLine (lineOf (k e)) }) hn
  have hop := dudelOp_of_noDudel (s := { s with mem := s.mem.useLine (lineOf (k e)) }) hn
  simp only [State.ticketElem, Elem.at', haligned, hlook, ok_bind, readable_of_decodes _ hdec, hused, hwatch, hnext, hop, hticket]
  rfl

theorem ticketTurn_of_noDudel {s : State} (hn : s.noDudel) (a : Access) (l : List Elem) : s.ticketTurn a l = .ok () := by
  rw [State.ticketTurn, replayTurn_of_noDudel hn, Bool.or_true, if_pos rfl]

/-! ### The elements of an instruction, one after another -/

/-- The value that an SC load finds at an element's byte (R113). -/
def State.scAt (s : State) (w : Nat) (k : Nat → Nat) (e : Nat) : Nat := leNat ((upFrom (k e) w).map s.mem.scByte)

theorem scAt_lt (s : State) (w : Nat) (k : Nat → Nat) (e : Nat) : s.scAt w k e < 256 ^ w := by
  have h := leNat_lt ((upFrom (k e) w).map s.mem.scByte)
  rwa [List.length_map, upFrom_length] at h

/-- One element of a vldsq: it draws its ticket, and its value is taken. -/
def loadTicket (w : Nat) (acc : State × List (Nat × Nat)) (x : Elem) : Run (State × List (Nat × Nat)) := do
  let (s, k, _) ← tagged x (acc.1.ticketElem .ticketLoad x)
  pure (s, acc.2 ++ [(x.e, leNat ((upFrom k w).map s.mem.scByte))])

/-- One element of a vstsq: it draws its ticket, and its bytes are written live. -/
def storeTicket (d : Fld5) (w : Nat) (s : State) (x : Elem) : Run State := do
  let (s, k, sc) ← tagged x (s.ticketElem .ticketStore x)
  let b := leBytes w (s.hand.elem d x.e)
  pure (if sc then s.storeSc 1 [] k b else s.storeLive 1 [] k b)

section
variable {s : State} {va : Nat → Reg64} {k : Nat → Nat} {es : List Nat} (hw : s.hand.sched.watches = []) (hn : s.noDudel)
include hw hn

/-- The elements of a vldsq draw a ticket each and read what SC loads find before the first of them: none of them writes. -/
theorem foldlM_loadTicket (w : Nat) (h : ∀ e ∈ es, s.linksTo false va k e) (vals : List (Nat × Nat)) :
    ∃ u, (es.map fun e => Elem.at' e (va e)).foldlM (loadTicket w) (s, vals) = .ok (u, vals ++ es.map fun e => (e, s.scAt w k e)) ∧
      Performed s u es.length [] := by
  induction es generalizing s vals with
  | nil => exact ⟨s, by rw [List.map_nil, List.map_nil, List.append_nil]; rfl, .refl s⟩
  | cons e es ih =>
    obtain ⟨he, hes⟩ := List.forall_mem_cons.1 h
    have hdrew := drew_performed s (k e)
    obtain ⟨u, hu, hperf⟩ := ih (hdrew.watches hw) (hdrew.noDudel hn) (fun f hf => hdrew.linksTo (hes f hf))
      (vals ++ [(e, s.scAt w k e)])
    have hsc : (s.drew (k e)).scAt w k = s.scAt w k := by
      funext f
      rw [State.scAt, drew_scByte, State.scAt]
    have hone : loadTicket w (s, vals) (Elem.at' e (va e)) = .ok (s.drew (k e), vals ++ [(e, s.scAt w k e)]) := by
      rw [loadTicket, ticketElem_of_linksTo (a := .ticketLoad) nofun hw hn he, ← hsc]
      rfl
    refine ⟨u, ?_, ?_⟩
    · rw [List.map_cons, List.foldlM_cons, hone, ok_bind, hu, hsc, List.map_cons, List.append_assoc, List.singleton_append]
    · rw [List.length_cons, Nat.add_comm]
      exact hdrew.trans hperf

/-- The elements of a vstsq draw a ticket each and write their data live. -/
theorem foldlM_storeTicket (d : Fld5) (h : ∀ e ∈ es, s.linksTo true va k e) :
    ∃ u, (es.map fun e => Elem.at' e (va e)).foldlM (storeTicket d s.hand.sewBytes) s = .ok u ∧
      Performed s u es.length (es.flatMap (s.elemBytes d k)) := by
  induction es generalizing s with
  | nil => exact ⟨s, rfl, .refl s⟩
  | cons e es ih =>
    obtain ⟨he, hes⟩ := List.forall_mem_cons.1 h
    have hdrew := drew_performed s (k e)
    have hstep := hdrew.trans (storeLive_performed (s.drew (k e)) 1 [] (k e) (leBytes s.hand.sewBytes (s.hand.elem d e)))
    obtain ⟨u, hu, hperf⟩ := ih (hstep.watches hw) (hstep.noDudel hn) (fun f hf => hstep.linksTo (hes f hf))
    rw [hstep.sewBytes] at hu
    rw [funext (hstep.elemBytes d k)] at hperf
    refine ⟨u, ?_, ?_⟩
    · rw [List.map_cons, List.foldlM_cons, storeTicket, ticketElem_of_linksTo (a := .ticketStore) nofun hw hn he]
      exact hu
    · rw [List.length_cons, Nat.add_comm]
      exact hstep.trans hperf
end

/-! ### What both instructions leave -/

/-- `n` tickets are drawn, published memory is as it was, and of the hand its ordering, the strip, which is unprotected, the vector
file, the producers and the deficit alone differ. -/
structure TicketsLeft (s : State) (n : Nat) (b : State) : Prop where
  hand : ∃ (o : Order) (st : Strip) (v : Mem) (ps : List Producer) (d : Int), st.prot = false ∧
    b.hand = { s.hand with ord := o, strip := st, v := v, producers := ps, sched := { s.hand.sched with deficit := d } }
  pub : b.mem.pub = s.mem.pub
  ticket : b.mem.ticket = s.mem.ticket + n

/-- What the statement says of both instructions, `c` being the state at their order point. -/
def State.ticketCommon (s c : State) (n : Nat) (t : State) : Prop :=
  s.hand.movedOn t.hand 4 ∧ s.hand.sameRegs t.hand ∧ t.hand.p = s.hand.p ∧ t.mem.pub = c.mem.pub ∧
    t.mem.ticket = s.mem.ticket + n ∧ t.hand.strip.prot = false

theorem TicketsLeft.memBeats {s b : State} {n : Nat} (h : TicketsLeft s n b) : TicketsLeft s n b.memBeats := by
  obtain ⟨⟨o, st, v, ps, d, hst, hb⟩, hpub, hticket⟩ := h
  obtain ⟨st', d', hst', hb'⟩ := memBeats_hand b
  rw [hb] at hst' hb'
  exact ⟨⟨o, st', v, ps, d', hst'.trans hst, hb'⟩, hpub, hticket⟩

theorem TicketsLeft.common {s c b : State} {n : Nat} (h : TicketsLeft s n b) (hc : c.mem.pub = s.mem.pub) (i : Instr) :
    s.ticketCommon c n ((b.outstanding s.hand (vshape i) (vflow i) (canFlag i)).retire 4) := by
  obtain ⟨⟨o, st, v, ps, d, hst, hb⟩, hpub, hticket⟩ := h
  refine ⟨movedOn_retire ?_ 4, sameRegs_trans (k := b.hand) ?_ (retire_sameRegs _ 4), ?_, hpub.trans hc.symm, hticket, ?_⟩
  · rw [State.outstanding, hb]
    rfl
  · rw [hb]
    exact ⟨rfl, rfl, rfl, rfl, rfl, rfl, rfl, rfl⟩
  · rw [retire_p, State.outstanding, hb]
  · rw [retire_strip, State.outstanding, hb]
    exact hst

/-- The elements at unit stride. -/
theorem unit_eq (h : Hand) (m : BitVec 3) (base : Reg64) :
    h.unit m base = (h.actives m).map fun e => Elem.at' e (base + BitVec.ofNat 64 (e * h.sewBytes)) := by
  simp only [Hand.unit, Hand.strided, BitVec.ofNat_mul]

/-- `c` is the state at an order point of `s`: of the hand its ordering and its strip differ, memory is what the commit point leaves, and
nothing is recorded or replayed. -/
structure AtOrderPoint (s c : State) : Prop where
  hand : ∃ o : Order, c.hand = { s.hand with ord := o, strip := s.commit.hand.strip }
  mem : c.mem = s.commit.mem
  dudel : c.dudel = s.dudel

section
variable {s c u : State} {n : Nat} {l : List (Nat × Byte)}

theorem atOrderPoint (h : s.commit.orderPoint = .ok c) : AtOrderPoint s c := by
  obtain ⟨o, rfl⟩ := orderPoint_committed h
  exact ⟨⟨o, by rw [commit_hand]⟩, rfl, commit_dudel s⟩

theorem AtOrderPoint.pub (h : AtOrderPoint s c) : c.mem.pub = s.mem.pub := by rw [h.mem, commit_pub]

theorem AtOrderPoint.noDudel (h : AtOrderPoint s c) (hn : s.noDudel) : c.noDudel := by rwa [State.noDudel, h.dudel]

theorem AtOrderPoint.sewBytes (h : AtOrderPoint s c) : c.hand.sewBytes = s.hand.sewBytes := by
  obtain ⟨o, ho⟩ := h.hand
  rw [ho]
  rfl

theorem AtOrderPoint.watches (h : AtOrderPoint s c) (hw : s.hand.sched.watches = []) : c.hand.sched.watches = [] := by
  obtain ⟨o, ho⟩ := h.hand
  rwa [ho]

/-- What elements performed at the order point leave of the hand. -/
theorem AtOrderPoint.performed_hand (h : AtOrderPoint s c) (hp : Performed c u n l) :
    ∃ o : Order, u.hand = { s.hand with ord := o, strip := s.commit.hand.strip } := by
  obtain ⟨o, ho⟩ := h.hand
  obtain ⟨o', ho', -⟩ := hp.hand
  exact ⟨o', by rw [ho', ho]⟩

/-- With an ordering, a vector file and producers of its own, the hand of a state where the elements have performed. -/
theorem AtOrderPoint.left (h : AtOrderPoint s c) (hp : Performed c u n l) (o : Order) (v : Mem) (ps : List Producer) :
    TicketsLeft s n (u.put { u.hand with ord := o, v := v, producers := ps }) := by
  obtain ⟨o', ho⟩ := h.performed_hand hp
  refine ⟨⟨o, s.commit.hand.strip, v, ps, s.hand.sched.deficit, commit_prot s, ?_⟩, hp.pub.trans h.pub, hp.ticket.trans ?_⟩
  · rw [ho]
    rfl
  · rw [h.mem, commit_ticket]
end

/-! ### The two instructions (R225) -/

section
variable {f : VUn} {s c u : State} {k : Nat → Nat} {va : Nat → Reg64} {es : List Nat}
  (hva : va = fun e => s.hand.getX f.a + BitVec.ofNat 64 (e * s.hand.sewBytes)) (hes : s.hand.actives f.m = es)
  (ha : s.hand.full f.a) (hw : s.hand.sched.watches = []) (hn : s.noDudel) (hd : s.drains) (hc : s.commit.orderPoint = .ok c)
  (hne : es ≠ [])
include hva hes ha hn hd hc hne

theorem exec_vldsq (hr : s.mayRun (.vldsq f)) {vals : List (Nat × Nat)}
    (hu : (es.map fun e => Elem.at' e (va e)).foldlM (loadTicket c.hand.sewBytes) (c, []) = .ok (u, vals)) :
    exec (.vldsq f) s = .next ((((u.put ((u.hand.setElems f.d vals).produce
      (.vector f.d.toNat (u.hand.setElems f.d vals).grpN) (some 1))).memBeats).outstanding s.hand (vshape (.vldsq f)) (vflow (.vldsq f))
        (canFlag (.vldsq f))).retire 4) := by
  have hunit : s.hand.unit f.m (s.hand.getX f.a) = es.map fun e => Elem.at' e (va e) := by rw [unit_eq, hes, hva]
  have hsome : (es.map fun e => Elem.at' e (va e)).isEmpty = false := by simpa using hne
  refine vrun_of_mayRun (o := execVldsq f s) rfl hr ?_
  simp only [src_full s 0 f.a f.ta ha, ok_bind, hunit, bind_commits hd, hsome, Bool.false_eq_true, if_false,
    ticketTurn_of_noDudel (commit_noDudel hn), hc]
  -- The body's loop, by the name of its step.
  change (State.inTurn c ((es.map fun e => Elem.at' e (va e)).foldlM (loadTicket c.hand.sewBytes) (c, [])) >>= _) = _
  rw [hu]
  rfl

theorem exec_vstsq (hr : s.mayRun (.vstsq f))
    (hu : (es.map fun e => Elem.at' e (va e)).foldlM (storeTicket f.d c.hand.sewBytes) c = .ok u) :
    exec (.vstsq f) s = .next ((u.passPoint.memBeats.outstanding s.hand (vshape (.vstsq f)) (vflow (.vstsq f))
      (canFlag (.vstsq f))).retire 4) := by
  have hunit : s.hand.unit f.m (s.hand.getX f.a) = es.map fun e => Elem.at' e (va e) := by rw [unit_eq, hes, hva]
  have hsome : (es.map fun e => Elem.at' e (va e)).isEmpty = false := by simpa using hne
  refine vrun_of_mayRun (o := execVstsq f s) rfl hr ?_
  simp only [src_full s 0 f.a f.ta ha, State.vdata, vsrc_of_chains (trap := 0) 0 hr.2.1 (.inl rfl), ok_bind, hunit, bind_commits hd,
    hsome, Bool.false_eq_true, if_false, ticketTurn_of_noDudel (commit_noDudel hn), hc]
  -- The body's loop, by the name of its step.
  change (State.inTurn c ((es.map fun e => Elem.at' e (va e)).foldlM (storeTicket f.d c.hand.sewBytes) c) >>= _) = _
  rw [hu]
  rfl

include hw

/-- A vldsq over elements that reach their bytes. -/
theorem vldsq_some (hr : s.mayRun (.vldsq f)) (h : ∀ e ∈ es, c.linksTo false va k e) :
    ∃ t, exec (.vldsq f) s = .next t ∧ s.ticketCommon c es.length t ∧ t.mem.live = c.mem.live ∧
      (∀ e ∈ es, t.hand.elem f.d e = c.scAt s.hand.sewBytes k e) ∧ s.hand.sameVBut t.hand (elemKeys f.d s.hand.sewBytes es) ∧
      t.hand.producers = s.hand.producers ++ s.made (.vldsq f) [(.vector f.d.toNat s.hand.grpN, some 1)] := by
  have hpoint := atOrderPoint hc
  obtain ⟨u, hu, hperf⟩ := foldlM_loadTicket (hpoint.watches hw) (hpoint.noDudel hn) c.hand.sewBytes h []
  have hx := exec_vldsq hva hes ha hn hd hc hne hr hu
  rw [List.nil_append, hpoint.sewBytes] at hx
  obtain ⟨o, ho⟩ := hpoint.performed_hand hperf
  have hwidth : u.hand.sewBytes = s.hand.sewBytes := by rw [ho]; rfl
  obtain ⟨hin, hout⟩ := setElems_result (h := u.hand) (es := es) (order := es) (by rw [ho]; exact hr.1) f.d (fun _ => .rfl)
    (val := c.scAt s.hand.sewBytes k) (fun e _ => by rw [hwidth]; exact scAt_lt ..)
  rw [hwidth] at hout
  generalize es.map (fun e => (e, c.scAt s.hand.sewBytes k e)) = vals at hx hin hout
  rw [setElems_hand] at hx hin hout
  generalize (u.hand.setElems f.d vals).v = v at hx hin hout
  rw [produce_vector] at hx
  have hleft := hpoint.left hperf u.hand.ord v (u.hand.producers ++ [⟨.vector f.d.toNat u.hand.grpN, some 1, none, [], false, []⟩])
  refine ⟨_, hx, hleft.memBeats.common hpoint.pub _, hperf.live, fun e he => ?_, fun j hj => ?_, ?_⟩
  · rw [← hin e he, retire_hand]
    exact elem_congr rfl rfl f.d e
  · rw [retire_v]
    exact (hout j hj).trans (by rw [ho])
  · refine (retire_producers ..).trans (outstanding_producers (.vldsq f) (ds := [(.vector f.d.toNat s.hand.grpN, some 1)]) ?_)
    rw [ho]
    rfl

/-- A vstsq over elements that reach their bytes. -/
theorem vstsq_some (hr : s.mayRun (.vstsq f)) (h : ∀ e ∈ es, c.linksTo true va k e) (hapart : apart s.hand.sewBytes es k)
    (hwf : Mem.wf c.mem.live = true) :
    ∃ t, exec (.vstsq f) s = .next t ∧ s.ticketCommon c es.length t ∧ t.hand.v = s.hand.v ∧
      storedAt c.mem.live t.mem.live s.hand.sewBytes es k (s.hand.elem f.d) := by
  have hpoint := atOrderPoint hc
  obtain ⟨u, hu, hperf⟩ := foldlM_storeTicket (hpoint.watches hw) (hpoint.noDudel hn) f.d h
  have hx := exec_vstsq hva hes ha hn hd hc hne hr hu
  obtain ⟨o, ho⟩ := passPoint_hand u
  obtain ⟨o', ho'⟩ := hpoint.performed_hand hperf
  have hleft := hpoint.left hperf o u.hand.v u.hand.producers
  rw [ho] at hx
  refine ⟨_, hx, hleft.memBeats.common hpoint.pub _, ?_, ?_⟩
  · rw [retire_v]
    refine Eq.trans (b := u.hand.v) rfl (by rw [ho'])
  · have hput := storedAt_putAll hwf (s.hand.elem f.d) hapart
    obtain ⟨oc, hoc⟩ := hpoint.hand
    have hbytes : c.elemBytes f.d k = fun e => atAddr (k e) (leBytes s.hand.sewBytes (s.hand.elem f.d e)) := by
      funext e
      rw [State.elemBytes, hoc]
      rfl
    rwa [← hbytes, ← hperf.live] at hput
end

/-- Settles O35: element after element, by what those before it leave. -/
theorem ticketAccesses : Obligations.TicketAccesses := by
  unfold Obligations.TicketAccesses
  intro f s c k ha hw hn hd hc
  have hsew := (atOrderPoint hc).sewBytes
  refine ⟨fun hr ⟨hne, h⟩ => ?_, fun hr ⟨hne, h⟩ hapart hwf => ?_⟩
  · exact vldsq_some rfl rfl ha hw hn hd hc hne hr fun e he => by rw [State.linksTo, hsew]; exact h e he
  · exact vstsq_some rfl rfl ha hw hn hd hc hne hr (fun e he => by rw [State.linksTo, hsew]; exact h e he) hapart hwf

end Sys2Proof.Machine
end

section
/-!
## The pool (O53): a failing node's completion word may stand in a line that a hand has linked

nodeFailure says of every state that the failing of a node leaves the hands as they were. The node's completion word is a write all the
same (R135, R140), and a write of a linked line clears the line's tag and releases the pin that the hand holds on it (R58, R59).
-/
namespace Sys2Proof.Machine

/-- The line in which the completion word of `failing` stands: the launched task's range maps 0x1_0000_0800 to 0x1000_0800. -/
def doneLine : Nat := lineOf 0x1000_0800

/-- A device whose one hand has linked and pinned that line. -/
def linkingDevice : State :=
  let s := State.reset.launch
  { s with
    hand := { s.hand with ord := { s.hand.ord with pins := [doneLine] } }
    mem := { s.mem with tags := [(doneLine, ⟨s.hand.id, s.hand.ord.serial, true, 0⟩)] } }

/-- A node of hands with a completion word and no declared tile. -/
def failing : Node where
  subno := 1
  index := 0
  nseq := 1
  record := {
    cls := 0, prio := 7, scope := 1, hands := 1, vprof := 4, cores := 1, succ := [], preds := 0, entry := 0x1_0000_0000
    xs := List.replicate 8 0, done := 0x1_0000_0800, est := 0, gangn := 1, gangix := 0, tiles := [] }
  asid := 1
  sys := true
  paired := false
  gang := []
  preds := 0
  state := .ready
  cores := []
  coresB := []
  task := 0
  taskB := 0
  mismatches := 0
  blocked := false
  heard := []
  gangOpen := false
  gangOver := false

/-- The node fails at once: its completion word can be written. -/
theorem failing_not_later : linkingDevice.doneLater failing = false := by decide +kernel

/-- The hand held the pin, and the completion word's write has released it. -/
theorem failNode_releases_pin : linkingDevice.hand.ord.pins = [doneLine] ∧
    (linkingDevice.failNode failing .watchdog).hand.ord.pins = [] := by decide +kernel

theorem not_nodeFailure : ¬ nodeFailure := by
  intro h
  obtain ⟨-, -, hhand, -⟩ := (h linkingDevice failing .watchdog).2 failing_not_later
  obtain ⟨hheld, hreleased⟩ := failNode_releases_pin
  rw [hhand, hheld] at hreleased
  exact List.cons_ne_nil _ _ hreleased

/-- Refutes O53: a hand that has linked and pinned the line of a failing node's completion word loses the pin, so that failing the node
does not leave that hand as it was. -/
theorem not_poolRunsGraphs : ¬ Obligations.PoolRunsGraphs := by
  unfold Obligations.PoolRunsGraphs
  rintro ⟨-, -, -, -, hfailure, -, -⟩
  exact not_nodeFailure hfailure

end Sys2Proof.Machine
end

section
/-!
## Rewinds and retries (O52)

A rewind is unfolded once, for a strip with a checkpoint. What a fault record's posting leaves is said of `State.post`: the next SEQ is
taken, the record awaits its answer, and of the hand its ordering alone can change, where the record is written over a line that it has
linked. Every delivery to the system fault queue is then one theorem, `toSystemAt_posts`.
-/
namespace Sys2Proof.Machine

/-! ### A rewind (R148) -/

theorem mfind_map {α β : Type} (m : SMap α) (f : Nat → α → β) (k : Nat) :
    mfind (m.map (fun kv => (kv.1, f kv.1 kv.2))) k = (mfind m k).map (f k) := by
  induction m with
  | nil => rfl
  | cons kv m ih =>
    simp only [List.map_cons, mfind]
    split
    · next h => rw [h]; rfl
    · exact ih

/-- The slots after a rewind (R312): each that the checkpoint holds, from its undo image where it has one. -/
theorem mfind_undone (h : Hand) (c : Checkpoint) (k : Nat) : mfind (h.undone c) k =
    (mfind c.handles k).map (fun y => (mfind h.strip.undo k).getD ((mfind h.handles k).getD y)) :=
  mfind_map c.handles (fun k y => (mfind h.strip.undo k).getD ((mfind h.handles k).getD y)) k

theorem rewind_faults (s : State) : s.rewind.faults = s.faults := by
  unfold State.rewind
  dsimp only
  split <;> rfl

theorem rewind_retries (s : State) : s.rewind.hand.strip.retries = s.hand.strip.retries := by
  unfold State.rewind
  dsimp only
  split <;> rfl

section
variable {s : State} {c : Checkpoint} (hc : s.hand.strip.ckpt = some c)
include hc

/-- The rewind of a strip with its checkpoint written out. -/
theorem rewind_ckpt : s.rewind = State.rewind { s with hand := { s.hand with strip := { s.hand.strip with ckpt := some c } } } := by
  rw [← hc]

theorem rewind_pc : s.rewind.hand.pc = c.pc := by rw [rewind_ckpt hc]; rfl

theorem rewind_mismatch : s.rewind.hand.csr.mismatch = s.hand.csr.mismatch := by rw [rewind_ckpt hc]; rfl

theorem rewind_mismatches : s.rewind.hand.sched.mismatches = s.hand.sched.mismatches := by rw [rewind_ckpt hc]; rfl

theorem rewind_x : s.rewind.hand.x = c.x := by rw [rewind_ckpt hc]; rfl

/-- A rewind leaves what stands in memory and what is published, and it draws no ticket. -/
theorem rewind_mem : s.rewind.mem.live = s.mem.live ∧ s.rewind.mem.pub = s.mem.pub ∧ s.rewind.mem.ticket = s.mem.ticket := by
  simp only [State.rewind, hc, State.advanceSerial, MemState.untag, MemState.unpin]
  split <;> exact ⟨rfl, rfl, rfl⟩

theorem rewind_getP (q : Fld5) (hq : q ≠ 0) : s.rewind.hand.getP q.toNat = 0 := by
  rw [rewind_ckpt hc]
  exact clearStripLocal_getP s.hand q hq

theorem rewind_handles (k : Nat) : mfind s.rewind.hand.handles k =
    (mfind c.handles k).map (fun y => (mfind s.hand.strip.undo k).getD ((mfind s.hand.handles k).getD y)) := by
  rw [rewind_ckpt hc]
  exact mfind_undone s.hand c k

end

/-! ### Posting a fault record (R360, R399) -/

theorem putPub_hand (s : State) (k : Nat) (b : Byte) : ∃ o, (s.putPub k b).hand = { s.hand with ord := o } := by
  obtain ⟨o, ho, -⟩ := (putLive_sameButOrder s k b).hand
  exact ⟨o, ho⟩

theorem putPubAll_hand (l : List (Nat × Byte)) (s : State) : ∃ o, (s.putPubAll l).hand = { s.hand with ord := o } := by
  induction l generalizing s with
  | nil => exact ⟨s.hand.ord, rfl⟩
  | cons c l ih =>
    obtain ⟨o, ho⟩ := putPub_hand s c.1 c.2
    obtain ⟨o', ho'⟩ := ih (s.putPub c.1 c.2)
    exact ⟨o', ho'.trans (by rw [ho])⟩

theorem putPub_faults (s : State) (k : Nat) (b : Byte) : (s.putPub k b).faults = s.faults := State.putLive_faults s k b

theorem putPubAll_faults (s : State) (l : List (Nat × Byte)) : (s.putPubAll l).faults = s.faults :=
  foldl_keeps (f := fun s c => s.putPub c.1 c.2) (fun s c => putPub_faults s c.1 c.2) l s

theorem physWrite_hand (s : State) (a : Nat) (l : List Byte) : ∃ o, (s.physWrite a l).hand = { s.hand with ord := o } := by
  rcases physWrite_cases s a l with ⟨-, h⟩ | ⟨-, h⟩ <;> rw [h]
  · exact putPubAll_hand _ s
  · exact ⟨s.hand.ord, rfl⟩

theorem physWrite_faults (s : State) (a : Nat) (l : List Byte) : (s.physWrite a l).faults = s.faults := by
  rcases physWrite_cases s a l with ⟨-, h⟩ | ⟨-, h⟩ <;> rw [h]
  exact putPubAll_faults s _

/-- Writing waiting records to the ring changes, of the hand, its ordering alone, and no record that awaits an answer. -/
theorem flushFaults_keeps (n : Nat) (s : State) : (∃ o, (s.flushFaults n).hand = { s.hand with ord := o }) ∧
    (s.flushFaults n).faults.seq = s.faults.seq ∧ (s.flushFaults n).faults.pending = s.faults.pending := by
  induction n generalizing s with
  | zero => exact ⟨⟨s.hand.ord, rfl⟩, rfl, rfl⟩
  | succ n ih =>
    unfold State.flushFaults
    dsimp only
    split
    · exact ⟨⟨s.hand.ord, rfl⟩, rfl, rfl⟩
    · next r rest _ =>
      split
      · obtain ⟨⟨o, ho⟩, hseq, hpending⟩ := ih { (s.physWrite (s.queue 1).slot64 r.bytes).modQueue 1
          (fun q => { q with accepted := q.accepted + 1 }) with
            faults := { (s.physWrite (s.queue 1).slot64 r.bytes).faults with waiting := rest } }
        obtain ⟨o', ho'⟩ := physWrite_hand s (s.queue 1).slot64 r.bytes
        have hf := physWrite_faults s (s.queue 1).slot64 r.bytes
        exact ⟨⟨o, ho.trans (congrArg (fun h : Hand => { h with ord := o }) ho')⟩, hseq.trans (congrArg (·.seq) hf),
          hpending.trans (congrArg (·.pending) hf)⟩
      · exact ⟨⟨s.hand.ord, rfl⟩, rfl, rfl⟩

theorem post_hand (s : State) (mk : Nat → FaultRec) (awaits : Bool) : ∃ o, (s.post mk awaits).hand = { s.hand with ord := o } :=
  (flushFaults_keeps 1 _).1

theorem post_seq (s : State) (mk : Nat → FaultRec) (awaits : Bool) : (s.post mk awaits).faults.seq = s.faults.seq + 1 :=
  (flushFaults_keeps 1 _).2.1

theorem post_pending (s : State) (mk : Nat → FaultRec) :
    (s.post mk true).faults.pending = s.faults.pending ++ [mk (s.faults.seq + 1)] :=
  (flushFaults_keeps 1 _).2.2

/-! ### Delivery to the system fault queue (R360 to R362) -/

/-- The hand is suspended on a record of the trap with the next SEQ; a protected strip has been rewound. -/
theorem toSystemAt_posts (s : State) (t : Trap) (resumable : Bool) (tpc : Reg64) :
    (s.toSystemAt t resumable tpc).hand.status = .suspended (s.faults.seq + 1) ∧
    (s.toSystemAt t resumable tpc).hand.strip.retries = s.hand.strip.retries ∧
    ∃ r ∈ (s.toSystemAt t resumable tpc).faults.pending, r.trap = t ∧ r.tpc = tpc ∧ r.seq = s.faults.seq + 1 ∧ r.hand = s.hand.id ∧
      r.flags = (if resumable then 1 else 0) + (if s.hand.strip.prot then 6 else 0) + (if s.hand.frame.isSome then 8 else 0) := by
  unfold State.toSystemAt
  dsimp only
  generalize hb : (if s.hand.strip.prot = true then s.rewind else s) = b
  have hfaults : b.faults = s.faults := by
    rw [← hb]
    split
    · exact rewind_faults s
    · rfl
  have hretries : b.hand.strip.retries = s.hand.strip.retries := by
    rw [← hb]
    split
    · exact rewind_retries s
    · rfl
  generalize hm : (fun n => (⟨t, (if resumable = true then 1 else 0) + (if s.hand.strip.prot = true then 6 else 0) +
    (if s.hand.frame.isSome = true then 8 else 0), s.hand.id, s.hand.asid, n, s.hand.taskid, tpc, s.hand.csr.stripno⟩ : FaultRec)) = mk
  obtain ⟨o, ho⟩ := post_hand b mk true
  have hseq := post_seq b mk true
  have hpending := post_pending b mk
  rw [hfaults] at hseq hpending
  refine ⟨congrArg HandStatus.suspended hseq, ?_, mk (s.faults.seq + 1), ?_, ?_⟩
  · exact (congrArg (fun h : Hand => h.strip.retries) ho).trans hretries
  · exact (congrArg (mk (s.faults.seq + 1) ∈ ·) hpending).mpr (List.mem_append_right _ (List.mem_singleton_self _))
  · subst hm
    exact ⟨rfl, rfl, rfl, rfl, rfl⟩

theorem countBad_faults (s : State) (t : Trap) : (s.countBad t).faults = s.faults := by
  unfold State.countBad State.countBadAt
  repeat' split
  all_goals rfl

/-! ### Retries (R362, R363) -/

/-- A retry: the strip is back at its checkpoint with the retry counted; before the third the hand migrates. -/
theorem retry_rewound {s : State} {c : Checkpoint} (hc : s.hand.strip.ckpt = some c) (n : Nat) :
    let u := s.rewind.retry n
    u.hand.strip.retries = n ∧ u.hand.pc = c.pc ∧ u.hand.x = c.x ∧ u.faults = s.faults ∧
      u.hand.status = (if n = 3 then .waiting .rewound else .running) ∧ (n = 3 → u.hand.sched.migrate = true) :=
  ⟨rfl, rewind_pc hc, rewind_x hc, rewind_faults s, rfl, fun h => by subst h; exact Bool.or_true _⟩

/-- An uncorrectable error that a protected strip retries: the first three times it is rewound, the fourth time its hand is suspended. -/
theorem take_retries {s : State} {c : Checkpoint} {t : Trap} (hp : s.hand.strip.prot = true) (hc : s.hand.strip.ckpt = some c)
    (hu : t.cause = .uncorrectable) (hr : t.retries = true) :
    let n := s.hand.strip.retries + 1
    let u := s.take t
    (n < 4 → u.hand.strip.retries = n ∧ u.hand.pc = c.pc ∧ u.hand.x = c.x ∧ u.faults = s.faults ∧
      u.hand.status = (if n = 3 then .waiting .rewound else .running) ∧ (n = 3 → u.hand.sched.migrate = true)) ∧
    (4 ≤ n → u.hand.status = .suspended (s.faults.seq + 1) ∧ ∃ r ∈ u.faults.pending, r.trap.cause = .stripRetryExhausted ∧
      r.trap.tval = c.pc ∧ r.seq = s.faults.seq + 1 ∧ r.hand = s.hand.id) := by
  have hcb : (s.countBad t).hand.strip.ckpt = some c := by rw [countBad_hand, hc]
  have hpc : s.hand.ckptPc = c.pc := by rw [Hand.ckptPc, hc]; rfl
  have htake := take_retry s t hu hp hr
  rw [hpc] at htake
  refine ⟨fun hn => ?_, fun hn => ?_⟩
  · rw [htake, if_neg (Nat.not_le.2 hn), ← countBad_faults s t]
    exact retry_rewound hcb _
  · rw [htake, if_pos hn]
    obtain ⟨hstatus, -, r, hr, htrap, -, hseq, hhand, -⟩ := toSystemAt_posts (s.countBad t)
      (Trap.mk' .stripRetryExhausted c.pc) true (s.countBad t).hand.trapPc
    rw [countBad_faults] at hstatus hseq
    rw [countBad_hand] at hhand
    exact ⟨hstatus, r, hr, by rw [htrap]; rfl, by rw [htrap]; rfl, hseq, hhand⟩

/-- Any other uncorrectable error suspends the hand at once; the hand can be resumed where its strip was protected. -/
theorem take_posts {s : State} {t : Trap} (hu : t.cause = .uncorrectable) (h : s.hand.strip.prot = false ∨ t.retries = false) :
    let u := s.take t
    u.hand.status = .suspended (s.faults.seq + 1) ∧ u.hand.strip.retries = s.hand.strip.retries ∧
    ∃ r ∈ u.faults.pending, r.trap = t ∧ r.seq = s.faults.seq + 1 ∧ r.hand = s.hand.id ∧
      r.flags % 2 = (if s.hand.strip.prot then 1 else 0) := by
  obtain ⟨hstatus, hretries, r, hr, htrap, -, hseq, hhand, hflags⟩ := toSystemAt_posts (s.countBad t) t s.hand.strip.prot s.hand.trapPc
  rw [countBad_faults] at hstatus hseq
  rw [countBad_hand] at hretries hhand hflags
  rw [take_uncorrectable s t hu h, State.toSystem, countBad_hand]
  refine ⟨hstatus, hretries, r, hr, htrap, hseq, hhand, ?_⟩
  rw [hflags]
  split <;> split <;> rfl

/-! ### The shifted check (R261) -/

/-- The state once a disagreement at a lane has been counted against the clusters, `l` of them still to come. -/
def State.missed (s : State) (lane : Nat) (l : List (Nat × Bool)) : State :=
  State.clusterMiss { s with hand := { s.hand with sched := { s.hand.sched with mismatches := l } } } lane

/-- The same, once MISMATCH has counted it too. -/
def State.counted (s : State) (lane : Nat) (l : List (Nat × Bool)) : State :=
  let b := s.missed lane l
  { b with hand := { b.hand with csr := { b.hand.csr with mismatch := min 0xFFFF (b.hand.csr.mismatch + 1) } } }

section
variable {s : State} {lane : Nat} {maj : Bool} {l : List (Nat × Bool)} (hm : s.hand.sched.mismatches = (lane, maj) :: l)
include hm

/-- A disagreement in a protected strip that has a retry left rewinds it. -/
theorem shiftedCheck_protected (hp : s.hand.strip.prot = true) (hn : s.hand.strip.retries < 3) :
    s.shiftedCheck = .error (.rewound ((s.counted lane l).rewind.retry (s.hand.strip.retries + 1))) := by
  simp only [State.shiftedCheck, hm]
  exact (if_pos hp).trans (if_neg (by show ¬ 4 ≤ s.hand.strip.retries + 1; omega))

/-- Elsewhere the third run decides. -/
theorem shiftedCheck_unprotected (hp : s.hand.strip.prot = false) (hmaj : maj = true) : s.shiftedCheck = .ok (s.missed lane l) := by
  simp only [State.shiftedCheck, hm]
  exact (if_neg (ne_true_of_eq_false hp)).trans (if_pos hmaj)

end

/-- Settles O52: the rewind, the two ways in which an uncorrectable error is taken, and the shifted check. -/
theorem stripRewinds : Obligations.StripRewinds := by
  unfold Obligations.StripRewinds
  refine ⟨fun s c hc => ?_, fun s c t hp hc hu hr => take_retries hp hc hu hr, fun s t hu h => take_posts hu h,
    fun s c lane maj l hm hc => ⟨fun hp hn => ?_, fun hp hmaj => ⟨_, shiftedCheck_unprotected hm hp hmaj, rfl, rfl⟩⟩⟩
  · obtain ⟨hlive, hpub, hticket⟩ := rewind_mem hc
    have hclear := rewind_getP hc
    have hslots := rewind_handles hc
    rw [rewind_ckpt hc] at hlive hpub hticket hclear hslots ⊢
    exact ⟨rfl, rfl, rfl, rfl, rfl, rfl, rfl, rfl, rfl, rfl, rfl, rfl, rfl, rfl, rfl, rfl, rfl, rfl, rfl, rfl, hclear, rfl, rfl, rfl,
      fun k y hy => (hslots k).trans (by rw [hy]; rfl), fun k hn => (hslots k).trans (by rw [hn]; rfl), rfl, rfl, rfl,
      hlive, hpub, hticket⟩
  · obtain ⟨hretries, hpc, hx, -⟩ := retry_rewound (s := s.counted lane l) hc (s.hand.strip.retries + 1)
    exact ⟨_, shiftedCheck_protected hm hp hn, hpc, hx, hretries, rewind_mismatch hc, rewind_mismatches hc⟩

end Sys2Proof.Machine
end

section
/-!
## Openings (O21)

`State.opened` is what `State.openStrip` leaves where no strip record is to be written and the buffer's data decode; `opened_stripOpened`
says of it, for any new values, that it is an opened strip, and `opened_hand` which registers it has. vsetl, vsetlq and vloop then
differ in the new values alone.
-/
namespace Sys2Proof.Machine

/-! ### The link serial over a commit point (R105, R147) -/

theorem performByte_serial (s : State) (b : Buffered) : (s.performByte b).hand.ord.serial = s.hand.ord.serial := by
  unfold State.performByte
  dsimp only
  split
  · next t ht =>
    rw [← retain_hand _ _ _ _ ht]
    exact (stamp_sameButOrder ..).serial
  · rfl

theorem drain_serial (s : State) : s.drain.hand.ord.serial = s.hand.ord.serial := by
  unfold State.drain
  dsimp only
  split
  · rfl
  · refine (foldl_keeps (p := Order.serial) (fun o (x : Nat × Nat × List Nat) => ackStore_serial o x.2.1 x.2.2) ..).trans ?_
    exact foldl_keeps (p := fun s : State => s.hand.ord.serial) performByte_serial ..

/-- A commit point leaves the link serial as it was. -/
theorem commit_serial (s : State) : s.commit.hand.ord.serial = s.hand.ord.serial := by
  unfold State.commit
  split
  · exact drain_serial s
  · rfl

/-! ### An opening (R145, R146) -/

/-- The opening instruction completes behind its commit point, with new values, strip-local registers clear and STRIPNO advanced. -/
def State.newValues (s : State) (set : Hand → Hand) : State :=
  let c := s.commit.takeSpare.dropGrant
  let h := set c.hand.clearStripLocal
  let active := (c.field (fieldOfCore c.hand.core)).active
  State.retire { c with hand := { h with csr := { h.csr with stripno := h.csr.stripno + 1, active := active } } } 4

/-- The strip that it opens, where no strip record is to be written. -/
def State.opened (s : State) (set : Hand → Hand) : State :=
  let r := s.newValues set
  State.advanceSerial
    { r with freeCtr := r.freeCtr + 1, hand := (r.hand.freshStrip s.hand.pc r.freeCtr).stalled (r.throttled r.hand) }

/-- Nothing is written while strip records are off (R388). -/
theorem closeRecord_off {s : State} (h : srecEn s.hand.csr.srecctl = false) (pre : Bool) : s.closeRecord pre = .ok s := by
  simp [State.closeRecord, h]

theorem openStrip_opened {s : State} {set : Hand → Hand} (hrec : srecEn s.hand.csr.srecctl = false) (hd : s.drains) :
    s.openStrip set = .ok (s.opened set) := by
  unfold State.openStrip
  dsimp only
  rw [closeRecord_off hrec, ok_bind, bind_commits hd]
  rfl

/-- New values that an opening can give: general registers, length queues, and CSRs but for STRIPNO. -/
def setsValues (set : Hand → Hand) : Prop :=
  ∀ h, set h = { h with x := (set h).x, lq := (set h).lq, csr := (set h).csr } ∧ (set h).csr.stripno = h.csr.stripno

section
variable {s : State} {set : Hand → Hand} (hset : setsValues set)
include hset

/-- What completes with the new values, of the hand as its commit point leaves it with the strip-local registers clear. -/
theorem newValues_hand {k r : Hand} (hk : k = set s.commit.hand.clearStripLocal) (hr : r = (s.newValues set).hand) :
    r.x = k.x ∧ r.lq = k.lq ∧ (∃ active, r.csr = { k.csr with stripno := s.hand.csr.stripno + 1, active := active }) ∧
    r.v = [] ∧ (∀ q : Fld5, q ≠ 0 → r.getP q.toNat = 0) ∧ r.ord.serial = s.hand.ord.serial ∧
    r.sched.gangAbort = s.hand.sched.gangAbort ∧ r.sched.preempt = s.hand.sched.preempt ∧
    r.sched.stopWanted = s.hand.sched.stopWanted := by
  obtain ⟨hset, hstripno⟩ := hset s.commit.hand.clearStripLocal
  rw [← hk] at hset hstripno
  have hno : k.csr.stripno = s.hand.csr.stripno := by
    rw [hstripno, commit_hand]
    rfl
  have hsched : k.sched = s.hand.sched := by
    rw [hset, commit_hand]
    rfl
  have hserial : k.ord.serial = s.hand.ord.serial := by
    rw [hset]
    exact commit_serial s
  have hv : k.v = [] := by
    rw [hset]
    rfl
  have hp (q : Fld5) (hq : q ≠ 0) : k.getP q.toNat = 0 := by
    rw [hset]
    exact clearStripLocal_getP s.commit.hand q hq
  subst hk
  rw [hr, ← hno, ← hsched, ← hserial, State.newValues, retire_hand]
  exact ⟨rfl, rfl, ⟨_, rfl⟩, hv, hp, rfl, rfl, rfl, rfl⟩

/-- It is an opened strip, its registers the new values. -/
theorem opened_stripOpened {k : Hand} (hk : set s.commit.hand.clearStripLocal = k) : stripOpened s (s.opened set) ∧
    (s.opened set).hand.x = k.x ∧ (s.opened set).hand.lq = k.lq ∧
    ∃ active, (s.opened set).hand.csr = { k.csr with stripno := s.hand.csr.stripno + 1, active := active } := by
  obtain ⟨hx, hlq, ⟨active, hcsr⟩, hv, hp, hserial, -⟩ := newValues_hand hset hk.symm rfl
  refine ⟨⟨congrArg Csrs.stripno hcsr, hv, hp, rfl, fun b hb => (List.mem_filter.1 hb).2, rfl,
    ⟨_, rfl, rfl, rfl, rfl, rfl, rfl, rfl, rfl, rfl⟩, congrArg (· + 1) hserial, rfl⟩, hx, hlq, active, hcsr⟩

/-- No request stands behind it that did not stand before it; a stop that a restart passes has been passed. -/
theorem opened_unasked (hu : s.hand.unasked) (hstop : s.hand.sched.stopWanted = false) : (s.opened set).hand.unasked := by
  obtain ⟨-, -, -, -, -, -, hgang, hpre, hwant⟩ := newValues_hand (s := s) hset rfl rfl
  obtain ⟨hgang', hpre', -⟩ := hu
  exact ⟨hgang.trans hgang', hpre.trans hpre', congrArg (· && !false) (hwant.trans hstop)⟩

end

/-! ### What lets an opening go on -/

theorem full_of_scalarsFull {s : State} {w : Wait} (h : s.scalarsFull w = .ok ()) (r : Fld5) : s.hand.full r := by
  unfold State.scalarsFull at h
  split at h
  · cases h
  · next hn =>
    by_contra hr
    have he : s.hand.xEmpty r = true := by simpa using hr
    rw [Hand.xEmpty, Bool.and_eq_true, List.any_eq_true] at he
    obtain ⟨-, p, hp, hd⟩ := he
    exact hn (List.any_eq_true.2 ⟨p, hp, by rw [beq_iff_eq.1 hd]⟩)

/-- The wait for full scalars is the same whatever it is called. -/
theorem scalarsFull_ok {s : State} {w : Wait} (h : s.scalarsFull w = .ok ()) (w' : Wait) : s.scalarsFull w' = .ok () := by
  unfold State.scalarsFull at h ⊢
  split at h
  · cases h
  · next hn => exact if_neg hn

theorem atOpening_free {s : State} (h : opensFreely s) : s.atOpening = .ok () := by
  obtain ⟨-, hu, hbreak, hwatch, -⟩ := h
  rw [State.atOpening, atPoint_unasked .opening hu, ok_bind, hbreak, hwatch]
  simp

/-! ### vsetl and vsetlq (R195) -/

/-- The new values of a grant for `rem` elements, the queues as `q` leaves them. -/
def grantValues (f : VSetF) (rem : Nat) (q : Vector (List Word) 4 → Vector (List Word) 4) (h : Hand) : Hand :=
  Hand.granted { h with lq := q h.lq } f (grantOf h.csr.vprof f.sew f.grp rem)

theorem exec_vsetl {f : VSetF} {s : State} (h : opensFreely s) :
    exec (.vsetl f) s = .next (s.opened (grantValues f (s.hand.getX f.a).toNat id)) := by
  have hopen := atOpening_free h
  obtain ⟨hrec, -, -, -, hfull, hd, -⟩ := h
  refine Eq.trans (b := finish _) rfl ?_
  rw [hopen, ok_bind, hfull, ok_bind, State.need, src_full _ 0 f.a 0 (full_of_scalarsFull hfull f.a), ok_bind]
  exact congrArg finish (openStrip_opened hrec hd)

theorem exec_vsetlq {f : VSetF} {s : State} (h : opensFreely s) {w : Word} {rest : List Word}
    (hq : s.hand.lq.toArray.getD f.a.toNat [] = w :: rest) (hroom : s.hand.status ≠ .waiting .room) :
    exec (.vsetlq f) s = .next (s.opened (grantValues f w.toNat (·.setIfInBounds f.a.toNat rest))) := by
  have hopen := atOpening_free h
  obtain ⟨hrec, -, -, -, hfull, hd, -⟩ := h
  refine Eq.trans (b := finish _) rfl ?_
  rw [if_neg hroom, hopen, ok_bind, hfull, ok_bind]
  dsimp only
  rw [hq]
  exact congrArg finish (openStrip_opened hrec hd)

theorem setX_hand (h : Hand) (r : Fld5) (v : Reg64) : h.setX r v = { h with x := (h.setX r v).x } := by
  unfold Hand.setX
  split <;> rfl

/-- The grant in x[D], VL, VTYPE and the ordinals (R149, R195). -/
theorem grantValues_hand (f : VSetF) (rem : Nat) (q : Vector (List Word) 4 → Vector (List Word) 4) (h : Hand) :
    let n := grantOf h.csr.vprof f.sew f.grp rem
    grantValues f rem q h = { h with
      x := (h.setX f.d (BitVec.ofNat 64 n)).x
      lq := q h.lq
      csr := { h.csr with
        vl := n, sew := f.sew, grp := f.grp, fz := f.fz == 1, fh := f.fh == 1
        orun := h.csr.onext, onext := h.csr.onext + BitVec.ofNat 64 n } } := by
  dsimp only
  unfold grantValues Hand.granted Hand.setX
  split <;> rfl

theorem grantValues_setsValues (f : VSetF) (rem : Nat) (q : Vector (List Word) 4 → Vector (List Word) 4) :
    setsValues (grantValues f rem q) := by
  intro h
  rw [grantValues_hand]
  exact ⟨rfl, rfl⟩

/-- What a grant leaves (R142, R149, R195). -/
theorem opened_grants (f : VSetF) (s : State) (rem : Nat) (q : Vector (List Word) 4 → Vector (List Word) 4) :
    let cap := 256 * 2 ^ s.hand.csr.vprof * 2 ^ f.grp.toNat / 2 ^ f.sew.toNat
    let t := s.opened (grantValues f rem q)
    stripOpened s t ∧
      t.hand.csr.vl = Nat.min rem cap ∧ (f.d ≠ 0 → t.hand.getX f.d = BitVec.ofNat 64 (Nat.min rem cap)) ∧
      s.hand.sameXBut t.hand f.d ∧ t.hand.csr.sew = f.sew ∧ t.hand.csr.grp = f.grp ∧ t.hand.csr.fz = (f.fz == 1) ∧
      t.hand.csr.fh = (f.fh == 1) ∧ t.hand.csr.orun = s.hand.csr.onext ∧
      t.hand.csr.onext = s.hand.csr.onext + BitVec.ofNat 64 (Nat.min rem cap) ∧ t.hand.lq = q s.hand.lq := by
  obtain ⟨hopened, hx, hlq, active, hcsr⟩ := opened_stripOpened (s := s) (grantValues_setsValues f rem q) (grantValues_hand f rem q _)
  rw [commit_hand] at hx hlq hcsr
  dsimp only
  rw [hcsr, hlq]
  exact ⟨hopened, rfl, fun hd => (getX_congr hx _).trans (getX_setX_same _ _ hd),
    fun r hr => (getX_congr hx r).trans (getX_setX_other _ _ hr), rfl, rfl, rfl, rfl, rfl, rfl, rfl⟩

theorem openingsGrant_holds : openingsGrant := by
  intro f s h
  refine ⟨⟨_, exec_vsetl h, opened_grants f s _ id⟩, fun w rest _ hq hroom => ⟨_, exec_vsetlq h hq hroom, opened_grants f s _ _⟩⟩

/-- R142: a grant fits its register group. -/
theorem grantOf_fits (sew grp : BitVec 2) (remaining : Nat) {vprof : Nat} (h : vprof ≤ 4) :
    grantOf vprof sew grp remaining * 2 ^ sew.toNat ≤ 4096 * 2 ^ grp.toNat := by
  have hgroup : 256 * 2 ^ vprof ≤ 4096 := Nat.mul_le_mul_left 256 (Nat.pow_le_pow_right (n := 2) (by decide) h)
  calc grantOf vprof sew grp remaining * 2 ^ sew.toNat
      ≤ 256 * 2 ^ vprof * 2 ^ grp.toNat / 2 ^ sew.toNat * 2 ^ sew.toNat := Nat.mul_le_mul_right _ (Nat.min_le_right ..)
    _ ≤ 256 * 2 ^ vprof * 2 ^ grp.toNat := Nat.div_mul_le_self ..
    _ ≤ 4096 * 2 ^ grp.toNat := Nat.mul_le_mul_right _ hgroup

/-! ### vloop (R197) -/

/-- A BR format's offset counts words. -/
theorem target12_eq (pc : Reg64) (off : BitVec 12) : target12 pc off = pc + BitVec.ofInt 64 (4 * off.toInt) := by
  have hoff : off.signExtend 64 <<< 2 = BitVec.ofInt 64 (4 * off.toInt) := by
    rw [BitVec.shiftLeft_eq_mul_twoPow, BitVec.ofInt_mul, BitVec.mul_comm, BitVec.signExtend]
    rfl
  rw [target12, hoff]

/-- The remaining count that vloop leaves in x[A]. -/
def vloopLeft (f : BrF) (s : State) : Reg64 :=
  if (s.hand.getX f.a).toNat ≤ (s.hand.getX f.b).toNat then 0 else s.hand.getX f.a - s.hand.getX f.b

/-- vloop of full registers; of x0 nothing remains. -/
theorem exec_vloop {f : BrF} {s : State} (ha : s.hand.full f.a) (hb : s.hand.full f.b) : exec (.vloop f) s = finish (
    if s.hand.csr.vl ≠ 0 ∧ vloopLeft f s ≠ 0 then .ok ((s.setX f.a (vloopLeft f s)).jumpTo (target12 s.hand.pc f.off))
    else do
      if !s.hand.sched.skipStop && (s.hand.breaksAt s.hand.pc || s.hand.watched) then s.wait .stop
      s.scalarsFull .register
      let s ← s.openStrip (fun h => h.setX f.a (vloopLeft f s))
      s.afterPoint) := by
  have hleft : (if f.a = 0 ∨ (s.hand.getX f.a).toNat ≤ (s.hand.getX f.b).toNat then 0 else s.hand.getX f.a - s.hand.getX f.b) =
      vloopLeft f s := by
    by_cases h0 : f.a = 0
    · rw [if_pos (.inl h0), vloopLeft, h0]
      exact (if_pos (Nat.zero_le _)).symm
    · simp only [h0, false_or, vloopLeft]
  refine Eq.trans (b := finish _) rfl ?_
  rw [State.need, src_full _ 0 f.a 0 ha, ok_bind, State.need, src_full _ 0 f.b 0 hb, ok_bind]
  dsimp only
  rw [hleft]
  rfl

theorem setX_setsValues (r : Fld5) (v : Reg64) : setsValues (·.setX r v) := by
  intro h
  dsimp only
  rw [setX_hand]
  exact ⟨rfl, rfl⟩

/-- The fall-through opens a continuation strip. -/
theorem exec_vloop_last {f : BrF} {s : State} (ha : s.hand.full f.a) (hb : s.hand.full f.b)
    (hlast : s.hand.csr.vl = 0 ∨ vloopLeft f s = 0) (h : opensFreely s) (hstop : s.hand.sched.stopWanted = false) :
    exec (.vloop f) s = .next (s.opened (·.setX f.a (vloopLeft f s))) := by
  obtain ⟨hrec, hu, hbreak, hwatch, hfull, hd, -⟩ := h
  have htaken : ¬ (s.hand.csr.vl ≠ 0 ∧ vloopLeft f s ≠ 0) := fun ⟨hvl, hleft⟩ => hlast.elim hvl hleft
  rw [exec_vloop ha hb, if_neg htaken, hbreak, hwatch, scalarsFull_ok hfull, ok_bind, openStrip_opened hrec hd, ok_bind,
    State.afterPoint, atPoint_unasked .after (opened_unasked (setX_setsValues f.a _) hu hstop)]
  simp

theorem stripLoop_holds : stripLoop := by
  intro f s ha hb
  refine ⟨fun _ hvl hleft => ?_, fun hlast h hstop => ?_⟩
  · rw [exec_vloop ha hb, if_pos ⟨hvl, hleft⟩, target12_eq]
    rfl
  · obtain ⟨hopened, hx, -, active, hcsr⟩ := opened_stripOpened (s := s) (setX_setsValues f.a (vloopLeft f s)) rfl
    rw [setX_hand, commit_hand] at hcsr
    refine ⟨_, exec_vloop_last ha hb hlast h hstop, hopened, ?_⟩
    rw [hcsr]
    rw [commit_hand] at hx
    exact ⟨fun h0 => (getX_congr hx _).trans (getX_setX_same _ _ h0),
      fun r hr => (getX_congr hx r).trans (getX_setX_other _ _ hr), rfl, rfl, rfl, rfl, rfl⟩

/-! ### CSR writes (R171, R173) -/

theorem commit_full {s : State} {r : Fld5} (h : s.hand.full r) : s.commit.hand.full r := by
  rwa [commit_hand]

/-- A SYS instruction that its guard lets execute acts behind its commit point. -/
theorem sysInstr_goes {g : BitVec 3} {s : State} {body : State → Run State} (hg : s.goes g) (hd : s.drains) :
    sysInstr g s body = finish (body s.commit) := by
  rw [sysInstr, guarded_goes _ _ _ hg, bind_commits hd]

theorem exec_csrw {f : DABG} {s : State} (hr : s.ready f.g [f.d]) (hd : s.drains)
    (hflag : csrNum f = 0x011 → s.hand.flagsQuiet = true) : exec (.csrw f) s = finish (do
      let t ← s.commit.csrWrite (csrNum f) (s.hand.getX f.d) (sysTrap .reservedField 2 f.d f.a f.b f.g)
      pure (t.retire 4)) := by
  obtain ⟨hg, hfull⟩ := hr
  change execCsrw f s = _
  rw [execCsrw, sysInstr_goes hg hd, State.need, src_full _ 0 f.d 0 (commit_full (hfull f.d List.mem_cons_self)), ok_bind,
    getX_congr (commit_hand_x s), if_neg]
  rw [Bool.and_eq_true, decide_eq_true_eq]
  rintro ⟨hn, hq⟩
  rw [commit_hand] at hq
  exact Bool.false_ne_true ((congrArg (!·) (hflag hn)).symm.trans hq)

theorem csrWrite_none {s : State} {n : Nat} {v : Reg64} (h : s.hand.csr.write n v = none) (bad : Trap) :
    s.csrWrite n v bad = .error (.trap bad s) := by
  rw [State.csrWrite, h]
  rfl

theorem csrWrite_some {s : State} {n : Nat} {v : Reg64} {k : Csrs} (h : s.hand.csr.write n v = some k) (bad : Trap) :
    s.csrWrite n v bad = .ok (s.put { s.hand with csr := k }) := by
  rw [State.csrWrite, h]

/-- Settles O21: vsetl and vsetlq, then vloop, open a strip with new values; a grant fits its group; profiles above 4 are reserved. -/
theorem stripOpenings : Obligations.StripOpenings := by
  unfold Obligations.StripOpenings
  refine ⟨openingsGrant_holds, stripLoop_holds, fun _ sew grp remaining h => grantOf_fits sew grp remaining h,
    fun f s hr hd hn hv => ?_⟩
  have hwrite : s.commit.hand.csr.write (csrNum f) (s.hand.getX f.d) = none := by
    rw [hn]
    exact if_pos hv
  rw [State.trapsAfter, exec_csrw hr hd (fun h => absurd (hn.symm.trans h) (by decide)), csrWrite_none hwrite]
  rfl

end Sys2Proof.Machine
end

section
/-!
## The system instructions (O50)

A SYS instruction acts behind its commit point (`sysInstr_goes`); each instruction has one equation for each way that it ends. What a
commit point and the performing of held stores keep is said once (`commit_hand`, `performAllHeld_keeps`). The six parts of the statement
are the theorems whose names end in `_holds`.
-/
namespace Sys2Proof.Machine

/-! ### CSRs (R169 to R174) -/

theorem and_three_setWidth (x : Reg64) : ((x &&& 3).setWidth 2).setWidth 64 = x &&& 3 := by
  apply BitVec.eq_of_toNat_eq
  have h : (x &&& 3).toNat < 4 := Nat.lt_of_le_of_lt (BitVec.toNat_and x 3 ▸ Nat.and_le_right) (by decide)
  simp only [BitVec.toNat_setWidth]
  omega

/-- A write reads back without the bits that the CSR does not define (R174). -/
theorem readCsr_write {s : State} {k : Csrs} {n : Nat} {x : Reg64} (h : s.hand.csr.write n x = some k) :
    (s.put { s.hand with csr := k }).readCsr n = some (x &&& csrMask n) := by
  unfold Csrs.write at h
  dsimp only at h
  split at h
  case h_1 =>
    split at h
    · cases h
    · cases h
      change some (BitVec.ofNat 64 x.toNat) = some (x &&& BitVec.allOnes 64)
      rw [BitVec.ofNat_toNat, BitVec.setWidth_eq, BitVec.and_allOnes]
  case h_4 =>
    cases h
    exact congrArg some (and_three_setWidth x)
  case h_22 =>
    split at h
    · cases h
    · cases h
      rfl
  case h_23 => cases h
  all_goals
    cases h
    simp [State.readCsr, State.put, csrMask, Csrs.xidxAt]

theorem commit_flagsQuiet {s : State} {p : Bool} (h : p = true → s.hand.flagsQuiet = true) :
    ¬ (p && !s.commit.hand.flagsQuiet) = true := by
  rw [commit_hand, Bool.and_eq_true, Bool.not_eq_true']
  exact fun ⟨hp, hq⟩ => Bool.false_ne_true (hq.symm.trans (h hp))

/-! #### Values -/

theorem csrValue_some {s : State} {n : Nat} {v : Reg64} (hcyc : n ≠ 0x023) (hsrec : n ≠ 0x071) (h : s.readCsr n = some v) (bad : Trap) :
    s.csrValue n bad = .ok (s, v) := by
  simp only [State.csrValue, if_neg hcyc, if_neg hsrec, h]

theorem csrValue_none {s : State} {n : Nat} (h : s.readCsr n = none) (bad : Trap) : s.csrValue n bad = .error (.trap bad s) := by
  have hcyc : n ≠ 0x023 := by
    rintro rfl
    cases h
  have hsrec : n ≠ 0x071 := by
    rintro rfl
    cases h
  simp only [State.csrValue, if_neg hcyc, if_neg hsrec, h]
  rfl

theorem csrValue_srecctl (s : State) (bad : Trap) : s.csrValue 0x071 bad = .ok (s.seeRecords, s.hand.csr.srecctl) := rfl

theorem csrValue_cyc (s : State) (bad : Trap) : s.csrValue 0x023 bad = .ok (s.tick, s.tick.hand.csr.cyc) := rfl

/-! The hypotheses of `csrAccesses`. -/
section
variable {f : DABG} {s : State} (hr : s.ready f.g [f.d]) (hd : s.drains)
include hr hd

theorem exec_csrr_run (hflag : flagCsr (csrNum f) = true → s.hand.flagsQuiet = true) : exec (.csrr f) s = finish
    (s.commit.csrValue (csrNum f) (sysTrap .reservedField 1 f.d f.a f.b f.g) >>= fun r => pure ((r.1.setX f.d r.2).retire 4)) := by
  obtain ⟨hg, hfull⟩ := hr
  change execCsrr f s = _
  rw [execCsrr, sysInstr_goes hg hd, dest_full _ f.d (commit_full (hfull f.d List.mem_cons_self)), ok_bind,
    if_neg (commit_flagsQuiet hflag)]

theorem exec_csrr {t : State} {v : Reg64} (hflag : flagCsr (csrNum f) = true → s.hand.flagsQuiet = true)
    (hv : s.commit.csrValue (csrNum f) (sysTrap .reservedField 1 f.d f.a f.b f.g) = .ok (t, v)) :
    exec (.csrr f) s = .next ((t.setX f.d v).retire 4) := by
  rw [exec_csrr_run hr hd hflag, hv]
  rfl

theorem exec_csrr_none (hflag : flagCsr (csrNum f) = true → s.hand.flagsQuiet = true) (h : s.commit.readCsr (csrNum f) = none) :
    s.trapsAfter (.csrr f) (sysTrap .reservedField 1 f.d f.a f.b f.g) := by
  rw [State.trapsAfter, exec_csrr_run hr hd hflag, csrValue_none h]
  rfl

/-- csrx checks its write before it reads. -/
theorem exec_csrx_run (hflag : flagCsr (csrNum f) = true → s.hand.flagsQuiet = true) :
    let bad := sysTrap .reservedField 3 f.d f.a f.b f.g
    exec (.csrx f) s = finish ((s.commit.hand.csr.write (csrNum f) (s.hand.getX f.d)).elim (s.commit.trap bad) fun _ =>
      s.commit.csrValue (csrNum f) bad >>= fun r => r.1.csrWrite (csrNum f) (s.hand.getX f.d) bad >>= fun t =>
        pure ((t.setX f.d r.2).retire 4)) := by
  obtain ⟨hg, hfull⟩ := hr
  change execCsrx f s = _
  rw [execCsrx, sysInstr_goes hg hd, State.need, src_full _ 0 f.d 0 (commit_full (hfull f.d List.mem_cons_self)), ok_bind,
    getX_congr (commit_hand_x s)]
  dsimp only
  rw [if_neg (commit_flagsQuiet hflag)]
  cases s.commit.hand.csr.write (csrNum f) (s.hand.getX f.d) with
  | none => rfl
  | some _ => rfl

theorem exec_csrx {t : State} {old : Reg64} {k : Csrs} (hflag : flagCsr (csrNum f) = true → s.hand.flagsQuiet = true)
    (hw : s.commit.hand.csr.write (csrNum f) (s.hand.getX f.d) = some k)
    (hv : s.commit.csrValue (csrNum f) (sysTrap .reservedField 3 f.d f.a f.b f.g) = .ok (t, old))
    (hcsr : t.hand.csr = s.commit.hand.csr) :
    exec (.csrx f) s = .next (((t.put { t.hand with csr := k }).setX f.d old).retire 4) := by
  rw [exec_csrx_run hr hd hflag, hw, hv]
  rw [← hcsr] at hw
  rw [Option.elim_some, ok_bind, csrWrite_some hw]
  rfl

theorem exec_csrx_none (hflag : flagCsr (csrNum f) = true → s.hand.flagsQuiet = true)
    (hw : s.commit.hand.csr.write (csrNum f) (s.hand.getX f.d) = none) :
    s.trapsAfter (.csrx f) (sysTrap .reservedField 3 f.d f.a f.b f.g) := by
  rw [State.trapsAfter, exec_csrx_run hr hd hflag, hw]
  rfl

end

/-- A register written and the instruction completed, where the hand stands as the instruction found it. -/
theorem setX_retired {h : Hand} {t : State} (hp : t.hand.place = h.place) (hx : t.hand.x = h.x) (d : Fld5) (v : Reg64) (n : Nat) :
    let u := (t.setX d v).retire n
    h.movedOn u.hand n ∧ (d ≠ 0 → u.hand.getX d = v) ∧ h.sameXBut u.hand d := by
  have hplace : (t.setX d v).hand.place = h.place := by
    rw [← hp, State.setX, setX_hand]
    rfl
  have hux : ((t.setX d v).retire n).hand.x = (t.hand.setX d v).x := by
    rw [retire_hand]
    rfl
  exact ⟨movedOn_retire hplace n, fun h0 => (getX_congr hux d).trans (getX_setX_same _ v h0),
    fun r hne => ((getX_congr hux r).trans (getX_setX_other _ v hne)).trans (getX_congr hx r)⟩

/-! #### The strip records that a read of SRECCTL shows (R389) -/

/-- The records of a task that were written for one of its members. -/
def State.recordsFor (s : State) (task m : Nat) : List (Nat × Nat × List Byte) :=
  (((s.taskOf task).map (·.records)).getD []).filter (fun r => r.1 == m)

theorem seeRecords_recordsFor (s : State) (m : Nat) :
    s.seeRecords.recordsFor s.hand.task m = if m = s.hand.member then [] else s.recordsFor s.hand.task m := by
  have htask : s.seeRecords.taskOf s.hand.task =
      (s.taskOf s.hand.task).map (fun t => { t with records := t.records.filter (fun r => r.1 != s.hand.member) }) := by
    refine (taskOf_modTask _ _ _ (by exact fun _ => rfl)).trans ?_
    refine Option.map_congr fun t ht => ?_
    exact if_pos (taskOf_id ht)
  rw [State.recordsFor, htask, Option.map_map, State.recordsFor]
  cases s.taskOf s.hand.task with
  | none => split <;> rfl
  | some t =>
    dsimp only [Option.map_some, Function.comp, Option.getD_some]
    rw [List.filter_filter]
    split
    · next h => simp [h]
    · next h =>
      refine List.filter_congr fun r _ => ?_
      by_cases hm : r.1 = m
      · simp [hm, h]
      · simp [hm]

/-- What a read of SRECCTL completes with, the CSRs as they then stand. -/
theorem seeRecords_retired (s : State) (k : Csrs) (d : Fld5) (v : Reg64) :
    let c := s.commit
    let t := ((c.seeRecords.put { c.seeRecords.hand with csr := k }).setX d v).retire 4
    s.hand.movedOn t.hand 4 ∧ (d ≠ 0 → t.hand.getX d = v) ∧ s.hand.sameXBut t.hand d ∧ t.hand.csr = k ∧ t.mem = c.mem ∧
      t.others = c.others ∧ t.hand.ord.snap =
        (c.recordsFor c.hand.task c.hand.member).foldl (fun m r => m.putAll (atAddr r.2.1 r.2.2)) c.hand.ord.snap ∧
      t.recordsFor c.hand.task c.hand.member = [] ∧
      ∀ m, m ≠ c.hand.member → t.recordsFor c.hand.task m = c.recordsFor c.hand.task m := by
  dsimp only
  generalize hc : s.commit = c
  generalize ht : ((c.seeRecords.put { c.seeRecords.hand with csr := k }).setX d v).retire 4 = t
  have hrecords (m : Nat) : t.recordsFor c.hand.task m = if m = c.hand.member then [] else c.recordsFor c.hand.task m := by
    rw [← seeRecords_recordsFor, State.recordsFor, State.recordsFor, State.taskOf, State.taskOf, ← ht, State.retire_tasks]
    rfl
  have hplace : c.seeRecords.hand.place = s.hand.place := by
    rw [← commit_place s, hc]
    rfl
  have hx : c.seeRecords.hand.x = s.hand.x := by
    rw [← commit_hand_x s, hc]
    rfl
  obtain ⟨hmoved, hd, hsame⟩ := setX_retired (t := c.seeRecords.put { c.seeRecords.hand with csr := k }) hplace hx d v 4
  rw [ht] at hmoved hd hsame
  refine ⟨hmoved, hd, hsame, ?_, ?_, ?_, ?_, (hrecords _).trans (if_pos rfl), fun m hm => (hrecords m).trans (if_neg hm)⟩
  · rw [← ht, retire_hand, State.setX, setX_hand]
    rfl
  · rw [← ht, State.retire_mem]
    rfl
  · rw [← ht, State.retire_others]
    rfl
  · rw [← ht, retire_hand, State.setX, setX_hand]
    rfl

/-! #### The accesses -/

theorem csrAccesses_holds : csrAccesses := by
  intro f s hr hd hflag
  dsimp only
  refine ⟨fun v hcyc hsrec hv => exec_csrr hr hd hflag (csrValue_some hcyc hsrec hv _), fun hn => ?_, fun v hn hv => ⟨?_, fun k hk => ?_⟩,
    exec_csrr_none hr hd hflag, fun k hk => ⟨?_, readCsr_write hk, fun old hsrec hv => ?_⟩,
    fun hk => ⟨?_, exec_csrx_none hr hd hflag hk⟩⟩
  · have hexec := exec_csrr hr hd hflag ((congrArg (s.commit.csrValue · _) hn).trans (csrValue_cyc s.commit _))
    obtain ⟨hmoved, hx, hsame⟩ := setX_retired (h := s.hand) (t := s.commit.tick) (commit_place s) (commit_hand_x s) f.d
      s.commit.tick.hand.csr.cyc 4
    refine ⟨_, hexec, hmoved, fun h0 => (hx h0).trans ?_, hsame, State.retire_mem _ _⟩
    rw [retire_hand, State.setX, setX_hand]
  · obtain rfl : s.commit.hand.csr.srecctl = v := by
      rw [hn] at hv
      exact Option.some.inj hv
    exact ⟨_, exec_csrr hr hd hflag ((congrArg (s.commit.csrValue · _) hn).trans (csrValue_srecctl s.commit _)),
      seeRecords_retired s s.commit.hand.csr f.d s.commit.hand.csr.srecctl⟩
  · obtain rfl : s.commit.hand.csr.srecctl = v := by
      rw [hn] at hv
      exact Option.some.inj hv
    exact ⟨_, exec_csrx hr hd hflag hk ((congrArg (s.commit.csrValue · _) hn).trans (csrValue_srecctl s.commit _)) rfl,
      seeRecords_retired s k f.d s.commit.hand.csr.srecctl⟩
  · rw [exec_csrw hr hd (fun hn => hflag (by rw [hn]; rfl)), csrWrite_some hk]
    rfl
  · have hcyc : csrNum f ≠ 0x023 := by
      intro hn
      rw [hn] at hk
      cases hk
    exact exec_csrx hr hd hflag hk (csrValue_some hcyc hsrec hv _) rfl
  · rw [State.trapsAfter, exec_csrw hr hd (fun hn => hflag (by rw [hn]; rfl)), csrWrite_none hk]
    rfl

/-! ### rett (R176) -/

section
variable {f : GF} {s : State} (hg : s.goes f.g) (hd : s.drains)
include hg hd

theorem exec_rett_outside (hm : s.commit.hand.csr.hm = false) : s.trapsAfter (.rett f) (sysTrap .illegalOpcode 7 0 0 0 f.g) := by
  refine (finish_of_goes (body := (·.rett f.g)) rfl hg ?_).trans (finish_trap _ _)
  rw [State.rett, bind_commits hd]
  dsimp only
  rw [hm]
  rfl

theorem exec_rett_misaligned (hm : s.commit.hand.csr.hm = true) (ht : s.commit.hand.csr.tpc.toNat % 4 ≠ 0) :
    s.trapsAfter (.rett f) (Trap.mk' .misaligned s.commit.hand.csr.tpc) := by
  refine (finish_of_goes (body := (·.rett f.g)) rfl hg ?_).trans (finish_trap _ _)
  rw [State.rett, bind_commits hd]
  dsimp only
  rw [hm, if_pos ht]
  rfl

theorem exec_rett_tpc (hm : s.commit.hand.csr.hm = true) (ht : s.commit.hand.csr.tpc.toNat % 4 = 0)
    (hf : s.commit.hand.csr.tstatus.getLsbD 1 = false) : exec (.rett f) s =
      .next { s.commit with hand := { s.commit.hand.leaveHandler with pc := s.commit.hand.csr.tpc, status := .running } } := by
  refine (finish_of_goes (body := (·.rett f.g)) rfl hg ?_).trans (finish_ok _)
  rw [State.rett, bind_commits hd]
  dsimp only
  rw [hm, if_neg (not_not_intro ht), hf]
  rfl

theorem exec_rett_frame {t : State} (hm : s.commit.hand.csr.hm = true) (ht : s.commit.hand.csr.tpc.toNat % 4 = 0)
    (hf : s.commit.hand.csr.tstatus.getLsbD 1 = true)
    (hr : s.commit.resumeFrame s.commit.hand.csr.tpc Hand.leaveHandler = .ok t) : exec (.rett f) s = .next t := by
  refine (finish_of_goes (body := (·.rett f.g)) rfl hg ?_).trans (finish_ok _)
  rw [State.rett, bind_commits hd]
  dsimp only
  rw [hm, if_neg (not_not_intro ht), hf, hr]
  rfl

end

/-- Leaving the handler clears the two bits of TSTATUS that say it is in one, and in a frame. -/
theorem leaveHandler_tstatus (h : Hand) (k : Nat) :
    h.leaveHandler.csr.tstatus.getLsbD k = (h.csr.tstatus.getLsbD k && decide (2 ≤ k)) := by
  change (h.csr.tstatus &&& ~~~(3 : Reg64)).getLsbD k = _
  rw [BitVec.getLsbD_and, BitVec.getLsbD_not]
  by_cases hk : k < 64
  · have hthree : (3 : Reg64).getLsbD k = decide (k < 2) := by
      exact (BitVec.testBit_toNat 3).symm.trans (Nat.testBit_two_pow_sub_one 2 k)
    rw [hthree, decide_eq_true hk, Bool.true_and, ← decide_not]
    simp only [Nat.not_lt]
  · rw [BitVec.getLsbD_of_ge _ _ (Nat.not_lt.1 hk)]
    rfl

theorem returns_holds : returns := by
  intro f s hg hd
  obtain ⟨hx, hv, hp, -, -, hloops, -⟩ := commit_regs s
  exact ⟨exec_rett_outside hg hd, exec_rett_misaligned hg hd,
    fun hm ht hf => ⟨_, exec_rett_tpc hg hd hm ht hf, rfl, rfl, rfl, rfl, leaveHandler_tstatus _, hx, hv, hp, hloops⟩,
    fun _ hm ht hf hr => exec_rett_frame hg hd hm ht hf hr⟩

/-! ### The iteration end (R191) -/

/-- An iteration end changes the position alone. -/
theorem iterEnd_position (h : Hand) (a b : Nat) : h.iterEnd a b = { h with pc := (h.iterEnd a b).pc, loops := (h.iterEnd a b).loops } := by
  unfold Hand.iterEnd
  split
  · rfl
  · split <;> rfl

theorem iterEnd_nil {h : Hand} (hl : h.loops = []) (a b : Nat) : h.iterEnd a b = h := by
  rw [Hand.iterEnd, hl]

section
variable {h : Hand} {e : LoopEntry} {l : List LoopEntry} (hl : h.loops = e :: l) {a b : Nat}
include hl

theorem iterEnd_outside (hw : ¬ (a ≤ e.stop.toNat ∧ e.stop.toNat < b)) : h.iterEnd a b = h := by
  rw [Hand.iterEnd, hl]
  exact if_neg hw

theorem iterEnd_within (hw : a ≤ e.stop.toNat ∧ e.stop.toNat < b) :
    h.iterEnd a b = { h with loops := (loopEnd e.stop 7 h.loops).1, pc := (loopEnd e.stop 7 h.loops).2 } := by
  rw [Hand.iterEnd, hl]
  exact if_pos hw

theorem iterEnd_again (hw : a ≤ e.stop.toNat ∧ e.stop.toNat < b) (hmore : (e.index + 1).toNat < e.count.toNat) :
    (h.iterEnd a b).pc = e.start ∧ (h.iterEnd a b).loops = { e with index := e.index + 1 } :: l := by
  rw [iterEnd_within hl hw, hl, loopEnd, if_neg (not_not_intro rfl), if_pos hmore]
  exact ⟨rfl, rfl⟩

theorem iterEnd_exit (hw : a ≤ e.stop.toNat ∧ e.stop.toNat < b) (hlast : e.count.toNat ≤ (e.index + 1).toNat)
    (hnext : ∀ g ∈ l.head?, g.stop ≠ e.stop) : (h.iterEnd a b).pc = e.stop + 4 ∧ (h.iterEnd a b).loops = l := by
  have hend : loopEnd e.stop 6 l = (l, e.stop + 4) := by
    cases l with
    | nil => rfl
    | cons g l => rw [loopEnd, if_pos (hnext g rfl)]
  rw [iterEnd_within hl hw, hl, loopEnd, if_neg (not_not_intro rfl), if_neg (Nat.not_lt.2 hlast), hend]
  exact ⟨rfl, rfl⟩

end

/-! ### rep (R166, R167) -/

theorem repWord_eq (f : RepF) : repWord f = encodeWord (.rep f) := by
  have hmb : ∀ b : BitVec 1, b.setWidth 3 <<< 2 = b ++ 0#2 := by decide
  rw [repWord, hmb]
  rfl

section
variable {f : RepF} {s t : State} {l : List Word}

theorem exec_rep_badWord {w : Word} (hc : s.frameCheck s.hand.pc (f.n1.toNat + 1) = .ok (t, l, some w)) :
    exec (.rep f) s = .next (t.trapped (Trap.mk' .repeatFrame (w.setWidth 64))) := by
  change finish _ = _
  dsimp only
  rw [hc]
  rfl

variable (hc : s.frameCheck s.hand.pc (f.n1.toNat + 1) = .ok (t, l, none)) (hfull : t.hand.full f.cnt)
include hc hfull

theorem exec_rep_tooMany (hk : 65535 < (t.hand.getX f.cnt).toNat) : exec (.rep f) s = .next (t.trapped
    { Trap.mk' .repeatFrame ((encodeWord (.rep f)).setWidth 64) with tidx0 := t.hand.getX f.cnt }) := by
  change finish _ = _
  dsimp only
  rw [hc, ok_bind]
  dsimp only
  rw [State.need, src_full _ 0 f.cnt 0 hfull, ok_bind, if_pos hk, repWord_eq]
  rfl

/-- The hand past a frame that is passed over, before the iteration end of its words. -/
def Hand.pastFrame (h : Hand) (n : Nat) : Hand :=
  { h with
    pc := h.pc + BitVec.ofNat 64 (4 * (n + 1)), status := .running
    sched := { h.sched with retiredCount := h.sched.retiredCount + 1 } }

theorem exec_rep_none (hk : t.hand.getX f.cnt = 0) : exec (.rep f) s = .next
    { t with hand := (t.hand.pastFrame (f.n1.toNat + 1)).iterEnd t.hand.pc.toNat (t.hand.pastFrame (f.n1.toNat + 1)).pc.toNat } := by
  change finish _ = _
  dsimp only
  rw [hc, ok_bind]
  dsimp only
  rw [State.need, src_full _ 0 f.cnt 0 hfull, ok_bind, hk]
  rfl

theorem exec_rep_starts (hpos : 0 < (t.hand.getX f.cnt).toNat) (hk : (t.hand.getX f.cnt).toNat ≤ 65535) : exec (.rep f) s = .next
    { t with hand := { t.hand with
        status := .running, sched := { t.hand.sched with retiredCount := t.hand.sched.retiredCount + 1 }
        frame := some ⟨f.n1.toNat + 1, l, (t.hand.getX f.cnt).toNat, f.stag.toNat, f.md == 1, f.ma == 1, f.mb == 1, 0, 0⟩
        csr := { t.hand.csr with repidx := 0 } } } := by
  have hne : t.hand.getX f.cnt ≠ 0 := by
    intro h0
    rw [h0] at hpos
    exact Nat.lt_irrefl 0 hpos
  change finish _ = _
  dsimp only
  rw [hc, ok_bind]
  dsimp only
  rw [State.need, src_full _ 0 f.cnt 0 hfull, ok_bind, if_neg (Nat.not_lt.2 hk), if_neg hne]
  rfl

end

theorem repeats_holds : repeats := by
  intro f s t
  refine ⟨fun l w hc => exec_rep_badWord hc, fun l hc hfull => ⟨exec_rep_tooMany hc hfull, fun hk => ?_,
    fun hpos hk => ⟨_, exec_rep_starts hc hfull hpos hk, rfl, rfl, rfl, rfl, rfl, rfl, rfl⟩⟩⟩
  refine ⟨_, exec_rep_none hc hfull hk, rfl, ?_, ?_, fun hl => ?_, fun e l hl => ⟨fun hw => ?_, fun hw hmore => ?_,
    fun hw hlast hnext => ?_⟩⟩
  · rw [iterEnd_position]
    rfl
  · rw [iterEnd_position]
    rfl
  · have hl' : (t.hand.pastFrame (f.n1.toNat + 1)).loops = [] := hl
    exact ⟨congrArg Hand.pc (iterEnd_nil hl' ..), (congrArg Hand.loops (iterEnd_nil hl' ..)).trans hl⟩
  · have hl' : (t.hand.pastFrame (f.n1.toNat + 1)).loops = e :: l := hl
    exact ⟨congrArg Hand.pc (iterEnd_outside hl' hw), (congrArg Hand.loops (iterEnd_outside hl' hw)).trans hl⟩
  · exact iterEnd_again (h := t.hand.pastFrame (f.n1.toNat + 1)) hl hw hmore
  · exact iterEnd_exit (h := t.hand.pastFrame (f.n1.toNat + 1)) hl hw hlast hnext

/-! ### The held stores performed (R62) -/

/-- The bytes that a hand still buffers when its held ones are performed. -/
def Hand.unheld (h : Hand) : Hand := { h with strip := { h.strip with ssb := h.strip.ssb.filter (fun b => !b.held) } }

/-- Performing a hand's held stores keeps what a heel image, a byte performed and the emptying of a buffer keep. -/
theorem performAllHeld_keeps {α : Type} {p : State → α} (hheel : ∀ s l, p { s with mem := { s.mem with heel := l } } = p s)
    (hstamp : ∀ s t m q k b pl, p (State.stamp s t m q k b pl) = p s) (hmod : ∀ s n, p (State.modHand s n Hand.unheld) = p s)
    {s t : State} {h : Hand} (ht : s.performAllHeld h = .ok t) : p t = p s := by
  have hretain {s t : State} {w : Writer} {k : Nat} (h : s.retain w k = some t) : p t = p s := by
    simp only [State.retain] at h
    split at h
    · exact Option.some.inj h ▸ hheel s _
    · split at h
      · cases h
      · exact Option.some.inj h ▸ hheel s _
  have hbyte (s : State) (b : Buffered) : Yields (fun u => p u = p s) (s.performHeld h b) := by
    unfold State.performHeld
    refine Yields.map (P := fun u => p u = p s) ?_ fun u hu => (hstamp ..).trans hu
    split
    · rfl
    · cases hu : s.retain h.storer b.key with
      | none => trivial
      | some u => exact hretain hu
  have hgives : Gives (fun u => p u = p s) (s.performAllHeld h) := by
    unfold State.performAllHeld
    refine Gives.bind (P := fun u => p u = p s) (foldlM_gives (fun u b hu => ?_) rfl) fun u hu => (hmod u h.id).trans hu
    split
    · next e => exact ((hbyte u b).some e).trans hu
    · trivial
  rw [ht] at hgives
  exact hgives

theorem performAllHeld_dudel {s t : State} {h : Hand} (ht : s.performAllHeld h = .ok t) : t.dudel = s.dudel :=
  performAllHeld_keeps (p := State.dudel) (fun _ _ => rfl) (fun _ _ _ _ _ _ _ => State.stamp_dudel ..)
    (fun _ _ => State.modHand_dudel ..) ht

/-! ### halt (R177) -/

section
variable {f : GF} {s : State} (hg : s.goes f.g) (hd : s.drains)
include hg hd

theorem exec_halt_watched (hskip : s.hand.sched.skipStop = false) (hw : s.hand.watched = true) :
    exec (.halt f) s = .next (s.commit.waits .stop) := by
  change execHalt f s = _
  rw [execHalt, sysInstr_goes hg hd, commit_hand]
  change finish (if (!s.hand.sched.skipStop && s.hand.watched) = true then _ else _) = _
  rw [hskip, hw]
  rfl

variable (hstop : s.hand.sched.skipStop = true ∨ s.hand.watched = false)
include hstop

theorem exec_halt_unstopped : exec (.halt f) s = finish (do
    if !s.commit.allDone then s.commit.wait .halt
    else do
      let t ← s.commit.heldDone
      if !(t.foldsOf t.hand).isEmpty then t.seatTurn
      let t ← (t.put (t.hand.stalled (t.hand.ord.serial == 0xFFFF))).closeRecord true
      pure (t.retireHand t.hand)) := by
  change execHalt f s = _
  rw [execHalt, sysInstr_goes hg hd]
  refine congrArg finish (if_neg ?_)
  rw [commit_hand]
  change ¬ (!s.hand.sched.skipStop && s.hand.watched) = true
  rcases hstop with h | h <;> simp [h]

theorem exec_halt_waits (hdone : s.commit.allDone = false) : exec (.halt f) s = .next (s.commit.waits .halt) := by
  rw [exec_halt_unstopped hg hd hstop, hdone]
  rfl

theorem exec_halt_heel {fl : Nat} (hdone : s.commit.allDone = true) (hheld : s.commit.performAllHeld s.commit.hand = .error fl) :
    exec (.halt f) s = .next ((s.commit.heelStall fl).waits .heel) := by
  rw [exec_halt_unstopped hg hd hstop, hdone, State.heldDone, hheld]
  rfl

theorem exec_halt_retires {t : State} (hn : s.noDudel) (hdone : s.commit.allDone = true)
    (hheld : s.commit.performAllHeld s.commit.hand = .ok t) (hrec : srecEn t.hand.csr.srecctl = false) :
    let u := t.put (t.hand.stalled (t.hand.ord.serial == 0xFFFF))
    exec (.halt f) s = .next (u.retireHand u.hand) := by
  have htn : t.noDudel := by
    rw [State.noDudel, performAllHeld_dudel hheld]
    exact commit_noDudel hn
  have hclose := closeRecord_off (s := t.put (t.hand.stalled (t.hand.ord.serial == 0xFFFF))) hrec true
  dsimp only
  rw [exec_halt_unstopped hg hd hstop, hdone, State.heldDone, hheld]
  change finish (if (!(t.foldsOf t.hand).isEmpty) = true then _ else _) = _
  rw [seatTurn_of_noDudel htn, hclose]
  split <;> rfl

end

/-! ### yield (R178) -/

/-- The hand with its deficit given up, and pre-emption asked for where `want` says so. -/
def Hand.yielded (h : Hand) (want : Bool) : Hand :=
  { h with sched := { h.sched with deficit := 0, preempt := h.sched.preempt || want } }

/-- yield's end behind its commit point, before a request lands. -/
def State.yielded (s : State) : State := (s.put (s.hand.yielded s.powerWanted)).clearAtPoint.dropGrant.retire 4

/-- Nothing but the hand and its core's grant changes. -/
theorem yielded_eq (s : State) : s.yielded = { s.dropGrant with hand := s.yielded.hand } := rfl

theorem yielded_movedOn {s : State} {h : Hand} (hp : s.hand.place = h.place) : h.movedOn s.yielded.hand 4 :=
  movedOn_retire (t := (s.put (s.hand.yielded s.powerWanted)).clearAtPoint.dropGrant) hp 4

section
variable {f : GF} {s : State} (hg : s.goes f.g) (hd : s.drains) (hu : s.hand.unasked)
include hg hd hu

theorem exec_yield : exec (.yield f) s = finish s.commit.yielded.afterPoint := by
  obtain ⟨hgang, -⟩ := commit_unasked hu
  change execYield f s = _
  rw [execYield, sysInstr_goes hg hd, hgang]
  generalize s.commit = c
  rfl

theorem exec_yield_goesOn (hw : s.commit.powerWanted = false) : exec (.yield f) s = .next s.commit.yielded := by
  have hunasked : s.commit.yielded.hand.unasked := by
    obtain ⟨hgang, hpre, hstop⟩ := commit_unasked hu
    rw [State.yielded, retire_hand, hw]
    exact ⟨hgang, (Bool.or_false _).trans hpre, hstop⟩
  rw [exec_yield hg hd hu, State.afterPoint, atPoint_unasked .after hunasked]
  rfl

theorem exec_yield_waits (hw : s.commit.powerWanted = true) : exec (.yield f) s = .next (s.commit.yielded.waits .after) ∧
    s.commit.yielded.hand.sched.preempt = true := by
  obtain ⟨hgang, -⟩ := commit_unasked hu
  have hpreempt : s.commit.yielded.hand.sched.preempt = true := by
    rw [State.yielded, retire_hand, hw]
    exact Bool.or_true _
  have hgang' : s.commit.yielded.hand.sched.gangAbort = none := by
    rw [State.yielded, retire_hand]
    exact hgang
  rw [exec_yield hg hd hu, State.afterPoint, State.atPoint, hgang', hpreempt]
  exact ⟨rfl, rfl⟩

end

theorem endings_holds : endings := by
  intro f s hg hd hn
  refine ⟨exec_halt_watched hg hd, fun hstop => ⟨exec_halt_waits hg hd hstop, fun fl => exec_halt_heel hg hd hstop,
    fun t => exec_halt_retires hg hd hstop hn⟩, fun hu hw => ?_, fun hu hw => ?_⟩
  · obtain ⟨hx, -, -, hcsr, -⟩ := commit_regs s
    have hmoved : s.hand.movedOn s.commit.yielded.hand 4 := yielded_movedOn (commit_place s)
    refine ⟨_, exec_yield_goesOn hg hd hu hw, yielded_eq _, hmoved, ?_, ?_, fun q hq => ?_, ?_, ?_⟩
    · rw [State.yielded, retire_hand]
      rfl
    · rw [State.yielded, retire_v]
      rfl
    · rw [State.yielded, retire_getP]
      exact clearStripLocal_getP _ q hq
    · rw [State.yielded, retire_hand]
      exact hx
    · rw [State.yielded, retire_hand]
      exact hcsr
  · obtain ⟨hexec, hpreempt⟩ := exec_yield_waits hg hd hu hw
    exact ⟨_, hexec, rfl, hpreempt⟩

/-! ### Retirement (R139, R336) -/

/-- Seats folded one after the other. -/
def State.foldSeats (s : State) (l : List (Nat × BitVec 17)) (h : Hand) : State := l.foldl (fun u on => u.foldSeat on.1 on.2 h) s

/-- Folds change the seats alone. -/
theorem foldSeats_seats (l : List (Nat × BitVec 17)) (h : Hand) (s : State) :
    s.foldSeats l h = { s with seats := (s.foldSeats l h).seats } := by
  induction l generalizing s with
  | nil => rfl
  | cons on l ih =>
    change (s.foldSeat on.1 on.2 h).foldSeats l h = { s with seats := ((s.foldSeat on.1 on.2 h).foldSeats l h).seats }
    rw [ih, foldSeat_seats]

/-- With nothing recorded or replayed, a retiring hand's folds are its seats' alone. -/
theorem foldAll_of_noDudel {s : State} (hn : s.noDudel) (h : Hand) : s.foldAll h = s.foldSeats (s.foldsOf h) h := by
  unfold State.foldAll
  generalize s.foldsOf h = l
  induction l generalizing s with
  | nil => rfl
  | cons on l ih =>
    have hfold := foldSeat_noDudel hn on.1 on.2 h
    rw [List.foldl_cons, State.seatNote, dudelOp_of_noDudel hfold, ih hfold]
    rfl

/-- What a retiring hand leaves, but for what its commands and exchanges carry. -/
theorem leaveHand_eq {s : State} (hn : s.noDudel) (h : Hand) :
    let gone : Hand := { h with status := .retired }
    s.leaveHand h = { s with
      seats := (s.foldSeats (s.foldsOf gone) gone).seats
      serials := mins s.serials h.id (h.ord.serial + 1).toNat
      mem := { s.mem with
        tags := s.mem.tags.filter (fun kt => kt.2.hand != h.id)
        heel := (s.leaveHand h).mem.heel }
      copies := (s.leaveHand h).copies
      xchgs := (s.leaveHand h).xchgs
      cores := (s.modCore h.core (fun (c : Core) =>
        if c.granted = some h.slot ∧ h.status ≠ .saved then { c with granted := none } else c)).cores } := by
  dsimp only
  unfold State.leaveHand
  rw [foldAll_of_noDudel hn, foldSeats_seats]
  rfl

section
variable {s : State} (hlive : s.hand.status ≠ .none) (hn : s.noDudel)
include hlive hn

/-- The retirement of the current hand. -/
theorem retireHand_eq : s.retireHand s.hand = { s.leaveHand s.hand with hand := s.hand.over s.me.side } := by
  have hhand : (s.leaveHand s.hand).hand = s.hand := by rw [leaveHand_eq hn]
  rw [State.retireHand, State.modHand, hhand]
  exact if_pos ⟨rfl, hlive⟩

theorem retireHand_granted (hcores : rising s.cores = true) (hsaved : s.hand.status ≠ .saved) :
    ((s.retireHand s.hand).core s.hand.core).granted ≠ some s.hand.slot := by
  have hcore : (s.retireHand s.hand).core s.hand.core = (s.modCore s.hand.core (fun (c : Core) =>
      if c.granted = some s.hand.slot ∧ s.hand.status ≠ .saved then { c with granted := none } else c)).core s.hand.core := by
    rw [retireHand_eq hlive hn, leaveHand_eq hn]
    rfl
  rw [hcore, core_modCore _ _ _ _ hcores, if_pos rfl]
  split
  · exact nofun
  · next h => exact fun hg => h ⟨hg, hsaved⟩

theorem retireHand_others : (s.retireHand s.hand).others = s.others := by
  rw [retireHand_eq hlive hn, leaveHand_eq hn]

/-- The slot of a retired hand is free where no other hand runs in it or has its HANDID (R134). -/
theorem retireHand_freeSlot (hslot : s.hand.slot < 4)
    (halone : ∀ k ∈ s.others, k.runsIn s.hand.core s.hand.slot = false ∧
      (k.living = true → k.id ≠ 4 * s.hand.core + s.hand.slot)) :
    s.hand.slot ∈ (s.retireHand s.hand).freeSlots s.hand.core := by
  have hall : (s.retireHand s.hand).allHands = s.hand.over s.me.side :: s.others := by
    rw [State.allHands, retireHand_others hlive hn, retireHand_eq hlive hn]
    rfl
  have hdead : (s.hand.over s.me.side).living = false := rfl
  rw [State.freeSlots, State.emptySlots, hall, List.mem_filter, List.mem_filter, List.mem_range]
  refine ⟨⟨hslot, ?_⟩, ?_⟩
  · rw [Bool.not_eq_true', List.any_cons, Hand.runsIn, hdead]
    exact List.any_eq_false.2 fun k hk => Bool.eq_false_iff.1 (halone k hk).1
  · rw [Bool.not_eq_true', List.any_cons, hdead]
    refine List.any_eq_false.2 fun k hk hlk => ?_
    rw [Bool.and_eq_true, beq_iff_eq] at hlk
    exact (halone k hk).2 hlk.1 hlk.2

end

theorem retirement_holds : retirement := by
  intro s hlive _ hn
  have ht := retireHand_eq hlive hn
  rw [leaveHand_eq hn] at ht
  refine ⟨?_, ?_, ?_, ?_, ?_, ?_, ?_, ?_, ?_, ?_, ?_, ?_, ?_, retireHand_others hlive hn, ⟨?_, ?_⟩, ?_, ?_, ?_, ?_, fun _ => ?_,
    retireHand_granted hlive hn, retireHand_freeSlot hlive hn⟩
  case refine_20 =>
    rw [ht]
    exact (mfind_mins ..).trans (if_pos rfl)
  all_goals rw [ht]
  all_goals rfl

/-! ### spawn (R180) -/

/-- Performing held stores changes, of the current hand, its ordering and its strip alone. -/
theorem performAllHeld_hand {s t : State} {h : Hand} (ht : s.performAllHeld h = .ok t) :
    t.hand = { s.hand with ord := t.hand.ord, strip := t.hand.strip } := by
  have hstamp (u : State) (t m q k : Nat) (b : Byte) (pl : Bool) : ∃ o, (u.stamp t m q k b pl).hand = { u.hand with ord := o } := by
    obtain ⟨o, ho, -⟩ := (stamp_sameButOrder u t m q k b pl).hand
    exact ⟨o, ho⟩
  have hkeeps : { t.hand with ord := s.hand.ord, strip := s.hand.strip } = s.hand :=
    performAllHeld_keeps (p := fun u => { u.hand with ord := s.hand.ord, strip := s.hand.strip }) (fun _ _ => rfl)
      (fun u t m q k b pl => by
        obtain ⟨o, ho⟩ := hstamp u t m q k b pl
        rw [ho])
      (fun u n => modHand_hand (p := fun g : Hand => { g with ord := s.hand.ord, strip := s.hand.strip }) (f := Hand.unheld)
        (fun _ => rfl) u n) ht
  rw [← hkeeps]

/-- The graph that a spawn leaves for the pool. -/
def spawnedGraph (s : State) (n : Nat) (a b : Reg64) : Graph :=
  ⟨n, .spawn s.hand.id, s.hand.asid, false, false, [], a.toNat, b.toNat, [], none⟩

/-- The state behind a spawn of an unpaired hand whose held stores have been performed. -/
def State.spawned (s : State) (d : Fld5) (a b : Reg64) : State :=
  let n := s.pool.submissions
  let t := s.nextSub.1.give n
  let u := { t with pool := { t.pool with graphs := t.pool.graphs ++ [spawnedGraph t n a b] } }
  let dest : Dest := if d = 0 then .memory else .scalar d.toNat
  (u.put { u.hand with producers := u.hand.producers ++ [⟨dest, none, some n, [], false, []⟩] }).retire 4

section
variable {f : RegG} {s : State} (hr : s.ready f.g [f.a, f.b, f.d]) (hd : s.drains)
include hr hd

theorem exec_spawn : exec (.spawn f) s = finish (
    if s.commit.me.side ≠ .single then pure ((s.commit.nextSub.1.setX f.d (BitVec.ofNat 64 (2 ^ 63 + 0xFFFF))).retire 4)
    else do
      let t ← s.commit.heldDone
      pure (t.spawned f.d (s.hand.getX f.a) (s.hand.getX f.b))) := by
  obtain ⟨hg, hfull⟩ := hr
  have ha : s.hand.full f.a := hfull f.a (by simp)
  have hb : s.hand.full f.b := hfull f.b (by simp)
  have hdst : s.hand.full f.d := hfull f.d (by simp)
  change execSpawn f s = _
  rw [execSpawn, sysInstr_goes hg hd, src_full _ 0 f.a f.ta (commit_full ha), ok_bind, src_full _ 1 f.b f.tb (commit_full hb), ok_bind,
    dest_full _ f.d (commit_full hdst), ok_bind, getX_congr (commit_hand_x s), getX_congr (commit_hand_x s)]
  rfl

theorem exec_spawn_paired (hside : s.commit.me.side ≠ .single) :
    exec (.spawn f) s = .next ((s.commit.nextSub.1.setX f.d (BitVec.ofNat 64 (2 ^ 63 + 0xFFFF))).retire 4) := by
  rw [exec_spawn hr hd, if_pos hside]
  rfl

theorem exec_spawn_single {t : State} (hside : s.commit.me.side = .single) (ht : s.commit.performAllHeld s.commit.hand = .ok t) :
    exec (.spawn f) s = .next (t.spawned f.d (s.hand.getX f.a) (s.hand.getX f.b)) := by
  rw [exec_spawn hr hd, if_neg (not_not_intro hside), State.heldDone, ht]
  rfl

end

/-! #### SPAWN_RESULT -/

/-- What SPAWN_RESULT leaves of a graph of the hand `id`, by what the pool has read of it. -/
def State.spawnRead (s : State) (e id : Nat) (g : Graph) : State × Option (Except (Nat × Nat) (List NodeRec)) → State
  | (_, none) => s
  | (t, some (.error w)) => (t.dropGraph e).modHand id (fun h => h.fillSpawn e (spawnStatus g (.error w)))
  | (t, some (.ok ns)) =>
    let g' := { g with nodes := ns, status := some 0 }
    if t.poolRoom ns.length then (t.admitGraph g').modHand id (fun h => h.fillSpawn e (spawnStatus g' (.ok ns)))
    else { t with pool := { t.pool with graphs := t.pool.graphs.map (fun x => if x.subno = e then g' else x) } }

section
variable {s : State} {e id : Nat} {g : Graph}

theorem exec_spawnResult (hup : s.poolUp = true) (hfind : s.pool.graphs.find? (fun g => g.subno == e) = some g)
    (horigin : g.origin = .spawn id) (hstatus : g.status = none) (hpos : 0 < g.count) (hcount : g.count ≤ Config.poolEntries) :
    exec (.spawnResult e) s = .next (s.spawnRead e id g (s.readGraph g)) := by
  have hbad : ¬ (g.count = 0 ∨ Config.poolEntries < g.count) := by omega
  change execSpawnResult e s = _
  rw [execSpawnResult, hfind]
  dsimp only
  rw [horigin]
  dsimp only
  rw [hup, if_neg hbad, hstatus, ← horigin]
  rcases s.readGraph g with ⟨t, _ | w | ns⟩
  · rfl
  · rfl
  · rfl

variable (hpos : 0 < g.count) (hcount : g.count ≤ Config.poolEntries)
include hpos hcount

theorem spawnStatus_ok (ns : List NodeRec) : spawnStatus g (.ok ns) = BitVec.ofNat 64 (g.subno % 2 ^ 48) := by
  rw [spawnStatus, if_neg (by omega)]

theorem spawnStatus_error (j st : Nat) :
    spawnStatus g (.error (j, st)) = BitVec.ofNat 64 (2 ^ 63 + (if st = 1 then 0 else 2 ^ 62) + j) := by
  unfold spawnStatus
  rw [if_neg (by omega)]
  by_cases h : st = 1
  · rw [h]
    rfl
  · rw [if_neg h]
    split
    · next heq => cases heq
    · next heq =>
      cases heq
      exact absurd rfl h
    · next heq =>
      cases heq
      rfl

end

/-! #### The spawner's register -/

/-- What one of the hand's producers has filled at the answer to its spawn. -/
def Hand.fillOne (n : Nat) (v : Reg64) (h : Hand) (p : Producer) : Hand :=
  match p.spawn, p.dest with
  | some k, .scalar r =>
    if k = n then { h with x := h.x.setIfInBounds r v, producers := h.producers.filter (fun q => q.spawn != some n) } else h
  | some k, _ => if k = n then { h with producers := h.producers.filter (fun q => q.spawn != some n) } else h
  | none, _ => h

theorem fillSpawn_eq (h : Hand) (n : Nat) (v : Reg64) : h.fillSpawn n v = h.producers.foldl (Hand.fillOne n v) h := rfl

theorem fillOne_other {n : Nat} {v : Reg64} {p : Producer} (hp : p.spawn ≠ some n) (h : Hand) : h.fillOne n v p = h := by
  unfold Hand.fillOne
  split
  · next k r hk _ =>
    have hkn : k ≠ n := fun e => hp (hk.trans (congrArg some e))
    exact if_neg hkn
  · next k hk _ =>
    have hkn : k ≠ n := fun e => hp (hk.trans (congrArg some e))
    exact if_neg hkn
  · rfl

theorem fillOne_scalar {n r : Nat} {v : Reg64} {p : Producer} (hp : p.spawn = some n) (hdest : p.dest = .scalar r) (h : Hand) :
    h.fillOne n v p = { h with x := h.x.setIfInBounds r v, producers := h.producers.filter (fun q => q.spawn != some n) } := by
  rw [Hand.fillOne, hp, hdest]
  exact if_pos rfl

theorem foldl_fillOne_other {n : Nat} {v : Reg64} {l : List Producer} (hl : ∀ p ∈ l, p.spawn ≠ some n) (h : Hand) :
    l.foldl (Hand.fillOne n v) h = h := by
  induction l with
  | nil => rfl
  | cons p l ih =>
    rw [List.foldl_cons, fillOne_other (hl p List.mem_cons_self)]
    exact ih fun q hq => hl q (List.mem_cons_of_mem _ hq)

/-- The one producer of a spawn's status is filled, and gone. -/
theorem fillSpawn_one {h : Hand} {n r : Nat} {v : Reg64} {p : Producer} (hone : h.producers.filter (fun p => p.spawn == some n) = [p])
    (hdest : p.dest = .scalar r) : h.fillSpawn n v =
      { h with x := h.x.setIfInBounds r v, producers := h.producers.filter (fun q => q.spawn != some n) } := by
  obtain ⟨l, l', hl, hbefore, hp, hafter⟩ := List.filter_eq_cons_iff.1 hone
  have hbefore' : ∀ q ∈ l, q.spawn ≠ some n := fun q hq e => hbefore q hq (beq_iff_eq.2 e)
  have hafter' : ∀ q ∈ l', q.spawn ≠ some n := fun q hq e => List.filter_eq_nil_iff.1 hafter q hq (beq_iff_eq.2 e)
  have hfold : h.producers.foldl (Hand.fillOne n v) h = h.fillOne n v p := by
    rw [hl, List.foldl_append, List.foldl_cons, foldl_fillOne_other hbefore', foldl_fillOne_other hafter']
  rw [fillSpawn_eq, hfold, fillOne_scalar (beq_iff_eq.1 hp) hdest]

theorem spawned_producers (s : State) (d : Fld5) (a b : Reg64) : (s.spawned d a b).hand.producers = s.hand.producers ++
    [⟨if d = 0 then .memory else .scalar d.toNat, none, some s.pool.submissions, [], false, []⟩] := retire_producers ..

theorem spawned_x (s : State) (d : Fld5) (a b : Reg64) : (s.spawned d a b).hand.x = s.hand.x := by
  rw [State.spawned, retire_hand]
  rfl

theorem spawned_movedOn {s : State} {h : Hand} (hp : s.hand.place = h.place) (d : Fld5) (a b : Reg64) :
    h.movedOn (s.spawned d a b).hand 4 := movedOn_retire (by exact hp) 4

theorem spawning_holds : spawning := by
  refine ⟨fun f s t hr hd => ⟨exec_spawn_paired hr hd, fun hside ht => ?_⟩,
    fun e id s t g hup hfind horigin hstatus hpos hcount => ?_, fun h n r v p hone hdest => ?_⟩
  · have hhand := performAllHeld_hand ht
    rw [commit_hand] at hhand
    have hplace : t.hand.place = s.hand.place := by
      rw [hhand]
      rfl
    refine ⟨_, spawnedGraph t t.pool.submissions (s.hand.getX f.a) (s.hand.getX f.b), exec_spawn_single hr hd hside ht,
      spawned_movedOn hplace .., rfl, rfl, ?_, ?_, rfl, rfl, ?_, ?_⟩
    · change Origin.spawn t.hand.id = _
      rw [hhand]
    · change t.hand.asid = _
      rw [hhand]
    · rw [spawned_x, hhand]
    · rw [spawned_producers, hhand]
      rfl
  · have hexec := exec_spawnResult hup hfind horigin hstatus hpos hcount
    refine ⟨fun ns hread hroom => ?_, fun j st hread => ?_, fun hread => ?_⟩
    · rw [hexec, hread, ← spawnStatus_ok hpos hcount ns]
      exact congrArg Host.Outcome.next (if_pos hroom)
    · rw [hexec, hread, ← spawnStatus_error hpos hcount]
      rfl
    · rw [hexec, hread]
      rfl
  · rw [fillSpawn_one hone hdest]
    exact ⟨rfl, rfl⟩

/-- Settles O50: its six parts, each by the theorem above that names it. -/
theorem systemInstructions : Obligations.SystemInstructions := by
  unfold Obligations.SystemInstructions
  exact ⟨csrAccesses_holds, returns_holds, endings_holds, retirement_holds, spawning_holds, repeats_holds⟩

end Sys2Proof.Machine
end
